-- ==== Sys2Proof/Word.lean ====
section
/-! DEFINITION. The word types of the UJ840 and their plainest arithmetic. -/

namespace Sys2Proof

/-- One byte (00:R7). -/
abbrev Byte := BitVec 8

/-- A 64-bit register of BAR0, of a portal page, or of a Lamad core (17:R370, 10:R228). -/
abbrev W64 := BitVec 64

end Sys2Proof
end

