-- ==== Sys2Proof/Syntax.lean ====
section
/-! DEFINITION. The commands of the UJ840: one constructor for each row of spec/opcode_table.json.
Operand names: `ridge` is a ridge number, `blk` a block bit in the layout of 11:R278, `core` a Lamad core
of the ridge, `seam` and `queue` a seam and its submission queue, `job` the number the model gives a job
(log 12), `cmd` the index of a management command in the MQ ring. -/

namespace Sys2Proof

/-- The two host links (03:R57). -/
inductive Lk where
  | a
  | b
  deriving DecidableEq, Repr, Inhabited

/-- How a DMA read is answered (03:R60, 14:R331). -/
inductive ReadAnswer where
  | data (bytes : List Byte)
  | unsupported
  | aborted
  | poisoned
  deriving DecidableEq, Repr

/-- The read that a DMA read completion or timeout answers (03:R60). A chain element's read is answered
by CHAIN_ELEMENT_FETCH and times out under `chain`. -/
inductive ReadTarget where
  | ring (seam queue : Nat)
  | mqRing
  | jobIn (job : Nat)
  | jobAux (job : Nat)
  | chain (job : Nat)
  | mqIn (cmd : Nat)
  | mqAux (cmd : Nat)
  deriving DecidableEq, Repr

/-- What wakes a sleeping ridge (16:R357). -/
inductive WakeCause where
  | portalWrite
  | deepInterrupt
  | dispatcher (ridge : Nat)
  | classZ
  deriving DecidableEq, Repr

/-- A persistent register that follows the commit rule of 16:R366. -/
inductive PersSlot where
  | word (n : Nat)
  | classPkg
  | classRidge
  | tampCtrl
  | cacheMode
  | neighbour
  | envelope
  deriving DecidableEq, Repr

/-- One detection of a tamper source in a spine cycle (13:R298, R304): its event ID, and the reading or
block bit that 13:R314 puts into DETAIL[15:0]. -/
structure TamperHit where
  id : Nat
  reading : BitVec 16
  deriving DecidableEq, Repr

/-- What falls into one spine cycle: the detections, and the management commands whose order completes in it (02:R38, 13:R304). -/
structure TamperCycle where
  hits : List TamperHit
  orders : List Nat
  deriving DecidableEq, Repr

/-- What a register write carries: its link's value, and the other link's where both write in one spine cycle (09:R227). -/
structure WriteData where
  value : BitVec 512
  other : Option (BitVec 512)
  deriving DecidableEq, Repr

/-- What the hardware finds during a power-up (02:R43 to R50, 08:R188, R212, 12:R287, 13:R312): the facts
that no earlier command decides. -/
structure BootFacts where
  /-- the boot ROM verifies the image of slot 0, of slot 1 (Table 2.8) -/
  imageOk : Bool × Bool
  /-- measurement of the image booted on ridge 0 -/
  measured : BitVec 384
  /-- ridges 1 to 7 whose measurement differs from ridge 0's -/
  measDiffers : List Nat
  /-- engines (ridge, block bit) that fail a known-answer test -/
  katFails : List (Nat × Nat)
  /-- entropy sources (ridge, source) that fail the start-up test of step 8 -/
  sourceFails : List (Nat × Nat)
  /-- key store copies (ridge, KIND, seam or none for a device-level one, INDEX) that fail their GCM tag at step 9 -/
  badTags : List (Nat × Nat × Option Nat × Nat)
  /-- ridges with a granule that does not read back as zero after the scrub -/
  scrubFails : List Nat
  /-- the VHOLD check of step 3 passes -/
  vholdOk : Bool
  deriving DecidableEq, Repr

/-- A privileged Deep instruction of major 0x30 (10:R236, R238): what it acts on. The encodings of its fn
values are not given, so the command carries the effect (log 15). -/
inductive PrivOp where
  /-- write selector `sel` of the Deep bank (11:R257) -/
  | setSelector (sel : BitVec 3) (base limit : Nat) (esize mode : BitVec 2) (write : Bool)
  /-- write entry `entry` of the segment table of the program on the core -/
  | setTable (entry : BitVec 5) (base limit : Nat) (esize mode : BitVec 2) (write : Bool)
  /-- world state: the entry point that Keade registers for a service (11:R264) -/
  | setEntry (service : BitVec 14) (pc : W64)
  /-- world state: the spill area that Deep code of the core uses (10:R231) -/
  | setSpill (base len : Nat)
  deriving DecidableEq, Repr

/-- The commands, one constructor a row, in the table's order, those without an operand last. -/
inductive Instr where
  /-- Descriptor NOP is retired at its grant and completes with DONE without using an engine (R139). -/
  | nop (seam queue : Nat)
  /-- Descriptor FENCE is held until earlier work of its queue has completed, then is retired with DONE (R139). -/
  | fence (seam queue : Nat)
  /-- Signs a message or digest with a resident RSA key using PKCS #1 v1.5 on a drill (R130). -/
  | rsaSignPkcs1 (ridge blk : Nat)
  /-- Signs a message or digest with a resident RSA key using PSS with an h-byte DRBG salt (R130). -/
  | rsaSignPss (ridge blk : Nat)
  /-- Verifies an RSA signature with a resident or inline public key, completing DONE or SIG_INVALID (R130). -/
  | rsaVerify (ridge blk : Nat)
  /-- Decrypts an OAEP ciphertext with a resident RSA key, failing as SIG_INVALID on bad decoding (R128). -/
  | rsaDecryptOaep (ridge blk : Nat)
  /-- Encrypts a message under OAEP with a resident or inline RSA public key (R130). -/
  | rsaEncryptOaep (ridge blk : Nat)
  /-- Applies the raw RSA private operation to a k-byte integer under blinding and CRT (R130). -/
  | rsaRawPrivate (ridge blk : Nat)
  /-- Applies the raw RSA public operation to a k-byte integer (R130). -/
  | rsaRawPublic (ridge blk : Nat)
  /-- Signs a message or digest with a curve key using a fixed-base comb and hedged RFC 6979 nonce (R144). -/
  | ecdsaSign (ridge blk : Nat)
  /-- Validates an inline point and verifies an ECDSA signature (R150). -/
  | ecdsaVerify (ridge blk : Nat)
  /-- Computes an ECDH shared secret with a curve key and makes it a key object (R147). -/
  | ecdh (ridge blk : Nat)
  /-- Multiplies a validated point by a public scalar without constant-time protection (R131). -/
  | ecPointMul (ridge blk : Nat)
  /-- Runs the sanity checks on a curve block and stores the curve in a seam slot as a Deep service (R148). -/
  | curveLoad (ridge job : Nat)
  /-- Signs with an Ed25519 or Ed448 key in the RFC 8032 variant that PARAM and context select (R144). -/
  | eddsaSign (ridge blk : Nat)
  /-- Verifies an EdDSA signature with the cofactored equation (R132). -/
  | eddsaVerify (ridge blk : Nat)
  /-- Verifies up to 64 pure Ed25519 entries by random linear combination, falling back to single checks (R159). -/
  | eddsaBatchVerify (ridge blk : Nat)
  /-- Runs an X25519 or X448 ladder and makes the shared secret a key object, refusing an all-zero result (R151). -/
  | xdh (ridge blk : Nat)
  /-- Encapsulates to a resident or inline ML-KEM key and makes the shared secret a key object (R169). -/
  | mlkemEncaps (ridge blk : Nat)
  /-- Decapsulates an ML-KEM ciphertext with implicit rejection and makes the secret a key object (R165). -/
  | mlkemDecaps (ridge blk : Nat)
  /-- Signs with ML-DSA, iterating until acceptance and reporting the iteration count (R167). -/
  | mldsaSign (ridge blk : Nat)
  /-- Verifies an ML-DSA signature with a resident or inline key (R166). -/
  | mldsaVerify (ridge blk : Nat)
  /-- Signs with SLH-DSA on one core, computing each XMSS root twice and writing layers as they pass (R175). -/
  | slhdsaSign (ridge blk : Nat)
  /-- Verifies an SLH-DSA signature on one hash core (R175). -/
  | slhdsaVerify (ridge blk : Nat)
  /-- Encrypts with AES-GCM in a single pass, optionally generating the IV (R172). -/
  | aesGcmEnc (ridge blk : Nat)
  /-- Decrypts with AES-GCM in two passes, writing plaintext only after the tag verifies (R172). -/
  | aesGcmDec (ridge blk : Nat)
  /-- Encrypts or decrypts data under AES-XTS with the given tweak (R171). -/
  | aesXts (ridge blk : Nat)
  /-- Computes a 16-byte AES-CMAC tag over the message (R171). -/
  | aesCmac (ridge blk : Nat)
  /-- Hashes a message with the SHA-2, SHA-3 or SHAKE function that PARAM selects (R173). -/
  | hash (ridge blk : Nat)
  /-- Computes an HMAC over the message with an HMAC secret (R174). -/
  | hmac (ridge blk : Nat)
  /-- Computes KMAC128 or KMAC256 over the message with a KMAC secret (R174). -/
  | kmac (ridge blk : Nat)
  /-- Derives a key object by SP 800-108 counter mode with an HMAC or KMAC PRF (R174). -/
  | kdfCtr (ridge blk : Nat)
  /-- Derives a key object by RFC 5869 HKDF, optionally expand-only (R174). -/
  | hkdf (ridge blk : Nat)
  /-- Generates a key of the template's algorithm inside the device and commits it or writes it as a blob (R160). -/
  | keyGenerate (ridge blk : Nat)
  /-- Unwraps a KWP or envelope-wrapped key as a Deep service and creates a key object with merged attributes (R399). -/
  | keyImportWrapped (ridge job : Nat)
  /-- Wraps an exportable key under a wrapping key of at least equal strength as a Deep service (R134). -/
  | keyExportWrapped (ridge job : Nat)
  /-- Destroys a key object, cache entry or loaded curve, taking effect at its grant (R210). -/
  | keyDestroy (ridge job : Nat)
  /-- Writes a signed form 0 provenance record of the key in KEY_A on a seam queue (R206). -/
  | keyAttestProvenance (ridge job : Nat)
  /-- Writes a signed form 1 device identity record on a seam queue or the MQ (R206). -/
  | keyAttestIdentity (onMq : Bool) (ridge job : Nat)
  /-- Creates a migration-receive key and writes a signed form 2 migration record on the MQ (R209). -/
  | keyAttestMigration (cmd : Nat)
  /-- Authenticates a key blob and loads it into the home and mirror key caches, returning a cache handle (R203). -/
  | keyLoadBlob (ridge job : Nat)
  /-- Derives a key deterministically from a parent secret, context and template with KMAC256 (R135). -/
  | keyDerive (ridge blk : Nat)
  /-- Writes OUT_LEN bytes from the host DRBG of the ridge that runs it (R118). -/
  | randomBytes (ridge blk : Nat)
  /-- Signs a composite message with a classical key and an ML-DSA key (R137). -/
  | hybridSign (ridge blk : Nat)
  /-- Verifies both parts of a composite signature and reports which part failed (R137). -/
  | hybridVerify (ridge blk : Nat)
  /-- Sends or receives a hybrid classical and ML-KEM key exchange and makes the combined secret a key object (R138). -/
  | hybridKem (ridge blk : Nat)
  /-- Loads and checks a signed Iatus tenant program and runs it on a Surface Lamad core (R246). -/
  | runProgram (ridge core : Nat)
  /-- Program request raising y to a secret exponent mod p and making the result a key object (R251). -/
  | modexp (ridge blk : Nat)
  /-- Program request computing 2 to a secret exponent mod p into a segment (R251). -/
  | modexpG2 (ridge blk : Nat)
  /-- Program request running a forward or inverse NTT on a lattice unit (R180). -/
  | ntt (ridge blk : Nat)
  /-- Program request multiplying two polynomials in the NTT domain on a lattice unit (R180). -/
  | polyMul (ridge blk : Nat)
  /-- Program request running one of the lattice samplers on a lattice unit (R180). -/
  | sample (ridge blk : Nat)
  /-- Creates a FREE seam with its home, mirror, shares and epoch and sets it ACTIVE (R66). -/
  | seamCreate (cmd : Nat)
  /-- Performs the reset cut on a seam and waits for its jobs to end before erasing it (R72). -/
  | seamDestroy (cmd : Nat)
  /-- Once INFLIGHT reaches 0, erases the seam's keys and sets, increments EPOCH, frees the seam and completes (R72). -/
  | seamDestroyDrained (seam : Nat)
  /-- Performs the reset cut: increments GEN, forgets queues and prefetch, releases CQ slots (R69). -/
  | seamReset (cmd : Nat)
  /-- Writes the SEAM_RESET completion once every output write started before the cut has been sent (R70). -/
  | seamResetDrained (seam : Nat)
  /-- Changes a seam's weight, burst and quotas (R68). -/
  | seamSetShare (cmd : Nat)
  /-- Binds a seam's PASID, links, DMA preference and interrupt message (R67). -/
  | seamBindPasid (cmd : Nat)
  /-- Stops fetching on a seam and drains or drops its jobs in flight (R76). -/
  | seamFreeze (cmd : Nat)
  /-- After the seam's last completion is visible, snapshots its queues, sets FROZEN and completes (R76). -/
  | seamFreezeDrained (seam : Nat)
  /-- Under a seam-owner order, checks a destination record and writes a migration package for a FROZEN seam (R77). -/
  | seamSave (cmd : Nat)
  /-- Checks a migration package and installs the seam FROZEN on a FREE seam number (R80). -/
  | seamRestore (cmd : Nat)
  /-- Resumes a FROZEN seam from its snapshot with the same GEN and phase (R76). -/
  | seamThaw (cmd : Nat)
  /-- Under an order, stops fetching on every seam in SERVICE and drains or drops dispatched jobs (R40). -/
  | rangeFreeze (cmd : Nat)
  /-- Under an order, returns the device from FREEZE to SERVICE unless EXPORTED is set (R41). -/
  | rangeRelease (cmd : Nat)
  /-- Under an order in FREEZE, writes a range package for an attested destination and sets EXPORTED (R81). -/
  | rangeExport (cmd : Nat)
  /-- Under an order in FREEZE, installs every seam of a range package as ACTIVE with no queues (R82). -/
  | rangeImport (cmd : Nat)
  /-- Creates an SQ, and with the first one the seam's CQ, in RUNNING state (R85). -/
  | queueCreate (cmd : Nat)
  /-- Sets a queue SHUTTING, fixes its final tail and stops granting it (R111). -/
  | queueShutdown (cmd : Nat)
  /-- As a CQ credit becomes free, reads the next remaining entry and completes it with ABORT_QUEUE (R111). -/
  | abortQueueWrite (seam queue : Nat) (answer : ReadAnswer)
  /-- When all shutdown completions are visible, removes the queue and writes the MQ completion (R111). -/
  | queueShutdownDrained (seam queue : Nat)
  /-- Clears a FAULTED queue's fault, sets it RUNNING and refetches from the reported head (R110). -/
  | queueRestart (cmd : Nat)
  /-- Opens an order of the given kind and returns a receipt with its number, nonce and digest (R220). -/
  | orderOpen (cmd : Nat)
  /-- Verifies and counts one custodian token, executing or arming the order at its quorum (R221). -/
  | orderToken (cmd : Nat)
  /-- ORDER_TOKEN with RENEW issues a new nonce for an order and returns a receipt (R221). -/
  | orderRenew (cmd : Nat)
  /-- Moves a PENDING or ARMED order to CANCELLED (R223). -/
  | orderCancel (cmd : Nat)
  /-- Sends a barrier to every ridge and writes a MARK record after all earlier events (R345). -/
  | mark (cmd : Nat)
  /-- A ridge's acknowledgement of a MARK barrier; the last one lets the writer make the MARK record (R345). -/
  | markBarrierAck (ridge : Nat)
  /-- Stops assigning jobs to one engine so that its known-answer tests can run (R53). -/
  | selftest (cmd : Nat)
  /-- When the named engine is free, runs its known-answer tests and completes, removing or restoring it (R53). -/
  | selftestEngineFree (ridge blk : Nat) (pass : Bool)
  /-- FW_STAGE form 0 verifies a Keade image and writes it to the inactive slot (R51). -/
  | fwStageImage (cmd : Nat)
  /-- FW_STAGE form 1 verifies a Range-owner countersignature and appends it to a slot's image (R51). -/
  | fwStageCountersign (cmd : Nat)
  /-- Under an armed order, starts activating the staged image one ridge at a time, ridge 0 last (R333). -/
  | fwActivate (cmd : Nat)
  /-- After the previous ridge's restart ends, runs a Deep restart of the next ridge on the staged image (R333). -/
  | fwActivateRidge (ridge : Nat) (pass : Bool)
  /-- A portal SQ tail write is forwarded to the home ridge and accepted or ignored under the index rules (R87). -/
  | sqTailWrite (link : Lk) (seam queue size : Nat) (value : W64)
  /-- A portal CQ_HEAD write frees CQ credits if it does not pass the write index (R87). -/
  | cqHeadWrite (link : Lk) (seam size : Nat) (value : W64)
  /-- Discards the prefetched undispatched descriptors of the marked queues and refetches from the SQ head (R96). -/
  | prefetchInvalWrite (link : Lk) (seam size : Nat) (value : W64)
  /-- An 8-byte read of RNG_DATA takes one word from the home ridge's host DRBG buffer (R291). -/
  | rngDataRead (link : Lk) (seam size : Nat)
  /-- An MQ tail write makes Keade read the newly exposed MQ descriptors (R401). -/
  | mqSqTailWrite (link : Lk) (value : W64)
  /-- An MQ CQ head write frees MQ completion slots (R112). -/
  | mqCqHeadWrite (link : Lk) (value : W64)
  /-- Setting MQ.CTRL.ENABLE resets the MQ indices and starts the MQ, writing held completions first (R113). -/
  | mqEnable (link : Lk) (value : W64)
  /-- Clearing MQ.CTRL.ENABLE stops MQ fetching while fetched commands run to their end (R113). -/
  | mqDisable (link : Lk) (value : W64)
  /-- Keade starts a fetched MQ command once R114 lets it start (R401). -/
  | mqCommandStart (cmd : Nat)
  /-- A descriptor read returns into the prefetch cache and is checked and mirrored (R95). -/
  | descriptorFetch (seam queue : Nat) (bytes : List Byte)
  /-- The mirror ridge acknowledges its copy of a descriptor, which then becomes dispatchable (R27). -/
  | mirrorDescriptorAck (seam queue : Nat) (index : BitVec 32)
  /-- The dispatcher runs weighted round robin, then grants and dispatches or retires one descriptor (R98). -/
  | grantDecision (ridge : Nat)
  /-- A DMA read completion arrives and delivers input, AUX or ring data, or reports a fault (R60). -/
  | dmaReadCompletion (target : ReadTarget) (answer : ReadAnswer)
  /-- A DMA read unanswered within LINK.CPL_TIMEOUT ends its job with DMA_TIMEOUT (R60). -/
  | dmaReadTimeout (target : ReadTarget)
  /-- The link partner acknowledges a write, which the link ridge then stops keeping (R329). -/
  | writeDllAck (link : Lk)
  /-- After a chain element completes, the next element is read, checked, mirrored and dispatched (R106). -/
  | chainElementFetch (job : Nat) (answer : ReadAnswer)
  /-- An engine ends a job; its output, wipe, completion and interrupt follow in order (R29). -/
  | jobEnd (ridge blk : Nat) (checkOk wipeOk : Bool)
  /-- The mirror acknowledges a PREPARED key entry; the home ridge checks the completion and commits or rolls back (R194). -/
  | mirrorPreparedAck (job : Nat)
  /-- The mirror acknowledges COMMITTED, after which the key-creating job's completion is issued (R194). -/
  | mirrorCommitAck (job : Nat)
  /-- A faulting engine leaves service and its input-slot job is given to another engine (R405). -/
  | engineFaultRemoval (ridge blk cause : Nat)
  /-- Keade takes up a granted Deep service in grant order, at most four at once (R400). -/
  | deepServiceStart (ridge : Nat) (blocks : BitVec 33)
  /-- A Deep interrupt pre-empts a Surface core or reaches core 0 and enters Deep (R267). -/
  | deepInterrupt (ridge core : Nat) (source : W64)
  /-- The 10 ms Deep watchdog expires unserviced, a Deep fault (R270). -/
  | deepWatchdogExpiry (ridge : Nat)
  /-- A Deep fault stops Deep execution on a ridge and starts a Deep restart (R271). -/
  | deepRestart (ridge cause : Nat)
  /-- Keade accepts Deep services again, RESTARTING clears, and paused programs resume (R271). -/
  | deepRestartComplete (ridge : Nat) (measured : BitVec 384) (signed : Bool)
  /-- A Deep claim ends and any deferred gating request on the block is applied (R276). -/
  | deepClaimRelease (ridge blk : Nat)
  /-- A Deep claim held beyond 100 ms is logged (R275). -/
  | deepClaimOvertime (ridge blk : Nat)
  /-- Keade moves the waterline by one granule, which is zeroed before its new side reaches it (R261). -/
  | waterlineMove (ridge : Nat) (up : Bool)
  /-- A spine port receives a transfer and authenticates it, discarding and raising spine integrity on failure (R21). -/
  | spineTransferReceive (src dst : Nat) (authentic : Bool) (latency : Nat)
  /-- No keepalive from a ridge for 10 µs declares it lost (R323). -/
  | spineSilence (ridge : Nat)
  /-- A junction above +125 °C for 1 ms declares the ridge lost (R323). -/
  | thermalTrip (ridge : Nat)
  /-- A ridge reports a fatal error and is fenced; sweeps, replays and takeovers start (R323). -/
  | ridgeLost (ridge : Nat)
  /-- The mirror ridge becomes home of a seam of the lost ridge and resumes arbitration (R326). -/
  | ridgeTakeoverDone (seam : Nat)
  /-- The copy of a seam to its new mirror ridge ends and MIRROR takes the new number (R328). -/
  | remirrorCopyDone (seam : Nat)
  /-- A link leaves L0 or reports surprise down; dual-homed DMA moves to the other link (R74). -/
  | linkLost (link : Lk) (surprise : Bool)
  /-- A link reaches L0 and becomes available for DMA and held completions (R73). -/
  | linkUp (link : Lk) (width speed : Nat)
  /-- Asserting PERST resets that link's function and counts as a link loss (R46). -/
  | perstAssert (link : Lk)
  /-- Deasserting PERST lets the function answer configuration within 20 ms (R46). -/
  | perstDeassert (link : Lk)
  /-- Clearing Bus Master Enable is treated as a link loss for DMA of dual-homed seams (R330). -/
  | bmeCleared (link : Lk)
  /-- Setting Bus Master Enable again returns DMA to the PREF link (R330). -/
  | bmeSet (link : Lk)
  /-- POR_N rises with rails in range and the power-up sequence runs (R43). -/
  | powerUp (facts : BootFacts)
  /-- Step 10 enables the management queue and portals and the resolved mode takes effect (R43). -/
  | powerUpComplete (elapsed : Nat)
  /-- A tamper source raises an event with main power present and its class response runs (R298). -/
  | tamperEvent (hits : TamperCycle)
  /-- In VIGIL the Vigil domain records an event and sets the stored mode or erases VSALT (R310). -/
  | vigilTamperEvent (id : Nat)
  /-- In SAMPLED mode each source is sampled for 50 µs every 125 ms (R311). -/
  | vigilSampleWindow (present : List Nat)
  /-- The hourly VHOLD check measures the capacitor and raises ID 19 on failure (R312). -/
  | vholdCheck (pass : Bool)
  /-- A class field write raises a class at once, or lowers it only under an armed CLASS_LOWER (R301). -/
  | tampClassWrite (perRidge : Bool) (fromA fromB : Option W64)
  /-- A TAMP.CTRL write changes each field only as the mode allows (R317). -/
  | tampCtrlWrite (link : Lk) (value : W64)
  /-- Clearing pending bits may release ALERT_N (R347). -/
  | evtPendingClear (word : Nat) (mask : W64)
  /-- Writing REARM restarts a latched entropy source (R283). -/
  | srcRearm (ridge src : Nat)
  /-- A write of WORLD.CACHE.MODE takes effect only in COMMISSION (R263). -/
  | cacheModeWrite (link : Lk) (value : W64)
  /-- A write of RNG.CTRL.NEIGHBOUR takes effect only in COMMISSION (R290). -/
  | neighbourWrite (link : Lk) (value : W64)
  /-- The host ceiling changes within 10 µs and is made persistent (R358). -/
  | pwrEnvelopeWrite (link : Lk) (value : W64)
  /-- The board management controller's ceiling changes through I3C (R358). -/
  | bmcCapWrite (value : W64)
  /-- Host gating requests apply, or are deferred on blocks under a Deep claim (R276). -/
  | pwrGateWrite (ridge : Nat) (value : W64)
  /-- A PERS word write takes effect and commits to MRAM or becomes pending (R366). -/
  | persWordWrite (word : Nat) (value : W64)
  /-- A pending PERS value commits once 1 ms has passed since the word's last commit (R366). -/
  | persPendingCommit (slot : PersSlot)
  /-- Changing a capture unit's SEAM, ALL, GROUP or MEASURE reconfigures and clears it (R350). -/
  | perfCfgWrite (unit : Nat) (value : W64)
  /-- Setting SNAP takes a copy of the capture unit for reads (R350). -/
  | perfSnap (unit : Nat)
  /-- Writing CLEAR resets a capture unit's statistics and copy (R350). -/
  | perfClear (unit : Nat)
  /-- Writing CLR.LATCH resets the six level monitor latches (R352). -/
  | levelClrLatch (ridge : Nat)
  /-- Writing CLR.LAT resets a ridge's longest spine latencies (R380). -/
  | spineClrLat (ridge : Nat)
  /-- Sets the completion timeout for later reads or is refused out of range (R378). -/
  | cplTimeoutWrite (link : Lk) (value : W64)
  /-- Any other register write takes effect under its access code or is ignored and logged (R370); with what the other link
  writes to the same place in the same spine cycle (09:R227; log 18). -/
  | registerWrite (link : Lk) (offset size : Nat) (value : WriteData)
  /-- Every 100 µs the ridge samples voltages and temperature and raises threshold events (R352). -/
  | levelMonitorSample (ridge : Nat) (core sram : BitVec 11) (temp : BitVec 12)
  /-- A 1,024-bit window of a source ends; it is health-tested and conditioned or discarded (R282). -/
  | entropyWindow (ridge src : Nat) (window : BitVec 1024)
  /-- 10 ms after a failure, a source recalibrates and reruns its start-up test (R283). -/
  | sourceRestartTimer (ridge src : Nat)
  /-- After 60 s without a failure a source's RESTARTS returns to 0 (R283). -/
  | sourceCleanTimer (ridge src : Nat)
  /-- A job waiting 5 ms on a DRAINED instance completes with ENTROPY_FAIL (R288). -/
  | entropyWaitTimeout (job : Nat)
  /-- A starved ridge asks its spine neighbours for a seed block (R289). -/
  | neighbourSeedRequest (ridge : Nat)
  /-- A neighbour's seed block arrives and reseeds the internal instance (R289). -/
  | neighbourSeedBlock (ridge giver : Nat)
  /-- A cluster idle for 2 µs is clock-gated (R355). -/
  | clusterIdleGate (ridge cluster : Nat)
  /-- A gated cluster given a job is awake and the job starts (R355). -/
  | clusterWakeDone (ridge cluster : Nat)
  /-- A ridge idle for SLEEP_US stops its PLLs, engines and cores (R356). -/
  | ridgeSleep (ridge : Nat)
  /-- A portal write, Deep interrupt, dispatcher request or Z event starts a sleeping ridge's wake (R357). -/
  | ridgeWakeRequest (ridge : Nat) (why : WakeCause)
  /-- The ridge is awake, Keade resumes and the ridge is a candidate again (R357). -/
  | ridgeWakeDone (ridge : Nat)
  /-- A PLL not locked within 100 µs raises an event and retries or holds the ridge out of service (R354). -/
  | pllLockTimeout (ridge : Nat) (core : Bool)
  /-- A PENDING order lapses 86,400 s after it was opened (R222). -/
  | orderPendingLapse (order : Nat)
  /-- An ARMED order lapses 3,600 s after it was armed (R222). -/
  | orderArmedLapse (order : Nat)
  /-- An order's nonce stops being accepted 600 s after issue (R216). -/
  | nonceExpiry (order : Nat)
  /-- A ridge passes a detected event to the pit log writer (R341). -/
  | eventToWriter (source : Option Nat)
  /-- An I3C private write selects a register and optionally writes 8 bytes of data (R383). -/
  | i3cRegisterWrite (offset : BitVec 16) (data : Option W64)
  /-- I3C CCC assigning the dynamic address from the static address (R393). -/
  | setdasa (addr : BitVec 7)
  /-- I3C CCC taking part in dynamic address assignment (R393). -/
  | entdaa (addr : BitVec 7)
  /-- I3C CCC setting the maximum write length (R393). -/
  | setmwl (len : BitVec 16)
  /-- I3C CCC setting the maximum read length (R393). -/
  | setmrl (len : BitVec 16)
  /-- Askune private boundary-scan instruction, FACTORY only (R396). -/
  | askunePrivate (code : BitVec 8)
  /-- Lamad integer addition setting C (R229). -/
  | add (ridge core : Nat) (rd ra rb : BitVec 6)
  /-- Lamad integer subtraction setting C (R229). -/
  | sub (ridge core : Nat) (rd ra rb : BitVec 6)
  /-- Lamad addition with carry in (R229). -/
  | addc (ridge core : Nat) (rd ra rb : BitVec 6)
  /-- Lamad subtraction with borrow in (R229). -/
  | subb (ridge core : Nat) (rd ra rb : BitVec 6)
  /-- Lamad bitwise AND (R238). -/
  | and (ridge core : Nat) (rd ra rb : BitVec 6)
  /-- Lamad bitwise OR (R238). -/
  | or (ridge core : Nat) (rd ra rb : BitVec 6)
  /-- Lamad bitwise XOR (R238). -/
  | xor (ridge core : Nat) (rd ra rb : BitVec 6)
  /-- Lamad shift left by rb[5:0] (R238). -/
  | shl (ridge core : Nat) (rd ra rb : BitVec 6)
  /-- Lamad logical shift right (R238). -/
  | shr (ridge core : Nat) (rd ra rb : BitVec 6)
  /-- Lamad arithmetic shift right (R238). -/
  | sar (ridge core : Nat) (rd ra rb : BitVec 6)
  /-- Lamad compare equal, writing 1 or 0 (R238). -/
  | cmpeq (ridge core : Nat) (rd ra rb : BitVec 6)
  /-- Lamad signed compare less than (R238). -/
  | cmplt (ridge core : Nat) (rd ra rb : BitVec 6)
  /-- Lamad unsigned compare less than (R238). -/
  | cmpltu (ridge core : Nat) (rd ra rb : BitVec 6)
  /-- Lamad add of a signed immediate (R238). -/
  | addi (ridge core : Nat) (rd ra : BitVec 6) (imm : BitVec 14)
  /-- Lamad AND with a zero-extended immediate (R238). -/
  | andi (ridge core : Nat) (rd ra : BitVec 6) (imm : BitVec 14)
  /-- Lamad OR with a zero-extended immediate (R238). -/
  | ori (ridge core : Nat) (rd ra : BitVec 6) (imm : BitVec 14)
  /-- Lamad XOR with a zero-extended immediate (R238). -/
  | xori (ridge core : Nat) (rd ra : BitVec 6) (imm : BitVec 14)
  /-- Lamad shift left by an immediate count (R238). -/
  | shli (ridge core : Nat) (rd ra : BitVec 6) (count : BitVec 6)
  /-- Lamad logical shift right by an immediate count (R238). -/
  | shri (ridge core : Nat) (rd ra : BitVec 6) (count : BitVec 6)
  /-- Lamad arithmetic shift right by an immediate count (R238). -/
  | sari (ridge core : Nat) (rd ra : BitVec 6) (count : BitVec 6)
  /-- Lamad places an immediate in a halfword and clears the rest (R238). -/
  | movz (ridge core : Nat) (rd : BitVec 6) (half : BitVec 2) (imm : BitVec 16)
  /-- Lamad places an immediate in a halfword and keeps the rest (R238). -/
  | movk (ridge core : Nat) (rd : BitVec 6) (half : BitVec 2) (imm : BitVec 16)
  /-- Lamad unsigned 128-bit multiply into ph:pl, landing three cycles later (R233). -/
  | mulu (ridge core : Nat) (ra rb : BitVec 6)
  /-- Lamad signed 128-bit multiply into ph:pl, landing three cycles later (R233). -/
  | muls (ridge core : Nat) (ra rb : BitVec 6)
  /-- Lamad multiply-accumulate into an accumulator, landing four cycles later (R233). -/
  | macc (ridge core : Nat) (fn : BitVec 4) (ra rb : BitVec 6)
  /-- Lamad shifts an accumulator right (R238). -/
  | accsh (ridge core : Nat) (acc rb : BitVec 6)
  /-- Lamad clears an accumulator (R238). -/
  | accclr (ridge core : Nat) (acc : BitVec 6)
  /-- Lamad zero-extending load through a segment with a visible delay slot (R235). -/
  | ld (ridge core : Nat) (rd ra : BitVec 6) (sel : BitVec 3) (imm : BitVec 11)
  /-- Lamad sign-extending load through a segment (R235). -/
  | lds (ridge core : Nat) (rd ra : BitVec 6) (sel : BitVec 3) (imm : BitVec 11)
  /-- Lamad store through a segment with write access (R235). -/
  | st (ridge core : Nat) (rs ra : BitVec 6) (sel : BitVec 3) (imm : BitVec 11)
  /-- Copies a segment table entry into a selector (R236). -/
  | sload (ridge core : Nat) (dst : BitVec 3) (entry : BitVec 5)
  /-- Makes a narrower segment inside a LINEAR segment (R236). -/
  | sderive (ridge core : Nat) (dst src : BitVec 3) (ra rb : BitVec 6) (mode esize : BitVec 2)
  /-- Reads the LIMIT of a selector (R236). -/
  | slimit (ridge core : Nat) (rd : BitVec 6) (src : BitVec 3)
  /-- Lamad branch if equal (R238). -/
  | beq (ridge core : Nat) (ra rb : BitVec 6) (disp : BitVec 14)
  /-- Lamad branch if not equal (R238). -/
  | bne (ridge core : Nat) (ra rb : BitVec 6) (disp : BitVec 14)
  /-- Lamad branch if signed less (R238). -/
  | blt (ridge core : Nat) (ra rb : BitVec 6) (disp : BitVec 14)
  /-- Lamad branch if signed greater or equal (R238). -/
  | bge (ridge core : Nat) (ra rb : BitVec 6) (disp : BitVec 14)
  /-- Lamad branch if unsigned less (R238). -/
  | bltu (ridge core : Nat) (ra rb : BitVec 6) (disp : BitVec 14)
  /-- Lamad branch if unsigned greater or equal (R238). -/
  | bgeu (ridge core : Nat) (ra rb : BitVec 6) (disp : BitVec 14)
  /-- Lamad jump by displacement (R238). -/
  | jmp (ridge core : Nat) (disp : BitVec 26)
  /-- Lamad call writing the return address and moving the register window (R230). -/
  | call (ridge core : Nat) (disp : BitVec 26)
  /-- Lamad jump to a register (R238). -/
  | jr (ridge core : Nat) (ra : BitVec 6)
  /-- Lamad call to a register address (R238). -/
  | callr (ridge core : Nat) (ra : BitVec 6)
  /-- Lamad return to w15, moving the window back (R230). -/
  | ret (ridge core : Nat)
  /-- Submits a program request block to the dispatcher and returns a ticket (R249). -/
  | jsub (ridge core : Nat) (rd ra : BitVec 6) (sel : BitVec 3)
  /-- Stalls until a request has ended, then returns its status and frees the ticket (R249). -/
  | jwait (ridge core : Nat) (rd ra : BitVec 6)
  /-- Returns an ended request's status or an all-ones value if still running (R249). -/
  | jpoll (ridge core : Nat) (rd ra : BitVec 6)
  /-- Enters the Deep world through the Shaft for a registered service (R264). -/
  | descend (ridge core : Nat) (service : BitVec 14)
  /-- DESCEND service 0 ends a tenant program, writes its output and completes with DONE (R253). -/
  | exit (ridge core : Nat)
  /-- Returns a core from Deep to its saved Surface resume address (R265). -/
  | ascend (ridge core : Nat)
  /-- Lamad no-operation (R238). -/
  | lamadNop (ridge core : Nat)
  /-- Reads the program's remaining instruction budget (R238). -/
  | rdbud (ridge core : Nat) (rd : BitVec 6)
  /-- Reads the Surface cycles since program start (R269). -/
  | rdcyc (ridge core : Nat) (rd : BitVec 6)
  /-- Deep-only major 0x30 instruction on selectors, segment tables and world state (R238). -/
  | privilegedOp (ridge core : Nat) (op : PrivOp)
  /-- Deep code runs the micro-operations of a decode table slot (R244). -/
  | customX (ridge core : Nat) (slot : BitVec 5) (rd ra rb : BitVec 6) (k : BitVec 3)
  /-- A reserved encoding traps to Keade, which emulates it or ends the program (R241). -/
  | reservedOpcodeTrap (ridge core : Nat) (emulation : Option (List (BitVec 6 × W64)))
  /-- The instruction budget would be passed and the program ends with PROG_STEP_LIMIT (R254). -/
  | budgetExhausted (ridge core : Nat)
  /-- A tamper source's alarm condition clears: its LIVE bit drops and, after 1 ms clear, the source re-arms; for the crystal or
  a cell the STATUS bits and clock source return (R296). -/
  | tamperConditionCleared (id : Nat)
  /-- The mirror ridge acknowledges a grant sent with the dispatch, and only then does the reported SQ head count that grant
  (R321). -/
  | mirrorGrantAck (seam queue : Nat)
  /-- A host PCIe configuration write changes PASID Enable, MSI-X Enable or Function Mask of a function, which governs
  PASID_FAULT and where pending MSI-X vectors are sent (R59). -/
  | configurationWrite (link : Lk) (pasid msix masked : Bool)
  /-- A link moves from L0 to L1, which changes LINKn.STATE.PM and cuts the governor's charge for its PHY from the L0 figure to
  0.02 W (R359). -/
  | linkEntersL1 (link : Lk)
  /-- When the last dispatched job has completed, DEV.MODE changes to FREEZE (R40). -/
  | rangeFreezeDrained
  /-- A POR_N low pulse resets everything except the Vigil domain (R389). -/
  | porAssert
  /-- PFW_N low starts the power cut: intake stops, jobs abort and state is flushed (R362). -/
  | pfwAssert
  /-- PFW_N high for 10 ms with rails in range ends VIGIL and starts a power-up (R363). -/
  | feedRecoveryTimeout
  /-- Main power is lost and the device enters VIGIL with its mode stored (R37). -/
  | mainPowerLost
  /-- Both cells are lost with main power absent; VSALT is erased and the event logged (R312). -/
  | bothCellsLost
  /-- The shipment fuse moves the device from FACTORY to BLANK for ever (R294). -/
  | shipmentFuseBlown
  /-- TAMPER_OUT_N is released OUT_MS after the last event that drove it (R299). -/
  | tamperOutExpiry
  /-- The EXTEST permit reaches 0 and EXTEST is replaced by BYPASS (R397). -/
  | extestPermitExpiry
  /-- I3C CCC resetting the dynamic address (R393). -/
  | rstdaa
  /-- I3C CCC returning the provisioned ID (R393). -/
  | getpid
  /-- I3C CCC returning the bus characteristics register (R393). -/
  | getbcr
  /-- I3C CCC returning the device characteristics register (R393). -/
  | getdcr
  /-- I3C CCC returning the target status (R393). -/
  | getstatus
  /-- Boundary-scan BYPASS instruction (R396). -/
  | bypass
  /-- Boundary-scan IDCODE instruction returning the identification code (R396). -/
  | idcode
  /-- Boundary-scan SAMPLE/PRELOAD instruction (R396). -/
  | samplePreload
  /-- Boundary-scan EXTEST, allowed by mode or permit, hands the scanned pins to the register (R397). -/
  | extest
  /-- TRST_N low resets the test logic and loads IDCODE (R395). -/
  | trstAssert
  /-- PFW_N returns high, which starts the 10 ms feed-recovery timing and lets a held power-up pass step 4 (R363). -/
  | pfwDeassert
  deriving DecidableEq, Repr

end Sys2Proof
end

