-- ==== Sys2Proof/Decode.lean ====
section
/-! DEFINITION. Reading a word. The opcode table gives no row any bits, so `decodeTableWord` reads none. Beside it, the
encoding of Lamad instructions (10:R237, R238): tenant programs and the decode table hold encoded instructions. -/

namespace Sys2Proof

/-- The command that a word spells by the table's bits: the table gives none. -/
def decodeTableWord (_nbits _w : Nat) : Option Instr := none

namespace Lamad

/-- Bits `lo` upwards of a word, `n` of them. -/
abbrev bits (w : BitVec 32) (lo n : Nat) : BitVec n := w.extractLsb' lo n

/-- Format R (10:Table 10.3). -/
def encR (major rd ra rb : BitVec 6) (fn : BitVec 8) : BitVec 32 := major ++ (rd ++ (ra ++ (rb ++ fn)))

/-- Format I. -/
def encI (major rd ra : BitVec 6) (imm : BitVec 14) : BitVec 32 := major ++ (rd ++ (ra ++ imm))

/-- Format W. -/
def encW (major rd : BitVec 6) (half : BitVec 2) (imm : BitVec 16) : BitVec 32 :=
  major ++ (rd ++ (half ++ ((0 : BitVec 2) ++ imm)))

/-- Format M. -/
def encM (major rd ra : BitVec 6) (sel : BitVec 3) (imm : BitVec 11) : BitVec 32 := major ++ (rd ++ (ra ++ (sel ++ imm)))

/-- Format B. -/
def encB (major ra rb : BitVec 6) (disp : BitVec 14) : BitVec 32 := major ++ (ra ++ (rb ++ disp))

/-- Format J. -/
def encJ (major : BitVec 6) (disp : BitVec 26) : BitVec 32 := major ++ disp

/-- Format S. -/
def encS (major : BitVec 6) (dst src : BitVec 3) (op : BitVec 2) (ra rb : BitVec 6) (mode esize : BitVec 2) : BitVec 32 :=
  major ++ (dst ++ (src ++ (op ++ (ra ++ (rb ++ (mode ++ (esize ++ (0 : BitVec 2))))))))

/-- Format X. -/
def encX (major : BitVec 6) (slot : BitVec 5) (rd ra rb : BitVec 6) (k : BitVec 3) : BitVec 32 :=
  major ++ (slot ++ (rd ++ (ra ++ (rb ++ k))))

/-- The word of an instruction (10:R237, R238); none for a command that is no Lamad instruction with an encoding the
spec gives (major 0x30 has none, log 15). SLIMIT holds rd in the ra field, and EXIT is DESCEND 0 (log 20). -/
def encode : Instr → Option (BitVec 32)
  | .add _ _ rd ra rb => some (encR 0x00 rd ra rb 0x00)
  | .sub _ _ rd ra rb => some (encR 0x00 rd ra rb 0x01)
  | .addc _ _ rd ra rb => some (encR 0x00 rd ra rb 0x02)
  | .subb _ _ rd ra rb => some (encR 0x00 rd ra rb 0x03)
  | .and _ _ rd ra rb => some (encR 0x00 rd ra rb 0x04)
  | .or _ _ rd ra rb => some (encR 0x00 rd ra rb 0x05)
  | .xor _ _ rd ra rb => some (encR 0x00 rd ra rb 0x06)
  | .shl _ _ rd ra rb => some (encR 0x00 rd ra rb 0x07)
  | .shr _ _ rd ra rb => some (encR 0x00 rd ra rb 0x08)
  | .sar _ _ rd ra rb => some (encR 0x00 rd ra rb 0x09)
  | .cmpeq _ _ rd ra rb => some (encR 0x00 rd ra rb 0x0A)
  | .cmplt _ _ rd ra rb => some (encR 0x00 rd ra rb 0x0B)
  | .cmpltu _ _ rd ra rb => some (encR 0x00 rd ra rb 0x0C)
  | .addi _ _ rd ra imm => some (encI 0x01 rd ra imm)
  | .andi _ _ rd ra imm => some (encI 0x02 rd ra imm)
  | .ori _ _ rd ra imm => some (encI 0x03 rd ra imm)
  | .xori _ _ rd ra imm => some (encI 0x04 rd ra imm)
  | .shli _ _ rd ra n => some (encI 0x05 rd ra ((0 : BitVec 6) ++ ((0 : BitVec 2) ++ n)))
  | .shri _ _ rd ra n => some (encI 0x05 rd ra ((0 : BitVec 6) ++ ((1 : BitVec 2) ++ n)))
  | .sari _ _ rd ra n => some (encI 0x05 rd ra ((0 : BitVec 6) ++ ((2 : BitVec 2) ++ n)))
  | .movz _ _ rd half imm => some (encW 0x06 rd half imm)
  | .movk _ _ rd half imm => some (encW 0x07 rd half imm)
  | .mulu _ _ ra rb => some (encR 0x08 0 ra rb 0x00)
  | .muls _ _ ra rb => some (encR 0x08 0 ra rb 0x01)
  | .macc _ _ fn ra rb => some (encR 0x09 0 ra rb ((0 : BitVec 4) ++ fn))
  | .accsh _ _ acc rb => some (encR 0x0A acc 0 rb 0x00)
  | .accclr _ _ acc => some (encR 0x0A acc 0 0 0x01)
  | .ld _ _ rd ra sel imm => some (encM 0x10 rd ra sel imm)
  | .lds _ _ rd ra sel imm => some (encM 0x11 rd ra sel imm)
  | .st _ _ rs ra sel imm => some (encM 0x12 rs ra sel imm)
  | .sload _ _ dst entry => some (encS 0x13 dst 0 0 ((0 : BitVec 1) ++ entry) 0 0 0)
  | .sderive _ _ dst src ra rb mode esize => some (encS 0x13 dst src 1 ra rb mode esize)
  | .slimit _ _ rd src => some (encS 0x13 0 src 2 rd 0 0 0)
  | .beq _ _ ra rb disp => some (encB 0x18 ra rb disp)
  | .bne _ _ ra rb disp => some (encB 0x19 ra rb disp)
  | .blt _ _ ra rb disp => some (encB 0x1A ra rb disp)
  | .bge _ _ ra rb disp => some (encB 0x1B ra rb disp)
  | .bltu _ _ ra rb disp => some (encB 0x1C ra rb disp)
  | .bgeu _ _ ra rb disp => some (encB 0x1D ra rb disp)
  | .jmp _ _ disp => some (encJ 0x1E disp)
  | .call _ _ disp => some (encJ 0x1F disp)
  | .jr _ _ ra => some (encR 0x20 0 ra 0 0x00)
  | .callr _ _ ra => some (encR 0x20 0 ra 0 0x01)
  | .ret _ _ => some (encR 0x20 0 0 0 0x02)
  | .jsub _ _ rd ra sel => some (encR 0x28 rd ra ((0 : BitVec 3) ++ sel) 0x00)
  | .jwait _ _ rd ra => some (encR 0x28 rd ra 0 0x01)
  | .jpoll _ _ rd ra => some (encR 0x28 rd ra 0 0x02)
  | .descend _ _ service => some (encI 0x2C 0 0 service)
  | .exit _ _ => some (encI 0x2C 0 0 0)
  | .ascend _ _ => some (encI 0x2D 0 0 0)
  | .lamadNop _ _ => some (encR 0x2E 0 0 0 0x00)
  | .rdbud _ _ rd => some (encR 0x2E rd 0 0 0x01)
  | .rdcyc _ _ rd => some (encR 0x2E rd 0 0 0x02)
  | .customX _ _ slot rd ra rb k => some (encX 0x3E slot rd ra rb k)
  | _ => none

/-- Major 0x00: integer operations by fn 0x00 to 0x0C. -/
def decodeInt (r c : Nat) (rd ra rb : BitVec 6) (fn : BitVec 8) : Option Instr :=
  match fn.toNat with
  | 0x00 => some (.add r c rd ra rb)
  | 0x01 => some (.sub r c rd ra rb)
  | 0x02 => some (.addc r c rd ra rb)
  | 0x03 => some (.subb r c rd ra rb)
  | 0x04 => some (.and r c rd ra rb)
  | 0x05 => some (.or r c rd ra rb)
  | 0x06 => some (.xor r c rd ra rb)
  | 0x07 => some (.shl r c rd ra rb)
  | 0x08 => some (.shr r c rd ra rb)
  | 0x09 => some (.sar r c rd ra rb)
  | 0x0A => some (.cmpeq r c rd ra rb)
  | 0x0B => some (.cmplt r c rd ra rb)
  | 0x0C => some (.cmpltu r c rd ra rb)
  | _ => none

/-- Major 0x05: shifts by an immediate count, by kind. -/
def decodeShift (r c : Nat) (rd ra : BitVec 6) (kind : BitVec 2) (n : BitVec 6) : Option Instr :=
  match kind.toNat with
  | 0 => some (.shli r c rd ra n)
  | 1 => some (.shri r c rd ra n)
  | 2 => some (.sari r c rd ra n)
  | _ => none

/-- Major 0x13: segment instructions by op. -/
def decodeSeg (r c : Nat) (w : BitVec 32) : Option Instr :=
  if bits w 0 2 ≠ 0 then none
  else match (bits w 18 2).toNat with
  | 0 => some (.sload r c (bits w 23 3) (bits w 12 5))
  | 1 => some (.sderive r c (bits w 23 3) (bits w 20 3) (bits w 12 6) (bits w 6 6) (bits w 4 2) (bits w 2 2))
  | 2 => some (.slimit r c (bits w 12 6) (bits w 20 3))
  | _ => none

/-- The instruction that a core reads from a word (10:R237, R238); none for a reserved encoding and for major 0x30. -/
def decode (r c : Nat) (w : BitVec 32) : Option Instr :=
  let rd := bits w 20 6
  let ra := bits w 14 6
  let rb := bits w 8 6
  let fn := bits w 0 8
  let imm := bits w 0 14
  match (bits w 26 6).toNat with
  | 0x00 => decodeInt r c rd ra rb fn
  | 0x01 => some (.addi r c rd ra imm)
  | 0x02 => some (.andi r c rd ra imm)
  | 0x03 => some (.ori r c rd ra imm)
  | 0x04 => some (.xori r c rd ra imm)
  | 0x05 => decodeShift r c rd ra (bits w 6 2) (bits w 0 6)
  | 0x06 => if bits w 16 2 = 0 then some (.movz r c rd (bits w 18 2) (bits w 0 16)) else none
  | 0x07 => if bits w 16 2 = 0 then some (.movk r c rd (bits w 18 2) (bits w 0 16)) else none
  | 0x08 => if fn = 0 then some (.mulu r c ra rb) else if fn = 1 then some (.muls r c ra rb) else none
  | 0x09 => if bits w 4 4 = 0 then some (.macc r c (bits w 0 4) ra rb) else none
  | 0x0A => if fn = 0 then some (.accsh r c rd rb) else if fn = 1 then some (.accclr r c rd) else none
  | 0x10 => some (.ld r c rd ra (bits w 11 3) (bits w 0 11))
  | 0x11 => some (.lds r c rd ra (bits w 11 3) (bits w 0 11))
  | 0x12 => some (.st r c rd ra (bits w 11 3) (bits w 0 11))
  | 0x13 => decodeSeg r c w
  | 0x18 => some (.beq r c rd ra imm)
  | 0x19 => some (.bne r c rd ra imm)
  | 0x1A => some (.blt r c rd ra imm)
  | 0x1B => some (.bge r c rd ra imm)
  | 0x1C => some (.bltu r c rd ra imm)
  | 0x1D => some (.bgeu r c rd ra imm)
  | 0x1E => some (.jmp r c (bits w 0 26))
  | 0x1F => some (.call r c (bits w 0 26))
  | 0x20 => if fn = 0 then some (.jr r c ra) else if fn = 1 then some (.callr r c ra) else if fn = 2 then some (.ret r c)
    else none
  | 0x28 => if fn = 0 then some (.jsub r c rd ra (bits w 8 3)) else if fn = 1 then some (.jwait r c rd ra)
    else if fn = 2 then some (.jpoll r c rd ra) else none
  | 0x2C => if imm = 0 then some (.exit r c) else some (.descend r c imm)
  | 0x2D => some (.ascend r c)
  | 0x2E => if fn = 0 then some (.lamadNop r c) else if fn = 1 then some (.rdbud r c rd)
    else if fn = 2 then some (.rdcyc r c rd) else none
  | 0x3E => some (.customX r c (bits w 21 5) (bits w 15 6) (bits w 9 6) (bits w 3 6) (bits w 0 3))
  | _ => none

/-- The word lies in the privileged group, major 0x30. -/
def isPrivileged (w : BitVec 32) : Bool := (bits w 26 6).toNat == 0x30

/-- The register numbers that an instruction names (10:Table 10.3): operands of 6 bits that are registers. ACCSH and
ACCCLR name an accumulator, by its number or its index (log 20). -/
def registers : Instr → List (BitVec 6)
  | .add _ _ rd ra rb | .sub _ _ rd ra rb | .addc _ _ rd ra rb | .subb _ _ rd ra rb | .and _ _ rd ra rb | .or _ _ rd ra rb
  | .xor _ _ rd ra rb | .shl _ _ rd ra rb | .shr _ _ rd ra rb | .sar _ _ rd ra rb | .cmpeq _ _ rd ra rb
  | .cmplt _ _ rd ra rb | .cmpltu _ _ rd ra rb => [rd, ra, rb]
  | .addi _ _ rd ra _ | .andi _ _ rd ra _ | .ori _ _ rd ra _ | .xori _ _ rd ra _ => [rd, ra]
  | .shli _ _ rd ra _ | .shri _ _ rd ra _ | .sari _ _ rd ra _ => [rd, ra]
  | .movz _ _ rd _ _ | .movk _ _ rd _ _ => [rd]
  | .mulu _ _ ra rb | .muls _ _ ra rb | .macc _ _ _ ra rb => [ra, rb]
  | .accsh _ _ _ rb => [rb]
  | .ld _ _ rd ra _ _ | .lds _ _ rd ra _ _ | .st _ _ rd ra _ _ => [rd, ra]
  | .sderive _ _ _ _ ra rb _ _ => [ra, rb]
  | .slimit _ _ rd _ => [rd]
  | .beq _ _ ra rb _ | .bne _ _ ra rb _ | .blt _ _ ra rb _ | .bge _ _ ra rb _ | .bltu _ _ ra rb _ | .bgeu _ _ ra rb _ =>
    [ra, rb]
  | .jr _ _ ra | .callr _ _ ra => [ra]
  | .jsub _ _ rd ra _ | .jwait _ _ rd ra | .jpoll _ _ rd ra => [rd, ra]
  | .rdbud _ _ rd | .rdcyc _ _ rd => [rd]
  | _ => []

/-- A reserved register number, 59 to 63 (10:Table 10.1). -/
def reservedReg (n : BitVec 6) : Bool := decide (59 ≤ n.toNat)

/-- The instruction names a reserved register number, or an accumulator that does not exist: it traps as a reserved
opcode (10:R228). -/
def namesReserved : Instr → Bool
  | .accsh _ _ acc rb => reservedReg rb || !(decide (acc.toNat < 4) || decide (50 ≤ acc.toNat ∧ acc.toNat ≤ 57))
  | .accclr _ _ acc => !(decide (acc.toNat < 4) || decide (50 ≤ acc.toNat ∧ acc.toNat ≤ 57))
  | i => (registers i).any reservedReg

end Lamad

end Sys2Proof
end

