-- ==== Sys2Proof/Config.lean ====
section
/-! DEFINITION. The free values, and the algorithms of outside standards. Each is a constant with no body:
nothing in Lean can evaluate it, so a claim about it holds for every value. Algorithms are functions of their
operands (log 13); what the spec leaves random or open is applied to the counter of draws (logs 1, 14). -/

namespace Sys2Proof

/-- Byte `i` of random draw `n` (12:R284, 05:R118; log 1). -/
opaque Config.freeByte : Nat → Nat → Byte

/-- An open number, by draw: a time given only as a limit, an iteration count, a trim value (log 14). -/
opaque Config.freeNat : Nat → Nat

/-- SHA-2 and SHA-3 by hash ID 1 to 6 (05:Table 5.6). -/
opaque Config.hash : Nat → List Byte → List Byte

/-- SHAKE128 (7) and SHAKE256 (8), with the number of output bytes (05:Table 5.6). -/
opaque Config.shake : Nat → List Byte → Nat → List Byte

/-- HMAC by hash ID (05:Table 5.11). -/
opaque Config.hmac : Nat → List Byte → List Byte → List Byte

/-- KMAC128 (false) and KMAC256 (true) of SP 800-185: key, input, output bytes, customisation (08:R182). -/
opaque Config.kmac : Bool → List Byte → List Byte → Nat → List Byte → List Byte

/-- AES-GCM encryption: key, IV, AAD, plaintext; ciphertext then tag (05:Table 5.11). -/
opaque Config.gcmEnc : List Byte → List Byte → List Byte → List Byte → List Byte

/-- AES-GCM decryption of ciphertext then tag; none when the tag fails (05:R128). -/
opaque Config.gcmDec : List Byte → List Byte → List Byte → List Byte → Option (List Byte)

/-- AES-XTS: decrypt, key 1 then key 2, tweak, data (05:Table 5.11). -/
opaque Config.xts : Bool → List Byte → List Byte → List Byte → List Byte

/-- AES-CMAC: key, message (05:Table 5.11). -/
opaque Config.cmac : List Byte → List Byte → List Byte

/-- AES-KWP of SP 800-38F: wrapping key, plaintext (05:R133). -/
opaque Config.kwp : List Byte → List Byte → List Byte

/-- AES-KWP unwrapping; none when it does not authenticate (05:R133). -/
opaque Config.kwpOpen : List Byte → List Byte → Option (List Byte)

/-- One block of AES of a CTR_DRBG generate or reseed: the state that follows (12:R284). -/
opaque Config.drbgNext : BitVec 384 → BitVec 384 → BitVec 384

/-- The fixed Askune test sequence of an entropy source, window by window (12:R294). -/
opaque Config.testWindow : Nat → BitVec 1024

/-- A signature: ALG, curve parameters where a curve is loaded, private encoding, the operation's variant
bytes, message, random input (05:R130, R144; 07). -/
opaque Config.sign : Nat → List Nat → List Byte → List Byte → List Byte → List Byte → List Byte

/-- Whether a signature verifies: ALG, curve parameters, public part, variant bytes, message, signature (05:R128). -/
opaque Config.verify : Nat → List Nat → List Byte → List Byte → List Byte → List Byte → Bool

/-- The public part of a private encoding, in its external encoding (05:Table 5.12). -/
opaque Config.publicOf : Nat → List Nat → List Byte → List Byte

/-- A key pair drawn for an ALG and size: random input to private encoding (05:R135, 06:R160). -/
opaque Config.keygen : Nat → Nat → List Nat → List Byte → List Byte

/-- Whether a private encoding is one of its ALG and size, with its public part consistent (05:R399, R400). -/
opaque Config.privateOk : Nat → List Nat → List Byte → Bool

/-- RSA key numbers of a PKCS #1 RSAPrivateKey in DER: modulus, public exponent, private exponent (05:Table 5.4). -/
opaque Config.rsaParts : List Byte → Nat × Nat × Nat

/-- EME-OAEP encoding: hash ID, label, message, seed, k (05:R130). -/
opaque Config.oaepEncode : Nat → List Byte → List Byte → List Byte → Nat → List Byte

/-- EME-OAEP decoding; none when it fails (05:R128). -/
opaque Config.oaepDecode : Nat → List Byte → List Byte → Option (List Byte)

/-- X25519 or X448 of a scalar and a peer value (05:R132). -/
opaque Config.xdh : Nat → List Byte → List Byte → List Byte

/-- ML-KEM encapsulation: ALG, encapsulation key, randomness; ciphertext and shared secret (05:Table 5.10). -/
opaque Config.kemEncaps : Nat → List Byte → List Byte → List Byte × List Byte

/-- ML-KEM decapsulation with implicit rejection (05:Table 5.10). -/
opaque Config.kemDecaps : Nat → List Byte → List Byte → List Byte

/-- Whether an ML-DSA public key decodes (09:Table 9.5). -/
opaque Config.mldsaKeyOk : List Byte → Bool

/-- Steps of a sequence on secret operands, as a number that its public facts fix: opcode, ALG, the numbers of a loaded curve,
lengths and forms (06:R143). -/
opaque Config.steps : List Nat → Nat

/-- Blocks that the samplers of a draw squeeze beyond those of 07:Table 7.1 (07:R164). -/
opaque Config.furtherBlocks : Nat → Nat

/-- Bytes of a line of a Lamad core's caches (11:R262). -/
opaque Config.lineBytes : Nat

/-- The way in which a miss allocates, by the state of the replacement (11:R262). -/
opaque Config.victim : Nat → Nat

/-- Where Keade's code stands in a ridge's Deep SRAM (11:R259). -/
opaque Config.keadeBase : Nat → Nat

/-- The number of the Deep interrupt source that tamper notices have (11:R266, R267). -/
opaque Config.tamperSource : Nat

/-- The decode table slots that the signed part of a Keade image lists, with the SHA-384 of each slot image (10:R244). -/
opaque Config.imageSlots : List Byte → List (Nat × List Byte)

/-- A lattice sampler of 07:Table 7.1: row, seed and nonce bytes; coefficients. -/
opaque Config.sampler : Nat → List Byte → List Nat

/-- The DIK certificate chain of the device (08:Table 8.9). -/
opaque Config.dikChain : List Byte

/-- Whether a DIK chain ends at the Askune factory certificate authority, and the public parts of its DIK-EC and
DIK-ML leaves (03:R77, 08:R208). -/
opaque Config.chainKeys : List Byte → Option (List Byte × List Byte)

/-- Whether the chain names the Uliaja family (03:R80). -/
opaque Config.chainUliaja : List Byte → Bool

/-- Whether Askune's signature block verifies over the signed part of an image (02:R51). -/
opaque Config.askuneSigned : List Byte → List Byte → Bool

/-- The Keade version of an image's signed part: its place in the image is not given (10:Table 10.6, 17:R377). -/
opaque Config.imageVersion : List Byte → BitVec 32

/-- The ID of the receive key that a migration package was made for: the package carries it in no stated place
(03:Table 3.7, R80). -/
opaque Config.packageKey : List Byte → List Byte

/-- What FACTORY's private boundary-scan instructions do to the boundary register is not given; the target's
provisioned ID, BCR and DCR (18:R393; log 11). -/
opaque Config.i3cId : Nat → List Byte

end Sys2Proof
end

