-- ==== Sys2Proof/Machine/State.lean ====
section
/-! DEFINITION. What the UJ840 holds: every register, queue, buffer, key and pin the spec names, as plain
data, and the state right after a power-on reset. Counts and sizes are Nat, what software sees as a word is a
bit vector, what may be absent is an Option, sparse tables are lists of pairs with rising keys. -/

namespace Sys2Proof.Machine

/-- Why the block would stop. No command of the table does: the spec gives each an effect (log 19). -/
inductive Fault where
  /-- Raised by nothing: an access to an SRAM address that the ridge does not have. Safe: the machine would stop
  where the hardware goes on. -/
  | noSuchAddress
  deriving DecidableEq, Repr

/-- Why a command is not run. -/
inductive Refusal where
  /-- Raised by an arm of Dispatch whose meaning is not written yet. Safe: nothing is claimed of it. -/
  | notModelled (mnemonic : String)
  deriving DecidableEq, Repr

/-- A register with its inverted shadow (13:R303). -/
structure Shadowed (w : Nat) where
  val : BitVec w
  inv : BitVec w
  deriving DecidableEq, Repr, Inhabited

/-- A write changes the register and its shadow in the same cycle (00:R9, 13:R303). -/
def Shadowed.of {w : Nat} (v : BitVec w) : Shadowed w := ⟨v, ~~~v⟩

/-- The comparator of 13:R303 finds no disagreement. -/
def Shadowed.agrees {w : Nat} (r : Shadowed w) : Bool := r.inv == ~~~r.val

/-! ## Fuses, modes, the Vigil domain -/

/-- Fuse values and straps (17:R377, 08:R181, 13:R302, 02:R37, 18:R393). -/
structure Fuses where
  /-- DEV.ID.RIDGES: 2, 4 or 8 -/
  ridges : Nat
  stepping : BitVec 32
  serial0 : W64
  serial1 : W64
  drk : BitVec 256
  /-- the shipment fuse is blown -/
  shipped : Bool
  /-- FUSEOFF cells: MESH in [3:0], TIN in [11:4] -/
  off : BitVec 12
  /-- ADDR straps of the I3C static address -/
  i3cAddr : BitVec 2
  deriving DecidableEq, Repr, Inhabited

/-- The major modes of Table 2.1 (02:R33). -/
inductive Mode where
  | factory | blank | commission | service | freeze | locked | zeroized | vigil
  deriving DecidableEq, Repr, Inhabited

/-- The mode record of 02:R36. -/
structure ModeRec where
  mode : Mode
  prior : BitVec 3
  exported : Bool
  seq : BitVec 32
  deriving DecidableEq, Repr, Inhabited

/-- A record of the Vigil log (13:R313). -/
structure VRec where
  id : Nat
  cls : BitVec 2
  time : Nat
  count : BitVec 16
  stored : Mode
  deriving DecidableEq, Repr, Inhabited

/-- The Vigil domain: VSALT, the mode record's slots and commit bit, the Vigil log, cells and crystal
(02:R36, 13:R310 to R313). -/
structure Vigil where
  vsalt : Option (BitVec 256)
  /-- the current slot; none when the record was lost (Table 2.6) -/
  current : Option ModeRec
  proposed : Option ModeRec
  commit : Bool
  /-- the mode stored when the last VIGIL or POR began (02:R35) -/
  held : BitVec 3
  /-- oldest first -/
  log : List VRec
  lost : BitVec 8
  merged : BitVec 6
  cellA : Bool
  cellB : Bool
  vholdOk : Bool
  xtalOk : Bool
  deriving DecidableEq, Repr, Inhabited

/-- DEV.LAST_MODE (02:R35). -/
structure LastMode where
  last : BitVec 3
  held : BitVec 3
  cause : BitVec 4
  latched : Bool
  deriving DecidableEq, Repr, Inhabited

/-- DEV.BOOT (02:R48, 17:R377). -/
structure Boot where
  step : Nat
  slot : Nat
  romHold : Bool
  ridgeFail : BitVec 8
  elapsed : BitVec 16
  /-- this power-up scrubs the MRAM key areas: BLANK follows at step 10 (02:R44) -/
  scrub : Bool
  deriving DecidableEq, Repr, Inhabited

/-- A Keade image in a slot (10:R245, 02:R51): its version, its signed part and the measurement of it, and whether it
carries a countersignature under the enrolled key. -/
structure FwImage where
  version : BitVec 32
  meas : BitVec 384
  counter : Bool
  part : List Byte
  /-- the decode table slots that it lists, with the SHA-384 of each slot image (10:R244) -/
  slots : List (Nat × List Byte)
  deriving DecidableEq, Repr, Inhabited

/-- DEV.FW and the two slots (17:R377). -/
structure Firmware where
  active : Nat
  staged : Bool
  slot0 : Option FwImage
  slot1 : Option FwImage
  deriving DecidableEq, Repr, Inhabited

/-- Pins and supplies (16:R362, 18:R389, 13:R299). A time is a package clock value. -/
structure Pins where
  mainPower : Bool
  porLow : Bool
  pfwLow : Bool
  /-- the PFW of this power cut has run its course: the device is in VIGIL with rails present (16:R363) -/
  cut : Bool
  inVigil : Bool
  perstA : Bool
  perstB : Bool
  /-- TAMPER_OUT_N is low until this time -/
  tamperOut : Option Nat
  zeroOut : Bool
  firedamp : Bool
  /-- a 4 MHz always-on domain event held before step 3 of the power-up (13:R307) -/
  held : List (Nat × BitVec 2)
  deriving DecidableEq, Repr, Inhabited

/-! ## Events -/

/-- An event on its way to the pit log writer (15:R339, R341). `ridge` none: the always-on domain. -/
structure Event where
  id : Nat
  cls : BitVec 2
  detail : BitVec 32
  seam : Option Nat
  ridge : Option Nat
  time : Nat
  deriving DecidableEq, Repr, Inhabited

/-- A queue of events with its drop count (15:R341). -/
structure EventQ where
  q : List Event
  drops : Nat
  deriving DecidableEq, Repr, Inhabited

/-- A pit log record (15:R339); CHECK is computed when it is read. -/
structure LogRec where
  seq : BitVec 32
  time : Nat
  id : Nat
  cls : BitVec 2
  rep : BitVec 16
  detail : BitVec 32
  lastDelta : BitVec 32
  seam : Option Nat
  ridge : BitVec 8
  /-- a MARK record, or one from the Vigil log: nothing merges into it (R340, R313, R345) -/
  sealed : Bool
  deriving DecidableEq, Repr, Inhabited

/-- A route register of EVT (15:R346). -/
structure Route where
  vector : BitVec 6
  msi : Bool
  alert : Bool
  link : Bool
  deriving DecidableEq, Repr, Inhabited

/-- The pit log, its registers, and EVT (15:R341 to R348). -/
structure LogBlock where
  /-- the writer's copy, newest first, and the ridge of ridges 0 and 1 that holds it -/
  recs : List LogRec
  site : Nat
  /-- the copy on the other one, and whether records reach it: not once a ridge of the two is lost (01:R15, R341) -/
  mirror : List LogRec
  mirrored : Bool
  /-- SEQ of the next record -/
  next : BitVec 32
  lost : BitVec 32
  cursor : BitVec 32
  i3cCursor : BitVec 32
  /-- the always-on domain's queue -/
  aon : EventQ
  routes : List Route
  pendBits : BitVec 640
  /-- pending bits of class L or Z records -/
  hard : BitVec 640
  deriving DecidableEq, Repr, Inhabited

/-! ## Host links -/

/-- What a write to host memory is (14:R320, 13:R305, 14:R402). -/
inductive WriteKind where
  | output (job : Nat)
  | completion (seam : Nat)
  | interrupt (seam : Nat)
  | msix
  | mqOutput (cmd : Nat)
  | mqCompletion (cmd : Nat)
  deriving DecidableEq, Repr

/-- A posted write to host memory (03:R59, 14:R329). -/
structure HostWrite where
  kind : WriteKind
  pasid : Option (BitVec 20)
  addr : W64
  bytes : List Byte
  deriving DecidableEq, Repr

/-- An entry of a function's MSI-X table (17:R381). -/
structure MsixEntry where
  addr : W64
  data : BitVec 32
  masked : Bool
  deriving DecidableEq, Repr, Inhabited

/-- A link and its function (17:R378, R373, R381). -/
structure Link where
  up : Bool
  width : Nat
  speed : Nat
  pm : BitVec 2
  bme : Bool
  pasidEn : Bool
  msixEn : Bool
  fmask : Bool
  portalDrops : BitVec 32
  cplTimeouts : BitVec 32
  readFaults : BitVec 32
  poisoned : BitVec 32
  reissued : BitVec 32
  losses : BitVec 16
  seamSel : BitVec 13
  qrmSel : BitVec 32
  arbSel : BitVec 15
  msix : List MsixEntry
  pba : BitVec 64
  /-- writes issued and not yet acknowledged at the data link layer, oldest first, kept on both link ridges -/
  unacked : List HostWrite
  deriving DecidableEq, Repr, Inhabited

/-! ## Descriptors and jobs -/

/-- A descriptor (04:R89). -/
structure Desc where
  opcode : BitVec 16
  flags : BitVec 8
  dver : BitVec 8
  tag : BitVec 16
  param : BitVec 16
  keyA : W64
  keyB : W64
  inAddr : W64
  inLen : BitVec 32
  outLen : BitVec 32
  outAddr : W64
  auxAddr : W64
  auxLen : BitVec 32
  check : BitVec 32
  deriving DecidableEq, Repr, Inhabited

/-- A refusal or the end of a job: status, detail, OUT_WRITTEN (04:R100). -/
structure Verdict where
  status : BitVec 16
  detail : BitVec 32
  written : BitVec 32
  deriving DecidableEq, Repr, Inhabited

/-- A descriptor in the prefetch cache (04:R95), with the result of its fetch checks, whether the mirror ridge
has acknowledged its copy (01:R27), and the arrival of the tail write that exposed it (15:R351). -/
structure Fetched where
  index : BitVec 32
  desc : Desc
  bad : Option Verdict
  mirrored : Bool
  arrival : Nat
  deriving DecidableEq, Repr, Inhabited

/-- A read of host memory that a job waits for. -/
inductive ReadState where
  | none
  | waiting
  | got (bytes : List Byte)
  | failed (status : BitVec 16)
  deriving DecidableEq, Repr, Inhabited

/-- Opened key material (08:R186): the key's template, encoding and public part, and the object it came from. It stands
in the key store controller for a job that has not ended, in a key-cache entry, and in the operand RAM that the key port
has delivered it to (01:R25). -/
structure KeyMat where
  template : W64
  origin : BitVec 16
  genInside : Bool
  cached : Bool
  created : Nat
  priv : List Byte
  pub : List Byte
  deriving DecidableEq, Repr, Inhabited

/-- A key object that an operation makes (08:R184, R194). -/
structure NewKey where
  template : W64
  priv : List Byte
  pub : List Byte
  deriving DecidableEq, Repr, Inhabited

/-- What an engine computes (04:R100, 06, 07). -/
structure Result where
  verdict : Verdict
  out : List Byte
  ns : Nat
  key : Option NewKey
  deriving DecidableEq, Repr, Inhabited

/-- Where a granted job stands. -/
inductive Phase where
  /-- in an engine or its input slot, waiting for reads, or running (01:R16) -/
  | engine
  /-- a Deep service not yet taken up by Keade (05:R400) -/
  | deepWait
  /-- a Deep service under Keade -/
  | deepRun
  /-- a tenant program being loaded or run (10:R246) -/
  | program
  /-- its key entry is PREPARED on the home ridge; the mirror's acknowledgement is awaited (08:R194 step 3) -/
  | prepared
  /-- past the commit point; the mirror's acknowledgement is awaited (08:R194 step 6) -/
  | committed
  /-- a chain between two elements: the next one's read is outstanding (04:R106) -/
  | chainRead
  /-- a chain element fetched, waiting for the mirror's acknowledgement of its copy (01:R27, 04:R106) -/
  | chainReady
  /-- waiting for a new engine after its own was removed (01:R405), or to be replayed (14:R325) -/
  | needsEngine
  deriving DecidableEq, Repr, Inhabited

/-- A granted job that has not completed (01:R16, 04:R106, 08:R194). For a request of a tenant program (10:R249),
`prog` names the program's job and ticket. -/
structure Job where
  seam : Nat
  queue : Nat
  gen : BitVec 8
  /-- index of its descriptor in the SQ, and the reported SQ head of its completion (04:R102) -/
  index : BitVec 32
  /-- the chain's head descriptor, the element under way and its index -/
  head : Desc
  desc : Desc
  elem : Nat
  chained : Bool
  phase : Phase
  ridge : Nat
  blk : Nat
  /-- engines of other classes that hold parts of it (01:R404), block bits on its ridge -/
  parts : List Nat
  /-- its keys, opened by the home ridge's key store controller, which can deliver them once more while the job has not
  ended (01:R405, 14:R325; log 33) -/
  keyA : Option KeyMat
  keyB : Option KeyMat
  inp : ReadState
  aux : ReadState
  /-- the result that has left its engine: what the home ridge still has to commit or to write -/
  result : Option Result
  deriving DecidableEq, Repr, Inhabited

/-- The rest of a job: times, objects, and how it will end. -/
structure JobTail where
  arrival : Nat
  granted : Nat
  /-- when its engine or core began to run it: an aborted job reports the time since (13:Table 13.3) -/
  started : Nat
  /-- when it began to wait for a reseed (12:R288) -/
  draining : Option Nat
  ns : Nat
  /-- the blocks on which its parts of other classes have ended, oldest first, and since when the next part has waited for
  its engine (01:R404) -/
  partsDone : List Nat
  waitFrom : Option Nat
  written : BitVec 32
  /-- bytes of the element's output that have left the engine before its end (07:R172, R175, R178) -/
  streamed : Nat
  replayed : Bool
  /-- an element so far cannot be replayed (14:R327) -/
  unreplayable : Bool
  reran : Bool
  /-- the index reserved for the key it creates (08:R194 step 1) -/
  slot : Option Nat
  /-- granules reserved on the home and the mirror ridge for the entry it will create (08:R187) -/
  room : Nat
  /-- objects created and still owned by it (08:R199): indices of the seam -/
  created : List Nat
  /-- RESULT_HANDLE so far, and the last resident object that an element created, which PREV names (05:R119) -/
  handle : W64
  prev : Option W64
  /-- SINGLE_USE objects to erase when it completes (05:R124) -/
  consumed : List Nat
  /-- cache entries it pins, by load number (08:R204) -/
  pins : List Nat
  /-- its seam's GEN changed: run to the end, write nothing (03:R70) -/
  discarded : Bool
  /-- the link of its first output write (14:R320) -/
  link : Option Lk
  /-- the program job and ticket that submitted it (10:R249) -/
  prog : Option (Nat × Nat)
  deriving DecidableEq, Repr, Inhabited

/-- A numbered job (log 12). -/
structure JobRec where
  num : Nat
  job : Job
  tail : JobTail
  deriving DecidableEq, Repr, Inhabited

/-! ## Queues and seams -/

/-- QSTATE (04:Table 4.3). -/
inductive QState where
  | none | running | faulted | shutting
  deriving DecidableEq, Repr, Inhabited

/-- A submission queue (04:R83 to R111). -/
structure Queue where
  state : QState
  base : W64
  log2 : Nat
  weight : Nat
  burst : Nat
  credit : Nat
  bleft : Nat
  /-- next index to grant, and the head that the mirror ridge has recorded (14:R321) -/
  head : BitVec 32
  reported : BitVec 32
  tail : BitVec 32
  prefetch : List Fetched
  /-- the ring read outstanding -/
  reading : Bool
  tailDrops : BitVec 8
  /-- accepted tail writes with their arrival, oldest first (15:R351) -/
  tails : List (BitVec 32 × Nat)
  /-- the shutdown command that waits on it (04:R111) -/
  shutCmd : Option Nat
  deriving DecidableEq, Repr, Inhabited

/-- A completion queue (04:R83, R99). -/
structure CQ where
  base : W64
  log2 : Nat
  head : BitVec 32
  write : BitVec 32
  held : Nat
  deriving DecidableEq, Repr, Inhabited

/-- Seam STATE (03:R62). -/
inductive SeamState where
  | free | active | frozen | faulted
  deriving DecidableEq, Repr, Inhabited

/-- A seam table entry (03:Table 3.3). -/
structure SeamEntry where
  state : SeamState
  links : BitVec 2
  pref : Bool
  saved : Bool
  pasidValid : Bool
  home : Shadowed 3
  mirror : Shadowed 3
  gen : BitVec 8
  pasid : BitVec 20
  epoch : Shadowed 16
  weight : BitVec 8
  burst : BitVec 7
  slotQuota : BitVec 11
  keyQuota : BitVec 24
  progQuota : BitVec 16
  irqAddr : W64
  irqData : BitVec 32
  irqMask : Bool
  migFloor : BitVec 32
  migAllow : Bool
  ownerDigest : Shadowed 384
  deriving DecidableEq, Repr, Inhabited

/-- The queue snapshot of a FROZEN seam (03:R76). -/
structure Snapshot where
  queues : List Queue
  cq : Option CQ
  deriving DecidableEq, Repr, Inhabited

/-- What a seam holds beside its table entry. -/
structure SeamRun where
  inflight : Nat
  keyCount : Nat
  discards : BitVec 32
  queues : List Queue
  cq : Option CQ
  credit : Nat
  bleft : Nat
  /-- the queue the arbiter serves within the seam (04:R98) -/
  cur : Nat
  snapshot : Option Snapshot
  /-- destination serial of the last SEAM_SAVE (03:R79) -/
  savedTo : Option (List Byte)
  /-- an MQ command waiting on this seam: SEAM_FREEZE (03:R76), SEAM_DESTROY (R72), SEAM_RESET (R70) -/
  freezing : Option Nat
  destroying : Option Nat
  resetting : Option Nat
  /-- home ridge lost, takeover not done; portal writes held (14:R326): queue number, 4 for CQ_HEAD, 5 for PREFETCH_INVAL -/
  takeover : Bool
  heldPortal : List (Nat × BitVec 32)
  /-- the new mirror ridge a copy runs to (14:R328) -/
  remirror : Option Nat
  /-- completions and interrupts held for want of a link (13:R305) -/
  heldWrites : List HostWrite
  deriving DecidableEq, Repr, Inhabited

/-- A seam. -/
structure Seam where
  entry : SeamEntry
  run : SeamRun
  deriving DecidableEq, Repr, Inhabited

/-! ## Keys, custodians, orders -/

/-- A key record (09:R213): TYPE 1 ECDSA P-384, 2 ML-DSA-65. -/
structure KeyRecord where
  typ : BitVec 8
  key : List Byte
  deriving DecidableEq, Repr, Inhabited

/-- A custodian set (09:R213). -/
structure CustSet where
  m : Nat
  keys : List KeyRecord
  deriving DecidableEq, Repr, Inhabited

/-- A curve in short Weierstrass form (05:R131, 06:R148). -/
structure Curve where
  len : Nat
  cofactor : Nat
  p : Nat
  a : Nat
  b : Nat
  gx : Nat
  gy : Nat
  n : Nat
  deriving DecidableEq, Repr, Inhabited

/-- What a key store entry holds (08:Table 8.2, KIND). -/
inductive Payload where
  | key (priv pub : List Byte)
  | curve (c : Curve)
  | custodians (s : CustSet)
  | progKey (k : KeyRecord)
  /-- BK, BKID, BK_EPOCH (08:R201), the next load number and whether the counter has wrapped (08:R203) -/
  | blobKey (bk : List Byte) (bkid : List Byte) (epoch : BitVec 16) (next : Nat) (wrapped : Bool)
  /-- receive key ID, ML-KEM-1024 pair and ECDH P-384 pair (08:R209) -/
  | receive (id : List Byte) (dk ek d pt : List Byte)
  deriving DecidableEq, Repr, Inhabited

/-- STATE of a key store entry (08:Table 8.2); a FREE entry is not listed. -/
inductive EntryState where
  | prepared | committed
  deriving DecidableEq, Repr, Inhabited

/-- A key store entry (08:R184). `owner` none: a device-level entry. The body is sealed with AES-256-GCM: `payload` is
what opens under the key that `under`, `owner` and `epoch` name and under no other (log 34). -/
structure Entry where
  state : EntryState
  consumed : Bool
  kind : Nat
  genInside : Bool
  owner : Option Nat
  index : Nat
  use : Nat
  epoch : BitVec 16
  origin : BitVec 16
  template : W64
  created : Nat
  /-- NONCE: the first 12 bytes of this draw of the home ridge's internal DRBG -/
  nonce : Nat
  /-- the VSALT from which the SSK or the DSK that seals the body was derived -/
  under : Option (BitVec 256)
  /-- the body and its tag read back as they were written: the tag verifies under the right key -/
  intact : Bool
  payload : Payload
  deriving DecidableEq, Repr, Inhabited

/-- A key-cache entry (08:R203 to R205). The cache lists the least recently used first. -/
structure CacheEntry where
  seam : Nat
  number : Nat
  key : KeyMat
  /-- a SINGLE_USE key consumed by a job that has not completed (05:R124) -/
  consumed : Bool
  deriving DecidableEq, Repr, Inhabited

/-- Order states (09:Table 9.6). -/
inductive OrderState where
  | pending | armed | done | refused | superseded | cancelled | lapsed
  deriving DecidableEq, Repr, Inhabited

/-- An order (09:R217 to R225). -/
structure Order where
  num : Nat
  kind : Nat
  seam : Nat
  body : List Byte
  state : OrderState
  /-- counted tokens: (SET, INDEX) -/
  counted : List (Nat × Nat)
  needed : Nat
  nonce : List Byte
  nonceExpiry : Nat
  /-- nonces that a renewal replaced (09:R216) -/
  oldNonces : List (List Byte)
  deadline : Nat
  result : BitVec 16
  deriving DecidableEq, Repr, Inhabited

/-- Orders of the device (09). The Range-owner set and the enrolled countersigning key are key store entries (09:R214). -/
structure Quorum where
  nextOrder : Nat
  orders : List Order
  conflicts : BitVec 16
  /-- when the EXTEST permit ends (09:R225) -/
  permitEnd : Option Nat
  deriving DecidableEq, Repr, Inhabited

/-! ## The management queue -/

/-- A fetched MQ command (04:R112 to R114, R401). -/
structure MqCmd where
  index : BitVec 32
  desc : Desc
  bad : Option Verdict
  started : Bool
  /-- its row has run and it waits for a later step (R114) -/
  waiting : Bool
  inp : ReadState
  aux : ReadState
  deriving DecidableEq, Repr, Inhabited

/-- A completed MQ command whose writes are held, or not yet acknowledged (04:R113, 14:R402): its output and
its completion without PHASE. -/
structure MqDone where
  index : BitVec 32
  desc : Desc
  verdict : Verdict
  outAddr : W64
  out : List Byte
  /-- ENGINE_NS: the core time that Keade spent on it (04:Table 4.7) -/
  ns : Nat
  deriving DecidableEq, Repr, Inhabited

/-- A running FW_ACTIVATE (14:R333): its command, the order, the ridge last restarted (8 before the first), the ridges
that left service, and whether a ridge already runs the new image. -/
structure Activation where
  cmd : Nat
  order : Nat
  last : Nat
  left : BitVec 8
  moved : Bool
  deriving DecidableEq, Repr, Inhabited

/-- The MQ (04:Table 4.8). -/
structure MQ where
  sqBase : W64
  cqBase : W64
  sqLog2 : BitVec 4
  cqLog2 : BitVec 4
  link : Bool
  enable : Bool
  vector : BitVec 6
  tail : BitVec 32
  cqHead : BitVec 32
  /-- SQ head: one past the last command of the ring that has started; and the next descriptor to read -/
  head : BitVec 32
  next : BitVec 32
  write : BitVec 32
  state : BitVec 2
  /-- completions owed since the MQ entered state 2 are held until ENABLE is set again (04:R113) -/
  stalled : Bool
  reading : Bool
  /-- fetched and not completed, oldest first -/
  cmds : List MqCmd
  /-- completions owed and not written -/
  held : List MqDone
  /-- completions written and not yet acknowledged by the link partner -/
  sent : List MqDone
  /-- a running MARK: the ridges that have not acknowledged its barrier, and its command -/
  barrier : Option (BitVec 8 × Nat)
  activate : Option Activation
  /-- a running SELFTEST: its command, ridge and block -/
  selftest : List (Nat × Nat × Nat)
  /-- a running RANGE_FREEZE: its command -/
  freeze : Option Nat
  deriving DecidableEq, Repr, Inhabited

/-! ## Lamad -/

/-- A segment (10:R235). MODE: 0 LINEAR, 1 MODULO, 2 BITREV. -/
structure Seg where
  base : Nat
  limit : Nat
  esize : BitVec 2
  write : Bool
  mode : BitVec 2
  deriving DecidableEq, Repr, Inhabited

/-- A register bank of one world (10:Table 10.1, 11:R257). `w` holds the 8 frames, 16 registers each. -/
structure Bank where
  g : List W64
  w : List W64
  ph : W64
  pl : W64
  acc : List (BitVec 128)
  c : Bool
  cwp : BitVec 3
  res : BitVec 4
  spilled : BitVec 10
  sel : List Seg
  pc : W64
  deriving DecidableEq, Repr, Inhabited

/-- A physical register that a delayed write lands in (10:R234). -/
inductive Phys where
  | g (n : Nat)
  | w (n : Nat)
  | ph
  | pl
  | accLo (n : Nat)
  | accHi (n : Nat)
  | st
  /-- add to, or subtract from, a whole accumulator (10:R233) -/
  | accAdd (n : Nat)
  deriving DecidableEq, Repr, Inhabited

/-- A write that has not landed (10:R232, R233): of a load, which waits for the next instruction; of a product or an
accumulator, at core cycle `due`. -/
structure Pend where
  dst : Phys
  value : BitVec 128
  load : Bool
  due : Nat
  deriving DecidableEq, Repr, Inhabited

/-- A ticket of the program-side job interface (10:R249): the request's job, the selector and index of its block,
the segments its buffers lie in, and its end. -/
structure Ticket where
  job : Nat
  block : Seg
  index : Nat
  out : Nat
  /-- status, detail, OUT_WRITTEN and handle once it has ended -/
  ended : Option (BitVec 16 × BitVec 32 × BitVec 32 × W64)
  /-- the request-ended signal has been delivered (11:R268) -/
  delivered : Bool
  deriving DecidableEq, Repr, Inhabited

/-- A segment table entry of an image (10:Table 10.7), or one written by Deep code (10:R236). -/
structure SegEntry where
  region : Nat
  mode : BitVec 8
  esize : BitVec 8
  access : BitVec 8
  offset : Nat
  limit : Nat
  deriving DecidableEq, Repr, Inhabited

/-- A tenant program's image (10:R245). -/
structure Image where
  digest : List Byte
  stepping : BitVec 32
  signer : List Byte
  entry : Nat
  segs : List SegEntry
  code : List (BitVec 32)
  data : List Byte
  staging : Nat
  spill : Nat
  size : Nat
  deriving DecidableEq, Repr, Inhabited

/-- An image in a ridge's program cache (10:R247, 11:R261). -/
structure CachedImage where
  seam : Nat
  image : Image
  base : Nat
  deriving DecidableEq, Repr, Inhabited

/-- A program on a core (10:R246 to R255). Areas are SRAM addresses. -/
structure Program where
  job : Nat
  image : Image
  budget : Nat
  cycles : Nat
  inBase : Nat
  inLen : Nat
  outBase : Nat
  outLen : Nat
  spillBase : Nat
  /-- where its image stands, and how much of it is a copy of its own: 0 when it runs from the program cache (10:R247) -/
  imageBase : Nat
  imageLen : Nat
  stageBase : Nat
  table : List Seg
  tickets : List (Option Ticket)
  /-- paused by a Deep restart (11:R271), or trapped to Keade (11:R264) -/
  paused : Bool
  /-- what ended it while requests are outstanding (10:R253, R255) -/
  ending : Option Verdict
  deriving DecidableEq, Repr, Inhabited

/-- A line of a cache: its way, its number in SRAM, and whether a write back is owed (11:R262). -/
structure CacheLine where
  way : Nat
  tag : Nat
  dirty : Bool
  deriving DecidableEq, Repr, Inhabited

/-- A 32 KiB cache of 8 ways, with the replacement state of its Deep and its Surface half (11:R262). SRAM as the model holds it
is what the cores read through their caches (log 45). -/
structure Cache where
  lines : List CacheLine
  deepNext : Nat
  surfaceNext : Nat
  deriving DecidableEq, Repr, Inhabited

/-- A Lamad core (10, 11). -/
structure Core where
  deep : Bool
  surface : Bank
  deepBank : Bank
  pend : List Pend
  cycle : Nat
  resume : Option W64
  borrowed : Bool
  program : Option Program
  /-- the spill area of its Deep code, in Deep SRAM (10:R231) -/
  spillBase : Nat
  spillLen : Nat
  /-- causes of the Deep interrupts that wait for a boundary with no write pending (10:R234) -/
  due : List Nat
  /-- the cache mode it has adopted: FLUSH (11:R263), and its caches -/
  flush : Bool
  icache : Cache
  dcache : Cache
  deriving DecidableEq, Repr, Inhabited

/-! ## A ridge -/

/-- The operand RAM of an engine and what is wiped with it (01:R16, R29, 06:R141, R154, 07:R170, R177): key material, input,
the sequence under way with the draw that blinds it, and what it has computed. -/
structure OpRam where
  keyA : Option KeyMat
  keyB : Option KeyMat
  inp : List Byte
  aux : List Byte
  /-- the opcode whose sequence the engine's registers, pipeline or datapaths are in -/
  seq : Option (BitVec 16)
  /-- the draw that its blinding values, nonces and masks come from -/
  blind : Option Nat
  out : Option Result
  deriving DecidableEq, Repr, Inhabited

/-- An engine (01:R16): in service, running job, job in its input slot, under SELFTEST. -/
structure Engine where
  inService : Bool
  running : Option Nat
  slot : Option Nat
  testing : Bool
  /-- out of service for a wipe read-back, so that a SELFTEST may return it (06:R154) -/
  readback : Bool
  /-- the operand RAM of the running job, and what has been delivered for the job in the input slot -/
  ram : OpRam
  slotRam : OpRam
  /-- the lines of an AES core's 1 MiB input buffer whose valid bit is set, from line 0 (07:R170) -/
  buffer : List Byte
  /-- a Keccak core's sampler bank: the job of its paired lattice unit that it samples for, and the permutations that it has
  run there since the core's own job began (07:R163) -/
  bank : Option Nat
  perms : Nat
  deriving DecidableEq, Repr, Inhabited

/-- A measurement log entry (11:R279). -/
structure MLog where
  seq : BitVec 32
  cause : BitVec 8
  result : BitVec 8
  time : Nat
  meas : BitVec 384
  deriving DecidableEq, Repr, Inhabited

/-- The WORLD block and the Deep side of a ridge (11). -/
structure World where
  line : Shadowed 9
  deepUp : Bool
  restarting : Bool
  restarts : BitVec 8
  lastCause : BitVec 3
  claim : BitVec 33
  /-- when each claimed block's claim began, by block bit (R275) -/
  claimed : List (Nat × Nat)
  deferPending : BitVec 33
  /-- the deferred requests that are the governor's throttling; the others are the host's gating (R276) -/
  deferValue : BitVec 33
  deferTotal : BitVec 16
  meas : BitVec 384
  expected : BitVec 384
  mlogSel : BitVec 6
  /-- newest first -/
  mlog : List MLog
  mlogNext : BitVec 32
  /-- times of the last Deep restarts (R272) -/
  faults : List Nat
  /-- entry points Keade has registered (R264) -/
  entries : List (Nat × W64)
  /-- Deep services granted and not taken up, then those running (05:R400): job numbers -/
  waiting : List Nat
  running : List (Nat × BitVec 33)
  deriving DecidableEq, Repr, Inhabited

/-- An entropy source (12:R292). -/
structure Source where
  state : BitVec 3
  restarts : BitVec 2
  tpsel : Bool
  rctFails : BitVec 16
  aptFails : BitVec 16
  dac : BitVec 8
  /-- when it last failed, and since when it has run clean (R283) -/
  failedAt : Nat
  cleanSince : Nat
  /-- the last raw bit and the length of its run: the repetition count test runs over every raw bit (R281) -/
  lastBit : Bool
  runLen : Nat
  /-- pattern blocks logged: the windows of the test pattern conditioned so far (R294; log 22) -/
  patterns : Nat
  deriving DecidableEq, Repr, Inhabited

/-- A DRBG instance (12:R284, R285). -/
structure Drbg where
  state : BitVec 2
  count : Nat
  seed : BitVec 384
  deriving DecidableEq, Repr, Inhabited

/-- The entropy path of a ridge (12:R292). -/
structure Rng where
  src0 : Source
  src1 : Source
  int : Drbg
  host : Drbg
  /-- the reserve pool, oldest first -/
  pool : List (BitVec 384)
  nbTaken : BitVec 16
  nbGiven : BitVec 16
  fails : BitVec 16
  /-- words of the RNG_DATA buffer, next first -/
  buf : List (BitVec 32)
  /-- ridges whose request for a neighbour seed waits here (R289) -/
  askedBy : List Nat
  deriving DecidableEq, Repr, Inhabited

/-- Level monitors (15:R352, R353). -/
structure Levels where
  core : BitVec 11
  sram : BitVec 11
  coreMin : BitVec 11
  sramMin : BitVec 11
  coreMax : BitVec 11
  sramMax : BitVec 11
  now : BitVec 12
  tMin : BitVec 12
  tMax : BitVec 12
  tHigh : BitVec 12
  tLow : BitVec 12
  vHigh : BitVec 11
  vLow : BitVec 11
  /-- thresholds that have raised and have not come back inside: T_HIGH, T_LOW, VC_HIGH, VC_LOW -/
  raised : BitVec 4
  /-- the readings of power-up step 7: VDD_CORE, VDD_SRAM, temperature (R352) -/
  bootCore : BitVec 11
  bootSram : BitVec 11
  bootTemp : BitVec 12
  deriving DecidableEq, Repr, Inhabited

/-- A spine port (17:R380, 01:R19). -/
structure SpinePort where
  up : BitVec 3
  authFails : BitVec 16
  resends : BitVec 16
  latMax : List (BitVec 16)
  /-- latencies of the last 65,536 transfers, per connection, newest first -/
  lats : List (List (BitVec 16))
  /-- next sequence number towards each ridge -/
  seqs : List (BitVec 80)
  /-- the spine key, by the draw that made it; it stands nowhere else (01:R20) -/
  key : Option Nat
  /-- sources whose failed transfer to this ridge awaits its resend (R21) -/
  retry : List Nat
  deriving DecidableEq, Repr, Inhabited

/-- Arbitration counters of a ridge (17:R379). -/
structure Arb where
  grants : W64
  retired : W64
  skips : BitVec 32
  refills : BitVec 32
  cur : BitVec 13
  eligible : BitVec 14
  deriving DecidableEq, Repr, Inhabited

/-- A ridge (01:Table 1.1). -/
structure Ridge where
  inService : Bool
  lost : Bool
  /-- PWR.RIDGEr.STATE: 0 asleep, 1 waking, 2 awake, 3 out of service -/
  power : BitVec 2
  /-- the dispatcher at whose request the ridge wakes (16:R357) -/
  wakeFor : Option Nat
  /-- block bits 0 to 32 of 11:R278 -/
  engines : List Engine
  /-- clusters 0 to 3 of drills, 4 and 5 lattice units, 6 the bulk unit (16:R355) -/
  gated : BitVec 7
  waking : BitVec 7
  throttled : BitVec 33
  /-- PWR.GATEr, and the requests in effect (11:R276) -/
  gateReq : BitVec 33
  gateOn : BitVec 33
  pllFails : Nat
  live : BitVec 16
  latch : BitVec 16
  world : World
  rng : Rng
  levels : Levels
  spine : SpinePort
  arb : Arb
  store : List Entry
  cache : List CacheEntry
  /-- the VSALT that its key derivation unit has been given: SRK, DSK, every SSK, HK and BWK of its units stand while it does
  (08:R183) -/
  kdu : Option (BitVec 256)
  events : EventQ
  cores : List Core
  sram : List Host.Cell
  /-- program cache, least recently used first: seam, image, and where the image stands in Surface SRAM (10:R247, 11:R261) -/
  programs : List CachedImage
  /-- staging windows: seam, base, size (10:R246) -/
  staging : List (Nat × Nat × Nat)
  deriving DecidableEq, Repr, Inhabited

/-! ## The package -/

/-- The TAMP block (13:Table 13.5). -/
structure Tamp where
  classPkg : Shadowed 64
  classRidge : Shadowed 32
  fuseoff : Shadowed 12
  vigilMode : Shadowed 1
  outOnL : Shadowed 1
  outMs : Shadowed 8
  tinPol : Shadowed 8
  live : BitVec 32
  latch : BitVec 32
  lastId : BitVec 10
  lastClass : BitVec 2
  deriving DecidableEq, Repr, Inhabited

/-- A capture unit (15:R350). -/
structure Capture where
  min : W64
  max : W64
  count : W64
  sum : W64
  bins : List (BitVec 32)
  deriving DecidableEq, Repr, Inhabited

/-- A capture unit with its configuration and copy (15:R350). -/
structure PerfUnit where
  seam : BitVec 13
  all : Bool
  group : BitVec 8
  measure : BitVec 2
  snap : Bool
  now : Capture
  copy : Capture
  deriving DecidableEq, Repr, Inhabited

/-- A persistent register as one mirror holds it: a value with its write sequence (16:R367). -/
structure PersCopy where
  value : W64
  seq : BitVec 32
  deriving DecidableEq, Repr, Inhabited

/-- A persistent register under the commit rule (16:R366): its value as reads return it, the mirrors on ridges 0 and 1 (01:R15),
whether a value is pending, and when it last committed. -/
structure Pers where
  value : W64
  copy0 : PersCopy
  copy1 : PersCopy
  waits : Bool
  last : Option Nat
  deriving DecidableEq, Repr, Inhabited

/-- PWR and PERS (16:Table 16.5). -/
structure Power where
  /-- the host ceiling in W, and the controller's -/
  envelope : Nat
  bmcCap : Nat
  pfw : Bool
  sleepUs : BitVec 16
  /-- PERS words and the other persistent registers by slot: those not listed are zero and never written -/
  pers : List (Nat × Pers)
  coalesced : BitVec 32
  unmirrored : Bool
  deriving DecidableEq, Repr, Inhabited

/-- The I3C target and the test access port (18:R393 to R397). -/
structure Access where
  dynAddr : Option (BitVec 7)
  maxWrite : BitVec 16
  maxRead : BitVec 16
  selected : BitVec 16
  /-- what the target answers to the last read or GET command -/
  answer : List Byte
  /-- current boundary-scan instruction code and the boundary register's hold on the pins -/
  instruction : BitVec 8
  /-- the last 8-byte portal read with a side effect (RNG_DATA) returns this (12:R291) -/
  rngRead : W64
  /-- what the test logic has put where TDO shifts it out: the identification code under IDCODE -/
  scanOut : BitVec 32
  deriving DecidableEq, Repr, Inhabited

/-- The spine cycles in which the last events of the kinds of 01:R18 took place: a tamper detection, the execution of an order,
a BAR0 register write, a class write, a portal write, a cut. -/
structure Stamps where
  tamper : Option Nat
  order : Option Nat
  write : Option Nat
  classWrite : Option Nat
  portal : Option Nat
  cut : Option Nat
  deriving DecidableEq, Repr, Inhabited

/-- Everything but the queue of commands. -/
structure Dev where
  fuses : Fuses
  vigil : Vigil
  mode : Shadowed 3
  prior : Shadowed 3
  exported : Bool
  /-- the mode record's MRAM copies on ridges 0 and 1 -/
  modeCopy : Option ModeRec
  lastMode : LastMode
  boot : Boot
  fw : Firmware
  pins : Pins
  tamp : Tamp
  linkA : Link
  linkB : Link
  cplTimeout : BitVec 10
  mq : MQ
  quorum : Quorum
  seams : List (Nat × Seam)
  ridges : List Ridge
  jobs : List JobRec
  log : LogBlock
  power : Power
  perf : List (Nat × PerfUnit)
  access : Access
  /-- the key store is unsealed (08:R183), the spine has trained (17:R380) -/
  unsealed : Bool
  trained : Bool
  /-- WORLD.CACHE.MODE, RNG.CTRL.NEIGHBOUR -/
  cacheMode : Bool
  neighbour : Bool
  /-- the decode table, slots 0 to 31 (10:R242): micro-operations -/
  decode : List (List W64)
  /-- USE counts (08:Table 8.2): how many entries have held an index of a seam, under seam × 2^23 + index -/
  uses : List (Nat × Nat)
  /-- the package clock, ns (15:R338) -/
  clock : Nat
  stamps : Stamps
  /-- the model's own: free values drawn so far (log 1), number of the next job (log 12) -/
  draws : Nat
  nextJob : Nat
  deriving DecidableEq, Repr, Inhabited

/-- The block: its waiting commands, first in, first out, and everything else. -/
structure State where
  pending : List Instr
  dev : Dev
  deriving DecidableEq, Repr

/-! ## Reset

The state after a power-on reset, before Keade runs (00:R10). Where the spec gives a value, it stands here; every
other value is named in logs 2 to 12. -/

/-- Wiped operand RAM (01:R29). -/
def OpRam.zero : OpRam := ⟨none, none, [], [], none, none, none⟩

/-- An engine before the self-tests of power-up step 7 (02:R49). -/
def Engine.reset : Engine := ⟨false, none, none, false, false, .zero, .zero, [], none, 0⟩

/-- A register bank: zero, two frames resident (10:Table 10.2, R248). -/
def Bank.reset : Bank :=
  { g := List.replicate 16 0, w := List.replicate 128 0, ph := 0, pl := 0, acc := List.replicate 4 0,
    c := false, cwp := 0, res := 2, spilled := 0, sel := List.replicate 8 ⟨0, 0, 0, false, 0⟩, pc := 0 }

/-- A core is in the Deep world at reset (11:Table 11.5, CORE_WORLD). -/
def Core.reset : Core := ⟨true, Bank.reset, Bank.reset, [], 0, none, false, none, 0, 0, [], false, ⟨[], 0, 0⟩, ⟨[], 0, 0⟩⟩

/-- 12:Table 12.6. -/
def Source.reset : Source := ⟨0, 0, false, 0, 0, 0, 0, 0, false, 0, 0⟩

/-- 12:Table 12.6. -/
def Rng.reset : Rng :=
  ⟨Source.reset, Source.reset, ⟨0, 0, 0⟩, ⟨0, 0, 0⟩, [], 0, 0, 0, [], []⟩

/-- 15:Table 15.8. -/
def Levels.reset : Levels :=
  ⟨0, 0, 0x7FF, 0x7FF, 0, 0, 0, 0x7FF, 0x800, 0x1A4, 0xF60, 800, 720, 0, 0, 0, 0⟩

/-- 11:Table 11.5; LINE is 384 until Keade sets it (R259). -/
def World.reset : World :=
  { line := .of 384, deepUp := false, restarting := false, restarts := 0, lastCause := 0, claim := 0,
    claimed := [], deferPending := 0, deferValue := 0, deferTotal := 0, meas := 0, expected := 0, mlogSel := 0,
    mlog := [], mlogNext := 1, faults := [], entries := [], waiting := [], running := [] }

/-- 17:Table 17.6. -/
def SpinePort.reset : SpinePort :=
  ⟨0, 0, 0, List.replicate 3 0, List.replicate 3 [], List.replicate 8 0, none, []⟩

/-- A die before it is powered up. -/
def Ridge.reset : Ridge :=
  { inService := false, lost := false, power := 0, wakeFor := none, engines := List.replicate 33 Engine.reset, gated := 0,
    waking := 0, throttled := 0, gateReq := 0, gateOn := 0, pllFails := 0, live := 0, latch := 0,
    world := World.reset, rng := Rng.reset, levels := Levels.reset, spine := SpinePort.reset,
    arb := ⟨0, 0, 0, 0, 0, 0⟩, store := [], cache := [], kdu := none, events := ⟨[], 0⟩,
    cores := List.replicate 4 Core.reset, sram := [], programs := [], staging := [] }

/-- 17:Table 17.3; the MSI-X entries are masked, as PCIe resets them (log 8). -/
def Link.reset : Link :=
  { up := false, width := 0, speed := 0, pm := 0, bme := false, pasidEn := false, msixEn := false, fmask := false,
    portalDrops := 0, cplTimeouts := 0, readFaults := 0, poisoned := 0, reissued := 0, losses := 0, seamSel := 0,
    qrmSel := 0, arbSel := 0, msix := List.replicate 64 ⟨0, 0, true⟩, pba := 0, unacked := [] }

/-- 04:Table 4.8. -/
def MQ.reset : MQ :=
  { sqBase := 0, cqBase := 0, sqLog2 := 4, cqLog2 := 4, link := false, enable := false, vector := 0, tail := 0,
    cqHead := 0, head := 0, next := 0, write := 0, state := 0, stalled := false, reading := false, cmds := [], held := [], sent := [],
    barrier := none, activate := none, selftest := [], freeze := none }

/-- EVT.ROUTE at reset: ALERT for IDs 0 to 21 and ridge offsets +0 to +9 (15:Table 15.6). -/
def Route.reset (id : Nat) : Route :=
  ⟨0, false, id < 22 || (64 ≤ id && (id - 64) % 72 < 10), false⟩

/-- 15:Table 15.5, 15.6. -/
def LogBlock.reset : LogBlock :=
  { recs := [], site := 0, mirror := [], mirrored := true, next := 0, lost := 0, cursor := 0, i3cCursor := 0, aon := ⟨[], 0⟩,
    routes := (List.range 640).map Route.reset, pendBits := 0, hard := 0 }

/-- The stored classes of 13:Table 13.1's Default column, and the other TAMP registers (13:Table 13.5). -/
def Tamp.reset : Tamp :=
  { classPkg := .of 0x910_5555_AAAA, classRidge := .of 0x56915, fuseoff := .of 0, vigilMode := .of 0, outOnL := .of 0,
    outMs := .of 10, tinPol := .of 0, live := 0, latch := 0, lastId := 0, lastClass := 0 }

/-- The device right after POR, before Keade runs: a UJ840-8 as shipped, in BLANK. -/
def Dev.reset : Dev :=
  { fuses := ⟨8, 0, 0, 0, 0, true, 0, 0⟩
    vigil := ⟨none, some ⟨.blank, 0, false, 0⟩, none, false, 1, [], 0, 0, true, true, false, true⟩
    mode := .of 1, prior := .of 0, exported := false, modeCopy := some ⟨.blank, 0, false, 0⟩
    lastMode := ⟨0, 0, 0, false⟩, boot := ⟨0, 0, false, 0, 0, false⟩
    fw := ⟨0, false, some ⟨1, 0, false, [], []⟩, none⟩
    pins := ⟨true, false, false, false, false, true, true, none, false, false, []⟩
    tamp := Tamp.reset, linkA := Link.reset, linkB := Link.reset, cplTimeout := 200, mq := MQ.reset
    quorum := ⟨1, [], 0, none⟩
    seams := [], ridges := List.replicate 8 Ridge.reset, jobs := [], log := LogBlock.reset
    power := ⟨56, 56, false, 1000, [], 0, false⟩
    perf := [], access := ⟨none, 0, 0, 0, [], 1, 0, 0x008403A7⟩
    unsealed := false, trained := false, cacheMode := false, neighbour := true
    decode := List.replicate 32 [], uses := [], clock := 0, stamps := ⟨none, none, none, none, none, none⟩, draws := 0, nextJob := 0 }

/-- The block after reset: no command waits. -/
def State.reset : State := ⟨[], Dev.reset⟩

end Sys2Proof.Machine
end

