-- ==== Sys2Proof/Machine/Flags.lean ====
section
/-! DEFINITION. The st register of a Lamad core and the computation of C (10:R229, Table 10.2). -/

namespace Sys2Proof.Machine

/-- A sum and its carry, with a carry in: the exact sum narrowed to 64 bits. -/
def addCarry (a b : W64) (c : Bool) : W64 × Bool :=
  let n := a.toNat + b.toNat + c.toNat
  (BitVec.ofNat 64 n, decide (2 ^ 64 ≤ n))

/-- A difference and its borrow, with a borrow in. -/
def subBorrow (a b : W64) (c : Bool) : W64 × Bool :=
  (a - b - BitVec.ofNat 64 c.toNat, decide (a.toNat < b.toNat + c.toNat))

/-- The value of st in a world (10:Table 10.2). -/
def Bank.st (b : Bank) (deep : Bool) : W64 :=
  BitVec.ofNat 64 (b.c.toNat + b.cwp.toNat * 2 ^ 4 + b.res.toNat * 2 ^ 8 + b.spilled.toNat * 2 ^ 12 + deep.toNat * 2 ^ 32)

/-- A write of st: only C takes it (10:Table 10.2, access RW). -/
def Bank.setSt (b : Bank) (v : W64) : Bank := { b with c := v.getLsbD 0 }

/-- A comparison's result: 1 or 0 (10:Table 10.4). -/
def flagWord (b : Bool) : W64 := if b then 1 else 0

end Sys2Proof.Machine
end

