-- ==== Sys2Proof/Machine/Ops.lean ====
section
/-! DEFINITION. The named operations over the device: byte order, CRC-32C, the SRAM of a ridge, sparse tables,
ridges, seams, jobs, links, and the hop counts of the spine. -/

namespace Sys2Proof.Machine

/-- The only shape of a meaning: a next device with the queue as it stands. -/
def State.upd (s : State) (f : Dev → Dev) : Host.Outcome State Fault Refusal :=
  .next { s with dev := f s.dev }

def Dev.modQuorum (d : Dev) (f : Quorum → Quorum) : Dev := { d with quorum := f d.quorum }
def Dev.modMq (d : Dev) (f : MQ → MQ) : Dev := { d with mq := f d.mq }
def Dev.modTamp (d : Dev) (f : Tamp → Tamp) : Dev := { d with tamp := f d.tamp }
def Dev.modPins (d : Dev) (f : Pins → Pins) : Dev := { d with pins := f d.pins }
def Dev.modVigil (d : Dev) (f : Vigil → Vigil) : Dev := { d with vigil := f d.vigil }
def Dev.modPower (d : Dev) (f : Power → Power) : Dev := { d with power := f d.power }
def Dev.modBoot (d : Dev) (f : Boot → Boot) : Dev := { d with boot := f d.boot }
def Dev.modFw (d : Dev) (f : Firmware → Firmware) : Dev := { d with fw := f d.fw }
def Dev.modLog (d : Dev) (f : LogBlock → LogBlock) : Dev := { d with log := f d.log }
def Dev.modAccess (d : Dev) (f : Access → Access) : Dev := { d with access := f d.access }

/-- A command whose event cannot occur in this state leaves the device as it is (log 19). -/
def Dev.whenB (d : Dev) (c : Bool) (f : Dev → Dev) : Dev := if c then f d else d

/-! ## Bytes -/

/-- `n` bytes of a number, least significant first (00:R7). -/
def leBytes (n v : Nat) : List Byte := (List.range n).map fun i => BitVec.ofNat 8 (v / 256 ^ i)

/-- The number that bytes spell, least significant first (00:R7). -/
def leNat : List Byte → Nat
  | [] => 0
  | b :: bs => b.toNat + 256 * leNat bs

/-- `n` bytes of a number, most significant first (05:R127). -/
def beBytes (n v : Nat) : List Byte := (leBytes n v).reverse

/-- The number that bytes spell, most significant first (05:R127). -/
def beNat (bs : List Byte) : Nat := leNat bs.reverse

/-- Bytes `off` to `off + n - 1` of a block; a missing byte reads as zero. -/
def slice (bs : List Byte) (off n : Nat) : List Byte :=
  let t := (bs.drop off).take n
  t ++ List.replicate (n - t.length) 0

/-- A little-endian field of a block. -/
def field (bs : List Byte) (off n : Nat) : Nat := leNat (slice bs off n)

/-- ASCII text. -/
def ascii (t : String) : List Byte := t.toList.map fun c => BitVec.ofNat 8 c.toNat

/-- Bits of a number, `lo` upwards, `n` of them. -/
def bitsOf (v lo n : Nat) : Nat := v / 2 ^ lo % 2 ^ n

/-- A counter that saturates at its field's maximum. -/
def satInc {w : Nat} (v : BitVec w) (by' : Nat := 1) : BitVec w :=
  if v.toNat + by' < 2 ^ w then v + BitVec.ofNat w by' else BitVec.allOnes w

/-- One bit of CRC-32C, reflected (04:Table 4.4). -/
def crcBit (c : BitVec 32) : BitVec 32 := if c.getLsbD 0 then (c >>> 1) ^^^ 0x82F63B78 else c >>> 1

/-- One byte of CRC-32C. -/
def crcByte (c : BitVec 32) (b : Byte) : BitVec 32 :=
  crcBit (crcBit (crcBit (crcBit (crcBit (crcBit (crcBit (crcBit (c ^^^ b.setWidth 32))))))))

/-- CRC-32C: initial value and final XOR all ones (04:Table 4.4). -/
def crc32c (bs : List Byte) : BitVec 32 := ~~~ bs.foldl crcByte 0xFFFFFFFF

/-! ## SRAM -/

/-- The byte at an address; an unlisted address reads as zero (log 10). -/
def memRead (m : List Host.Cell) (a : Nat) : Byte :=
  match m with
  | [] => 0
  | (k, b) :: rest => if k = a then b else memRead rest a

/-- The list with address `a` holding `b`: addresses rise, and a zero byte is not listed. -/
def memWrite (m : List Host.Cell) (a : Nat) (b : Byte) : List Host.Cell :=
  match m with
  | [] => if b = 0 then [] else [(a, b)]
  | (k, v) :: rest =>
    if k < a then (k, v) :: memWrite rest a b
    else if k = a then (if b = 0 then rest else (a, b) :: rest)
    else if b = 0 then (k, v) :: rest else (a, b) :: (k, v) :: rest

/-- The canonical form: addresses strictly rising, no byte zero. -/
def memWf : List Host.Cell → Bool
  | [] => true
  | (k, b) :: rest => b != 0 && rest.all (fun c => decide (k < c.1)) && memWf rest

/-- `n` bytes from an address upwards. -/
def memBytes (m : List Host.Cell) (a n : Nat) : List Byte := (List.range n).map fun i => memRead m (a + i)

/-- Bytes written from an address upwards. -/
def memPut (m : List Host.Cell) (a : Nat) : List Byte → List Host.Cell
  | [] => m
  | b :: bs => memPut (memWrite m a b) (a + 1) bs

/-- `n` bytes zeroed: the cells of the range are no longer listed. -/
def memZero (m : List Host.Cell) (a n : Nat) : List Host.Cell :=
  m.filter fun c => !(decide (a ≤ c.1) && decide (c.1 < a + n))

/-- SRAM of a ridge: 24 MiB (11:R259). -/
def sramSize : Nat := 24 * 1048576

/-- A granule of SRAM: 64 KiB (11:R259). -/
def granule : Nat := 65536

/-! ## Sparse tables -/

/-- The value listed under a key. -/
def assocGet {α : Type} (l : List (Nat × α)) (k : Nat) : Option α :=
  match l with
  | [] => none
  | (i, v) :: rest => if i = k then some v else assocGet rest k

/-- The table with `k` holding `v`; keys stay rising. -/
def assocSet {α : Type} (l : List (Nat × α)) (k : Nat) (v : α) : List (Nat × α) :=
  match l with
  | [] => [(k, v)]
  | (i, u) :: rest =>
    if i < k then (i, u) :: assocSet rest k v else if i = k then (k, v) :: rest else (k, v) :: (i, u) :: rest

/-- The table without `k`. -/
def assocDel {α : Type} (l : List (Nat × α)) (k : Nat) : List (Nat × α) := l.filter fun e => e.1 != k

/-! ## Ridges -/

/-- The variant has this ridge (00:R4). -/
def Dev.populated (d : Dev) (r : Nat) : Bool := decide (r < d.fuses.ridges)

/-- The populated ridges. -/
def Dev.ridgeNums (d : Dev) : List Nat := List.range d.fuses.ridges

/-- A ridge of the package; one that does not exist reads as at reset. -/
def Dev.ridge (d : Dev) (r : Nat) : Ridge := d.ridges.getD r Ridge.reset

/-- A change to one ridge. -/
def Dev.modRidge (d : Dev) (r : Nat) (f : Ridge → Ridge) : Dev := { d with ridges := d.ridges.modify r f }

/-- A change to every populated ridge. -/
def Dev.modRidges (d : Dev) (f : Ridge → Ridge) : Dev :=
  { d with ridges := d.ridges.mapIdx fun i x => if i < d.fuses.ridges then f x else x }

/-- A ridge does work: populated, in service and not lost. -/
def Dev.serves (d : Dev) (r : Nat) : Bool := d.populated r && (d.ridge r).inService && !(d.ridge r).lost

/-- Hops between two ridges: bits in which their numbers differ (01:R17). -/
def hops (a b : Nat) : Nat :=
  let x := Nat.xor a b
  bitsOf x 0 1 + bitsOf x 1 1 + bitsOf x 2 1

/-- Direct spine neighbours that the variant has (01:Table 1.2). -/
def Dev.neighbours (d : Dev) (r : Nat) : List Nat := d.ridgeNums.filter fun x => hops r x == 1

/-! ## The spine (01:R18 to R21) -/

/-- The spine cycle of the moment: periods of the 200 MHz sequencing clock (01:R18). -/
def Dev.spineCycle (d : Dev) : Nat := d.clock / 5

/-- The nonce of a transfer: source, destination, sequence number (01:R19). -/
def spineNonce (src dst : Nat) (seq : BitVec 80) : BitVec 96 := BitVec.ofNat 8 src ++ (BitVec.ofNat 8 dst ++ seq)

/-- Sequence number of the next transfer of a port towards a ridge. -/
def SpinePort.seqTo (x : SpinePort) (dst : Nat) : BitVec 80 := x.seqs.getD dst 0

/-- A ridge sends a transfer to another one: its port uses up a sequence number of that direction (01:R19). -/
def Dev.spineSend (d : Dev) (src dst : Nat) : Dev :=
  if src = dst then d
  else d.modRidge src fun x => { x with spine := { x.spine with seqs := x.spine.seqs.modify dst (· + 1) } }

/-- Every populated ridge that is not lost holds the spine key (01:R20). -/
def Dev.keyed (d : Dev) : Bool :=
  d.ridgeNums.any (fun r => !(d.ridge r).lost) &&
    d.ridgeNums.all fun r => (d.ridge r).lost || (d.ridge r).spine.key.isSome

/-- The stamp of an event with the spine cycle in which it takes place (01:R18). -/
def Dev.stamp (d : Dev) (f : Stamps → Option Nat → Stamps) : Dev := { d with stamps := f d.stamps (some d.spineCycle) }

/-- A command whose writes fall in the cycle of an earlier one of its kind is not part of that cycle's writes: it takes the next
cycle (01:R18; log 18). -/
def Dev.ownCycle (d : Dev) (last : Option Nat) : Dev :=
  if last = some d.spineCycle then { d with clock := 5 * (d.spineCycle + 1) } else d

/-- A BAR0 register write arrives from a link: stamped, in a cycle of its own (01:R18, 09:R227; log 18). -/
def Dev.stampWrite (d : Dev) : Dev := (d.ownCycle d.stamps.write).stamp fun t c => { t with write := c }

/-- A write of a tamper class register arrives, from one link or from both: stamped (01:R18, 09:R227; log 18). -/
def Dev.stampClass (d : Dev) : Dev := d.stamp fun t c => { t with classWrite := c }

/-- A tamper detection is stamped, in a later cycle than the last class write, order and detection (01:R18; log 18). -/
def Dev.stampTamper (d : Dev) : Dev :=
  (((d.ownCycle d.stamps.classWrite).ownCycle d.stamps.order).ownCycle d.stamps.tamper).stamp fun t c => { t with tamper := c }

/-- A portal write arrives: stamped (01:R18). -/
def Dev.stampPortal (d : Dev) : Dev := d.stamp fun t c => { t with portal := c }

/-- A ridge's MRAM can be reached: it is not lost, nor held out of service at power-up step 7. -/
def Dev.reaches (d : Dev) (r : Nat) : Bool := !(d.ridge r).lost && (decide (d.boot.step < 7) || (d.ridge r).inService)

/-- The ridge whose Keade runs the MQ and whose writer writes the pit log: ridge 0, or ridge 1 once ridge 0 is lost or held out
of service (15:R341; log 31). -/
def Dev.boss (d : Dev) : Nat := if d.reaches 0 then 0 else 1

/-! ## Persistent registers (16:R366, R367) -/

/-- The mirror with the higher write sequence. -/
def Pers.best (p : Pers) : PersCopy := if p.copy0.seq.toNat < p.copy1.seq.toNat then p.copy1 else p.copy0

/-- A commit writes the mirrors that can be reached, together with the next write sequence. -/
def Pers.commit (p : Pers) (now : Nat) (on0 on1 : Bool) : Pers :=
  let c : PersCopy := ⟨p.value, p.best.seq + 1⟩
  { p with copy0 := if on0 then c else p.copy0, copy1 := if on1 then c else p.copy1, waits := false, last := some now }

/-- A register never written. -/
def Pers.blank : Pers := ⟨0, ⟨0, 0⟩, ⟨0, 0⟩, false, none⟩

/-- A persistent register of a slot. -/
def Dev.pers (d : Dev) (k : Nat) : Pers := (assocGet d.power.pers k).getD Pers.blank

/-- A register commits now. -/
def Dev.persSave (d : Dev) (p : Pers) : Pers := p.commit d.clock (d.reaches 0) (d.reaches 1)

/-- The first of a list with the least key, a lower position winning a tie. -/
def leastBy (key : Nat → Nat) : List Nat → Option Nat
  | [] => none
  | x :: xs => match leastBy key xs with
    | none => some x
    | some y => if key y < key x then some y else some x

/-! ## Modes -/

/-- The encoding of 02:Table 2.1. -/
def Mode.bits : Mode → BitVec 3
  | .factory => 0 | .blank => 1 | .commission => 2 | .service => 3
  | .freeze => 4 | .locked => 5 | .zeroized => 6 | .vigil => 7

/-- The mode a value of DEV.MODE.MODE names. -/
def Mode.ofBits (b : BitVec 3) : Mode :=
  match b.toNat with
  | 0 => .factory | 1 => .blank | 2 => .commission | 3 => .service
  | 4 => .freeze | 5 => .locked | 6 => .zeroized | _ => .vigil

/-- The live mode (02:R34). -/
def Dev.live (d : Dev) : Mode := Mode.ofBits d.mode.val

/-- The boundary-scan identification code: version, part, manufacturer, 1 (18:R396). -/
def Fuses.idcode (f : Fuses) : BitVec 32 := f.stepping.extractLsb' 0 4 ++ (0x0840#16 ++ (0x1D3#11 ++ 1#1))

/-- DEV.MODE.REDUCED: a populated ridge is out of service (02:R34); not before the ridges have started. -/
def Dev.reduced (d : Dev) : Bool := d.boot.step ≥ 7 && d.ridgeNums.any fun r => !(d.serves r)

/-- Seam queues are fetched and granted: SERVICE, after power-up step 10, main power good (02:R42, R47, 14:R332),
and no RANGE_FREEZE under way (02:R40). -/
def Dev.fetching (d : Dev) : Bool :=
  d.live == .service && d.boot.step == 10 && !d.pins.cut && !d.pins.inVigil && d.mq.freeze.isNone

/-- Granted work goes on: it takes engines also while a RANGE_FREEZE drains (02:R40), from power-up step 10 until a power
cut. -/
def Dev.working (d : Dev) : Bool := d.boot.step == 10 && !d.pins.cut && !d.pins.inVigil

/-! ## Seams -/

/-- A seam that has never been created. -/
def SeamEntry.blank : SeamEntry :=
  { state := .free, links := 0, pref := false, saved := false, pasidValid := false, home := .of 0, mirror := .of 0,
    gen := 0, pasid := 0, epoch := .of 0, weight := 0, burst := 0, slotQuota := 0, keyQuota := 0, progQuota := 0,
    irqAddr := 0, irqData := 0, irqMask := false, migFloor := 0, migAllow := false, ownerDigest := .of 0 }

/-- A queue that does not exist. -/
def Queue.blank : Queue :=
  { state := .none, base := 0, log2 := 0, weight := 0, burst := 0, credit := 0, bleft := 0, head := 0, reported := 0,
    tail := 0, prefetch := [], reading := false, tailDrops := 0, tails := [], shutCmd := none }

/-- The running part of a seam with no queues. -/
def SeamRun.blank : SeamRun :=
  { inflight := 0, keyCount := 0, discards := 0, queues := List.replicate 4 Queue.blank, cq := none, credit := 0,
    bleft := 0, cur := 0, snapshot := none, savedTo := none, freezing := none, destroying := none, resetting := none,
    takeover := false, heldPortal := [], remirror := none, heldWrites := [] }

/-- A FREE seam of a part as shipped. -/
def Seam.blank : Seam := ⟨SeamEntry.blank, SeamRun.blank⟩

/-- The number of seams (03:R57). -/
def seamCount : Nat := 8192

/-- A seam; one never written is FREE. -/
def Dev.seam (d : Dev) (s : Nat) : Seam := (assocGet d.seams s).getD Seam.blank

/-- A change to a seam. -/
def Dev.modSeam (d : Dev) (s : Nat) (f : Seam → Seam) : Dev := { d with seams := assocSet d.seams s (f (d.seam s)) }

/-- A change to every listed seam. -/
def Dev.modSeams (d : Dev) (f : Nat → Seam → Seam) : Dev := { d with seams := d.seams.map fun e => (e.1, f e.1 e.2) }

/-- A change to the running part of a seam. -/
def Dev.modRun (d : Dev) (s : Nat) (f : SeamRun → SeamRun) : Dev := d.modSeam s fun x => { x with run := f x.run }

/-- A change to a seam's table entry. -/
def Dev.modEntry (d : Dev) (s : Nat) (f : SeamEntry → SeamEntry) : Dev :=
  d.modSeam s fun x => { x with entry := f x.entry }

/-- A queue of a seam. -/
def Seam.queue (x : Seam) (q : Nat) : Queue := x.run.queues.getD q Queue.blank

/-- A change to a queue. -/
def Dev.modQueue (d : Dev) (s q : Nat) (f : Queue → Queue) : Dev :=
  d.modRun s fun x => { x with queues := x.queues.modify q f }

/-- A seam's home ridge. -/
def Dev.homeOf (d : Dev) (s : Nat) : Nat := (d.seam s).entry.home.val.toNat

/-- A seam's mirror ridge; equal to home while unmirrored (14:R328). -/
def Dev.mirrorOf (d : Dev) (s : Nat) : Nat := (d.seam s).entry.mirror.val.toNat

/-- The copies of a seam's key store entries: home and mirror. -/
def Dev.holders (d : Dev) (s : Nat) : List Nat :=
  if d.homeOf s = d.mirrorOf s then [d.homeOf s] else [d.homeOf s, d.mirrorOf s]

/-- The seams that are not FREE. -/
def Dev.usedSeams (d : Dev) : List Nat := (d.seams.filter fun e => e.2.entry.state != .free).map (·.1)

/-- The seams homed on a ridge that are not FREE (17:Table 17.5, HOMED). -/
def Dev.homedOn (d : Dev) (r : Nat) : List Nat := d.usedSeams.filter fun s => d.homeOf s == r

/-! ## Jobs -/

/-- The job of a number. -/
def Dev.job? (d : Dev) (n : Nat) : Option JobRec := d.jobs.find? fun j => j.num == n

/-- A change to one job. -/
def Dev.modJob (d : Dev) (n : Nat) (f : JobRec → JobRec) : Dev :=
  { d with jobs := d.jobs.map fun j => if j.num = n then f j else j }

/-- The jobs of a seam that a descriptor started (requests of programs are not in INFLIGHT, 10:R251). -/
def Dev.seamJobs (d : Dev) (s : Nat) : List JobRec :=
  d.jobs.filter fun j => j.job.seam == s && j.tail.prog.isNone

/-- The jobs of one queue under the seam's current GEN. -/
def Dev.queueJobs (d : Dev) (s q : Nat) : List JobRec :=
  (d.seamJobs s).filter fun j => j.job.queue == q && !j.tail.discarded

/-! ## Links -/

/-- A link. -/
def Dev.link (d : Dev) : Lk → Link
  | .a => d.linkA
  | .b => d.linkB

/-- The other link. -/
def lkOther : Lk → Lk
  | .a => .b
  | .b => .a

/-- The ridge that carries a link (01:R15). -/
def lkRidge : Lk → Nat
  | .a => 0
  | .b => 1

/-- The bit that names a link: 0 A, 1 B. -/
def lkBit : Lk → Nat
  | .a => 0
  | .b => 1

/-- The link a bit names. -/
def lkOf (b : Bool) : Lk := if b then .b else .a

/-- A change to a link. -/
def Dev.modLink (d : Dev) (l : Lk) (f : Link → Link) : Dev :=
  match l with
  | .a => { d with linkA := f d.linkA }
  | .b => { d with linkB := f d.linkB }

/-- A link can carry DMA: up and Bus Master Enable set (03:R60, 14:R330). -/
def Link.carries (l : Link) : Bool := l.up && l.bme

/-- A seam's binding includes a link (03:R62). -/
def SeamEntry.binds (e : SeamEntry) : Lk → Bool
  | .a => e.links.getLsbD 0
  | .b => e.links.getLsbD 1

/-- The link a seam's DMA leaves through (03:R73, R74, 14:R330): the only bound one, or PREF while it carries DMA and
the other when it does not; none when no bound link carries DMA. -/
def Dev.dmaLink (d : Dev) (s : Nat) : Option Lk :=
  let e := (d.seam s).entry
  let p := lkOf e.pref
  if e.links = 3 then
    if (d.link p).carries then some p else if (d.link (lkOther p)).carries then some (lkOther p) else none
  else if e.binds .a && d.linkA.carries then some .a
  else if e.binds .b && d.linkB.carries then some .b
  else none

/-- A link of a seam's binding is up (13:R305, 08:R194 step 4). -/
def Dev.linkUpFor (d : Dev) (s : Nat) : Bool :=
  let e := (d.seam s).entry
  (e.binds .a && d.linkA.up) || (e.binds .b && d.linkB.up)

/-- A write handed to a link; a link in L1 returns to L0 for it (14:R320, R329, 13:R308). -/
def Dev.send (d : Dev) (l : Lk) (w : HostWrite) : Dev :=
  d.modLink l fun x => { x with unacked := x.unacked ++ [w], pm := if x.pm = 1 then 0 else x.pm }

/-- A time-driven command takes place at its deadline: the package clock reads it at least (log 17). -/
def Dev.reach (d : Dev) (t : Nat) : Dev := { d with clock := max d.clock t }

end Sys2Proof.Machine
end

