-- ==== Sys2Proof/Machine/Operands.lean ====
section
/-! DEFINITION. Operands of Lamad instructions: registers by number, the window, delayed writes, segments and their
addresses, and one instruction's view of its core (10:R228 to R236). -/

namespace Sys2Proof.Machine

/-! ## Registers -/

/-- Where a register of the visible window lies: frame CWP, or CWP + 1 (10:R230). -/
def Bank.wIndex (b : Bank) (n : Nat) : Nat := (b.cwp.toNat + n / 16) % 8 * 16 + n % 16

/-- The physical register that a number names now; none for g0 and reserved numbers. -/
def Bank.phys (b : Bank) (n : BitVec 6) : Option Phys :=
  let n := n.toNat
  if n = 0 then none
  else if n < 16 then some (.g n)
  else if n < 48 then some (.w (b.wIndex (n - 16)))
  else if n = 48 then some .ph
  else if n = 49 then some .pl
  else if n < 58 then some (if n % 2 = 0 then .accLo ((n - 50) / 2) else .accHi ((n - 50) / 2))
  else if n = 58 then some .st
  else none

/-- A physical register's value. -/
def Bank.get (b : Bank) (deep : Bool) : Phys → W64
  | .g n => b.g.getD n 0
  | .w n => b.w.getD n 0
  | .ph => b.ph
  | .pl => b.pl
  | .accLo n => (b.acc.getD n 0).extractLsb' 0 64
  | .accHi n => (b.acc.getD n 0).extractLsb' 64 64
  | .accAdd _ => 0
  | .st => b.st deep

/-- A write that lands in a physical register. -/
def Bank.put (b : Bank) (v : BitVec 128) : Phys → Bank
  | .g n => { b with g := b.g.set n (v.setWidth 64) }
  | .w n => { b with w := b.w.set n (v.setWidth 64) }
  | .ph => { b with ph := v.setWidth 64 }
  | .pl => { b with pl := v.setWidth 64 }
  | .accLo n => { b with acc := b.acc.modify n fun a => a.extractLsb' 64 64 ++ v.extractLsb' 0 64 }
  | .accHi n => { b with acc := b.acc.modify n fun a => v.extractLsb' 0 64 ++ a.extractLsb' 0 64 }
  | .accAdd n => { b with acc := b.acc.modify n fun a => a + v }
  | .st => b.setSt (v.setWidth 64)

/-- A register by number: g0 reads as zero (10:Table 10.1). -/
def Bank.read (b : Bank) (deep : Bool) (n : BitVec 6) : W64 :=
  match b.phys n with
  | some p => b.get deep p
  | none => 0

/-- The accumulator that ACCSH and ACCCLR name: by the number of either half, or by its index (log 20). -/
def accIndex (n : BitVec 6) : Nat := if n.toNat < 4 then n.toNat else (n.toNat - 50) / 2

/-! ## One instruction's view of its core -/

/-- A core as an instruction sees it, with what its ridge gives it: SRAM, the first Surface byte, the free values
drawn, and the spill area and segment table of the program it runs. -/
structure Lam where
  core : Core
  sram : List Host.Cell
  line : Nat
  draws : Nat
  spillBase : Nat
  spillLen : Nat
  table : List Seg
  /-- the address of the next instruction -/
  npc : W64
  /-- core cycles beyond the first, and what the instruction charges -/
  extra : Nat
  charge : Nat
  /-- physical registers written at once by this instruction, and the load it leaves in the delay slot -/
  wrote : List Phys
  fresh : List Pend
  /-- it looks up all 8 ways of its caches: core 0, and any core in FLUSH mode (11:R262) -/
  whole : Bool
  deriving DecidableEq, Repr

/-- The bank of the core's world (11:R257). -/
def Lam.bank (x : Lam) : Bank := if x.core.deep then x.core.deepBank else x.core.surface

/-- A change to the bank of the core's world. -/
def Core.modBank (k : Core) (f : Bank → Bank) : Core :=
  if k.deep then { k with deepBank := f k.deepBank } else { k with surface := f k.surface }

/-- A change to the bank of the core's world. -/
def Lam.modBank (x : Lam) (f : Bank → Bank) : Lam := { x with core := x.core.modBank f }

/-- A register operand. -/
def Lam.r (x : Lam) (n : BitVec 6) : W64 := x.bank.read x.core.deep n

/-- A result is written at once to the register that a number names. -/
def Lam.set (x : Lam) (n : BitVec 6) (v : W64) : Lam :=
  match x.bank.phys n with
  | some p => { x.modBank (fun b => b.put (v.setWidth 128) p) with wrote := p :: x.wrote }
  | none => x

/-- C is set: st is written (10:R229, R232). -/
def Lam.setC (x : Lam) (c : Bool) : Lam := { x.modBank (fun b => { b with c := c }) with wrote := .st :: x.wrote }

/-- A load's write, which lands after the next instruction (10:R232). -/
def Lam.later (x : Lam) (n : BitVec 6) (v : W64) : Lam :=
  match x.bank.phys n with
  | some p => { x with fresh := [⟨p, v.setWidth 128, true, 0⟩] }
  | none => x

/-- The registers that a delayed write concerns: an addition to an accumulator writes both halves. -/
def Phys.halves : Phys → List Phys
  | .accAdd n => [.accLo n, .accHi n]
  | p => [p]

/-- A write of a product or an accumulator, which lands `n` cycles after the instruction issues (10:R233). The instruction writes
the register, for a load that it stands in the delay slot of (10:R232). -/
def Lam.after (x : Lam) (n : Nat) (p : Phys) (v : BitVec 128) : Lam :=
  { x with core := { x.core with pend := x.core.pend ++ [⟨p, v, false, x.core.cycle + n⟩] }, wrote := p.halves ++ x.wrote }

/-- Pending writes of a test land, oldest first. -/
def Core.land (k : Core) (p : Pend → Bool) : Core :=
  let k' := { k with pend := k.pend.filter fun e => !(p e) }
  (k.pend.filter p).foldl (fun k e => k.modBank fun b => b.put e.value e.dst) k'

/-- Products and accumulators whose cycle has come. -/
def Core.landDue (k : Core) : Core := k.land fun e => !e.load && decide (e.due ≤ k.cycle)

/-- Cycles until the last pending product or accumulator lands: at most 4. -/
def Core.wait (k : Core) : Nat := (k.pend.map fun e => if e.load then 0 else e.due - k.cycle).foldl max 0

/-- The boundary of 10:R234 that a trap or a crossing of the core's own waits for: every pending write lands. -/
def Core.boundary (k : Core) : Core :=
  let n := k.wait
  let k := k.land fun _ => true
  { k with
    cycle := k.cycle + n
    program := if k.deep then k.program else k.program.map fun p => { p with cycles := p.cycles + n } }

/-! ## Caches (11:R262) -/

/-- The number of the line that holds an address. -/
def lineOf (a : Nat) : Nat := a / (Config.lineBytes + 1)

/-- The sets of a way of 4 KiB. -/
def cacheSets : Nat := 4096 / (Config.lineBytes + 1) + 1

/-- The ways that a world uses: all of them, or its own half. -/
def waySeen (whole deep : Bool) (w : Nat) : Bool := whole || (if deep then w < 4 else 4 ≤ w)

/-- An access: it hits in the ways that its world uses, or a line is allocated in one of them in the place of another. -/
def Cache.access (c : Cache) (whole deep store : Bool) (a : Nat) : Cache :=
  let mine := fun (l : CacheLine) => waySeen whole deep l.way && l.tag == lineOf a
  if c.lines.any mine then { c with lines := c.lines.map fun l => if mine l then { l with dirty := l.dirty || store } else l }
  else
    let n := if deep then c.deepNext else c.surfaceNext
    let w := if whole then Config.victim n % 8 else Config.victim n % 4 + if deep then 0 else 4
    { lines := (c.lines.filter fun l => !(l.way == w && l.tag % cacheSets == lineOf a % cacheSets)) ++ [⟨w, lineOf a, store⟩]
      deepNext := if deep then n + 1 else c.deepNext, surfaceNext := if deep then c.surfaceNext else n + 1 }

/-- Dirty lines are written back, and the cache is invalidated. -/
def Cache.flushed (c : Cache) : Cache := { c with lines := [] }

/-- The Deep ways of a cache are cleared. -/
def Cache.clearDeep (c : Cache) : Cache := { c with lines := c.lines.filter fun l => 4 ≤ l.way }

/-- A data access of an instruction. -/
def Lam.touch (x : Lam) (store : Bool) (a : Nat) : Lam :=
  { x with core := { x.core with dcache := x.core.dcache.access x.whole x.core.deep store a } }

/-! ## Segments (10:R235) -/

/-- Bytes of an element. -/
def Seg.size (s : Seg) : Nat := 2 ^ s.esize.toNat

/-- The low `n` bits of a number in reverse order. -/
def bitrev : Nat → Nat → Nat
  | 0, _ => 0
  | n + 1, i => i % 2 * 2 ^ n + bitrev n (i / 2)

/-- The element that an index reaches: none when the check fails. -/
def Seg.element (s : Seg) (i : Nat) : Option Nat :=
  match s.mode.toNat with
  | 0 => if i < s.limit then some i else none
  | 1 => if s.limit = 0 then none else some (i % s.limit)
  | 2 => if i < s.limit then some (bitrev s.limit.log2 i) else none
  | _ => none

/-- The address of an element, or the trap: 0x10 the index check, 0x11 a store without write access (10:Table 10.5). -/
def Seg.addr (s : Seg) (i : Nat) (store : Bool) : Except Nat Nat :=
  match s.element i with
  | none => .error 0x10
  | some e => if store && !s.write then .error 0x11 else .ok (s.base + e * s.size)

/-- The index of a load or store: a register and a signed immediate, as an unsigned 64-bit value. -/
def Lam.index (x : Lam) (ra : BitVec 6) (imm : BitVec 11) : Nat := (x.r ra + imm.signExtend 64).toNat

/-- A selector. -/
def Lam.sel (x : Lam) (n : BitVec 3) : Seg := x.bank.sel.getD n.toNat ⟨0, 0, 0, false, 0⟩

/-- The code under which an access below the waterline ends: fault injection, then 0x10 (11:R260). -/
def belowLine : Nat := 0x110

/-- The SRAM controller's check of an access (11:R260): the side, and that the address exists. -/
def Lam.reach (x : Lam) (a n : Nat) : Except Nat Unit :=
  if !x.core.deep && decide (a < x.line) then .error belowLine
  else if sramSize < a + n then .error 0x10 else .ok ()

/-- An element is read. -/
def Lam.loadElem (x : Lam) (s : Seg) (i : Nat) : Except Nat Nat := do
  let a ← s.addr i false
  x.reach a s.size
  return leNat (memBytes x.sram a s.size)

/-- An element is stored. -/
def Lam.storeElem (x : Lam) (s : Seg) (i v : Nat) : Except Nat Lam := do
  let a ← s.addr i true
  x.reach a s.size
  return { x.touch true a with sram := memPut x.sram a (leBytes s.size v) }

/-- Sign extension of an element of `n` bytes. -/
def signElem (n v : Nat) : W64 :=
  if v < 2 ^ (8 * n - 1) then BitVec.ofNat 64 v else BitVec.ofNat 64 (v + (2 ^ 64 - 2 ^ (8 * n)))

/-- A mode's rule on LIMIT: MODULO and BITREV take a power of two from 2 to 2^20 (10:R235). -/
def modeOk (mode : BitVec 2) (limit : Nat) : Bool :=
  match mode.toNat with
  | 0 => decide (limit ≤ 2 ^ 24)
  | 3 => false
  | _ => decide (2 ≤ limit ∧ limit ≤ 2 ^ 20) && limit == 2 ^ limit.log2

/-- SDERIVE's segment; none when refused (10:R236). -/
def Seg.derive (s : Seg) (a n : Nat) (mode esize : BitVec 2) : Option Seg :=
  let size := 2 ^ esize.toNat
  if s.mode = 0 ∧ a * s.size + n * size ≤ s.limit * s.size ∧ modeOk mode n then
    some ⟨s.base + a * s.size, n, esize, s.write, mode⟩
  else none

end Sys2Proof.Machine
end

