-- ==== Sys2Proof/Machine/Lamad.lean ====
section
/-! DEFINITION. What each Lamad instruction computes on its core (10:R229 to R238), apart from the program-side job
interface and the crossings between the worlds. An error is a trap code of 10:Table 10.5. -/

namespace Sys2Proof.Machine

/-- One result of two registers. -/
def Lam.op2 (x : Lam) (rd ra rb : BitVec 6) (f : W64 → W64 → W64) : Lam := x.set rd (f (x.r ra) (x.r rb))

/-- A result that also sets C, C first (log 20). -/
def Lam.opC (x : Lam) (rd : BitVec 6) (v : W64 × Bool) : Lam := (x.setC v.2).set rd v.1

def Lam.add (x : Lam) (rd ra rb : BitVec 6) : Lam := x.opC rd (addCarry (x.r ra) (x.r rb) false)
def Lam.sub (x : Lam) (rd ra rb : BitVec 6) : Lam := x.opC rd (subBorrow (x.r ra) (x.r rb) false)
def Lam.addc (x : Lam) (rd ra rb : BitVec 6) : Lam := x.opC rd (addCarry (x.r ra) (x.r rb) x.bank.c)
def Lam.subb (x : Lam) (rd ra rb : BitVec 6) : Lam := x.opC rd (subBorrow (x.r ra) (x.r rb) x.bank.c)
def Lam.and (x : Lam) (rd ra rb : BitVec 6) : Lam := x.op2 rd ra rb (· &&& ·)
def Lam.or (x : Lam) (rd ra rb : BitVec 6) : Lam := x.op2 rd ra rb (· ||| ·)
def Lam.xor (x : Lam) (rd ra rb : BitVec 6) : Lam := x.op2 rd ra rb (· ^^^ ·)
def Lam.shl (x : Lam) (rd ra rb : BitVec 6) : Lam := x.op2 rd ra rb fun a b => a <<< (b.toNat % 64)
def Lam.shr (x : Lam) (rd ra rb : BitVec 6) : Lam := x.op2 rd ra rb fun a b => a >>> (b.toNat % 64)
def Lam.sar (x : Lam) (rd ra rb : BitVec 6) : Lam := x.op2 rd ra rb fun a b => a.sshiftRight (b.toNat % 64)
def Lam.cmpeq (x : Lam) (rd ra rb : BitVec 6) : Lam := x.op2 rd ra rb fun a b => flagWord (a == b)
def Lam.cmplt (x : Lam) (rd ra rb : BitVec 6) : Lam := x.op2 rd ra rb fun a b => flagWord (a.slt b)
def Lam.cmpltu (x : Lam) (rd ra rb : BitVec 6) : Lam := x.op2 rd ra rb fun a b => flagWord (a.ult b)

def Lam.addi (x : Lam) (rd ra : BitVec 6) (imm : BitVec 14) : Lam := x.set rd (x.r ra + imm.signExtend 64)
def Lam.andi (x : Lam) (rd ra : BitVec 6) (imm : BitVec 14) : Lam := x.set rd (x.r ra &&& imm.setWidth 64)
def Lam.ori (x : Lam) (rd ra : BitVec 6) (imm : BitVec 14) : Lam := x.set rd (x.r ra ||| imm.setWidth 64)
def Lam.xori (x : Lam) (rd ra : BitVec 6) (imm : BitVec 14) : Lam := x.set rd (x.r ra ^^^ imm.setWidth 64)
def Lam.shli (x : Lam) (rd ra n : BitVec 6) : Lam := x.set rd (x.r ra <<< n.toNat)
def Lam.shri (x : Lam) (rd ra n : BitVec 6) : Lam := x.set rd (x.r ra >>> n.toNat)
def Lam.sari (x : Lam) (rd ra n : BitVec 6) : Lam := x.set rd ((x.r ra).sshiftRight n.toNat)

/-- A halfword's place. -/
def halfword (half : BitVec 2) (imm : BitVec 16) : W64 := imm.setWidth 64 <<< (16 * half.toNat)

def Lam.movz (x : Lam) (rd : BitVec 6) (half : BitVec 2) (imm : BitVec 16) : Lam := x.set rd (halfword half imm)
def Lam.movk (x : Lam) (rd : BitVec 6) (half : BitVec 2) (imm : BitVec 16) : Lam :=
  x.set rd ((x.r rd &&& ~~~halfword half 0xFFFF) ||| halfword half imm)

/-- A 128-bit product, unsigned or signed. -/
def product (signed' : Bool) (a b : W64) : BitVec 128 :=
  if signed' then a.signExtend 128 * b.signExtend 128 else a.setWidth 128 * b.setWidth 128

/-- ph and pl are written together three cycles later (10:R233). -/
def Lam.mul (x : Lam) (signed' : Bool) (ra rb : BitVec 6) : Lam :=
  let p := product signed' (x.r ra) (x.r rb)
  (x.after 3 .ph (p >>> 64)).after 3 .pl (p.setWidth 64 |>.setWidth 128)

/-- The accumulator is updated four cycles later (10:R233). -/
def Lam.macc (x : Lam) (fn : BitVec 4) (ra rb : BitVec 6) : Lam :=
  let p := product (fn.getLsbD 3) (x.r ra) (x.r rb)
  x.after 4 (.accAdd (fn.toNat % 4)) (if fn.getLsbD 2 then -p else p)

/-- The accumulator is shifted right by rb, zeros from the left (log 20). -/
def Lam.accsh (x : Lam) (acc rb : BitVec 6) : Lam :=
  let n := accIndex acc
  let by' := (x.r rb).toNat
  { x.modBank (fun b => { b with acc := b.acc.modify n fun a => a >>> by' }) with
    wrote := [.accLo n, .accHi n] ++ x.wrote }

def Lam.accclr (x : Lam) (acc : BitVec 6) : Lam :=
  let n := accIndex acc
  { x.modBank (fun b => { b with acc := b.acc.modify n fun _ => 0 }) with wrote := [.accLo n, .accHi n] ++ x.wrote }

/-- A load: the core stalls as long as a cache miss needs, a free number of cycles (10:R232, R233, log 14). -/
def Lam.load (x : Lam) (signed' : Bool) (rd ra : BitVec 6) (sel : BitVec 3) (imm : BitVec 11) : Except Nat Lam := do
  let s := x.sel sel
  let v ← x.loadElem s (x.index ra imm)
  let a ← s.addr (x.index ra imm) false
  let x := (x.touch false a).later rd (if signed' then signElem s.size v else BitVec.ofNat 64 v)
  return { x with extra := x.extra + Config.freeNat x.draws, draws := x.draws + 1 }

def Lam.store (x : Lam) (rs ra : BitVec 6) (sel : BitVec 3) (imm : BitVec 11) : Except Nat Lam :=
  x.storeElem (x.sel sel) (x.index ra imm) (x.r rs).toNat

/-- A selector is written. -/
def Lam.setSel (x : Lam) (n : BitVec 3) (s : Seg) : Lam := x.modBank fun b => { b with sel := b.sel.set n.toNat s }

/-- SLOAD: an entry at or beyond NSEG gives LIMIT 0. -/
def Lam.sload (x : Lam) (dst : BitVec 3) (entry : BitVec 5) : Lam :=
  x.setSel dst (x.table.getD entry.toNat ⟨0, 0, 0, false, 0⟩)

/-- SDERIVE: refused as a trap 0x12. -/
def Lam.sderive (x : Lam) (dst src : BitVec 3) (ra rb : BitVec 6) (mode esize : BitVec 2) : Except Nat Lam :=
  match (x.sel src).derive (x.r ra).toNat (x.r rb).toNat mode esize with
  | some s => .ok (x.setSel dst s)
  | none => .error 0x12

def Lam.slimit (x : Lam) (rd : BitVec 6) (src : BitVec 3) : Lam := x.set rd (BitVec.ofNat 64 (x.sel src).limit)

/-- The pc of an instruction. -/
def Lam.pc (x : Lam) : W64 := x.bank.pc

/-- A branch counts instructions from itself (10:R237); it has no delay slot. -/
def Lam.branch (x : Lam) (taken : Bool) (disp : BitVec 14) : Lam :=
  if taken then { x with npc := x.pc + (disp.signExtend 64 <<< 2) } else x

def Lam.beq (x : Lam) (ra rb : BitVec 6) (d : BitVec 14) : Lam := x.branch (x.r ra == x.r rb) d
def Lam.bne (x : Lam) (ra rb : BitVec 6) (d : BitVec 14) : Lam := x.branch (x.r ra != x.r rb) d
def Lam.blt (x : Lam) (ra rb : BitVec 6) (d : BitVec 14) : Lam := x.branch ((x.r ra).slt (x.r rb)) d
def Lam.bge (x : Lam) (ra rb : BitVec 6) (d : BitVec 14) : Lam := x.branch (!(x.r ra).slt (x.r rb)) d
def Lam.bltu (x : Lam) (ra rb : BitVec 6) (d : BitVec 14) : Lam := x.branch ((x.r ra).ult (x.r rb)) d
def Lam.bgeu (x : Lam) (ra rb : BitVec 6) (d : BitVec 14) : Lam := x.branch (!(x.r ra).ult (x.r rb)) d
def Lam.jmp (x : Lam) (d : BitVec 26) : Lam := { x with npc := x.pc + (d.signExtend 64 <<< 2) }
def Lam.jr (x : Lam) (ra : BitVec 6) : Lam := { x with npc := x.r ra }

/-! ## The window (10:R230, R231) -/

/-- The registers of a frame. -/
def Bank.frame (b : Bank) (f : Nat) : List W64 := (List.range 16).map fun i => b.w.getD (f % 8 * 16 + i) 0

/-- A frame is replaced. -/
def Bank.setFrame (b : Bank) (f : Nat) (vs : List W64) : Bank :=
  { b with w := b.w.take (f % 8 * 16) ++ (List.range 16).map (fun i => vs.getD i 0) ++ b.w.drop (f % 8 * 16 + 16) }

/-- A pending write falls on a frame. -/
def onFrame (f : Nat) (e : Pend) : Bool :=
  match e.dst with
  | .w n => n / 16 == f % 8
  | _ => false

/-- The oldest resident frame: CWP + 2 − RES modulo 8. -/
def Bank.oldest (b : Bank) : Nat := (b.cwp.toNat + 10 - b.res.toNat) % 8

/-- 128 bytes of a frame as they lie in the spill area. -/
def frameBytes (vs : List W64) : List Byte := vs.flatMap fun v => leBytes 8 v.toNat

/-- The oldest frame goes to the spill area of its world, once its pending writes have landed (10:R231, R234); beyond the area,
or beyond what SPILLED counts, trap 0x13. -/
def Lam.spill (x : Lam) : Except Nat Lam :=
  let x := { x with core := x.core.land (onFrame x.bank.oldest) }
  let b := x.bank
  let n := b.spilled.toNat
  let a := x.spillBase + 128 * n
  if x.spillLen < 128 * (n + 1) ∨ 1023 ≤ n then .error 0x13
  else do
    x.reach a 128
    return { (x.touch true a).modBank (fun b => { b with res := b.res - 1, spilled := b.spilled + 1 }) with
      sram := memPut x.sram a (frameBytes (b.frame b.oldest)), extra := x.extra + 20, charge := x.charge + 16 }

/-- The frame below CWP comes back from the spill area. -/
def Lam.fill (x : Lam) : Except Nat Lam :=
  let b := x.bank
  let a := x.spillBase + 128 * (b.spilled.toNat - 1)
  let vs := (List.range 16).map fun i => BitVec.ofNat 64 (leNat (memBytes x.sram (a + 8 * i) 8))
  do
    x.reach a 128
    return { (x.touch false a).modBank (fun b => { b.setFrame (b.cwp.toNat + 7) vs with spilled := b.spilled - 1 }) with
      extra := x.extra + 20, charge := x.charge + 16 }

/-- CALL: spill when all 8 frames are resident, write the return address into register 15 of frame CWP + 1, move the
window. -/
def Lam.callTo (x : Lam) (target : W64) : Except Nat Lam := do
  let x ← if x.bank.res = 8 then x.spill else .ok x
  let p : Phys := .w ((x.bank.cwp.toNat + 1) % 8 * 16 + 15)
  return { x.modBank (fun b =>
      { b.put ((x.pc + 4).setWidth 128) p with cwp := b.cwp + 1, res := b.res + 1 }) with
    npc := target, wrote := p :: x.wrote }

def Lam.call (x : Lam) (d : BitVec 26) : Except Nat Lam := x.callTo (x.pc + (d.signExtend 64 <<< 2))
def Lam.callr (x : Lam) (ra : BitVec 6) : Except Nat Lam := x.callTo (x.r ra)

/-- RET: jump to w15, fill or lower RES, move the window back; trap 0x14 with no caller frame. -/
def Lam.ret (x : Lam) : Except Nat Lam :=
  let target := x.r 31
  let back := fun (x : Lam) (dec : BitVec 4) =>
    { x.modBank (fun b => { b with cwp := b.cwp - 1, res := b.res - dec }) with npc := target }
  if x.bank.res = 2 then
    if x.bank.spilled = 0 then .error 0x14
    else do
      let x ← x.fill
      return back x 0
  else .ok (back x 1)

/-- What an instruction charges: a spill or a fill adds 16 (10:R254). -/
def Bank.chargeOf (b : Bank) : Instr → Nat
  | .call _ _ _ | .callr _ _ _ => if b.res = 8 then 17 else 1
  | .ret _ _ => if b.res = 2 ∧ b.spilled ≠ 0 then 17 else 1
  | _ => 1

/-! ## Micro-operations (10:R242 to R244) -/

/-- The effect of an instruction of major 0x00 to 0x13, as a micro-operation runs it; others trap as reserved. -/
def Lam.micro (x : Lam) : Instr → Except Nat Lam
  | .add _ _ rd ra rb => .ok (x.add rd ra rb)
  | .sub _ _ rd ra rb => .ok (x.sub rd ra rb)
  | .addc _ _ rd ra rb => .ok (x.addc rd ra rb)
  | .subb _ _ rd ra rb => .ok (x.subb rd ra rb)
  | .and _ _ rd ra rb => .ok (x.and rd ra rb)
  | .or _ _ rd ra rb => .ok (x.or rd ra rb)
  | .xor _ _ rd ra rb => .ok (x.xor rd ra rb)
  | .shl _ _ rd ra rb => .ok (x.shl rd ra rb)
  | .shr _ _ rd ra rb => .ok (x.shr rd ra rb)
  | .sar _ _ rd ra rb => .ok (x.sar rd ra rb)
  | .cmpeq _ _ rd ra rb => .ok (x.cmpeq rd ra rb)
  | .cmplt _ _ rd ra rb => .ok (x.cmplt rd ra rb)
  | .cmpltu _ _ rd ra rb => .ok (x.cmpltu rd ra rb)
  | .addi _ _ rd ra imm => .ok (x.addi rd ra imm)
  | .andi _ _ rd ra imm => .ok (x.andi rd ra imm)
  | .ori _ _ rd ra imm => .ok (x.ori rd ra imm)
  | .xori _ _ rd ra imm => .ok (x.xori rd ra imm)
  | .shli _ _ rd ra n => .ok (x.shli rd ra n)
  | .shri _ _ rd ra n => .ok (x.shri rd ra n)
  | .sari _ _ rd ra n => .ok (x.sari rd ra n)
  | .movz _ _ rd half imm => .ok (x.movz rd half imm)
  | .movk _ _ rd half imm => .ok (x.movk rd half imm)
  | .mulu _ _ ra rb => .ok (x.mul false ra rb)
  | .muls _ _ ra rb => .ok (x.mul true ra rb)
  | .macc _ _ fn ra rb => .ok (x.macc fn ra rb)
  | .accsh _ _ acc rb => .ok (x.accsh acc rb)
  | .accclr _ _ acc => .ok (x.accclr acc)
  | .ld _ _ rd ra sel imm => x.load false rd ra sel imm
  | .lds _ _ rd ra sel imm => x.load true rd ra sel imm
  | .st _ _ rs ra sel imm => x.store rs ra sel imm
  | .sload _ _ dst entry => .ok (x.sload dst entry)
  | .sderive _ _ dst src ra rb mode esize => x.sderive dst src ra rb mode esize
  | .slimit _ _ rd src => .ok (x.slimit rd src)
  | _ => .error 0x20

/-- An instruction retires: loads of the one before it land, unless it wrote their register or loads it itself (log 20), its own
waits, its cycles pass, and pc moves on (10:R232). -/
def Lam.retire (x : Lam) : Lam :=
  let gone := x.wrote ++ x.fresh.map (·.dst)
  let k := { x.core with pend := x.core.pend.filter fun e => !(e.load && gone.contains e.dst) }
  let k := k.land fun e => e.load
  let k := k.modBank fun b => { b with pc := x.npc }
  { x with core := { k with pend := k.pend ++ x.fresh, cycle := k.cycle + 1 + x.extra } }

/-- One instruction on a core: due writes land, it runs, it retires (10:R232, R233). -/
def Lam.run (x : Lam) (sem : Lam → Except Nat Lam) : Except Nat Lam := do
  let x := { x with core := x.core.landDue }
  let y ← sem { x with npc := x.pc + 4, extra := 0, wrote := [], fresh := [] }
  return y.retire

/-- Fields of an X instruction put into a micro-operation's word, where its format has them (10:R243, Table 10.3): rd in the R, I,
W and M formats and for SLIMIT, ra in all but W and SLIMIT, rb in R and for SDERIVE, k in fn, in an immediate, and in the entry
that SLOAD names. -/
def microWord (m : W64) (rd ra rb : BitVec 6) (k : BitVec 3) : BitVec 32 :=
  let w := m.setWidth 32
  let put := fun (w : BitVec 32) (on : Bool) (lo n : Nat) (v : Nat) =>
    if on then (w &&& ~~~(BitVec.ofNat 32 ((2 ^ n - 1) * 2 ^ lo))) ||| BitVec.ofNat 32 (v * 2 ^ lo) else w
  let major := (Lamad.bits w 26 6).toNat
  let op := (Lamad.bits w 18 2).toNat
  let seg := major == 0x13
  let wide := major == 0x06 || major == 0x07
  let three := major == 0x00 || (decide (0x08 ≤ major) && decide (major ≤ 0x0A))
  let w := put w (m.getLsbD 32 && !seg) 20 6 rd.toNat
  let w := put w (m.getLsbD 32 && seg && op == 2) 12 6 rd.toNat
  let w := put w (m.getLsbD 33 && !seg && !wide) 14 6 ra.toNat
  let w := put w (m.getLsbD 33 && seg && op != 2) 12 6 ra.toNat
  let w := put w (m.getLsbD 34 && three) 8 6 rb.toNat
  let w := put w (m.getLsbD 34 && seg && op == 1) 6 6 rb.toNat
  let w := put w (m.getLsbD 35 && !seg) 0 3 k.toNat
  put w (m.getLsbD 35 && seg && op == 0) 12 3 k.toNat

/-- A slot's micro-operations in order, one per cycle; pc stays on the X instruction until the last, and a trap is the X
instruction's (10:R244). -/
def Lam.slotOps (x : Lam) (rd ra rb : BitVec 6) (k : BitVec 3) : List W64 → Lam × Option Nat
  | [] => (x, none)
  | m :: rest =>
    match Lamad.decode 0 0 (microWord m rd ra rb k) with
    | some i =>
      if Lamad.namesReserved i then (x, some 0x20)
      else match x.run fun y => y.micro i with
        | .ok y => (y.modBank fun b => { b with pc := b.pc - 4 }).slotOps rd ra rb k rest
        | .error code => (x, some code)
    | none => (x, some 0x20)

end Sys2Proof.Machine
end

