-- ==== Sys2Proof/Machine/Events.lean ====
section
/-! DEFINITION. Events: their queues, the pit log writer, pending bits, MSI-X messages and ALERT_N (15). -/

namespace Sys2Proof.Machine

/-- A new event has a place in its queue of 64, of which 16 are kept for class L and Z (15:R341). -/
def EventQ.hasRoom (e : EventQ) : Bool :=
  let hard := (e.q.filter fun x => x.cls != 0).length
  let soft := (e.q.filter fun x => x.cls == 0).length
  decide (soft + max hard 16 < 64)

/-- An event enters its queue; one of class N that finds no place is dropped and counted (15:R341). -/
def EventQ.push (e : EventQ) (x : Event) : EventQ :=
  if x.cls != 0 || e.hasRoom then { e with q := e.q ++ [x] } else { e with drops := e.drops + 1 }

/-- An event is detected by a ridge, or by the always-on domain (none). -/
def Dev.raise (d : Dev) (src : Option Nat) (id : Nat) (cls : BitVec 2) (detail : BitVec 32) (seam : Option Nat := none) :
    Dev :=
  let x : Event := ⟨id, cls, detail, seam, src, d.clock⟩
  match src with
  | some r => d.modRidge r fun y => { y with events := y.events.push x }
  | none => { d with log := { d.log with aon := d.log.aon.push x } }

/-- The event ID of a ridge's offset (00:R5, 15:R335). -/
def ridgeId (r off : Nat) : Nat := 64 + 72 * r + off

/-- A ridge raises an event of its own block that is not a tamper source (15:Table 15.3). -/
def Dev.ridgeEvent (d : Dev) (r off detail : Nat) (seam : Option Nat := none) : Dev :=
  if d.populated r then d.raise (some r) (ridgeId r off) 0 (BitVec.ofNat 32 detail) seam else d

/-- Keade raises a package event (15:Table 15.2). -/
def Dev.pkgEvent (d : Dev) (id detail : Nat) (seam : Option Nat := none) : Dev :=
  d.raise (some d.boss) id 0 (BitVec.ofNat 32 detail) seam

/-- A BAR0 write that takes no effect is recorded as event 41 (00:R9, 17:R370). -/
def Dev.ignoredWrite (d : Dev) (l : Lk) (offset : Nat) : Dev :=
  d.raise (some (lkRidge l)) 41 0 (BitVec.ofNat 32 (offset % 2 ^ 20 + lkBit l * 2 ^ 20))

/-! ## MSI-X -/

/-- A function sends a vector or, masked, keeps it in its pending bit array (17:R381, 15:R348). -/
def Dev.msix (d : Dev) (l : Lk) (v : Nat) : Dev :=
  let f := d.link l
  let e := f.msix.getD v ⟨0, 0, true⟩
  if f.fmask || e.masked then d.modLink l fun x => { x with pba := x.pba ||| (1#64 <<< v) }
  else d.send l ⟨.msix, none, e.addr, leBytes 4 e.data.toNat⟩

/-- The function that sends a vector: the named one, or the other when that link is down or its MSI-X is disabled;
none when neither can (15:R348). -/
def Dev.msixLink (d : Dev) (l : Lk) : Option Lk :=
  if (d.link l).up && (d.link l).msixEn then some l
  else if (d.link (lkOther l)).up && (d.link (lkOther l)).msixEn then some (lkOther l)
  else none

/-- A vector is sent under 15:R348. -/
def Dev.vector (d : Dev) (l : Lk) (v : Nat) : Dev :=
  match d.msixLink l with
  | some k => d.msix k v
  | none => d

/-- Pending vectors of a function that are no longer masked are sent, lowest first (17:R381). -/
def Dev.unmask (d : Dev) (l : Lk) : Dev :=
  if (d.link l).up && (d.link l).msixEn then
    (List.range 64).foldl (init := d) fun d v =>
      let f := d.link l
      if f.pba.getLsbD v && !f.fmask && !(f.msix.getD v ⟨0, 0, true⟩).masked then
        (d.modLink l fun x => { x with pba := x.pba &&& ~~~(1#64 <<< v) }).msix l v
      else d
  else d

/-! ## The pit log -/

/-- The newest record takes an occurrence of this event (15:R340). -/
def LogRec.merges (r : LogRec) (e : Event) : Bool :=
  r.id == e.id && r.detail == e.detail && r.seam == e.seam && r.rep != 0xFFFF && !r.sealed

/-- Microseconds from the first occurrence, saturating (15:R339). -/
def lastDelta (first now : Nat) : BitVec 32 :=
  let us := (now - first) / 1000
  if us < 2 ^ 32 then BitVec.ofNat 32 us else BitVec.allOnes 32

/-- RIDGE of a record: 0xFF for the always-on and Vigil domains (15:R339). -/
def ridgeByte : Option Nat → BitVec 8
  | some r => BitVec.ofNat 8 r
  | none => 0xFF

/-- Records written to both copies (15:R341). -/
def LogBlock.put (l : LogBlock) (rs : List LogRec) : LogBlock :=
  { l with recs := rs, mirror := if l.mirrored then rs else l.mirror }

/-- The log goes on in the copy on one ridge; that copy has the newest record whose SEQ it holds (15:R341; log 31). -/
def LogBlock.alone (l : LogBlock) (r : Nat) : LogBlock :=
  if l.site = r then { l with mirrored := false }
  else { l with
    recs := l.mirror, site := r, mirror := l.recs, mirrored := false
    next := if l.mirrored then l.next else match l.mirror with
      | x :: _ => x.seq + 1
      | [] => 0 }

/-- Both copies can be reached again: the older one is written from the newer (log 31). -/
def LogBlock.joined (l : LogBlock) : LogBlock := { l with site := 0, mirror := l.recs, mirrored := true }

/-- The log takes a new record, overwriting the one a lap older (15:R342). -/
def LogBlock.record (l : LogBlock) (e : Event) (rep : BitVec 16) (sealed' : Bool) : LogBlock :=
  let r : LogRec := ⟨l.next, e.time, e.id, e.cls, rep, e.detail, 0, e.seam, ridgeByte e.ridge, sealed'⟩
  { l.put ((r :: l.recs).take 65536) with next := l.next + 1 }

/-- An event sets its pending bit, and HARD for class L or Z (15:R346, Table 15.6). -/
def LogBlock.setPending (l : LogBlock) (e : Event) : LogBlock :=
  { l with
    pendBits := l.pendBits ||| (1#640 <<< e.id)
    hard := if e.cls != 0 then l.hard ||| (1#640 <<< e.id) else l.hard }

/-- The writer takes an event: merged into the newest record or in a new one (15:R340). -/
def LogBlock.take (l : LogBlock) (e : Event) : LogBlock :=
  match l.recs with
  | r :: rest =>
    if r.merges e then
      l.put ({ r with rep := r.rep + 1, lastDelta := lastDelta r.time e.time } :: rest)
    else l.record e 0 false
  | [] => l.record e 0 false

/-- A recorded event sets its pending bit, and the bit's rise sends its vector (15:R346, R348). -/
def Dev.afterRecord (d : Dev) (e : Event) : Dev :=
  let rose := !d.log.pendBits.getLsbD e.id
  let d := { d with log := d.log.setPending e }
  let rt := d.log.routes.getD e.id (Route.reset e.id)
  if rose && rt.msi then d.vector (lkOf rt.link) rt.vector.toNat else d

/-- The writer records one event. -/
def Dev.writeEvent (d : Dev) (e : Event) : Dev := ({ d with log := d.log.take e }).afterRecord e

/-- Dropped events are reported as event 47, of class N itself, at the next free slot (15:R341). -/
def EventQ.report (e : EventQ) (src : Option Nat) (now : Nat) : EventQ :=
  if e.drops = 0 || !e.hasRoom then e
  else ⟨e.q ++ [⟨47, 0, BitVec.ofNat 32 (min e.drops 0xFFFF), none, src, now⟩], 0⟩

/-- LOG.LOST.COUNT rises by the drops (15:R341). -/
def LogBlock.lose (l : LogBlock) (n : Nat) : LogBlock := { l with lost := satInc l.lost n }

/-- The oldest event of a queue, with the queue that remains and the drops that it reports. -/
def EventQ.pop (e : EventQ) (src : Option Nat) (now : Nat) : Option (Event × EventQ × Nat) :=
  match e.q with
  | [] => none
  | x :: rest =>
    let q := EventQ.report ⟨rest, e.drops⟩ src now
    some (x, q, e.drops - q.drops)

/-- A ridge, or the always-on domain, passes its oldest event to the writer (15:R341). Records are written from
power-up step 5. A lost ridge passes nothing (14:R323). -/
def Dev.passEvent (d : Dev) (src : Option Nat) : Dev :=
  if d.boot.step < 5 then d else
  match src with
  | none =>
    match d.log.aon.pop none d.clock with
    | none => d
    | some (e, q, n) => ({ d with log := { d.log with aon := q }.lose n }).writeEvent e
  | some r =>
    if (d.ridge r).lost then d else
    match (d.ridge r).events.pop src d.clock with
    | none => d
    | some (e, q, n) =>
      ({ d.modRidge r (fun y => { y with events := q }) with log := d.log.lose n }).writeEvent e

/-- `n` of a source's events pass to the writer, oldest first. -/
def Dev.passEvents (d : Dev) (src : Option Nat) : Nat → Dev
  | 0 => d
  | n + 1 => (d.passEvent src).passEvents src n

/-- Every event detected by a ridge so far passes to the writer: the barrier of a MARK (15:R345). -/
def Dev.flushEvents (d : Dev) (src : Option Nat) : Dev :=
  d.passEvents src (match src with
    | none => d.log.aon.q.length + 1
    | some r => (d.ridge r).events.q.length + 1)

/-- The record of a MARK: never merged, final for its predecessor (15:R345, R340). Its SEQ is the answer. -/
def Dev.markRecord (d : Dev) (marker : BitVec 32) : Dev :=
  let e : Event := ⟨46, 0, marker, none, some d.boss, d.clock⟩
  ({ d with log := d.log.record e 0 true }).afterRecord e

/-- DETAIL of a tamper event (13:R314). -/
def tamperDetail (reading : BitVec 16) (cls : BitVec 2) (m : Mode) (merged : Bool) : BitVec 32 :=
  reading.setWidth 32 ||| (cls.setWidth 32 <<< 16) ||| (m.bits.setWidth 32 <<< 24) |||
    (if merged then 0x80000000 else 0)

/-- Power-up step 9 merges the Vigil log into the pit log, one record for each, and empties it (13:R313). -/
def Dev.mergeVigilLog (d : Dev) : Dev :=
  let n := d.vigil.log.length
  let d := d.vigil.log.foldl (init := d) fun d v =>
    let e : Event := ⟨v.id, v.cls, tamperDetail 0 v.cls v.stored true, none, none, v.time⟩
    ({ d with log := d.log.record e v.count true }).afterRecord e
  let d := { d with vigil := { d.vigil with log := [], merged := BitVec.ofNat 6 n } }
  if n = 0 then d else d.pkgEvent 48 n

/-- EVT.STATE.HARD: a pending bit of a class L or Z record is set (15:Table 15.6). -/
def LogBlock.isHard (l : LogBlock) : Bool := l.hard &&& l.pendBits != 0

/-- ALERT_N is asserted (15:R347): by a pending bit with an ALERT route, or by one recorded with class L or Z. Before
power-up step 10 the latched and held events alone drive it. -/
def Dev.alert (d : Dev) : Bool :=
  if d.boot.step < 10 then
    (d.pins.held.any fun h => h.2 != 0) || d.lastMode.latched || (d.vigil.log.any fun v => v.cls != 0)
  else
    d.log.isHard ||
      (List.range 640).any fun i => d.log.pendBits.getLsbD i && (d.log.routes.getD i (Route.reset i)).alert

/-- Pending bits cleared by the host or the controller (15:R347, 00:Table 0.3 W1C). -/
def LogBlock.clearPending (l : LogBlock) (w : Nat) (mask : W64) : LogBlock :=
  if w < 10 then
    let m : BitVec 640 := mask.setWidth 640 <<< (64 * w)
    { l with pendBits := l.pendBits &&& ~~~m, hard := l.hard &&& ~~~m }
  else l

/-- The 32 bytes of a pit log record (15:Table 15.4). -/
def LogRec.bytes (r : LogRec) : List Byte :=
  let body := leBytes 4 r.seq.toNat ++ leBytes 8 r.time ++
    leBytes 2 (r.id % 1024 + r.cls.toNat * 1024) ++ leBytes 2 r.rep.toNat ++ leBytes 4 r.detail.toNat ++
    leBytes 4 r.lastDelta.toNat ++
    leBytes 2 (match r.seam with | some s => s % 8192 + 32768 | none => 0) ++ [r.ridge, 0]
  body ++ leBytes 4 (crc32c body).toNat

/-- LOG.WINn word w: the record in slot (CURSOR + n) mod 65,536, zero when never written (15:R343). -/
def LogBlock.window (l : LogBlock) (cursor : BitVec 32) (n w : Nat) : W64 :=
  match l.recs.find? fun r => r.seq.toNat % 65536 == (cursor.toNat + n) % 65536 with
  | some r => BitVec.ofNat 64 (field r.bytes (8 * w) 8)
  | none => 0

end Sys2Proof.Machine
end

