-- ==== Sys2Proof/Machine/Entropy.lean ====
section
/-! DEFINITION. Entropy: sources and their health tests, conditioned blocks and their consumers, the two DRBG
instances, neighbour seeds, the RNG_DATA buffer (12). -/

namespace Sys2Proof.Machine

/-! ## Digests and draws -/

/-- A hash of Table 5.6 by ID 1 to 6, cut to its digest length. -/
def digestLen : Nat → Nat
  | 1 => 32 | 2 => 48 | 3 => 64 | 4 => 32 | 5 => 48 | 6 => 64 | 7 => 32 | 8 => 64 | _ => 0

/-- A digest (05:Table 5.6); SHAKE gives its signature pre-hash length. -/
def digest (id : Nat) (m : List Byte) : List Byte :=
  if id = 7 ∨ id = 8 then slice (Config.shake id m (digestLen id)) 0 (digestLen id)
  else slice (Config.hash id m) 0 (digestLen id)

/-- SHA-384. -/
def sha384 (m : List Byte) : List Byte := digest 2 m

/-- SHA-384 as a register value: byte 0 lowest. -/
def sha384W (m : List Byte) : BitVec 384 := BitVec.ofNat 384 (leNat (sha384 m))

/-- Random bytes: draw `n` of the device (05:R118, 12:R284). -/
def randomBytes (draw n : Nat) : List Byte := (List.range n).map (Config.freeByte draw)

/-- A draw of internal randomness by Keade on ridge 0 (09:R216, 08:R201). -/
def Dev.draw (d : Dev) : Nat × Dev := (d.draws, { d with draws := d.draws + 1 })

/-! ## The entropy path -/

/-- A change to a ridge's entropy path. -/
def Dev.modRng (d : Dev) (r : Nat) (f : Rng → Rng) : Dev := d.modRidge r fun x => { x with rng := f x.rng }

/-- The device serial, 16 bytes. -/
def Dev.serial (d : Dev) : List Byte := leBytes 8 d.fuses.serial0.toNat ++ leBytes 8 d.fuses.serial1.toNat

/-- The personalisation string of an instance of a ridge: the serial, the ridge number, 0 internal or 1 host (12:R284). -/
def Dev.person (d : Dev) (r : Nat) (host : Bool) : BitVec 384 :=
  BitVec.ofNat 384 (leNat (d.serial ++ [BitVec.ofNat 8 r, if host then 1 else 0]))

/-- A source of a ridge. -/
def Rng.src (x : Rng) (n : Nat) : Source := if n = 0 then x.src0 else x.src1

/-- A change to a source. -/
def Dev.modSrc (d : Dev) (r n : Nat) (f : Source → Source) : Dev :=
  d.modRng r fun x => if n = 0 then { x with src0 := f x.src0 } else { x with src1 := f x.src1 }

/-! ## The DRBGs (12:R284, R285) -/

/-- The state that a count of generate requests gives an instantiated instance. -/
def drbgState (count : Nat) : BitVec 2 := if 4096 ≤ count then 3 else if 3072 ≤ count then 2 else 1

/-- Generate requests made of an instance. -/
def Drbg.generate (x : Drbg) (n : Nat) : Drbg :=
  ⟨drbgState (min 4096 (x.count + n)), min 4096 (x.count + n), Config.drbgNext x.seed 0⟩

/-- A block seeds an instance; one that is not instantiated takes its personalisation string with it (12:R284). -/
def Drbg.reseed (x : Drbg) (person b : BitVec 384) : Drbg :=
  ⟨1, 0, if x.state = 0 then Config.drbgNext 0 (b ^^^ person) else Config.drbgNext x.seed b⟩

/-- An instance waits for a block: to be instantiated, a requested reseed, or DRAINED (12:Table 12.2). -/
def Drbg.wants (x : Drbg) : Bool := x.state != 1

/-- An instance serves requests: both are instantiated and it is not DRAINED (12:R285, R287). -/
def Rng.serves (x : Rng) (host : Bool) : Bool :=
  x.int.state != 0 && x.host.state != 0 && (if host then x.host else x.int).state != 3

/-- A block goes to the first consumer of 12:Table 12.2: the internal instance, a neighbour's request (its block is kept
at the front of the pool), the host instance, the pool; else it is discarded. -/
def Rng.give (x : Rng) (person : Bool → BitVec 384) (b : BitVec 384) : Rng :=
  if x.int.wants then { x with int := x.int.reseed (person false) b }
  else if !x.askedBy.isEmpty && x.pool.isEmpty then { x with pool := [b] }
  else if x.host.wants then { x with host := x.host.reseed (person true) b }
  else if x.pool.length < 4 then { x with pool := x.pool ++ [b] } else x

/-- Blocks of the pool go to instances that wait, the internal one first; a neighbour's request keeps one from the host
instance (12:R286). -/
def Rng.drain (person : Bool → BitVec 384) (x : Rng) : Rng :=
  let x := match x.pool with
    | b :: rest => if x.int.wants then { x with int := x.int.reseed (person false) b, pool := rest } else x
    | [] => x
  match x.pool with
  | b :: rest => if x.askedBy.length < x.pool.length && x.host.wants then { x with host := x.host.reseed (person true) b, pool := rest }
    else x
  | [] => x

/-- An instance that became DRAINED, or left DRAINED, is an event +63 (12:Table 12.7). -/
def Dev.drained (d : Dev) (r : Nat) (before : Rng) : Dev :=
  let now := (d.ridge r).rng
  let one := fun (d : Dev) (a b : Drbg) (bit : Nat) =>
    if a.state != 3 && b.state == 3 then d.ridgeEvent r 63 bit
    else if a.state == 3 && b.state == 1 then d.ridgeEvent r 63 (bit + 2) else d
  one (one d before.int now.int 0) before.host now.host 1

/-- A change to a ridge's entropy path with its DRAINED events. -/
def Dev.rngStep (d : Dev) (r : Nat) (f : Rng → Rng) : Dev := (d.modRng r f).drained r (d.ridge r).rng

/-- `n` generate requests of an instance of a ridge, and the blocks its pool then gives (12:R285, R286). -/
def Dev.generate (d : Dev) (r : Nat) (host : Bool) (n : Nat) : Dev :=
  (d.rngStep r fun x =>
    if host then { x with host := x.host.generate n } else { x with int := x.int.generate n }).rngStep r (Rng.drain (d.person r))

/-- Words of one 2 KiB request for the RNG_DATA buffer. -/
def wordsOf (draw : Nat) : List (BitVec 32) :=
  (List.range 512).map fun i => BitVec.ofNat 32 (leNat (slice (randomBytes draw 2048) (4 * i) 4))

/-- The RNG_DATA buffer is refilled when fewer than 512 words remain (12:R291). -/
def Dev.refillBuf (d : Dev) (r : Nat) : Dev :=
  let x := (d.ridge r).rng
  if x.buf.length < 512 && x.serves true then
    let (n, d) := d.draw
    (d.generate r true 1).modRng r fun y => { y with buf := y.buf ++ wordsOf n }
  else d

/-! ## Sources (12:R281 to R283) -/

/-- The raw bits of a window, first bit first. -/
def windowBits (w : BitVec 1024) : List Bool := (List.range 1024).map w.getLsbD

/-- The repetition count test over a window: whether 41 equal bits stood in a row, with the last run. -/
def repetition : List Bool → Bool → Nat → Bool → Bool × Bool × Nat
  | [], last, run, failed => (failed, last, run)
  | b :: bs, last, run, failed =>
    let run := if b == last then run + 1 else 1
    repetition bs b run (failed || decide (41 ≤ run))

/-- The adaptive proportion test: the first bit's value occurs 795 or more times. -/
def proportion (bits : List Bool) : Bool :=
  match bits with
  | [] => false
  | b :: _ => decide (795 ≤ bits.countP (· == b))

/-- A source fails a test: it stops, and latches when RESTARTS is 3 (12:R283). -/
def Dev.sourceFails (d : Dev) (r n : Nat) : Dev :=
  if ((d.ridge r).rng.src n).restarts = 3 then
    (d.modSrc r n fun x => { x with state := 5, failedAt := d.clock }).ridgeEvent r 60 n
  else d.modSrc r n fun x => { x with state := 4, failedAt := d.clock }

/-- ENTROPY_WINDOW: a window of a starting or running source is tested, and conditioned or discarded (12:R281, R282). With TPSEL
the test pattern takes the latch's place, and its blocks are counted as pattern blocks (R294). -/
def Dev.entropyWindow (d : Dev) (r n : Nat) (latch : BitVec 1024) : Dev :=
  let s := (d.ridge r).rng.src n
  let w := if s.tpsel then Config.testWindow s.patterns else latch
  let bits := windowBits w
  let (rct, last, run) := repetition bits s.lastBit s.runLen false
  let apt := proportion bits
  let d := d.modSrc r n fun x => { x with lastBit := last, runLen := run }
  if s.state = 1 ∨ s.state = 2 then
    if rct || apt then
      ((d.modSrc r n fun x => { x with aptFails := satInc x.aptFails }).ridgeEvent r 58 n).sourceFails r n
    else d.modSrc r n fun x => { x with state := 3, cleanSince := d.clock }
  else if rct || apt then
    let d := if rct then (d.modSrc r n fun x => { x with rctFails := satInc x.rctFails }).ridgeEvent r 56 n else d
    let d := if apt then (d.modSrc r n fun x => { x with aptFails := satInc x.aptFails }).ridgeEvent r 57 n else d
    d.sourceFails r n
  else
    let d := if s.tpsel then d.modSrc r n fun x => { x with patterns := x.patterns + 1 } else d
    (d.rngStep r fun x => x.give (d.person r) (sha384W (leBytes 128 w.toNat))).refillBuf r

/-- A source runs, or may: the windows of a ridge with main power (12:R280). -/
def Dev.sourceOn (d : Dev) (r n : Nat) : Bool :=
  d.populated r && !(d.ridge r).lost && decide (n < 2) &&
    (let s := ((d.ridge r).rng.src n).state
     s == 1 || s == 2 || s == 3)

/-- A source calibrates: its trim is a free value, and its run of equal bits starts anew (12:R280, log 14). -/
def Dev.calibrate (d : Dev) (r n : Nat) : Dev :=
  let (k, d) := d.draw
  d.modSrc r n fun x => { x with state := 2, dac := BitVec.ofNat 8 (Config.freeNat k), runLen := 0 }

/-! ## Neighbour seeds (12:R289) -/

/-- A ridge seeks a neighbour seed. -/
def Dev.starved (d : Dev) (r : Nat) : Bool :=
  let x := (d.ridge r).rng
  d.neighbour && x.int.wants && x.src0.state != 3 && x.src1.state != 3 && x.pool.isEmpty

/-- A neighbour can give a block at priority 2: its own internal instance does not wait, and it has a block or a running
source. -/
def Dev.canGive (d : Dev) (g : Nat) : Bool :=
  let x := (d.ridge g).rng
  d.serves g && !x.int.wants && (!x.pool.isEmpty || x.src0.state == 3 || x.src1.state == 3)

/-- A block between two ridges can travel: the spine key exists, or one of them is ridge 0 (12:R289). -/
def Dev.seedPath (d : Dev) (a b : Nat) : Bool := d.keyed || a == 0 || b == 0

/-- The ridge asks its neighbours in ascending number; the request waits at the first that can give. -/
def Dev.askSeed (d : Dev) (r : Nat) : Dev :=
  if d.ridgeNums.any fun g => (d.ridge g).rng.askedBy.contains r then d
  else match (d.neighbours r).find? fun g => d.canGive g && d.seedPath r g with
    | some g => d.modRng g fun x => { x with askedBy := x.askedBy ++ [r] }
    | none => d

/-- A neighbour's block arrives, under the spine key or before that under a pair key (01:R19, R20): it reseeds the internal
instance, and both ridges log it. -/
def Dev.takeSeed (d : Dev) (r g : Nat) : Dev :=
  let x := (d.ridge g).rng
  match x.pool with
  | b :: rest =>
    if x.askedBy.contains r && d.serves g then
      let d := (if d.keyed then d.spineSend g r else d).modRng g fun x =>
        { x with pool := rest, askedBy := x.askedBy.filter (· != r), nbGiven := satInc x.nbGiven }
      let d := d.rngStep r fun x => { x with int := x.int.reseed (d.person r false) b, nbTaken := satInc x.nbTaken }
      (d.ridgeEvent r 62 g).ridgeEvent g 62 (r + 256)
    else d
  | [] => d

/-- Entropy state wiped: when a ridge leaves service, and under Firedamp (12:R284). -/
def Rng.wipe (x : Rng) : Rng := { x with int := ⟨0, 0, 0⟩, host := ⟨0, 0, 0⟩, pool := [], buf := [], askedBy := [] }

end Sys2Proof.Machine
end

