-- ==== Sys2Proof/Machine/Curves.lean ====
section
/-! DEFINITION. Arithmetic on numbers and points, the numbers of the built-in curves, and Edwards points (05:R127, R132,
06:Tables 6.3, 6.6). -/

namespace Sys2Proof.Machine

/-! ## Numbers and points -/

/-- Square and multiply, low bit first. -/
def powLoop : Nat → Nat → Nat → Nat → Nat → Nat
  | 0, _, _, _, acc => acc
  | f + 1, b, e, m, acc => powLoop f (b * b % m) (e / 2) m (if e % 2 = 1 then acc * b % m else acc)

/-- b to the e, modulo m. -/
def powMod (b e m : Nat) : Nat := powLoop (e.log2 + 1) (b % m) e m (1 % m)

/-- A point of a curve; none at infinity. -/
abbrev Point := Option (Nat × Nat)

/-- Difference modulo p. -/
def subMod (p x y : Nat) : Nat := (x + (p - y % p)) % p

/-- The sum of two points of y² = x³ + ax + b over the field of p elements. -/
def pointAdd (p a : Nat) : Point → Point → Point
  | none, q => q
  | q, none => q
  | some (x1, y1), some (x2, y2) =>
    let next := fun (l : Nat) =>
      let x3 := subMod p (subMod p (l * l) x1) x2
      some (x3, subMod p (l * subMod p x1 x3) y1)
    if x1 = x2 then
      if (y1 + y2) % p = 0 then none else next ((3 * x1 * x1 + a) * powMod (2 * y1) (p - 2) p % p)
    else next (subMod p y2 y1 * powMod (subMod p x2 x1) (p - 2) p % p)

/-- Double and add, low bit first. -/
def pointLoop (p a : Nat) : Nat → Nat → Point → Point → Point
  | 0, _, _, acc => acc
  | f + 1, k, q, acc => pointLoop p a f (k / 2) (pointAdd p a q q) (if k % 2 = 1 then pointAdd p a acc q else acc)

/-- The curve numbers p, a, b, Gx, Gy, n, cofactor by name. -/
structure CurveNums where
  p : Nat
  a : Nat
  b : Nat
  g : Point
  n : Nat
  h : Nat

/-- The numbers of a list of seven. -/
def CurveNums.of (c : List Nat) : CurveNums :=
  ⟨c.getD 0 0, c.getD 1 0, c.getD 2 0, some (c.getD 3 0, c.getD 4 0), c.getD 5 0, c.getD 6 1⟩

/-- k times a point. -/
def CurveNums.mul (c : CurveNums) (k : Nat) (q : Point) : Point := pointLoop c.p c.a (k.log2 + 1) k q none

/-- x³ + ax + b. -/
def CurveNums.rhs (c : CurveNums) (x : Nat) : Nat := (x * x * x + c.a * x + c.b) % c.p

/-- The equation holds. -/
def CurveNums.on (c : CurveNums) (x y : Nat) : Bool := y * y % c.p == c.rhs x

/-- A square root of v modulo p where v has one: by an exponent for p = 3 mod 4 and p = 5 mod 8, else the least. -/
def rootMod (p v : Nat) : Nat :=
  if p % 4 = 3 then powMod v ((p + 1) / 4) p
  else if p % 8 = 5 then
    let r := powMod v ((p + 3) / 8) p
    if r * r % p = v % p then r else r * powMod 2 ((p - 1) / 4) p % p
  else ((List.range p).find? fun y => y * y % p == v % p).getD 0

/-- The square root of v modulo p with the given parity; none where v has no root, or the root 0 no such parity. -/
def sqrtMod (p v parity : Nat) : Option Nat :=
  let r := rootMod p v
  if r * r % p = v % p then
    if r % 2 = parity then some r else if r = 0 then none else some (p - r)
  else none

/-- A point in SEC1 uncompressed form (05:R127). -/
def encodePoint (lp : Nat) (x y : Nat) : List Byte := [4] ++ beBytes lp x ++ beBytes lp y

/-- A point as input: uncompressed or compressed (05:R127); none when it is no point of the curve. -/
def CurveNums.decode (c : CurveNums) (lp : Nat) (b : List Byte) : Point :=
  let x := beNat (slice b 1 lp)
  if b.length = 1 + 2 * lp then
    let y := beNat (slice b (1 + lp) lp)
    if field b 0 1 = 4 ∧ x < c.p ∧ y < c.p ∧ c.on x y then some (x, y) else none
  else if b.length = 1 + lp ∧ (field b 0 1 = 2 ∨ field b 0 1 = 3) ∧ x < c.p then
    (sqrtMod c.p (c.rhs x) (field b 0 1 % 2)).map fun y => (x, y)
  else none

/-! ## Built-in curves -/

/-- P-256 (SP 800-186, SEC 2, RFC 5639). -/
def curve201 : List Nat :=
  [0xFFFFFFFF00000001000000000000000000000000FFFFFFFFFFFFFFFFFFFFFFFF,
   0xFFFFFFFF00000001000000000000000000000000FFFFFFFFFFFFFFFFFFFFFFFC,
   0x5AC635D8AA3A93E7B3EBBD55769886BC651D06B0CC53B0F63BCE3C3E27D2604B,
   0x6B17D1F2E12C4247F8BCE6E563A440F277037D812DEB33A0F4A13945D898C296,
   0x4FE342E2FE1A7F9B8EE7EB4A7C0F9E162BCE33576B315ECECBB6406837BF51F5,
   0xFFFFFFFF00000000FFFFFFFFFFFFFFFFBCE6FAADA7179E84F3B9CAC2FC632551, 1]

/-- P-384 (SP 800-186, SEC 2, RFC 5639). -/
def curve202 : List Nat :=
  [0xFFFFFFFFFFFFFFFFFFFFFFFFFFFFFFFFFFFFFFFFFFFFFFFFFFFFFFFFFFFFFFFEFFFFFFFF0000000000000000FFFFFFFF,
   0xFFFFFFFFFFFFFFFFFFFFFFFFFFFFFFFFFFFFFFFFFFFFFFFFFFFFFFFFFFFFFFFEFFFFFFFF0000000000000000FFFFFFFC,
   0xB3312FA7E23EE7E4988E056BE3F82D19181D9C6EFE8141120314088F5013875AC656398D8A2ED19D2A85C8EDD3EC2AEF,
   0xAA87CA22BE8B05378EB1C71EF320AD746E1D3B628BA79B9859F741E082542A385502F25DBF55296C3A545E3872760AB7,
   0x3617DE4A96262C6F5D9E98BF9292DC29F8F41DBD289A147CE9DA3113B5F0B8C00A60B1CE1D7E819D7A431D7C90EA0E5F,
   0xFFFFFFFFFFFFFFFFFFFFFFFFFFFFFFFFFFFFFFFFFFFFFFFFC7634D81F4372DDF581A0DB248B0A77AECEC196ACCC52973, 1]

/-- P-521 (SP 800-186, SEC 2, RFC 5639). -/
def curve203 : List Nat :=
  [0x1FFFFFFFFFFFFFFFFFFFFFFFFFFFFFFFFFFFFFFFFFFFFFFFFFFFFFFFFFFFFFFFFFFFFFFFFFFFFFFFFFFFFFFFFFFFFFFFFFFFFFFFFFFFFFFFFFFFFFFFFFFFFFFFFFF,
   0x1FFFFFFFFFFFFFFFFFFFFFFFFFFFFFFFFFFFFFFFFFFFFFFFFFFFFFFFFFFFFFFFFFFFFFFFFFFFFFFFFFFFFFFFFFFFFFFFFFFFFFFFFFFFFFFFFFFFFFFFFFFFFFFFFFC,
   0x51953EB9618E1C9A1F929A21A0B68540EEA2DA725B99B315F3B8B489918EF109E156193951EC7E937B1652C0BD3BB1BF073573DF883D2C34F1EF451FD46B503F00,
   0xC6858E06B70404E9CD9E3ECB662395B4429C648139053FB521F828AF606B4D3DBAA14B5E77EFE75928FE1DC127A2FFA8DE3348B3C1856A429BF97E7E31C2E5BD66,
   0x11839296A789A3BC0045C8A5FB42C7D1BD998F54449579B446817AFBD17273E662C97EE72995EF42640C550B9013FAD0761353C7086A272C24088BE94769FD16650,
   0x1FFFFFFFFFFFFFFFFFFFFFFFFFFFFFFFFFFFFFFFFFFFFFFFFFFFFFFFFFFFFFFFFFA51868783BF2F966B7FCC0148F709A5D03BB5C9B8899C47AEBB6FB71E91386409, 1]

/-- secp256k1 (SP 800-186, SEC 2, RFC 5639). -/
def curve204 : List Nat :=
  [0xFFFFFFFFFFFFFFFFFFFFFFFFFFFFFFFFFFFFFFFFFFFFFFFFFFFFFFFEFFFFFC2F,
   0x0,
   0x7,
   0x79BE667EF9DCBBAC55A06295CE870B07029BFCDB2DCE28D959F2815B16F81798,
   0x483ADA7726A3C4655DA4FBFC0E1108A8FD17B448A68554199C47D08FFB10D4B8,
   0xFFFFFFFFFFFFFFFFFFFFFFFFFFFFFFFEBAAEDCE6AF48A03BBFD25E8CD0364141, 1]

/-- brainpoolP256r1 (SP 800-186, SEC 2, RFC 5639). -/
def curve205 : List Nat :=
  [0xA9FB57DBA1EEA9BC3E660A909D838D726E3BF623D52620282013481D1F6E5377,
   0x7D5A0975FC2C3057EEF67530417AFFE7FB8055C126DC5C6CE94A4B44F330B5D9,
   0x26DC5C6CE94A4B44F330B5D9BBD77CBF958416295CF7E1CE6BCCDC18FF8C07B6,
   0x8BD2AEB9CB7E57CB2C4B482FFC81B7AFB9DE27E1E3BD23C23A4453BD9ACE3262,
   0x547EF835C3DAC4FD97F8461A14611DC9C27745132DED8E545C1D54C72F046997,
   0xA9FB57DBA1EEA9BC3E660A909D838D718C397AA3B561A6F7901E0E82974856A7, 1]

/-- brainpoolP384r1 (SP 800-186, SEC 2, RFC 5639). -/
def curve206 : List Nat :=
  [0x8CB91E82A3386D280F5D6F7E50E641DF152F7109ED5456B412B1DA197FB71123ACD3A729901D1A71874700133107EC53,
   0x7BC382C63D8C150C3C72080ACE05AFA0C2BEA28E4FB22787139165EFBA91F90F8AA5814A503AD4EB04A8C7DD22CE2826,
   0x4A8C7DD22CE28268B39B55416F0447C2FB77DE107DCD2A62E880EA53EEB62D57CB4390295DBC9943AB78696FA504C11,
   0x1D1C64F068CF45FFA2A63A81B7C13F6B8847A3E77EF14FE3DB7FCAFE0CBD10E8E826E03436D646AAEF87B2E247D4AF1E,
   0x8ABE1D7520F9C2A45CB1EB8E95CFD55262B70B29FEEC5864E19C054FF99129280E4646217791811142820341263C5315,
   0x8CB91E82A3386D280F5D6F7E50E641DF152F7109ED5456B31F166E6CAC0425A7CF3AB6AF6B7FC3103B883202E9046565, 1]

/-- brainpoolP512r1 (SP 800-186, SEC 2, RFC 5639). -/
def curve207 : List Nat :=
  [0xAADD9DB8DBE9C48B3FD4E6AE33C9FC07CB308DB3B3C9D20ED6639CCA703308717D4D9B009BC66842AECDA12AE6A380E62881FF2F2D82C68528AA6056583A48F3,
   0x7830A3318B603B89E2327145AC234CC594CBDD8D3DF91610A83441CAEA9863BC2DED5D5AA8253AA10A2EF1C98B9AC8B57F1117A72BF2C7B9E7C1AC4D77FC94CA,
   0x3DF91610A83441CAEA9863BC2DED5D5AA8253AA10A2EF1C98B9AC8B57F1117A72BF2C7B9E7C1AC4D77FC94CADC083E67984050B75EBAE5DD2809BD638016F723,
   0x81AEE4BDD82ED9645A21322E9C4C6A9385ED9F70B5D916C1B43B62EEF4D0098EFF3B1F78E2D0D48D50D1687B93B97D5F7C6D5047406A5E688B352209BCB9F822,
   0x7DDE385D566332ECC0EABFA9CF7822FDF209F70024A57B1AA000C55B881F8111B2DCDE494A5F485E5BCA4BD88A2763AED1CA2B2FA8F0540678CD1E0F3AD80892,
   0xAADD9DB8DBE9C48B3FD4E6AE33C9FC07CB308DB3B3C9D20ED6639CCA70330870553E5C414CA92619418661197FAC10471DB1D381085DDADDB58796829CA90069, 1]

/-- p, a, b, Gx, Gy, n and cofactor of a built-in Weierstrass curve, ALG 0x0201 to 0x0207 (05:Table 5.4, 06:Table 6.3): the
numbers of the curve that the ALG names (log 35). -/
def namedCurve (a : Nat) : List Nat :=
  match a with
  | 0x201 => curve201 | 0x202 => curve202 | 0x203 => curve203 | 0x204 => curve204
  | 0x205 => curve205 | 0x206 => curve206 | 0x207 => curve207
  | _ => []

/-! ## Edwards curves (05:R132, 06:Tables 6.3, 6.6) -/

/-- An Edwards curve a x² + y² = 1 + d x² y²: field prime, a, d, and the bits of an encoded y. -/
structure EdCurve where
  p : Nat
  a : Nat
  d : Nat
  bits : Nat
  /-- doublings that multiply by the cofactor -/
  twos : Nat

/-- Ed25519 (0x0301, cofactor 8) and Ed448 (0x0302, cofactor 4), of RFC 8032. -/
def edCurve (a : Nat) : EdCurve :=
  if a = 0x301 then
    let p := 2 ^ 255 - 19
    ⟨p, p - 1, 0x52036CEE2B6FFE738CC740797779E89800700A4D4141D8AB75EB4DCA135978A3, 255, 3⟩
  else
    let p := 2 ^ 448 - 2 ^ 224 - 1
    ⟨p, 1, p - 39081, 455, 2⟩

/-- The point that an encoding stands for; none when y ≥ p, when no x recovers, or when x = 0 with its sign bit set. -/
def edDecode (a : Nat) (b : List Byte) : Option (Nat × Nat) :=
  let c := edCurve a
  let v := leNat b
  let y := v % 2 ^ c.bits
  let sign := bitsOf v c.bits 1
  if c.p ≤ y then none
  else
    let den := subMod c.p (c.d * (y * y)) c.a
    let x2 := subMod c.p (y * y) 1 * powMod den (c.p - 2) c.p % c.p
    (sqrtMod c.p x2 sign).map fun x => (x, y)

/-- Twice a point, by the complete addition law. -/
def edDouble (c : EdCurve) (q : Nat × Nat) : Nat × Nat :=
  let (x, y) := q
  let t := c.d * (x * x % c.p * (y * y % c.p)) % c.p
  (2 * x * y * powMod (1 + t) (c.p - 2) c.p % c.p,
   subMod c.p (y * y) (c.a * (x * x)) * powMod (subMod c.p 1 t) (c.p - 2) c.p % c.p)

/-- The cofactor times a point is the neutral element: the point has small order. -/
def edSmall (a : Nat) (q : Nat × Nat) : Bool :=
  let c := edCurve a
  (List.range c.twos).foldl (fun q _ => edDouble c q) q == (0, 1)

end Sys2Proof.Machine
end

