-- ==== Sys2Proof/Machine/Keys.lean ====
section
/-! DEFINITION. The key store: derivations, key algorithms and templates, entries, handles, capacity, the key
caches (08, 05:R121 to R125, R399). -/

namespace Sys2Proof.Machine

/-! ## Outputs of fixed length -/

/-- KMAC256(K, X, 8n, S) of 08:R182. -/
def kmac256 (k x : List Byte) (n : Nat) (s : List Byte) : List Byte := slice (Config.kmac true k x n s) 0 n

/-- HMAC of a hash ID. -/
def hmacOf (id : Nat) (k m : List Byte) : List Byte := slice (Config.hmac id k m) 0 (digestLen id)

/-! ## Derivations (08:Table 8.1) -/

/-- A seam number or epoch: 2 bytes, little-endian (08:R182). -/
def le2 (n : Nat) : List Byte := leBytes 2 n

/-- DRK as bytes. -/
def Dev.drk (d : Dev) : List Byte := leBytes 32 d.fuses.drk.toNat

/-- The order n of a named curve. -/
def curveOrder (alg : Nat) : Nat := (namedCurve alg).getD 5 0

/-- The private scalar of DIK-EC. -/
def Dev.dikEc (d : Dev) : Nat :=
  beNat (kmac256 d.drk [] 56 (ascii "UJ840DIK-EC")) % (curveOrder 0x0202 - 1) + 1

/-- The seed ξ of DIK-ML. -/
def Dev.dikMl (d : Dev) : List Byte := kmac256 d.drk [] 32 (ascii "UJ840DIK-ML")

/-- The pair key of ridge r (01:R20). -/
def Dev.pairKey (d : Dev) (r : Nat) : List Byte := kmac256 d.drk [BitVec.ofNat 8 r] 32 (ascii "UJ840PAIR")

/-- SRK that a VSALT gives (08:R183). -/
def Dev.srkOf (d : Dev) (v : BitVec 256) : List Byte := kmac256 d.drk (leBytes 32 v.toNat) 32 (ascii "UJ840SRK")

/-- SRK of a ridge; none while its key derivation unit has no VSALT. -/
def Dev.srk (d : Dev) (r : Nat) : Option (List Byte) := (d.ridge r).kdu.map d.srkOf

/-- DSK, the device storage key. -/
def Dev.dsk (d : Dev) : Option (List Byte) := (d.srk d.boss).map fun k => kmac256 k [] 32 (ascii "UJ840DSK")

/-- SSK of a seam at its epoch. -/
def Dev.ssk (d : Dev) (s : Nat) : Option (List Byte) :=
  (d.srk (d.homeOf s)).map fun k => kmac256 k (le2 s ++ le2 (d.seam s).entry.epoch.val.toNat) 32 (ascii "UJ840SSK")

/-- HK, the handle key of a seam. -/
def Dev.hk (d : Dev) (s : Nat) : Option (List Byte) := (d.ssk s).map fun k => kmac256 k [] 32 (ascii "UJ840HDL")

/-- BWK, the blob wrapping key. -/
def bwk (bk bkid : List Byte) (epoch : BitVec 16) : List Byte :=
  kmac256 bk (bkid ++ le2 epoch.toNat) 32 (ascii "UJ840BLOB")

/-! ## Algorithms and templates (05:Tables 5.2 to 5.4) -/

/-- ALG of a template. -/
def tAlg (t : W64) : Nat := bitsOf t.toNat 0 16

/-- USAGE of a template. -/
def tUsage (t : W64) : Nat := bitsOf t.toNat 16 16

/-- EXPORTABLE. -/
def tExportable (t : W64) : Bool := t.getLsbD 32

/-- NEVER_EXPORT. -/
def tNever (t : W64) : Bool := t.getLsbD 33

/-- SINGLE_USE. -/
def tSingle (t : W64) : Bool := t.getLsbD 34

/-- AS_BLOB. -/
def tBlob (t : W64) : Bool := t.getLsbD 35

/-- LEN of a template. -/
def tLen (t : W64) : Nat := bitsOf t.toNat 40 16

/-- The template as held: AS_BLOB clear (08:Table 8.2). -/
def tHeld (t : W64) : W64 := t &&& ~~~(1#64 <<< 35)

/-- AES-128, 192, 256. -/
def isAes (a : Nat) : Bool := decide (1 ≤ a ∧ a ≤ 3)

/-- AES-XTS-128, 256. -/
def isXts (a : Nat) : Bool := decide (a = 5 ∨ a = 6)

/-- HMAC, KMAC and generic secrets. -/
def isSecret (a : Nat) : Bool := decide (0x10 ≤ a ∧ a ≤ 0x12)

/-- An algorithm with no public part (05:Table 5.12). -/
def isSymmetric (a : Nat) : Bool := isAes a || isXts a || isSecret a

/-- RSA. -/
def isRsa (a : Nat) : Bool := a == 0x100

/-- A named curve. -/
def isNamedCurve (a : Nat) : Bool := decide (0x201 ≤ a ∧ a ≤ 0x207)

/-- A loaded curve slot. -/
def isLoadedCurve (a : Nat) : Bool := decide (0x2C0 ≤ a ∧ a ≤ 0x2CF)

/-- A curve key. -/
def isCurve (a : Nat) : Bool := isNamedCurve a || isLoadedCurve a

/-- Ed25519, Ed448. -/
def isEd (a : Nat) : Bool := decide (a = 0x301 ∨ a = 0x302)

/-- X25519, X448. -/
def isX (a : Nat) : Bool := decide (a = 0x303 ∨ a = 0x304)

/-- ML-KEM. -/
def isKem (a : Nat) : Bool := decide (0x401 ≤ a ∧ a ≤ 0x403)

/-- ML-DSA. -/
def isMldsa (a : Nat) : Bool := decide (0x411 ≤ a ∧ a ≤ 0x413)

/-- SLH-DSA. -/
def isSlh (a : Nat) : Bool := decide (0x501 ≤ a ∧ a ≤ 0x50C)

/-- The usages that Table 5.4 allows for an ALG; none for an ALG not in the table. -/
def usageAllowed (a : Nat) : Option Nat :=
  if isAes a then some 0xEC else if isXts a then some 0x0C
  else if a = 0x10 ∨ a = 0x11 then some 0x90 else if a = 0x12 then some 0x10
  else if isRsa a then some 0x10F else if isCurve a then some 0x13
  else if isEd a then some 0x03 else if isX a then some 0x10
  else if isKem a then some 0x6C else if isMldsa a then some 0x03
  else if isSlh a then some 0x03 else none

/-- The LEN that Table 5.4 allows for an ALG. `short`: an ECDH on a loaded curve of Lp below 16 allows 8 to 15
(05:R123). -/
def lenAllowed (a n : Nat) (short : Bool) : Bool :=
  if isAes a then n == 8 + 8 * a else if a = 5 then n == 32 else if a = 6 then n == 64
  else if a = 0x10 then decide (16 ≤ n ∧ n ≤ 128) else if a = 0x11 then decide (16 ≤ n ∧ n ≤ 64)
  else if a = 0x12 then decide (16 ≤ n ∧ n ≤ 1024) || (short && decide (8 ≤ n ∧ n ≤ 15))
  else n == 0

/-- A template is valid (05:R123). -/
def templateOk (t : W64) (short : Bool) : Bool :=
  (match usageAllowed (tAlg t) with
   | some u => Nat.land (tUsage t) u == tUsage t
   | none => false) &&
  lenAllowed (tAlg t) (tLen t) short && !(tExportable t && tNever t) && !(tSingle t && tBlob t) &&
  !(tNever t && tBlob t) && bitsOf t.toNat 36 4 == 0 && bitsOf t.toNat 56 8 == 0

/-- Bytes that a number takes. -/
def byteLen (n : Nat) : Nat := if n = 0 then 0 else n.log2 / 8 + 1

/-- Bits of a number. -/
def bitLen (n : Nat) : Nat := if n = 0 then 0 else n.log2 + 1

/-- The tag of an entry verifies under the SSK or the DSK of a ridge that holds this VSALT, and its body opens (08:R184,
R186; log 34). -/
def Entry.opens (e : Entry) (vsalt : Option (BitVec 256)) : Bool := e.intact && vsalt.isSome && e.under == vsalt

/-- The body of an entry as the key store controller of a ridge opens it (08:R186). -/
def Ridge.openBody (x : Ridge) (e : Entry) : Option Payload := if e.opens x.kdu then some e.payload else none

/-- INDEX of a loaded curve's entry: its slot, counted from 1 (08:Table 8.2; log 34). -/
def curveIndex (slot : Nat) : Nat := slot + 1

/-- The curves a seam has loaded, by slot (05:R131): entries of KIND 2 on its home ridge. -/
def Dev.curve (d : Dev) (s slot : Nat) : Option Curve :=
  (d.ridge (d.homeOf s)).store.findSome? fun e =>
    if e.kind = 2 ∧ e.owner = some s ∧ e.index = curveIndex slot ∧ e.state = .committed then
      match (d.ridge (d.homeOf s)).openBody e with
      | some (.curve c) => some c
      | _ => none
    else none

/-- The numbers of a loaded curve, as the curve operations take them. -/
def Curve.nums (c : Curve) : List Nat := [c.p, c.a, c.b, c.gx, c.gy, c.n, c.cofactor]

/-- The numbers of a curve ALG: p, a, b, Gx, Gy, n, cofactor; none for a slot not loaded. -/
def Dev.curveNums (d : Dev) (s a : Nat) : Option (List Nat) :=
  if isNamedCurve a then some (namedCurve a)
  else if isLoadedCurve a then (d.curve s (a - 0x2C0)).map Curve.nums else none

/-- Curve parameters for the algorithms that take them; empty for the others. -/
def Dev.params (d : Dev) (s a : Nat) : List Nat := (d.curveNums s a).getD []

/-- Lp: bytes of the field prime of a curve (05:R125). -/
def Dev.lp (d : Dev) (s a : Nat) : Nat :=
  match a with
  | 0x201 => 32 | 0x202 => 48 | 0x203 => 66 | 0x204 => 32 | 0x205 => 32 | 0x206 => 48 | 0x207 => 64
  | _ => byteLen ((d.params s a).getD 0 0)

/-- Ln: bytes of the order of a curve (05:R125). -/
def Dev.ln (d : Dev) (s a : Nat) : Nat :=
  match a with
  | 0x201 => 32 | 0x202 => 48 | 0x203 => 66 | 0x204 => 32 | 0x205 => 32 | 0x206 => 48 | 0x207 => 64
  | _ => byteLen ((d.params s a).getD 5 0)

/-- The hash size n of an SLH-DSA set, bytes (05:R125). -/
def slhN (a : Nat) : Nat := if a ≤ 0x504 then 16 else if a ≤ 0x508 then 24 else 32

/-- Bytes of the public part in its external encoding (05:Tables 5.9, 5.10, 5.12); an RSA public key of k bytes in
DER is bounded by k + 14. -/
def Dev.pubLen (d : Dev) (s a k : Nat) : Nat :=
  if isCurve a then 1 + 2 * d.lp s a
  else match a with
  | 0x100 => k + 14
  | 0x301 => 32 | 0x302 => 57 | 0x303 => 32 | 0x304 => 56
  | 0x401 => 800 | 0x402 => 1184 | 0x403 => 1568
  | 0x411 => 1312 | 0x412 => 1952 | 0x413 => 2592
  | _ => if isSlh a then 2 * slhN a else 0

/-- Bytes of the private encoding in its short form (05:Table 5.4); for RSA the bound of 08:Table 8.3. -/
def Dev.privLen (d : Dev) (s a k n : Nat) : Nat :=
  if isSymmetric a then n
  else if isCurve a then d.ln s a
  else match a with
  | 0x100 => if k = 512 then 2350 else 12 + 2 * (k + 5) + 5 * (k / 2 + (if k / 2 < 255 then 4 else 5))
  | 0x301 => 32 | 0x302 => 57 | 0x303 => 32 | 0x304 => 56
  | 0x401 => 64 | 0x402 => 64 | 0x403 => 64
  | 0x411 => 32 | 0x412 => 32 | 0x413 => 32
  | _ => if isSlh a then 4 * slhN a else 0

/-- BODY_LEN of a key entry: private encoding and public part, but for RSA (08:Table 8.2). -/
def keyBody (a : Nat) (priv pub : List Byte) : Nat := if isRsa a then priv.length else priv.length + pub.length

/-- The security strength of a key in bits (05:Table 5.17). `bits`: RSA modulus bits, or bits of a loaded curve's n. -/
def strength (a len bits : Nat) : Nat :=
  if isAes a then 64 + 64 * a
  else if a = 5 then 128 else if a = 6 then 256
  else if isSecret a then min (8 * len) 256
  else if isRsa a then (if bits < 3072 then 112 else if bits < 7680 then 128 else 192)
  else if isLoadedCurve a then min (bits / 2) 256
  else match a with
  | 0x201 => 128 | 0x204 => 128 | 0x205 => 128 | 0x202 => 192 | 0x206 => 192 | 0x203 => 256 | 0x207 => 256
  | 0x301 => 128 | 0x303 => 128 | 0x302 => 224 | 0x304 => 224
  | 0x401 => 128 | 0x402 => 192 | 0x403 => 256 | 0x411 => 128 | 0x412 => 192 | 0x413 => 256
  | _ => if isSlh a then 8 * slhN a else 0

/-! ## Entries -/

/-- Bytes of a key record (09:R213). -/
def KeyRecord.bytes (k : KeyRecord) : List Byte := [k.typ, 0] ++ le2 k.key.length ++ k.key

/-- What a signature's algorithm is told beside the message: the hash ID and pre-hash bit of PARAM, and the context. -/
def variant (param : Nat) (ctx : List Byte) : List Byte := [BitVec.ofNat 8 (param % 32), BitVec.ofNat 8 ctx.length] ++ ctx

/-- A signature verifies under a key record: ECDSA P-384 over SHA-384, 96 bytes, or ML-DSA-65, pure, with an empty
context, 3,309 bytes (09:R213, 10:R245). -/
def KeyRecord.verifies (k : KeyRecord) (m sig : List Byte) : Bool :=
  if k.typ = 1 then sig.length == 96 && Config.verify 0x202 (namedCurve 0x202) k.key (variant 2 []) m sig
  else k.typ == 2 && sig.length == 3309 && Config.verify 0x412 [] k.key (variant 0 []) m sig

/-- Bytes of a custodian set: N, M, two zeros, the records. -/
def CustSet.bytes (s : CustSet) : List Byte :=
  [BitVec.ofNat 8 s.keys.length, BitVec.ofNat 8 s.m, 0, 0] ++ s.keys.flatMap KeyRecord.bytes

/-- BODY_LEN of an entry (08:Table 8.2). -/
def Entry.body (e : Entry) : Nat :=
  match e.payload with
  | .key priv pub => keyBody (tAlg e.template) priv pub
  | .curve c => 4 + 6 * c.len
  | .custodians s => s.bytes.length
  | .progKey k => k.bytes.length
  | .blobKey bk bkid _ _ _ => bk.length + bkid.length + 6
  | .receive id dk ek dd pt => id.length + dk.length + ek.length + dd.length + pt.length

/-- Granules of an entry of a given BODY_LEN (08:R185). -/
def granulesOf (body : Nat) : Nat := (80 + body + 63) / 64

/-- The key store area of a ridge, in granules (08:R184). -/
def areaGranules : Nat := 655360

/-- The granules that a job's reservation holds on a ridge (08:R187): until its entry is written there, on the home ridge
when it is PREPARED, on the mirror ridge when that acknowledges its copy. -/
def Dev.reserved (d : Dev) (r : Nat) (j : JobRec) : Nat :=
  if (d.holders j.job.seam).contains r && !(j.job.phase == .prepared && r == d.homeOf j.job.seam) then j.tail.room else 0

/-- Granules in use on a ridge: entries and reservations of seams homed or mirrored there (08:R187). -/
def Dev.granulesUsed (d : Dev) (r : Nat) : Nat :=
  ((d.ridge r).store.map fun e => granulesOf e.body).sum + (d.jobs.map (d.reserved r)).sum

/-- An area passes 90 % full (08:R187): event +37 when an addition crosses the mark. -/
def Dev.checkFull (d : Dev) (r before : Nat) : Dev :=
  let now := d.granulesUsed r
  if before * 10 ≤ areaGranules * 9 ∧ areaGranules * 9 < now * 10 then
    d.ridgeEvent r 37 (areaGranules - now) else d

/-- An entry is added to the copies on the given ridges. -/
def Dev.addEntry (d : Dev) (rs : List Nat) (e : Entry) : Dev :=
  rs.foldl (init := d) fun d r =>
    let before := d.granulesUsed r
    (d.modRidge r fun x => { x with store := x.store ++ [e] }).checkFull r before

/-- The ridge whose key store controller seals a new entry: the seam's home, ridge 0 or its successor for a device-level
one (08:R184). -/
def Dev.sealRidge (d : Dev) (owner : Option Nat) : Nat :=
  match owner with
  | some s => d.homeOf s
  | none => d.boss

/-- The ridges that hold device-level entries: 0 and 1, while they serve (08:R184). -/
def Dev.deviceHolders (d : Dev) : List Nat := [0, 1].filter d.serves

/-- A fresh GCM nonce for an entry: one generate request of the sealing ridge's internal DRBG (08:R184). -/
def Dev.drawNonce (d : Dev) (owner : Option Nat) : Dev := d.draw.2.generate (d.sealRidge owner) false 1

/-- A newly sealed entry, whose NONCE is the next draw, is written to the copies on the given ridges. -/
def Dev.storeEntry (d : Dev) (rs : List Nat) (e : Entry) : Dev := (d.drawNonce e.owner).addEntry rs e

/-- A change to the entries that satisfy a test, on every ridge. -/
def Dev.modEntries (d : Dev) (p : Entry → Bool) (f : Entry → Entry) : Dev :=
  d.modRidges fun x => { x with store := x.store.map fun e => if p e then f e else e }

/-- Entries set FREE and zeroed on every ridge (08:R210). -/
def Dev.eraseEntries (d : Dev) (p : Entry → Bool) : Dev :=
  d.modRidges fun x => { x with store := x.store.filter fun e => !(p e) }

/-- A key object of a seam by index. -/
def Entry.isKey (s i : Nat) (e : Entry) : Bool := e.kind == 1 && e.owner == some s && e.index == i

/-- A live key object: COMMITTED and not consumed (08:R190). -/
def Dev.keyEntry (d : Dev) (s i : Nat) : Option Entry :=
  (d.ridge (d.homeOf s)).store.find? fun e => e.isKey s i && e.state == .committed && !e.consumed

/-- Indices of a seam that an entry or a reservation holds. -/
def Dev.usedIndices (d : Dev) (s : Nat) : List Nat :=
  ((d.ridge (d.homeOf s)).store.filter fun e => e.kind == 1 && e.owner == some s).map (·.index) ++
    (d.jobs.filter fun j => j.job.seam == s).filterMap (·.tail.slot)

/-- The lowest free index, from 1 (08:R190). -/
def Dev.freeIndex (d : Dev) (s : Nat) : Nat :=
  let used := d.usedIndices s
  ((List.range (used.length + 1)).find? fun i => !(used.contains (i + 1))).getD used.length + 1

/-- USE: how many earlier entries have held this index for this seam (08:Table 8.2). -/
def Dev.useOf (d : Dev) (s i : Nat) : Nat := (assocGet d.uses (s * 2 ^ 23 + i)).getD 0

/-! ## Handles (08:R189, R190) -/

/-- CHECK of a handle. -/
def Dev.handleCheck (d : Dev) (s : Nat) (cache : Bool) (number use : Nat) : Nat :=
  leNat (kmac256 ((d.hk s).getD []) ([if cache then 1 else 0] ++ leBytes 3 number ++ leBytes 4 use) 4
    (ascii "UJ840HDL")) % 2 ^ 24

/-- The handle of an object. -/
def Dev.handle (d : Dev) (s : Nat) (cache : Bool) (number use : Nat) : W64 :=
  BitVec.ofNat 64 (s * 2 ^ 51 + (if cache then 2 ^ 47 else 0) + number * 2 ^ 24 + d.handleCheck s cache number use)

/-- What a handle names. -/
inductive KeyRef where
  | resident (index : Nat)
  | cached (number : Nat)
  deriving DecidableEq, Repr

/-- The seam's blob key entry (08:R201). -/
def Dev.blobKey (d : Dev) (s : Nat) : Option (List Byte × List Byte × BitVec 16 × Nat × Bool) :=
  (d.ridge (d.homeOf s)).store.findSome? fun e =>
    if e.kind = 5 ∧ e.owner = some s then
      match (d.ridge (d.homeOf s)).openBody e with
      | some (.blobKey a b c n w) => some (a, b, c, n, w)
      | _ => none
    else none

/-- A load number the seam has issued (08:R190, R203). -/
def Dev.issued (d : Dev) (s n : Nat) : Bool :=
  match d.blobKey s with
  | some (_, _, _, next, wrapped) => decide (1 ≤ n) && (wrapped || decide (n < next))
  | none => false

/-- An entry of a ridge's key cache. -/
def Dev.cacheEntry (d : Dev) (s n : Nat) : Option CacheEntry :=
  (d.ridge (d.homeOf s)).cache.find? fun c => c.seam == s && c.number == n

/-- Stage 2's judgement of a handle: the object, or the detail of BAD_HANDLE (08:R190). -/
def Dev.resolve (d : Dev) (s : Nat) (h : W64) : Except Nat KeyRef :=
  let v := h.toNat
  let num := bitsOf v 24 23
  let chk := bitsOf v 0 24
  if v / 2 ^ 51 != s then .error 2
  else if bitsOf v 48 3 != 0 then .error 1
  else if h.getLsbD 47 then
    if chk != d.handleCheck s true num 0 || !d.issued s num then .error 1
    else match d.cacheEntry s num with
      | some c => if c.consumed then .error 1 else .ok (.cached num)
      | none => .error 4
  else match d.keyEntry s num with
    | some e => if chk == d.handleCheck s false num e.use then .ok (.resident num) else .error 1
    | none => .error 1

/-- The key material that a reference names, as the key store controller opens it (08:R186). -/
def Dev.material (d : Dev) (s : Nat) : KeyRef → Option KeyMat
  | .resident i => (d.keyEntry s i).bind fun e =>
      match (d.ridge (d.homeOf s)).openBody e with
      | some (.key priv pub) => some ⟨e.template, e.origin, e.genInside, false, e.created, priv, pub⟩
      | _ => none
  | .cached n => (d.cacheEntry s n).map (·.key)

/-- Modulus bits of an RSA key, order bits of a curve, for strength and size. -/
def Dev.keyBits (d : Dev) (s : Nat) (k : KeyMat) : Nat :=
  if isRsa (tAlg k.template) then bitLen (Config.rsaParts k.priv).1
  else bitLen ((d.params s (tAlg k.template)).getD 5 0)

/-- The modulus length of an RSA key, bytes. -/
def KeyMat.rsaK (k : KeyMat) : Nat := byteLen (Config.rsaParts k.priv).1

/-! ## Caches (08:R204, R205) -/

/-- A cache entry of a seam is pinned: a job that names it is between stage 2 and its end. -/
def Dev.pinned (d : Dev) (s n : Nat) : Bool := d.jobs.any fun j => j.job.seam == s && j.tail.pins.contains n

/-- The entry to evict: the least recently used unpinned one of the seam that holds the most. -/
def Dev.victim (d : Dev) (r : Nat) : Option CacheEntry :=
  let c := (d.ridge r).cache
  let count := fun (s : Nat) => (c.filter fun e => e.seam == s).length
  let free := c.filter fun e => !d.pinned e.seam e.number
  match leastBy (fun s => 4096 - count s) (free.map (·.seam)) with
  | none => none
  | some s => free.find? fun e => e.seam == s

/-- An entry leaves every cache. -/
def Dev.dropCache (d : Dev) (s n : Nat) : Dev :=
  d.modRidges fun x => { x with cache := x.cache.filter fun e => !(e.seam == s && e.number == n) }

/-- An entry is used: it becomes the most recently used. -/
def Dev.touchCache (d : Dev) (s n : Nat) : Dev :=
  d.modRidges fun x =>
    { x with cache := (x.cache.filter fun e => !(e.seam == s && e.number == n)) ++
        x.cache.filter fun e => e.seam == s && e.number == n }

/-- A ridge's cache makes room for one more entry: an entry evicted from one cache leaves the other one too; none when every
entry is pinned. -/
def Dev.makeRoom (d : Dev) (r : Nat) : Nat → Option Dev
  | 0 => none
  | n + 1 =>
    if (d.ridge r).cache.length < 4096 then some d
    else (d.victim r).bind fun v => (d.dropCache v.seam v.number).makeRoom r n

/-- A loaded key enters the caches of home and mirror together, each holding at most 4,096 entries; none when every entry of
one is pinned (08:R203, R204). -/
def Dev.loadCache (d : Dev) (s n : Nat) (k : KeyMat) : Option Dev :=
  ((d.holders s).foldl (init := some d) fun d r => d.bind fun d => d.makeRoom r ((d.ridge r).cache.length + 1)).map fun d =>
    (d.holders s).foldl (init := d) fun d r =>
      d.modRidge r fun x => { x with cache := x.cache ++ [⟨s, n, k, false⟩] }

/-! ## Counts -/

/-- KEY_QUOTA as it acts (08:R190). -/
def SeamEntry.quota (e : SeamEntry) : Nat := min e.keyQuota.toNat 0x7FFFFF

/-- KEY_COUNT changes (08:R200). -/
def Dev.countKeys (d : Dev) (s : Nat) (f : Nat → Nat) : Dev := d.modRun s fun x => { x with keyCount := f x.keyCount }

/-- A key object is destroyed on both ridges as KEY_DESTROY does it (08:R210, R197). -/
def Dev.destroyKey (d : Dev) (s i : Nat) : Dev :=
  match d.keyEntry s i with
  | some _ => (d.eraseEntries (Entry.isKey s i)).countKeys s (· - 1)
  | none => d

/-- Every entry that a seam owns is erased (03:R72, 08:R210). -/
def Dev.eraseSeamStore (d : Dev) (s : Nat) : Dev :=
  (d.eraseEntries fun e => e.owner == some s).modRidges fun x =>
    { x with cache := x.cache.filter fun e => e.seam != s }

/-- A seam's custodian set (09:R214). -/
def Dev.seamSet (d : Dev) (s : Nat) : Option CustSet :=
  (d.ridge (d.homeOf s)).store.findSome? fun e =>
    if e.kind = 3 ∧ e.owner = some s then
      match (d.ridge (d.homeOf s)).openBody e with
      | some (.custodians c) => some c
      | _ => none
    else none

/-- A seam's program-signing keys (09:Table 9.3). -/
def Dev.progKeys (d : Dev) (s : Nat) : List KeyRecord :=
  (d.ridge (d.homeOf s)).store.filterMap fun e =>
    if e.kind = 4 ∧ e.owner = some s then
      match (d.ridge (d.homeOf s)).openBody e with
      | some (.progKey k) => some k
      | _ => none
    else none

/-- A committed entry of Keade's own (08:R184): custodian set, program key, curve, blob key, receive key. -/
def Dev.keadeEntry (d : Dev) (kind : Nat) (owner : Option Nat) (index : Nat) (origin : BitVec 16) (p : Payload) : Entry :=
  { state := .committed, consumed := false, kind, genInside := false, owner, index, use := 0,
    epoch := match owner with | some s => (d.seam s).entry.epoch.val | none => 0
    origin, template := 0, created := d.clock, nonce := d.draws, under := (d.ridge (d.sealRidge owner)).kdu, intact := true
    payload := p }

/-- The lowest index, from 1, that no entry of a kind and owner holds (08:R190; for the kinds that are no key objects, log 34). -/
def Dev.itemIndex (d : Dev) (kind : Nat) (owner : Option Nat) : Nat :=
  let used := ((d.ridge (d.sealRidge owner)).store.filter fun e => e.kind == kind && e.owner == owner).map (·.index)
  ((List.range (used.length + 1)).find? fun i => !(used.contains (i + 1))).getD used.length + 1

/-- The ridges have room for an entry of a BODY_LEN, when one of another BODY_LEN leaves (08:R187). -/
def Dev.storeRoom (d : Dev) (rs : List Nat) (body : Nat) (old : Option Nat) : Bool :=
  rs.all fun r => decide (d.granulesUsed r + granulesOf body ≤ areaGranules + (old.map granulesOf).getD 0)

/-- What the device-level entry of a kind opens to, on ridge 0 or its successor, under the VSALT of the Vigil domain: the boot
ROM reads the countersigning key at power-up step 5, before any ridge has derived SRK (02:R45, 09:R214; log 34). -/
def Dev.deviceItem (d : Dev) (kind : Nat) : Option Payload :=
  ((d.ridge d.boss).store.find? fun e =>
    e.kind == kind && e.owner.isNone && e.state == .committed && e.opens d.vigil.vsalt).map (·.payload)

/-- The Range-owner custodian set: KIND 3 (09:R214). -/
def Dev.rangeSet (d : Dev) : Option CustSet :=
  match d.deviceItem 3 with
  | some (.custodians c) => some c
  | _ => none

/-- The enrolled firmware countersigning key: KIND 4 at device level (02:R54; log 34). -/
def Dev.csKey (d : Dev) : Option KeyRecord :=
  match d.deviceItem 4 with
  | some (.progKey k) => some k
  | _ => none

/-- A device-level entry of a kind takes the place of the one before it. -/
def Dev.putDevice (d : Dev) (kind : Nat) (origin : BitVec 16) (p : Payload) : Dev :=
  let d := d.eraseEntries fun e => e.kind == kind && e.owner.isNone
  d.storeEntry d.deviceHolders (d.keadeEntry kind none 1 origin p)

/-- SRK is derived from VSALT on every ridge that serves: the store is unsealed (08:R183). -/
def Dev.deriveRoots (d : Dev) : Dev :=
  { d.modRidges fun x => if x.inService && !x.lost then { x with kdu := d.vigil.vsalt } else x with
    unsealed := d.vigil.vsalt.isSome }

/-- The unconsumed migration-receive keys, oldest first (08:R209). -/
def Dev.receiveKeys (d : Dev) : List (List Byte × List Byte × List Byte × List Byte × List Byte) :=
  (d.ridge d.boss).store.filterMap fun e =>
    if e.kind = 6 ∧ e.state = .committed then
      match (d.ridge d.boss).openBody e with
      | some (.receive i a b c e) => some (i, a, b, c, e)
      | _ => none
    else none

end Sys2Proof.Machine
end

