-- ==== Sys2Proof/Machine/Engines.lean ====
section
/-! DEFINITION. Engines: the block layout, the running charge and the governor, which engines are free, the choice
of 01:R23, and giving an engine to a job and taking it back (01:R16, R23, R29, R404, 16:R355 to R361, 11:R276). -/

namespace Sys2Proof.Machine

/-- Engine cycles at 1.6 GHz as ns. -/
def engNs (cycles : Nat) : Nat := cycles * 5 / 8

/-- Engine classes (01:R15; 05:Table 5.15). -/
inductive EClass where
  | drill | lattice | aes | sha2 | keccak | core
  deriving DecidableEq, Repr, Inhabited

/-- The block bits of a class (11:R278). -/
def EClass.blocks : EClass → List Nat
  | .drill => List.range 16
  | .lattice => [16, 17]
  | .aes => [18, 19, 20, 21]
  | .sha2 => [22, 23, 24, 25]
  | .keccak => [26, 27, 28, 29]
  | .core => [30, 31, 32]

/-- The class of a block bit. -/
def classOf (blk : Nat) : EClass :=
  if blk < 16 then .drill else if blk < 18 then .lattice else if blk < 22 then .aes
  else if blk < 26 then .sha2 else if blk < 30 then .keccak else .core

/-- The cluster of a block: four of drills, one for each lattice unit, one for the bulk unit; a core has none
(16:R355). -/
def clusterOf (blk : Nat) : Nat :=
  if blk < 16 then blk / 4 else if blk = 16 then 4 else if blk = 17 then 5 else if blk < 30 then 6 else 7

/-- The engines of a cluster. -/
def clusterBlocks (c : Nat) : List Nat := (List.range 30).filter fun b => clusterOf b == c

/-- The Keccak cores whose sampler banks a lattice unit uses: unit 0 cores 0 and 1, unit 1 cores 2 and 3 (07:R161). -/
def pairedCores (blk : Nat) : List Nat := if blk = 16 then [26, 27] else if blk = 17 then [28, 29] else []

/-- An engine of a ridge. -/
def Ridge.engine (x : Ridge) (b : Nat) : Engine := x.engines.getD b Engine.reset

/-- A change to an engine. -/
def Dev.modEngine (d : Dev) (r b : Nat) (f : Engine → Engine) : Dev :=
  d.modRidge r fun x => { x with engines := x.engines.modify b f }

/-- A change to an engine of a ridge. -/
def Ridge.modEng (x : Ridge) (b : Nat) (f : Engine → Engine) : Ridge := { x with engines := x.engines.modify b f }

/-- A wiped engine holds nothing of a job (01:R29, 06:R154, 07:R177). -/
def Engine.wiped (e : Engine) : Engine :=
  { e with ram := .zero, slotRam := .zero, buffer := [], bank := none, perms := 0 }

/-- A byte of an AES core's input buffer: one of a line that the current job has not written reads as zero (07:R170). -/
def Engine.bufferByte (e : Engine) (i : Nat) : Byte := e.buffer.getD i 0

/-- An engine holds a job while its job or its input slot is occupied (16:R359). -/
def Engine.holds (e : Engine) : Bool := e.running.isSome || e.slot.isSome

/-- Jobs assigned to an engine. -/
def Engine.load (e : Engine) : Nat := (if e.running.isSome then 1 else 0) + if e.slot.isSome then 1 else 0

/-! ## The charge (16:Table 16.2), in mW -/

/-- A core is not halted: core 0 whenever its ridge is awake, another while it holds a program or is borrowed. -/
def Ridge.coreRuns (x : Ridge) (c : Nat) : Bool :=
  c == 0 || (let k := x.cores.getD c Core.reset; k.program.isSome || k.borrowed)

/-- The figure of a block that holds a job or runs; a bulk unit counts once. -/
def blockFigure (blk : Nat) : Nat :=
  match classOf blk with
  | .drill => 180 | .lattice => 300 | .core => 150 | _ => 800

/-- A bulk core of the ridge holds a job. -/
def Ridge.bulkBusy (x : Ridge) : Bool := (List.range 12).any fun i => (x.engine (18 + i)).holds

/-- The charge of a ridge, leaving out the blocks of a mask. -/
def Ridge.charge (x : Ridge) (out : BitVec 33) : Nat :=
  if x.lost || x.power = 3 then 0
  else if x.power = 0 then 150
  else
    let eng := ((List.range 18).map fun b =>
      if (x.engine b).holds && !out.getLsbD b then blockFigure b else 0).sum
    let bulk := if (List.range 12).any fun i => (x.engine (18 + i)).holds && !out.getLsbD (18 + i) then 800 else 0
    let cores := ((List.range 4).map fun c =>
      if x.coreRuns c && !(c != 0 && out.getLsbD (29 + c)) then 150 else 0).sum
    1600 + eng + bulk + cores

/-- The charge of a link PHY: linear in lanes, ×0.7 at 16 GT/s, ×0.5 at 8 GT/s or below; 20 mW in L1. -/
def Link.charge (l : Link) : Nat :=
  if !l.up then 0 else if l.pm = 1 then 20
  else 250 * l.width * (if l.speed ≥ 5 then 10 else if l.speed = 4 then 7 else 5) / 10

/-- The running charge without the blocks of a mask of each ridge. -/
def Dev.chargeBut (d : Dev) (out : Nat → BitVec 33) : Nat :=
  if !d.pins.mainPower then 0
  else 160 + (d.ridgeNums.map fun r => (d.ridge r).charge (out r)).sum + d.linkA.charge + d.linkB.charge

/-- The running charge (16:R359). -/
def Dev.charge (d : Dev) : Nat := d.chargeBut fun _ => 0

/-- The variant maximum (00:Table 0.1), W. -/
def Dev.maxWatts (d : Dev) : Nat := if d.fuses.ridges ≤ 2 then 14 else if d.fuses.ridges ≤ 4 then 29 else 56

/-- The ceiling in force, W (16:R358). -/
def Dev.ceiling (d : Dev) : Nat := min d.power.envelope d.power.bmcCap

/-- The admission rule of 16:R360: what a block adds keeps the charge within the ceiling. -/
def Dev.admits (d : Dev) (r blk : Nat) : Bool :=
  let x := d.ridge r
  let adds :=
    if (x.engine blk).holds then 0
    else match classOf blk with
      | .drill => 180 | .lattice => 300 | .core => if x.coreRuns (blk - 29) then 0 else 150
      | _ => if x.bulkBusy then 0 else 800
  d.charge + adds ≤ d.ceiling * 1000

/-! ## The governor (16:R361) -/

/-- Unthrottled, in-service, ungated engines of a class, as (ridge, block). -/
def Dev.unthrottled (d : Dev) (thr : Nat → BitVec 33) (c : EClass) : List (Nat × Nat) :=
  d.ridgeNums.flatMap fun r =>
    if d.serves r then
      (c.blocks.filter fun b =>
        ((d.ridge r).engine b).inService && !(thr r).getLsbD b && !(d.ridge r).gateOn.getLsbD b).map fun b => (r, b)
    else []

/-- The next drill to throttle: of the ridge with the most unthrottled ones, the higher ridge on a tie, the highest
number first; unclaimed blocks before claimed ones (11:R276). -/
def Dev.nextDrill (d : Dev) (thr : Nat → BitVec 33) : Option (Nat × Nat) :=
  let all := d.unthrottled thr .drill
  if all.length ≤ 1 then none
  else
    let free := all.filter fun e => !(d.ridge e.1).world.claim.getLsbD e.2
    let pool := if free.isEmpty then all else free
    let count := fun (r : Nat) => (all.filter fun e => e.1 == r).length
    match leastBy (fun r => (16 - count r) * 8 + (7 - r)) (pool.map (·.1)) with
    | none => none
    | some r => (pool.filter fun e => e.1 == r).getLast?

/-- The blocks of a ridge that a bulk unit's throttling takes: every unthrottled core of the unit, unless it holds the last
unthrottled engine of a class in the package. -/
def Dev.bulkUnit (d : Dev) (thr : Nat → BitVec 33) (r : Nat) : List Nat :=
  let mine := fun (c : EClass) => ((d.unthrottled thr c).filter fun e => e.1 == r).map (·.2)
  let spare := fun (c : EClass) => (mine c).isEmpty || (d.unthrottled thr c).any fun e => e.1 != r
  let classes : List EClass := [.aes, .sha2, .keccak]
  if classes.all spare then classes.flatMap mine else []

/-- The next bulk unit: of the highest-numbered ridge (log 32), a unit without a claimed core first (11:R276). -/
def Dev.nextBulk (d : Dev) (thr : Nat → BitVec 33) : Option (Nat × List Nat) :=
  let units := (d.ridgeNums.map fun r => (r, d.bulkUnit thr r)).filter fun e => !e.2.isEmpty
  let free := units.filter fun e => e.2.all fun b => !(d.ridge e.1).world.claim.getLsbD b
  (if free.isEmpty then units else free).getLast?

/-- The next lattice unit or Lamad core: of the highest-numbered ridge, the highest number (log 32), never the last of its class;
unclaimed blocks before claimed ones (11:R276). -/
def Dev.nextBlock (d : Dev) (thr : Nat → BitVec 33) (c : EClass) : Option (Nat × Nat) :=
  let all := d.unthrottled thr c
  if all.length ≤ 1 then none
  else
    let free := all.filter fun e => !(d.ridge e.1).world.claim.getLsbD e.2
    (if free.isEmpty then all else free).getLast?

/-- What the governor throttles next: a drill, a lattice unit, a bulk unit, a Lamad core (16:R361). -/
def Dev.nextThrottled (d : Dev) (thr : Nat → BitVec 33) : Option (Nat × List Nat) :=
  let one := fun (e : Nat × Nat) => (e.1, [e.2])
  (d.nextDrill thr).map one <|> (d.nextBlock thr .lattice).map one <|> d.nextBulk thr <|> (d.nextBlock thr .core).map one

/-- Blocks are throttled one at a time until the charge of the others fits. -/
def Dev.throttle (d : Dev) : Nat → (Nat → BitVec 33) → (Nat → BitVec 33)
  | 0, thr => thr
  | n + 1, thr =>
    if d.chargeBut thr ≤ d.ceiling * 1000 then thr
    else
      match d.nextThrottled thr with
      | none => thr
      | some (r, bs) => d.throttle n fun x => if x = r then bs.foldl (fun m b => m ||| (1#33 <<< b)) (thr x) else thr x

/-- The governor acts on the ceiling: it throttles until the charge fits, deferring on claimed blocks, and records what
changed and whether the charge stays above the ceiling (16:R361, 11:R276). Blocks throttled before stay so, except where the
ceiling has risen: then the blocks throttled last are the first to return, and a deferred request of the governor that no longer
stands is withdrawn. -/
def Dev.govern (d : Dev) (risen : Bool := false) : Dev :=
  let old := fun (r : Nat) => if risen then 0 else (d.ridge r).throttled
  let thr := d.throttle 264 old
  let d := d.ridgeNums.foldl (init := d) fun d r =>
    let x := d.ridge r
    let claimed := thr r &&& x.world.claim &&& ~~~x.throttled
    let now := thr r &&& ~~~claimed
    let gone := if risen then x.world.deferValue &&& ~~~claimed else 0
    let d := d.modRidge r fun y => { y with
      throttled := now
      world := { y.world with
        deferPending := (y.world.deferPending &&& ~~~gone) ||| claimed
        deferValue := (y.world.deferValue &&& ~~~gone) ||| claimed
        deferTotal := satInc y.world.deferTotal ((List.range 33).countP fun b => claimed.getLsbD b) } }
    let d := (List.range 33).foldl (init := d) fun d b =>
      if claimed.getLsbD b then
        d.ridgeEvent r 51 (b + if x.world.deferPending.getLsbD b then 64 else 0) else d
    if now != x.throttled then d.ridgeEvent r 66 (now.toNat % 2 ^ 32) else d
  let still := decide (d.chargeBut (fun r => (d.ridge r).throttled) > d.ceiling * 1000)
  if still then d.ridgeEvent d.boss 67 (d.charge / 10 % 8192) else d

/-- The charge exceeds the ceiling: PWR.STATUS.OVER (16:Table 16.5). -/
def Dev.isOver (d : Dev) : Bool := decide (d.ceiling * 1000 < d.charge)

/-! ## Free engines -/

/-- An engine that the dispatcher may count: in service, not under test, neither throttled nor gated (01:R23,
11:R277). -/
def Dev.usable (d : Dev) (r b : Nat) : Bool :=
  let x := d.ridge r
  let e := x.engine b
  d.serves r && e.inService && !e.testing && !x.throttled.getLsbD b && !x.gateOn.getLsbD b

/-- A core is available to the dispatcher: in the Surface world, with no program, not borrowed (11:R258). -/
def Ridge.coreFree (x : Ridge) (c : Nat) : Bool :=
  let k := x.cores.getD c Core.reset
  !k.deep && k.program.isNone && !k.borrowed

/-- An engine is free, but for admission: its input slot is empty (01:R16), and no Deep service drives it (11:R275; log 44). -/
def Dev.freeBut (d : Dev) (r b : Nat) : Bool :=
  let e := (d.ridge r).engine b
  d.usable r b && e.slot.isNone && !(d.ridge r).world.claim.getLsbD b && (b < 30 || (e.running.isNone && (d.ridge r).coreFree (b - 29)))

/-- An engine is free: its input slot is empty and its admission would pass (01:R16, 16:R360). -/
def Dev.free (d : Dev) (r b : Nat) : Bool := d.freeBut r b && d.admits r b

/-- A class has a free engine on a ridge. -/
def Dev.hasFree (d : Dev) (r : Nat) (c : EClass) : Bool := c.blocks.any (d.free r)

/-- An in-service, ungated engine of a class remains in the package (11:R277, 05:R408). -/
def Dev.classExists (d : Dev) (c : EClass) : Bool :=
  d.ridgeNums.any fun r => d.serves r && c.blocks.any fun b =>
    ((d.ridge r).engine b).inService && !(d.ridge r).gateOn.getLsbD b

/-- A ridge is a candidate of 01:R23 step 1. -/
def Dev.candidate (d : Dev) (cs : List EClass) (r : Nat) : Bool :=
  d.serves r && (d.ridge r).power == 2 && cs.all (d.hasFree r)

/-- The load of a ridge for a class: jobs assigned over unthrottled engines, scaled by 720,720 to compare exactly
(01:R23 step 2). An idle engine whose admission would fail counts as throttled (16:R360), a gated one as absent
(11:R277). -/
def Dev.loadOf (d : Dev) (r : Nat) (c : EClass) : Nat :=
  let x := d.ridge r
  let jobs := (c.blocks.map fun b => (x.engine b).load).sum
  let den := (c.blocks.filter fun b =>
    !x.throttled.getLsbD b && !x.gateOn.getLsbD b && ((x.engine b).holds || d.admits r b)).length
  if den = 0 then 0 else jobs * 720720 / den

/-- The key by which 01:R23 step 3 picks: load, hops from home, ridge number. -/
def Dev.rank (d : Dev) (home : Nat) (c : EClass) (r : Nat) : Nat := d.loadOf r c * 64 + hops home r * 8 + r

/-- The engine of step 4: an idle one in an ungated cluster, an idle one in a gated cluster, an empty input slot; the
lowest number in each group (01:R23). -/
def Dev.pickEngine (d : Dev) (r : Nat) (c : EClass) : Option Nat :=
  let x := d.ridge r
  let ok := c.blocks.filter (d.free r)
  let idle := ok.filter fun b => (x.engine b).running.isNone
  match idle.find? fun b => !x.gated.getLsbD (clusterOf b) with
  | some b => some b
  | none => match idle.head? with
    | some b => some b
    | none => ok.head?

/-- The randomness an operation draws (12:R288): of the internal instance, of the host instance, or none. -/
inductive Draws where
  | no | internal | host
  deriving DecidableEq, Repr

/-- An instance of the ridge is not DRAINED. -/
def Ridge.fresh (x : Ridge) : Draws → Bool
  | .no => true
  | .internal => x.rng.int.state != 3
  | .host => x.rng.host.state != 3

/-- The engine choice of 01:R23 with the preference of 12:R288: ridge and block. -/
def Dev.choose (d : Dev) (home : Nat) (cs : List EClass) (dr : Draws) : Option (Nat × Nat) :=
  match cs with
  | [] => none
  | c :: _ =>
    let all := d.ridgeNums.filter (d.candidate cs)
    let fresh := all.filter fun r => (d.ridge r).fresh dr
    let pool := if fresh.isEmpty then all else fresh
    (leastBy (d.rank home c) pool).bind fun r => (d.pickEngine r c).map fun b => (r, b)

/-! ## Assigning and releasing -/

/-- A read that has been answered, or was not needed. -/
def ReadState.bytes? : ReadState → Option (List Byte)
  | .none => some []
  | .got b => some b
  | _ => Option.none

/-- What the key port and the input DMA have delivered for a job into the operand RAM of its primary engine (01:R25, R26);
an engine of another class has its part's sequence alone. -/
def Job.operands (j : Job) (primary : Bool) : OpRam :=
  if primary then
    { keyA := j.keyA, keyB := j.keyB, inp := j.inp.bytes?.getD [], aux := j.aux.bytes?.getD [], seq := some j.desc.opcode
      blind := none, out := none }
  else { OpRam.zero with seq := some j.desc.opcode }

/-- What stands in the input buffer of an AES core: the ciphertext of AES_GCM_DEC (07:R170, R172). -/
def Job.buffered (j : Job) (blk : Nat) : List Byte :=
  if j.desc.opcode = 0x0602 ∧ classOf blk = .aes then
    let b := j.inp.bytes?.getD []
    b.drop (16 + field b 0 4)
  else []

/-- A job begins to run on an engine with what has been delivered for it; a lattice unit takes the sampler banks of its
paired cores. -/
def Ridge.start (x : Ridge) (b n : Nat) (m : OpRam) (buffer : List Byte) : Ridge :=
  (pairedCores b).foldl (fun x c => x.modEng c fun e => { e with bank := some n })
    (x.modEng b fun e => { e with running := some n, ram := m, buffer := buffer, perms := 0 })

/-- An engine is wiped of a job, with its sampler banks (01:R29, 06:R154, 07:R177). -/
def Ridge.wipe (x : Ridge) (b n : Nat) : Ridge :=
  let ends := (x.engine b).running == some n
  let x := x.modEng b fun e =>
    let e := if e.slot = some n then { e with slot := none, slotRam := .zero } else e
    if e.running = some n then { e with running := none, ram := .zero, buffer := [], perms := 0 } else e
  if ends then (pairedCores b).foldl (fun x c => x.modEng c fun e => { e with bank := none }) x else x

/-- A job runs from now; its engine's time counts from its primary one. -/
def Dev.startJob (d : Dev) (r b n : Nat) (m : OpRam) : Dev :=
  let now := d.clock
  let buffer := match d.job? n with
    | some j => j.job.buffered b
    | none => []
  (d.modRidge r fun x => x.start b n m buffer).modJob n fun j =>
    if j.job.blk = b ∧ j.job.ridge = r then { j with tail := { j.tail with started := now } } else j

/-- A job is given to an engine: it runs at once on an idle engine of an ungated cluster, waits for the wake of a gated
cluster, or takes the input slot (01:R23, 16:R355). Its keys and input go along; a key crosses the spine to another ridge
(01:R25). -/
def Dev.assign (d : Dev) (r b n : Nat) : Dev :=
  let x := d.ridge r
  let c := clusterOf b
  match d.job? n with
  | none => d
  | some j =>
    let m := j.job.operands (j.job.blk == b && j.job.ridge == r)
    let d := if m.keyA.isSome || m.keyB.isSome then d.spineSend (d.homeOf j.job.seam) r else d
    if (x.engine b).running.isSome then d.modEngine r b fun e => { e with slot := some n, slotRam := m }
    else if x.gated.getLsbD c then
      (d.modEngine r b fun e => { e with slot := some n, slotRam := m }).modRidge r fun y =>
        { y with waking := y.waking ||| (1#7 <<< c) }
    else d.startJob r b n m

/-- Input that has arrived is delivered into the operand RAM of the job's primary engine (01:Table 1.3 step 6). -/
def Dev.deliver (d : Dev) (n : Nat) : Dev :=
  match d.job? n with
  | none => d
  | some j =>
    if j.job.phase == .engine then
      let m := j.job.operands true
      let put := fun (o : OpRam) => { o with inp := m.inp, aux := m.aux }
      d.modEngine j.job.ridge j.job.blk fun e =>
        { e with
          ram := if e.running = some n then put e.ram else e.ram
          slotRam := if e.slot = some n then put e.slotRam else e.slotRam
          buffer := if e.running = some n then j.job.buffered j.job.blk else e.buffer }
    else d

/-- The job in the input slot becomes the running job of an idle engine (01:R16). -/
def Dev.promote (d : Dev) (r b : Nat) : Dev :=
  let e := (d.ridge r).engine b
  match e.running, e.slot with
  | none, some n =>
    (d.modEngine r b fun e => { e with slot := none, slotRam := .zero }).startJob r b n e.slotRam
  | _, _ => d

/-- An engine lets go of a job, wiped under 01:R29, and takes the job of its input slot. -/
def Dev.release (d : Dev) (r b n : Nat) : Dev :=
  let d := d.modRidge r fun x => x.wipe b n
  if (d.ridge r).gated.getLsbD (clusterOf b) then d else d.promote r b

/-- A change to a ridge's WORLD block. -/
def Dev.modWorld (d : Dev) (r : Nat) (f : World → World) : Dev := d.modRidge r fun x => { x with world := f x.world }

/-! ## Claims (11:R275, R276) -/

/-- Bit `b` of a mask of blocks takes a value. -/
def setBit33 (m : BitVec 33) (b : Nat) (v : Bool) : BitVec 33 := if v then m ||| (1#33 <<< b) else m &&& ~~~(1#33 <<< b)

/-- Core 1 to 3 of a block bit from 30 is borrowed, or given back (11:R258). -/
def Ridge.borrow (x : Ridge) (b : Nat) (v : Bool) : Ridge :=
  if b < 30 then x else { x with cores := x.cores.modify (b - 29) fun k => { k with borrowed := v } }

/-- A claim begins; a claimed core is borrowed (11:R258, R275). -/
def Dev.claim (d : Dev) (r b : Nat) : Dev :=
  let now := d.clock
  (d.modWorld r fun w => { w with claim := setBit33 w.claim b true, claimed := assocSet w.claimed b now }).modRidge r fun x =>
    x.borrow b true

/-- A claim ends, and the deferred request on the block is applied (11:R276): the governor's throttling or the host's gating,
whichever came last. -/
def Dev.endClaim (d : Dev) (r b : Nat) : Dev :=
  let x := d.ridge r
  if x.world.claim.getLsbD b then
    let d := (d.modWorld r fun w => { w with
      claim := setBit33 w.claim b false, claimed := assocDel w.claimed b
      deferPending := setBit33 w.deferPending b false, deferValue := setBit33 w.deferValue b false }).modRidge r fun x =>
      x.borrow b false
    if x.world.deferPending.getLsbD b then
      if x.world.deferValue.getLsbD b then
        let d := (d.modRidge r fun x => { x with throttled := setBit33 x.throttled b true })
        d.ridgeEvent r 66 ((d.ridge r).throttled.toNat % 2 ^ 32)
      else d.modRidge r fun x => { x with gateOn := setBit33 x.gateOn b (x.gateReq.getLsbD b) }
    else d
  else d

/-- Claims of a mask end. -/
def Dev.endClaims (d : Dev) (r : Nat) (m : BitVec 33) : Dev :=
  ((List.range 33).filter fun b => m.getLsbD b).foldl (fun d b => d.endClaim r b) d

/-- A Deep service ends, or has not been taken up: Keade forgets it, and its claims end (11:R275). -/
def Dev.freeService (d : Dev) (r n : Nat) : Dev :=
  let w := (d.ridge r).world
  let d := match w.running.find? fun e => e.1 == n with
    | some e => d.endClaims r e.2
    | none => d
  if w.waiting.contains n || (w.running.any fun e => e.1 == n) then
    d.modWorld r fun w => { w with
      waiting := w.waiting.filter (· != n), running := w.running.filter fun e => e.1 != n }
  else d

/-- Every engine of a job lets go of it: its primary engine and those of its parts (01:R404); so does Keade. -/
def Dev.releaseAll (d : Dev) (j : JobRec) : Dev :=
  (j.job.blk :: j.job.parts).foldl (init := d.freeService j.job.ridge j.num) fun d b => d.release j.job.ridge b j.num

/-- A job runs on its engine now. -/
def Dev.runsOn (d : Dev) (r b n : Nat) : Bool := ((d.ridge r).engine b).running == some n

/-- A ridge is a candidate for a wake: asleep, in service, with an ungated engine of every class (16:R357). -/
def Dev.wakeable (d : Dev) (cs : List EClass) (r : Nat) : Bool :=
  d.serves r && (d.ridge r).power == 0 && cs.all fun c => c.blocks.any fun b =>
    ((d.ridge r).engine b).inService && !(d.ridge r).gateOn.getLsbD b

/-- Waking a ridge keeps the charge within the ceiling: its base rises from 0.15 W to 1.6 W and core 0 runs
(16:R360, Table 16.2). -/
def Dev.wakeAdmitted (d : Dev) : Bool := d.charge + (1600 + 150 - 150) ≤ d.ceiling * 1000

/-- A dispatcher asks a sleeping ridge to wake, unless one that it has asked still wakes or the wake would break the admission
rule (16:R357); a refused request is event +69. -/
def Dev.askWake (d : Dev) (home r : Nat) : Dev :=
  if d.ridgeNums.any fun k => d.serves k && (d.ridge k).power == 1 && (d.ridge k).wakeFor == some home then d
  else if d.wakeAdmitted then d.modRidge r fun x => { x with power := 1, wakeFor := some home }
  else d.ridgeEvent r 69 home

/-- A dispatcher that skips a queue asks the nearest sleeping ridge that has the classes (16:R357). -/
def Dev.requestWake (d : Dev) (home : Nat) (cs : List EClass) : Dev :=
  match leastBy (fun r => hops home r * 8 + r) (d.ridgeNums.filter (d.wakeable cs)) with
  | none => d
  | some r => d.askWake home r

end Sys2Proof.Machine
end

