-- ==== Sys2Proof/Machine/Complete.lean ====
section
/-! DEFINITION. How work ends: completions and interrupts written to the host, capture units, a job's end and its
objects, aborts, requests of tenant programs, faults of queues and seams, MQ completions (03:R75, 04:R94 to R109, R112,
08:R196 to R199, 14:R318 to R320, 15:R349 to R351). -/

namespace Sys2Proof.Machine

/-! ## Status codes (04:Table 4.9) -/

def stDone : BitVec 16 := 0x0000
def stSigInvalid : BitVec 16 := 0x0001
def stMalformed : BitVec 16 := 0x0101
def stBadOpcode : BitVec 16 := 0x0102
def stBadLength : BitVec 16 := 0x0103
def stChainLimit : BitVec 16 := 0x0104
def stReadFault : BitVec 16 := 0x0201
def stTimeout : BitVec 16 := 0x0202
def stWriteFault : BitVec 16 := 0x0203
def stPasidFault : BitVec 16 := 0x0204
def stBadHandle : BitVec 16 := 0x0301
def stKeyPolicy : BitVec 16 := 0x0302
def stStoreFull : BitVec 16 := 0x0303
def stZeroInput : BitVec 16 := 0x0401
def stOneInput : BitVec 16 := 0x0402
def stRange : BitVec 16 := 0x0403
def stNotOnCurve : BitVec 16 := 0x0404
def stCurveRejected : BitVec 16 := 0x0405
def stSmallOrder : BitVec 16 := 0x0406
def stEntropyFail : BitVec 16 := 0x0501
def stSegment : BitVec 16 := 0x0601
def stReservedOp : BitVec 16 := 0x0602
def stStepLimit : BitVec 16 := 0x0603
def stSignature : BitVec 16 := 0x0604
def stAbortQueue : BitVec 16 := 0x0701
def stAbortTamper : BitVec 16 := 0x0702
def stUnitLost : BitVec 16 := 0x0703
def stAbortPower : BitVec 16 := 0x0704
def stAbortFreeze : BitVec 16 := 0x0705
def stAbortDeep : BitVec 16 := 0x0706
def stQuorum : BitVec 16 := 0x0801
def stMode : BitVec 16 := 0x0802
def stSuperseded : BitVec 16 := 0x0803
def stFunctionOff : BitVec 16 := 0x0804

/-- A verdict that writes nothing. -/
def refuse (status : BitVec 16) (detail : Nat) : Verdict := ⟨status, BitVec.ofNat 32 detail, 0⟩

/-- DONE with nothing written. -/
def done : Verdict := ⟨stDone, 0, 0⟩

/-! ## Completion entries -/

/-- What a completion carries beside PHASE (04:Table 4.7). -/
structure Compl where
  tag : BitVec 16
  status : BitVec 16
  gen : BitVec 8
  replayed : Bool
  chained : Bool
  queue : Nat
  sqHead : BitVec 32
  written : BitVec 32
  detail : BitVec 32
  ns : Nat
  handle : W64
  deriving DecidableEq, Repr

/-- The 32 bytes of a completion written at an index of a CQ of 2^k entries (04:Table 4.7, R101). -/
def Compl.bytes (c : Compl) (k : Nat) (index : BitVec 32) : List Byte :=
  leBytes 2 c.tag.toNat ++ leBytes 2 c.status.toNat ++ leBytes 1 c.gen.toNat ++
    leBytes 1 ((if index.getLsbD k then 0 else 1) + (if c.replayed then 2 else 0) + (if c.chained then 4 else 0)) ++
    leBytes 2 (c.queue % 4 + (c.sqHead.toNat % 2 ^ 14) * 4) ++ leBytes 4 c.written.toNat ++ leBytes 4 c.detail.toNat ++
    leBytes 8 c.ns ++ leBytes 8 c.handle.toNat

/-- The address of an entry of a ring (04:R86). -/
def slotAddr (base : W64) (k size : Nat) (index : BitVec 32) : W64 :=
  base + BitVec.ofNat 64 (index.toNat % 2 ^ k * size)

/-- A completion that needs an interrupt: FLAGS.IRQ, or a status other than DONE and SIG_INVALID (04:R103). -/
def needsIrq (flags : BitVec 8) (status : BitVec 16) : Bool :=
  flags.getLsbD 2 || (status != stDone && status != stSigInvalid)

/-! ## Seam and queue faults -/

/-- The seam's interrupt message on a link: a posted write of IRQ_DATA, without a PASID, unless masked (03:R60, R59,
15:R349). -/
def Dev.irq (d : Dev) (s : Nat) (l : Lk) : Dev :=
  let e := (d.seam s).entry
  if e.irqMask then d else d.send l ⟨.interrupt s, none, e.irqAddr, leBytes 4 e.irqData.toNat⟩

/-- A seam enters FAULTED (03:R75): event 38, cause 0 link lost, 1 CQ write failed. -/
def Dev.seamFault (d : Dev) (s cause : Nat) : Dev :=
  if (d.seam s).entry.state = .active then
    (d.modEntry s fun e => { e with state := .faulted }).pkgEvent 38 cause (some s)
  else d

/-- A ring read fails: the queue is FAULTED, one interrupt is sent and the event logged (04:R109). -/
def Dev.queueFault (d : Dev) (s q : Nat) : Dev :=
  if ((d.seam s).queue q).state = .running then
    let d := d.modQueue s q fun x => { x with state := .faulted, reading := false }
    let d := match d.dmaLink s with
      | some l => d.irq s l
      | none => d
    d.pkgEvent 39 q (some s)
  else d.modQueue s q fun x => { x with reading := false }

/-- DISCARDS rises, saturating (03:Table 3.3). -/
def Dev.discard (d : Dev) (s : Nat) (n : Nat := 1) : Dev :=
  d.modRun s fun x => { x with discards := satInc x.discards n }

/-- The link of a job's writes: the one of its first output write while it carries DMA, else the seam's (14:R320). -/
def Dev.jobLink (d : Dev) (s : Nat) (first : Option Lk) : Option Lk :=
  match first with
  | some l => if (d.link l).carries then some l else d.dmaLink s
  | none => d.dmaLink s

/-! ## Capture units (15:R350, R351) -/

/-- The bin of a value. -/
def perfBin (v : Nat) : Nat := if v < 64 then 0 else if v < 2 ^ 36 then v.log2 - 5 else 31

/-- A unit with nothing measured (15:Table 15.7). -/
def Capture.blank : Capture := ⟨BitVec.allOnes 64, 0, 0, 0, List.replicate 32 0⟩

/-- A capture unit at reset. -/
def PerfUnit.blank : PerfUnit := ⟨0, false, 0xFF, 0, false, Capture.blank, Capture.blank⟩

/-- A unit of the PERF block. -/
def Dev.perfUnit (d : Dev) (u : Nat) : PerfUnit := (assocGet d.perf u).getD PerfUnit.blank

/-- A unit takes one value. -/
def Capture.take (c : Capture) (v : Nat) : Capture :=
  { min := if v < c.min.toNat then BitVec.ofNat 64 v else c.min
    max := if v > c.max.toNat then BitVec.ofNat 64 v else c.max
    count := c.count + 1, sum := c.sum + BitVec.ofNat 64 v
    bins := c.bins.modify (perfBin v) fun b => satInc b }

/-- The value that a completion gives to a unit; none when the unit does not measure it. -/
def PerfUnit.value (p : PerfUnit) (s : Nat) (opcode : BitVec 16) (wait ns whole : Nat) : Option Nat :=
  if (p.all || p.seam.toNat == s) && (p.group == 0xFF || p.group.toNat == opcode.toNat / 256) then
    match p.measure.toNat with
    | 1 => some wait
    | 2 => if ns = 0 then none else some ns
    | 3 => some whole
    | _ => none
  else none

/-- A written completion of a seam-queue descriptor is taken by every unit that matches. -/
def Dev.capture (d : Dev) (s : Nat) (opcode : BitVec 16) (arrival granted ns : Nat) : Dev :=
  { d with perf := d.perf.map fun (u, p) =>
      match p.value s opcode (granted - arrival) ns (d.clock - arrival) with
      | some v => (u, { p with now := p.now.take v })
      | none => (u, p) }

/-! ## Writing a completion -/

/-- What became of a completion: written, held for a link, or not written. -/
inductive Sent where
  | written | held | failed
  deriving DecidableEq, Repr

/-- A completion of a seam is written at the CQ write index, its credit is released, and its interrupt follows (04:R99,
R103, 14:R320). With no link that carries it: held when a class L cut asks for that (13:R305); otherwise the write
fails, and so does one that would leave through a function without PASID (03:R59): the seam enters FAULTED and the
completion counts in DISCARDS (03:R75). -/
def Dev.putCompletion (d : Dev) (s : Nat) (c : Compl) (irq : Bool) (first : Option Lk) (hold : Bool) : Dev × Sent :=
  match (d.seam s).run.cq with
  | none => (d.discard s, .failed)
  | some cq =>
    let pasid := (d.seam s).entry.pasid
    let w : HostWrite := ⟨.completion s, some pasid, slotAddr cq.base cq.log2 32 cq.write, c.bytes cq.log2 cq.write⟩
    let next := d.modRun s fun x => { x with cq := some { cq with write := cq.write + 1, held := cq.held - 1 } }
    match d.jobLink s first with
    | some l =>
      if (d.link l).pasidEn then
        let d := (next.spineSend (d.homeOf s) (lkRidge l)).send l w
        (if irq then d.irq s l else d, .written)
      else
        ((d.modRun s fun x => { x with cq := some { cq with held := cq.held - 1 } }).seamFault s 1 |>.discard s, .failed)
    | none =>
      if hold && !d.linkUpFor s then
        let e := (d.seam s).entry
        let i : HostWrite := ⟨.interrupt s, none, e.irqAddr, leBytes 4 e.irqData.toNat⟩
        (next.modRun s fun x => { x with heldWrites := x.heldWrites ++ [w] ++ if irq && !e.irqMask then [i] else [] },
          .held)
      else
        ((d.modRun s fun x => { x with cq := some { cq with held := cq.held - 1 } }).seamFault s 1 |>.discard s, .failed)

/-! ## The end of a job -/

/-- DETAIL of a chain that ends on a failure: the element's index above its own DETAIL (04:R107). -/
def chainDetail (j : Job) (v : Verdict) : BitVec 32 :=
  if j.chained && v.status != stDone then
    BitVec.ofNat 32 (j.elem % 256 * 2 ^ 24 + v.detail.toNat % 2 ^ 24)
  else v.detail

/-- Objects of a job that do not outlive its completion (08:R199): all but the reported one, or all. -/
def JobTail.doomed (t : JobTail) (keep : Bool) : List Nat :=
  if keep && !t.handle.getLsbD 47 then t.created.filter fun i => i != bitsOf t.handle.toNat 24 23 else t.created

/-- Objects of a job that do not outlive its completion with a status; those of a program's requests stand when the program
ends with DONE (10:R252). -/
def JobRec.doomed (j : JobRec) (v : Verdict) (keep : Bool) : List Nat :=
  if j.job.head.opcode = 0x0F01 ∧ v.status = stDone then [] else j.tail.doomed keep

/-- Objects destroyed on both ridges. -/
def Dev.destroyKeys (d : Dev) (s : Nat) (is : List Nat) : Dev := is.foldl (fun d i => d.destroyKey s i) d

/-- SINGLE_USE keys that a job consumed are erased once it has completed (05:R124): resident indices, and cache entries
marked consumed. -/
def Dev.eraseConsumed (d : Dev) (j : JobRec) : Dev :=
  let d := d.eraseEntries fun e => j.tail.consumed.any fun i => e.isKey j.job.seam i && e.consumed
  d.modRidges fun x => { x with cache := x.cache.filter fun c =>
    !(c.seam == j.job.seam && c.consumed && j.tail.pins.contains c.number) }

/-- A job leaves: its engines are released and it no longer counts in INFLIGHT. -/
def Dev.dropJob (d : Dev) (j : JobRec) : Dev :=
  let d := { d.releaseAll j with jobs := (d.releaseAll j).jobs.filter fun x => x.num != j.num }
  if j.tail.prog.isSome then d else d.modRun j.job.seam fun x => { x with inflight := x.inflight - 1 }

/-- ENTROPY_FAIL completions of a ridge (12:Table 12.6). -/
def Dev.countEntropy (d : Dev) (r : Nat) (status : BitVec 16) : Dev :=
  if status = stEntropyFail then
    d.modRidge r fun x => { x with rng := { x.rng with fails := satInc x.rng.fails } }
  else d

/-- A descriptor's job completes. A completion under an old GEN, or of a FAULTED seam, is suppressed and counted
(03:R70, R75); then, and when the write fails, no object of the job stands (08:R197). -/
def Dev.finishDesc (d : Dev) (j : JobRec) (v : Verdict) (keep hold : Bool) : Dev :=
  let s := j.job.seam
  let c : Compl :=
    { tag := j.job.head.tag, status := v.status, gen := j.job.gen, replayed := j.tail.replayed, chained := j.job.chained,
      queue := j.job.queue, sqHead := j.job.index + 1, written := v.written, detail := chainDetail j.job v, ns := j.tail.ns,
      handle := if keep then j.tail.handle else 0 }
  let d := d.countEntropy j.job.ridge v.status
  if j.tail.discarded then
    ((d.destroyKeys s j.tail.created).discard s).dropJob j |>.eraseConsumed j
  else if (d.seam s).entry.state = .faulted then
    let d := d.modRun s fun x => { x with cq := x.cq.map fun q => { q with held := q.held - 1 } }
    ((d.destroyKeys s j.tail.created).discard s).dropJob j |>.eraseConsumed j
  else
    let d := d.destroyKeys s (j.doomed v keep)
    let (d, sent) := d.putCompletion s c (needsIrq j.job.head.flags v.status) j.tail.link hold
    let d := if sent = .failed then d.destroyKeys s j.tail.created
      else d.capture s j.job.head.opcode j.tail.arrival j.tail.granted j.tail.ns
    (d.dropJob j).eraseConsumed j

/-! ## Programs and their requests -/

/-- The core that runs the program of a job. -/
def Dev.progCore (d : Dev) (n : Nat) : Option (Nat × Nat) :=
  d.ridgeNums.findSome? fun r =>
    ((List.range 4).find? fun c =>
      match ((d.ridge r).cores.getD c Core.reset).program with
      | some p => p.job == n
      | none => false).map fun c => (r, c)

/-- A change to a core. -/
def Dev.modCore (d : Dev) (r c : Nat) (f : Core → Core) : Dev :=
  d.modRidge r fun x => { x with cores := x.cores.modify c f }

/-- A core. -/
def Dev.core (d : Dev) (r c : Nat) : Core := (d.ridge r).cores.getD c Core.reset

/-- A change to the program of a core. -/
def Dev.modProgram (d : Dev) (r c : Nat) (f : Program → Program) : Dev :=
  d.modCore r c fun k => { k with program := k.program.map f }

/-- A request is outstanding (10:R253). -/
def Program.waits (p : Program) : Bool := p.tickets.any fun t =>
  match t with
  | some k => k.ended.isNone
  | none => false

/-- The job area is zeroed and freed: the copy of IN, the OUT area, the spill area (10:R246, R253), and an image of its own. -/
def Dev.freeArea (d : Dev) (r : Nat) (p : Program) : Dev :=
  d.modRidge r fun x =>
    let m := memZero (memZero (memZero x.sram p.inBase p.inLen) p.outBase p.outLen) p.spillBase p.image.spill
    { x with sram := memZero m p.imageBase p.imageLen }

/-- A program that a reset has discarded still waits on the ridge for its requests. -/
def Dev.oldProgram (d : Dev) (r s : Nat) : Bool :=
  (d.ridge r).cores.any fun k =>
    match k.program.bind fun p => d.job? p.job with
    | some j => j.job.seam == s && j.tail.discarded
    | none => false

/-- A seam's staging window on a ridge is cleared and freed (10:R246), once no such program is left there (03:R69). -/
def Dev.freeWindow (d : Dev) (r s : Nat) : Dev :=
  if d.oldProgram r s then d
  else d.modRidge r fun x =>
    { x with
      sram := (x.staging.filter fun w => w.1 == s).foldl (fun m w => memZero m w.2.1 w.2.2) x.sram
      staging := x.staging.filter fun w => w.1 != s }

/-- An image of a seam runs on a ridge. -/
def Dev.imageRuns (d : Dev) (r s : Nat) (digest : List Byte) : Bool :=
  (d.ridge r).cores.any fun k =>
    match k.program with
    | some p => p.image.digest == digest && ((d.job? p.job).map (·.job.seam)) == some s
    | none => false

/-- Images whose signer the seam no longer enrols leave the caches, as soon as none of them runs (10:R247). -/
def Dev.purgePrograms (d : Dev) (s : Nat) : Dev :=
  let signers := (d.progKeys s).map fun k => sha384 k.bytes
  d.ridgeNums.foldl (init := d) fun d r =>
    d.modRidge r fun x => { x with programs := x.programs.filter fun e =>
      !(e.seam == s && !signers.contains e.image.signer && !(d.imageRuns r s e.image.digest)) }

/-- The output of a program that exited, and the verdict of one that cannot be written (03:R59, R60). -/
def Dev.programOut (d : Dev) (j : JobRec) (v : Verdict) (bytes : List Byte) : Dev × JobRec × Verdict :=
  let e := (d.seam j.job.seam).entry
  if v.status = stDone && !bytes.isEmpty && !j.tail.discarded && e.state != .faulted then
    match d.dmaLink j.job.seam with
    | some l =>
      if (d.link l).pasidEn then
        ((d.spineSend j.job.ridge (lkRidge l)).send l ⟨.output j.num, some e.pasid, j.job.desc.outAddr, bytes⟩,
          { j with tail := { j.tail with link := some l } }, v)
      else (d, j, refuse stPasidFault 0x22)
    | none => (d, j, refuse stWriteFault 0x22)
  else (d, j, v)

/-- A tenant program's job ends once its requests have: OUT is written when it exited, the job area is freed, the core
is free, the completion is written, and objects stand only with DONE (10:R252, R253, R255). -/
def Dev.closeProgram (d : Dev) (r c : Nat) (hold : Bool) : Dev :=
  match (d.core r c).program with
  | none => d
  | some p =>
    match p.ending, d.job? p.job with
    | some v, some j =>
      if p.waits then d
      else
        let (d, j, v) := d.programOut j v (memBytes (d.ridge r).sram p.outBase v.written.toNat)
        let d := d.freeArea r p
        let d := (d.modCore r c fun k => { k with program := none, pend := [] }).purgePrograms j.job.seam
        let d := d.finishDesc j v (v.status = stDone) hold
        if j.tail.discarded then d.freeWindow r j.job.seam else d
    | _, _ => d

/-- A request of a program ends: its ticket holds the outcome, its object belongs to the program's job (10:R249, R252).
The program's own end may have waited for it. -/
def Dev.endRequest (d : Dev) (j : JobRec) (pj t : Nat) (v : Verdict) (hold : Bool) : Dev :=
  let d := d.countEntropy j.job.ridge v.status
  let d := (d.dropJob j).eraseConsumed j
  match d.progCore pj with
  | none => d.destroyKeys j.job.seam j.tail.created
  | some (r, c) =>
    let d := d.modJob pj fun x => { x with tail := { x.tail with created := x.tail.created ++ j.tail.created } }
    let deep := (d.core r c).deep
    let answer := some (v.status, v.detail, v.written, j.tail.handle)
    let d := d.modProgram r c fun p =>
      { p with tickets := p.tickets.modify t (Option.map fun k => { k with ended := answer, delivered := !deep }) }
    d.closeProgram r c hold

/-- A job ends with a verdict. `keep`: the object that RESULT_HANDLE reports stands. -/
def Dev.finish (d : Dev) (n : Nat) (v : Verdict) (keep : Bool) (hold : Bool := false) : Dev :=
  match d.job? n with
  | none => d
  | some j =>
    match j.tail.prog with
    | some (pj, t) => d.endRequest j pj t v hold
    | none => d.finishDesc j v keep hold

/-- A creation is undone: copies of the key FREE and zeroed, the reservations released (08:R194 step 4, R196). -/
def Dev.rollback (d : Dev) (j : JobRec) : Dev :=
  let d := match j.tail.slot with
    | none => d
    | some i => (d.eraseEntries (Entry.isKey j.job.seam i)).countKeys j.job.seam (· - 1)
  d.modJob j.num fun x => { x with tail := { x.tail with slot := none, room := 0 } }

/-- A job has ended: its engine has its result (06:R155), or it is past its commit point (08:R196). In the model an
engine's end, output and completion are one command, so a job in an engine has not ended; nor has a chain between a commit
point and its next element, which an abort ends with the abort's status and no object (08:R155, R199; log 37). -/
def Job.ended (j : Job) : Bool := j.phase == .committed && !j.desc.flags.getLsbD 1

/-- The engine time of an aborted job: what earlier elements took, and the time since it started (13:Table 13.3). -/
def Dev.abortedNs (d : Dev) (j : JobRec) : Nat :=
  j.tail.ns + if j.job.phase == .engine && d.runsOn j.job.ridge j.job.blk j.num then d.clock - j.tail.started else 0

/-- A job that has not ended is aborted: rolled back, wiped, completed with the abort's status, nothing written
(13:R305, 14:R332, 03:R76). A running program ends once its requests have. -/
def Dev.abortJob (d : Dev) (n : Nat) (status : BitVec 16) (hold : Bool) : Dev :=
  match d.job? n with
  | none => d
  | some j =>
    if j.job.phase == .program then
      match d.progCore n with
      | some (r, c) => (d.modProgram r c fun p => { p with ending := some (refuse status 0) }).closeProgram r c hold
      | none => d.finish n (refuse status 0) false hold
    else
      let ns := d.abortedNs j
      let d := (d.rollback j).modJob n fun x => { x with tail := { x.tail with ns := ns } }
      d.finish n (refuse status 0) false hold

/-- Every job of a list is aborted, requests of programs before the programs themselves. -/
def Dev.abortJobs (d : Dev) (ns : List Nat) (status : BitVec 16) (hold : Bool) : Dev :=
  let reqs := ns.filter fun n => ((d.job? n).map fun j => j.tail.prog.isSome).getD false
  let rest := ns.filter fun n => !(reqs.contains n)
  (reqs ++ rest).foldl (fun d n => d.abortJob n status hold) d

/-- The jobs that have not ended. -/
def Dev.notEnded (d : Dev) : List Nat := (d.jobs.filter fun j => !j.job.ended).map (·.num)

/-! ## Retirement -/

/-- A descriptor is retired at its grant: one CQ credit, no engine, the completion written with ENGINE_NS 0 (04:R94,
05:R117). FLAGS.CHAINED of an entry whose chain never ran is open in 04:Table 4.7: that it follows the descriptor's CHAIN flag,
here and for an entry aborted in its ring, is the model's choice (log 40). -/
def Dev.retire (d : Dev) (s q : Nat) (f : Fetched) (v : Verdict) : Dev :=
  let x := d.seam s
  let c : Compl :=
    { tag := f.desc.tag, status := v.status, gen := x.entry.gen, replayed := false, chained := f.desc.flags.getLsbD 1,
      queue := q, sqHead := f.index + 1, written := v.written, detail := v.detail, ns := 0, handle := 0 }
  let d := d.modRun s fun y => { y with cq := y.cq.map fun k => { k with held := k.held + 1 } }
  let (d, sent) := d.putCompletion s c (needsIrq f.desc.flags v.status) none false
  if sent = .failed then d else d.capture s f.desc.opcode f.arrival d.clock 0

/-! ## The management queue's completions (04:R112, R113) -/

/-- The MQ's completions can be written now: not those owed since a fault, until ENABLE is set again (04:R113). -/
def Dev.mqOpen (d : Dev) : Bool :=
  (d.link (lkOf d.mq.link)).carries && !d.mq.stalled &&
    decide ((d.mq.write - d.mq.cqHead).toNat < 2 ^ d.mq.cqLog2.toNat)

/-- An MQ command's output and completion are written (04:R112): no PASID, GEN 0; its vector follows under R103. -/
def Dev.mqWrite (d : Dev) (m : MqDone) : Dev :=
  let l := lkOf d.mq.link
  let k := d.mq.cqLog2.toNat
  let n := m.index.toNat
  let c : Compl :=
    { tag := m.desc.tag, status := m.verdict.status, gen := 0, replayed := false, chained := false, queue := 0,
      sqHead := m.index + 1, written := m.verdict.written, detail := m.verdict.detail, ns := m.ns, handle := 0 }
  let d := if m.out.isEmpty then d else d.send l ⟨.mqOutput n, none, m.outAddr, m.out⟩
  let d := d.send l ⟨.mqCompletion n, none, slotAddr d.mq.cqBase k 32 d.mq.write, c.bytes k d.mq.write⟩
  let d := { d with mq := { d.mq with write := d.mq.write + 1, sent := d.mq.sent ++ [m] } }
  if needsIrq m.desc.flags m.verdict.status then d.vector l d.mq.vector.toNat else d

/-- The MQ enters state 2: a ring read or write failed, or its link was lost (04:R113); event 37: 0 ring read, 1 ring
write, 2 link lost. -/
def Dev.mqFault (d : Dev) (cause : Nat) : Dev :=
  if d.mq.state = 1 then { d with mq := { d.mq with state := 2, stalled := true, reading := false } }.pkgEvent 37 cause else d

/-- Completions owed are written, oldest first, while the MQ can take them; a write that its link cannot carry fails
(04:R113). -/
def Dev.mqDrain (d : Dev) : Nat → Dev
  | 0 => d
  | n + 1 =>
    match d.mq.held with
    | [] => d
    | m :: rest =>
      if d.mqOpen then ({ d with mq := { d.mq with held := rest } }.mqWrite m).mqDrain n
      else if (d.link (lkOf d.mq.link)).carries || d.mq.stalled then d else d.mqFault 1

/-- A change to the first entry that satisfies a test. -/
def modFirst {α : Type} (p : α → Bool) (f : α → α) : List α → List α
  | [] => []
  | x :: xs => if p x then f x :: xs else x :: modFirst p f xs

/-- The command of an index: the oldest one, should an earlier life of the MQ have left another (04:R113). -/
def MqCmd.named (cmd : Nat) (c : MqCmd) : Bool := c.index.toNat == cmd

/-- An MQ command completes: its entry leaves the fetched commands, and its completion is written in order or held. It took
Keade a core time that the spec does not state, none for one that a fetch check refused (04:Table 4.7, R94; log 38). -/
def Dev.mqComplete (d : Dev) (cmd : Nat) (v : Verdict) (out : List Byte := []) : Dev :=
  match d.mq.cmds.find? (MqCmd.named cmd) with
  | none => d
  | some c =>
    let m : MqDone := ⟨c.index, c.desc, { v with written := if out.isEmpty then v.written else BitVec.ofNat 32 out.length },
      c.desc.outAddr, out, if c.bad.isSome then 0 else Config.freeNat d.draws⟩
    let d := { d with draws := d.draws + 1, mq := { d.mq with
      cmds := d.mq.cmds.eraseP (MqCmd.named cmd)
      held := d.mq.held ++ [m] } }
    d.mqDrain (d.mq.held.length)

/-- An MQ command. -/
def Dev.mqCmd (d : Dev) (cmd : Nat) : Option MqCmd := d.mq.cmds.find? (MqCmd.named cmd)

/-- A change to an MQ command. -/
def Dev.modCmd (d : Dev) (cmd : Nat) (f : MqCmd → MqCmd) : Dev :=
  { d with mq := { d.mq with cmds := modFirst (MqCmd.named cmd) f d.mq.cmds } }

/-- The verdict of an element that did not run: OUT_WRITTEN stays that of the last one that did, unless it names the
length needed (04:R107). -/
def JobRec.unrun (j : JobRec) (v : Verdict) : Verdict :=
  if v.written = 0 then { v with written := j.tail.written } else v

end Sys2Proof.Machine
end

