-- ==== Sys2Proof/Machine/Fetch.lean ====
section
/-! DEFINITION. Descriptors: their layout, what each opcode uses, the fetch checks of 04:Table 4.5, ring reads and
the prefetch cache (04:R89 to R96), and the tail, head and invalidation writes of a portal (04:R87, R96). -/

namespace Sys2Proof.Machine

/-- A descriptor's 64 bytes (04:Table 4.4). -/
def Desc.ofBytes (b : List Byte) : Desc :=
  { opcode := BitVec.ofNat 16 (field b 0 2), flags := BitVec.ofNat 8 (field b 2 1), dver := BitVec.ofNat 8 (field b 3 1)
    tag := BitVec.ofNat 16 (field b 4 2), param := BitVec.ofNat 16 (field b 6 2), keyA := BitVec.ofNat 64 (field b 8 8)
    keyB := BitVec.ofNat 64 (field b 16 8), inAddr := BitVec.ofNat 64 (field b 24 8)
    inLen := BitVec.ofNat 32 (field b 32 4), outLen := BitVec.ofNat 32 (field b 36 4)
    outAddr := BitVec.ofNat 64 (field b 40 8), auxAddr := BitVec.ofNat 64 (field b 48 8)
    auxLen := BitVec.ofNat 32 (field b 56 4), check := BitVec.ofNat 32 (field b 60 4) }

def Desc.op (x : Desc) : Nat := x.opcode.toNat
def Desc.fence (x : Desc) : Bool := x.flags.getLsbD 0
def Desc.chain (x : Desc) : Bool := x.flags.getLsbD 1
def Desc.resultHandle (x : Desc) : Bool := x.flags.getLsbD 3

/-- A field of PARAM. -/
def Desc.p (x : Desc) (lo n : Nat) : Nat := bitsOf x.param.toNat lo n

/-- The opcodes of 04:R92. -/
def defined (op : Nat) : Bool :=
  [0x0000, 0x0001, 0x0101, 0x0102, 0x0103, 0x0104, 0x0105, 0x0106, 0x0107, 0x0201, 0x0202, 0x0203, 0x0204, 0x0210,
   0x0301, 0x0302, 0x0303, 0x0304, 0x0401, 0x0402, 0x0411, 0x0412, 0x0501, 0x0502, 0x0601, 0x0602, 0x0603, 0x0604,
   0x0701, 0x0702, 0x0703, 0x0704, 0x0705, 0x0801, 0x0802, 0x0803, 0x0804, 0x0805, 0x0806, 0x0807, 0x0901, 0x0A01,
   0x0A02, 0x0A03, 0x0F01].contains op ||
  [0x8001, 0x8002, 0x8003, 0x8004, 0x8005, 0x8006, 0x8007, 0x8008, 0x8009, 0x8010, 0x8011, 0x8012, 0x8020, 0x8021,
   0x8022, 0x8030, 0x8031, 0x8040, 0x8041, 0x8050, 0x8051, 0x8052].contains op

/-- Opcodes whose KEY_A may be 0 with an inline public key in AUX (05:R120, R137). -/
def inlineOp (op : Nat) : Bool :=
  [0x0103, 0x0105, 0x0107, 0x0202, 0x0302, 0x0401, 0x0412, 0x0502, 0x0A02].contains op

/-- The descriptor carries its public key inline (05:R120). -/
def Desc.inline (x : Desc) : Bool := inlineOp x.op && x.keyA == 0

/-- PARAM is used (05:Tables 5.7 to 5.12, R137, R138, 03:Table 3.4, 04:Table 4.1, 09:Table 9.4, 02:R51, R53). -/
def Desc.usesParam (x : Desc) : Bool :=
  !([0x0000, 0x0001, 0x0106, 0x0107, 0x0203, 0x0210, 0x0304, 0x0402, 0x0602, 0x0604, 0x0806, 0x0807, 0x0901, 0x8022,
     0x8030, 0x8041, 0x8050, 0x8051, 0x8052].contains x.op)

/-- KEY_A is used: by a handle, an order number or a marker (05:Tables 5.7 to 5.12, 03:Table 3.4, 09:Table 9.4). -/
def Desc.usesA (x : Desc) : Bool :=
  [0x0101, 0x0102, 0x0103, 0x0104, 0x0105, 0x0106, 0x0107, 0x0201, 0x0202, 0x0203, 0x0301, 0x0302, 0x0304, 0x0401, 0x0402,
   0x0411, 0x0412, 0x0501, 0x0502, 0x0601, 0x0602, 0x0603, 0x0604, 0x0702, 0x0703, 0x0704, 0x0705, 0x0802, 0x0803,
   0x0807, 0x0A01, 0x0A02, 0x0F10, 0x0F11, 0x8007, 0x8021, 0x8022, 0x8030, 0x8041, 0x8050, 0x8051, 0x8052].contains x.op ||
  (x.op == 0x0804 && !isLoadedCurve x.param.toNat) || (x.op == 0x0805 && x.p 0 2 == 0) || (x.op == 0x0A03 && x.p 4 1 == 1)

/-- The bits of KEY_A that a layout assigns. -/
def Desc.maskA (x : Desc) : Nat := if x.usesA then (if x.op ≥ 0x8000 then 0xFFFFFFFF else 2 ^ 64 - 1) else 0

/-- The bits of KEY_B that a layout assigns: a handle, a template, or a small field of the MQ. -/
def Desc.maskB (x : Desc) : Nat :=
  if [0x0203, 0x0304, 0x0401, 0x0402, 0x0704, 0x0705, 0x0801, 0x0802, 0x0803, 0x0807, 0x0A01].contains x.op ||
      (x.op == 0x0A02 && x.keyA != 0) || (x.op == 0x0A03 && x.p 4 1 == 1)
  then 2 ^ 64 - 1
  else match x.op with
  | 0x8006 => 1 | 0x8010 => 3 | 0x8011 => 3 | 0x8012 => 3 | 0x8020 => 0x1FFF | 0x8040 => x.p 0 1 | 0x8050 => 3 | _ => 0

/-- IN is used. -/
def Desc.usesIn (x : Desc) : Bool :=
  (decide (0x0101 ≤ x.op ∧ x.op ≤ 0x0304)) || decide (0x0402 ≤ x.op ∧ x.op ≤ 0x0705) ||
  [0x0802, 0x0805, 0x0806, 0x0807, 0x0A01, 0x0A02, 0x0A03, 0x0F01, 0x8008, 0x8052].contains x.op ||
  (x.op == 0x8021 && x.p 0 1 == 0)

/-- OUT is used. -/
def Desc.usesOut (x : Desc) : Bool :=
  [0x0101, 0x0102, 0x0104, 0x0105, 0x0106, 0x0107, 0x0201, 0x0203, 0x0204, 0x0210, 0x0301, 0x0303, 0x0304, 0x0401, 0x0402,
   0x0411, 0x0501, 0x0601, 0x0602, 0x0603, 0x0604, 0x0701, 0x0702, 0x0703, 0x0704, 0x0705, 0x0801, 0x0802, 0x0803, 0x0805,
   0x0807, 0x0901, 0x0A01, 0x0A03, 0x0F01, 0x8007, 0x8020, 0x8051].contains x.op ||
  (x.op == 0x8021 && x.p 0 1 == 1)

/-- The operation needs its own AUX area (05:R120, R138, 03:Table 3.4, 04:Table 4.1, 09:Table 9.4). -/
def Desc.usesAux (x : Desc) : Bool :=
  x.inline || [0x0A03, 0x0F01, 0x8001, 0x8004, 0x8005, 0x8007, 0x8008, 0x8010, 0x8020, 0x8040, 0x8051].contains x.op

/-- The first field in byte order that is not used and not zero, or has unassigned bits set (fetch check 6, 04:R90).
A PARAM that the opcode uses belongs to check 8. AUX names the next element where CHAIN is permitted: not for NOP, FENCE
(05:R139) or on the MQ. -/
def Desc.strayField (x : Desc) (mq : Bool) : Option Nat :=
  let aux := x.usesAux || (x.chain && !mq && decide (1 < x.op))
  if !x.usesParam && x.param != 0 then some 6
  else if x.keyA.toNat % (x.maskA + 1) ≠ x.keyA.toNat then some 8
  else if Nat.land x.keyB.toNat x.maskB ≠ x.keyB.toNat then some 16
  else if !x.usesIn && x.inAddr != 0 then some 24
  else if !x.usesIn && x.inLen != 0 then some 32
  else if !x.usesOut && x.outLen != 0 then some 36
  else if !x.usesOut && x.outAddr != 0 then some 40
  else if !aux && x.auxAddr != 0 then some 48
  else if !aux && x.auxLen != 0 then some 56
  else none

/-- Where CHAIN is not permitted (fetch check 7, 04:R106): DETAIL names FLAGS. R106 does not say which check an AUX_LEN other
than 64 beside CHAIN fails: that it is check 7, naming AUX_LEN, is the model's choice (log 40). -/
def Desc.chainFault (x : Desc) (mq : Bool) : Option Nat :=
  if !x.chain then none
  else if mq || x.op = 0 || x.op = 1 || x.usesAux then some 2
  else if x.auxLen ≠ 64 then some 56
  else none

/-- Index of an inline Weierstrass key: a named curve or a loaded slot (05:R120, Table 5.4). -/
def ecIndex (i : Nat) : Bool := decide (1 ≤ i ∧ i ≤ 7) || decide (0xC0 ≤ i ∧ i ≤ 0xCF)

/-- The index of PARAM[15:8] is right: of an inline key of the family, or 0 when KEY_A names a key (05:R120). -/
def Desc.indexOk (x : Desc) (ok : Nat → Bool) : Bool := if x.inline then ok (x.p 8 8) else x.p 8 8 == 0

/-- PARAM holds a permitted value (fetch check 8; 05:Tables 5.5 to 5.12, R137, R138, 03:R64, 09:Table 9.4). -/
def Desc.paramOk (x : Desc) : Bool :=
  let h := x.p 0 4
  let pre := x.p 4 1
  let rsaHash := decide (1 ≤ h ∧ h ≤ 6)
  let pqHash := decide (h ≤ 8) && (pre == 0 || h != 0)
  match x.op with
  | 0x0101 | 0x0102 | 0x0201 => rsaHash && x.p 5 11 == 0
  | 0x0103 => rsaHash && x.p 5 1 == 0 && x.p 7 1 == 0 && x.indexOk (· == 0)
  | 0x0104 => rsaHash && x.p 4 12 == 0
  | 0x0105 => rsaHash && x.p 4 4 == 0 && x.indexOk (· == 0)
  | 0x0202 => rsaHash && x.p 5 3 == 0 && x.indexOk ecIndex
  | 0x0204 => x.p 0 8 == 0 && ecIndex (x.p 8 8)
  | 0x0301 => h == 0 && x.p 5 11 == 0
  | 0x0302 => h == 0 && x.p 5 3 == 0 && x.indexOk fun i => decide (i = 1 ∨ i = 2)
  | 0x0303 => decide (1 ≤ x.p 0 7 ∧ x.p 0 7 ≤ 64) && x.p 7 9 == 0
  | 0x0401 => x.p 0 8 == 0 && x.indexOk fun i => decide (1 ≤ i ∧ i ≤ 3)
  | 0x0411 | 0x0501 => pqHash && x.p 6 10 == 0
  | 0x0412 => pqHash && x.p 5 3 == 0 && x.indexOk fun i => decide (0x11 ≤ i ∧ i ≤ 0x13)
  | 0x0502 => pqHash && x.p 5 3 == 0 && x.indexOk fun i => decide (1 ≤ i ∧ i ≤ 12)
  | 0x0601 | 0x0603 | 0x0703 | 0x0802 | 0x0803 => x.p 1 15 == 0
  | 0x0701 => decide (1 ≤ h ∧ h ≤ 8) && x.p 4 12 == 0
  | 0x0702 => rsaHash && x.p 4 12 == 0
  | 0x0704 => (decide (1 ≤ h ∧ h ≤ 3) || h == 9 || h == 10) && x.p 4 12 == 0
  | 0x0705 => decide (1 ≤ h ∧ h ≤ 3) && x.p 5 11 == 0
  | 0x0801 => if isRsa (tAlg x.keyB) then [2048, 3072, 4096, 6144, 8192].contains x.param.toNat else x.param == 0
  | 0x0804 => x.param == 0 || isLoadedCurve x.param.toNat
  | 0x0805 => decide (x.p 0 2 ≠ 3) && x.p 2 14 == 0
  | 0x0A01 => decide (1 ≤ h ∧ h ≤ 6) && x.p 4 12 == 0
  | 0x0A02 => decide (1 ≤ h ∧ h ≤ 6) && x.p 4 12 == 0
  | 0x0A03 => decide (1 ≤ h ∧ h ≤ 3) && x.p 5 11 == 0
  | 0x0F01 => true
  | 0x8001 | 0x8002 | 0x8003 | 0x8004 | 0x8005 | 0x8006 | 0x8007 | 0x8008 | 0x8009 | 0x8010 | 0x8011 | 0x8012 =>
    x.p 13 3 == 0
  | 0x8020 => x.p 8 8 == 0
  | 0x8021 | 0x8040 => x.p 1 15 == 0
  | 0x8031 => x.p 6 2 == 0 && x.p 11 5 == 0
  | _ => x.param == 0

/-- Opcodes that create a key object, and KEY_LOAD_BLOB, require FLAGS.RESULT_HANDLE (05:R121). -/
def makesKey (op : Nat) : Bool :=
  [0x0203, 0x0304, 0x0401, 0x0402, 0x0704, 0x0705, 0x0801, 0x0802, 0x0807, 0x0A03, 0x0F10].contains op

/-- Public key and signature lengths of Ed, lattice and hash-based ALGs (05:Tables 5.9, 5.10). -/
def sigLen (a : Nat) : Nat :=
  match a with
  | 0x301 => 64 | 0x302 => 114 | 0x411 => 2420 | 0x412 => 3309 | 0x413 => 4627
  | 0x501 | 0x502 => 7856 | 0x503 | 0x504 => 17088 | 0x505 | 0x506 => 16224 | 0x507 | 0x508 => 35664
  | 0x509 | 0x50A => 29792 | 0x50B | 0x50C => 49856 | _ => 0

/-- Ciphertext length of ML-KEM (05:Table 5.10). -/
def ctLen (a : Nat) : Nat := if a = 0x401 then 768 else if a = 0x402 then 1088 else 1568

/-- The suite of a hybrid signature: classical and ML-DSA ALG (05:Table 5.14). -/
def signSuite (n : Nat) : Nat × Nat :=
  match n with
  | 1 => (0x201, 0x411) | 2 => (0x202, 0x412) | 3 => (0x202, 0x413)
  | 4 => (0x301, 0x411) | 5 => (0x301, 0x412) | _ => (0x302, 0x413)

/-- The suite of a hybrid key exchange: classical and ML-KEM ALG (05:Table 5.14). -/
def kemSuite (n : Nat) : Nat × Nat :=
  match n with
  | 1 => (0x303, 0x402) | 2 => (0x202, 0x403) | _ => (0x303, 0x403)

/-- The ALG that an inline key's index names, or the suite of HYBRID_VERIFY (05:R120). -/
def Desc.inlineAlg (x : Desc) : Nat :=
  if x.op < 0x0200 then 0x100 else if x.op < 0x0300 then 0x200 + x.p 8 8
  else if x.op < 0x0400 then 0x300 + x.p 8 8 else if x.op < 0x0500 then 0x400 + x.p 8 8 else 0x500 + x.p 8 8

/-- Lengths a point may have as input: one byte at infinity, SEC1 compressed or uncompressed (05:R127, 06:Table 6.6). -/
def Dev.pointLens (d : Dev) (s a : Nat) : List Nat := [1, 1 + d.lp s a, 1 + 2 * d.lp s a]

/-- 256 MiB (05:R129). -/
def maxMessage : Nat := 268435456

/-- 1 MiB. -/
def mib : Nat := 1048576

/-- IN_LEN lies within what the opcode and PARAM fix (fetch check 9, 05:R129). -/
def Dev.inLenOk (d : Dev) (s : Nat) (x : Desc) : Bool :=
  let n := x.inLen.toNat
  let h := x.p 0 4
  let pre := x.p 4 1 == 1
  let exact := fun (m : Nat) => if pre then n == m else decide (m ≤ n + digestLen h)
  decide (n ≤ maxMessage) &&
  match x.op with
  | 0x0101 | 0x0102 | 0x0201 => !pre || n == digestLen h
  | 0x0103 => if x.inline then (if pre then n == x.auxLen.toNat - 4 + digestLen h else decide (x.auxLen.toNat - 4 ≤ n)) else true
  | 0x0107 => if x.inline then n == x.auxLen.toNat - 4 else true
  | 0x0202 => if x.inline && decide (x.p 8 8 < 0xC0) then
      let r := 2 * d.ln s x.inlineAlg
      if pre then exact (r + digestLen h) else decide (r ≤ n)
    else true
  | 0x0204 => if x.p 8 8 < 0xC0 then
      (d.pointLens s (0x200 + x.p 8 8)).any fun m => n == d.ln s (0x200 + x.p 8 8) + m
    else true
  | 0x0210 => decide (52 ≤ n ∧ n ≤ 484 ∧ (n - 4) % 6 = 0)
  | 0x0301 | 0x0302 | 0x0411 | 0x0412 | 0x0501 | 0x0502 | 0x0703 | 0x0A01 | 0x0A02 => decide (1 ≤ n)
  | 0x0303 => decide (104 * x.p 0 7 ≤ n ∧ n ≤ mib)
  | 0x0104 | 0x0105 | 0x0704 | 0x0705 => decide (2 ≤ n)
  | 0x0601 => decide (16 ≤ n ∧ n ≤ 16 + 65536 + mib)
  | 0x0602 => decide (32 ≤ n ∧ n ≤ 32 + 65536 + mib)
  | 0x0603 => decide (32 ≤ n ∧ n ≤ 16 + 16 * mib)
  | 0x0805 => decide (n ≤ 64)
  | 0x0806 => decide (64 ≤ n)
  | 0x0807 => decide (1 ≤ n ∧ n ≤ 256)
  | 0x0A03 =>
    let (a, k) := kemSuite h
    let kem := if x.p 4 1 = 0 then d.pubLen s k 0 else ctLen k
    if isX a then n == d.pubLen s a 0 + kem else (d.pointLens s a).any fun m => n == m + kem
  | 0x0F01 => decide (n ≤ mib)
  | _ => true

/-- AUX_LEN is right: an inline key's length, a template, an image within the seam's program quota, a block of the MQ
(fetch check 9). -/
def Dev.auxLenOk (d : Dev) (s : Nat) (x : Desc) : Bool :=
  let n := x.auxLen.toNat
  if x.inline then
    match x.op with
    | 0x0103 | 0x0105 | 0x0107 => decide (132 ≤ n ∧ n ≤ 1028 ∧ (n - 4) % 8 = 0)
    | 0x0202 => decide (0xC0 ≤ x.p 8 8) || (d.pointLens s x.inlineAlg).contains n
    | 0x0A02 => let (a, m) := signSuite (x.p 0 4)
      (if isEd a then [d.pubLen s a 0] else d.pointLens s a).any fun c => n == c + d.pubLen s m 0
    | _ => n == d.pubLen s x.inlineAlg 0
  else match x.op with
  | 0x0A03 => n == 8
  | 0x0F01 => decide (n ≤ (d.seam s).entry.progQuota.toNat * 4096)
  | 0x8001 => n == 128
  | 0x8004 => n == 16
  | 0x8005 | 0x8008 | 0x8010 => n == 32
  | _ => true

/-- OUT_LEN lies within the opcode's range where it selects the output (fetch check 9). -/
def Desc.outLenOk (x : Desc) : Bool :=
  let n := x.outLen.toNat
  match x.op with
  | 0x0701 => if x.p 0 4 ≥ 7 then decide (1 ≤ n ∧ n ≤ 65536) else true
  | 0x0703 => decide (4 ≤ n ∧ n ≤ 64)
  | 0x0901 => decide (1 ≤ n ∧ n ≤ 65536)
  | 0x0F01 => decide (n ≤ mib)
  | _ => true

/-- The output that the descriptor alone fixes (fetch check 10). -/
def Dev.fixedOut (d : Dev) (s : Nat) (x : Desc) : Nat :=
  let blob := if tBlob x.keyB then 64 + tLen x.keyB else 0
  match x.op with
  | 0x0105 | 0x0107 => if x.inline then x.auxLen.toNat - 4 else 0
  | 0x0204 => if x.p 8 8 < 0xC0 then d.pubLen s (0x200 + x.p 8 8) 0 else 0
  | 0x0210 => 2
  | 0x0303 => 8
  | 0x0401 => if x.inline then ctLen x.inlineAlg + blob else 0
  | 0x0203 | 0x0304 | 0x0402 | 0x0704 | 0x0705 => blob
  | 0x0603 => x.inLen.toNat - 16
  | 0x0604 => 16
  | 0x0701 => if x.p 0 4 ≤ 6 then digestLen (x.p 0 4) else 0
  | 0x0702 => digestLen (x.p 0 4)
  | 0x0801 | 0x0807 =>
    let a := tAlg x.keyB
    if isLoadedCurve a || (isRsa a && x.op = 0x0807) || (usageAllowed a).isNone then 0
    else
      let pub := d.pubLen s a (x.param.toNat / 8)
      if tBlob x.keyB && !isRsa a then pub + 64 + d.privLen s a 0 (tLen x.keyB) + pub else pub
  | 0x0802 =>
    let a := tAlg x.keyB
    if isLoadedCurve a || isRsa a || (usageAllowed a).isNone then 0
    else
      let pub := d.pubLen s a 0
      if tBlob x.keyB && !isKem a && !isMldsa a then pub + 64 + d.privLen s a 0 (tLen x.keyB) + pub else pub
  | 0x0805 => 16384
  | 0x0A01 => let (a, m) := signSuite (x.p 0 4)
    sigLen m + (if isEd a then sigLen a else 2 * d.ln s a)
  | 0x8020 => 96
  | 0x8021 => if x.p 0 1 = 1 then 96 else 0
  | _ => 0

/-- The fetch checks of 04:Table 4.5 in their order; `elem` is the chain element's index (04:R93). Whether a failed CHECK has
an offending field is open: that DETAIL[15:8] names the CHECK field, 60, is the model's choice (log 40). -/
def Dev.fetchChecks (d : Dev) (s : Nat) (mq : Bool) (bytes : List Byte) (elem : Nat) : Option Verdict :=
  let x := Desc.ofBytes bytes
  let bad := fun (st : BitVec 16) (code off written : Nat) =>
    some (⟨st, BitVec.ofNat 32 (code + off * 256 + elem % 256 * 2 ^ 24), BitVec.ofNat 32 written⟩ : Verdict)
  if crc32c (slice bytes 0 60) ≠ x.check then bad stMalformed 1 60 0
  else if x.dver ≠ 2 then bad stMalformed 2 3 0
  else if bitsOf x.flags.toNat 4 4 ≠ 0 then bad stMalformed 3 2 0
  else if !defined x.op then bad stBadOpcode 4 0 0
  else if (decide (x.op ≥ 0x8000) != mq) && !(mq && x.op == 0x0805) then bad stBadOpcode 5 0 0
  else match x.strayField mq with
  | some off => bad stMalformed 6 off 0
  | none => match x.chainFault mq with
  | some off => bad stMalformed 7 off 0
  | none =>
    if (makesKey x.op || x.op == 0x0806) != x.resultHandle then bad stMalformed 8 2 0
    else if !x.paramOk then bad stMalformed 8 6 0
    else if !d.inLenOk s x then bad stBadLength 9 32 0
    else if !x.outLenOk then bad stBadLength 9 36 0
    else if !x.chain && !d.auxLenOk s x then bad stBadLength 9 56 0
    else if x.outLen.toNat < d.fixedOut s x then bad stBadLength 0x0A 36 (d.fixedOut s x)
    else none

/-! ## Ring reads (04:R95, R96, R109) -/

/-- The seam has a free CQ credit (04:R99). -/
def SeamRun.creditFree (x : SeamRun) : Bool :=
  match x.cq with
  | some c => decide ((c.write - c.head).toNat + c.held < 2 ^ c.log2)
  | none => false

/-- The ring index of the next descriptor to read. -/
def Queue.nextRead (q : Queue) : BitVec 32 := q.head + BitVec.ofNat 32 q.prefetch.length

/-- A queue may read ahead: RUNNING, fewer than 8 descriptors held, one waiting in the ring (04:R95). -/
def Queue.wantsRead (q : Queue) : Bool :=
  q.state == .running && !q.reading && decide (q.prefetch.length < 8) &&
    decide (q.prefetch.length < (q.tail - q.head).toNat)

/-- The home ridge reads into a queue's prefetch cache when it may: the seam ACTIVE, no freeze, reset or takeover under
way, a free credit, seam queues fetched (04:R95, 02:R42, 03:R76). A read that no link carries, or that would leave
without PASID, faults the queue (03:R59, R60). -/
def Dev.fetch (d : Dev) (s q : Nat) : Dev :=
  let x := d.seam s
  if d.fetching && x.entry.state == .active && x.run.freezing.isNone && x.run.destroying.isNone && !x.run.takeover &&
      x.run.creditFree && (x.queue q).wantsRead then
    match d.dmaLink s with
    | some l => if (d.link l).pasidEn then d.modQueue s q fun k => { k with reading := true } else d.queueFault s q
    | none => d.queueFault s q
  else d

/-- Every queue of a seam reads ahead where it may. -/
def Dev.fetchSeam (d : Dev) (s : Nat) : Dev := (List.range 4).foldl (fun d q => d.fetch s q) d

/-- Every queue of the device reads ahead where it may: when fetching resumes (02:R39, R40). -/
def Dev.fetchAll (d : Dev) : Dev := d.usedSeams.foldl (fun d s => d.fetchSeam s) d

/-- The arrival of the tail write that exposed an index (15:R351). -/
def Queue.arrivalOf (q : Queue) (i : BitVec 32) (now : Nat) : Nat :=
  match q.tails.find? fun t => decide ((i - q.head).toNat < (t.1 - q.head).toNat) with
  | some t => t.2
  | none => now

/-- Descriptors of a ring read enter the prefetch cache, checked; one that fails a check, a NOP or a FENCE needs no
mirror copy (04:R91, R94, R95, 01:R27). A chain's head is checked as element 0. -/
def Dev.enter (d : Dev) (s q : Nat) (bytes : List Byte) : Dev :=
  let k := (d.seam s).queue q
  let i := k.nextRead
  let x := Desc.ofBytes bytes
  let bad := d.fetchChecks s false bytes 0
  let own := d.homeOf s = d.mirrorOf s
  let ready := bad.isSome || x.op == 0 || x.op == 1 || own
  let f : Fetched := ⟨i, x, bad, ready, k.arrivalOf i d.clock⟩
  let d := if ready then d else d.spineSend (d.homeOf s) (d.mirrorOf s)
  d.modQueue s q fun k => { k with prefetch := k.prefetch ++ [f] }

/-- DESCRIPTOR_FETCH: a ring read returns whole descriptors, in ring order, as many as fit (04:R95). -/
def Dev.enterAll (d : Dev) (s q : Nat) (bytes : List Byte) : Nat → Dev
  | 0 => d
  | n + 1 =>
    let k := (d.seam s).queue q
    if bytes.length < 64 ∨ k.prefetch.length ≥ 8 ∨ (k.tail - k.head).toNat ≤ k.prefetch.length then d
    else (d.enter s q (bytes.take 64)).enterAll s q (bytes.drop 64) n

/-- A ring read's data arrives. -/
def Dev.ringData (d : Dev) (s q : Nat) (bytes : List Byte) : Dev :=
  if ((d.seam s).queue q).reading then
    let d := d.modQueue s q fun k => { k with reading := false }
    (d.enterAll s q bytes 8).fetch s q
  else d

/-- MIRROR_DESCRIPTOR_ACK: a descriptor's copy stands on the mirror ridge (01:R27). -/
def Dev.mirrored (d : Dev) (s q : Nat) (i : BitVec 32) : Dev :=
  d.modQueue s q fun k => { k with prefetch := k.prefetch.map fun f => if f.index = i then { f with mirrored := true } else f }

/-! ## Portal writes (04:R87, R96, 03:R58, 17:R370, R371) -/

/-- A portal page answers on a link (03:R58, 02:R42, R47): the seam is ACTIVE, FROZEN or FAULTED and bound to the link,
power-up step 10 has ended, and the mode is not ZEROIZED. -/
def Dev.answers (d : Dev) (l : Lk) (s : Nat) : Bool :=
  let e := (d.seam s).entry
  decide (s < seamCount) && d.boot.step == 10 && d.live != .zeroized && e.state != .free && e.binds l && !d.pins.inVigil

/-- A discarded portal write is counted (17:Table 17.3). -/
def Dev.portalDrop (d : Dev) (l : Lk) : Dev := d.modLink l fun x => { x with portalDrops := satInc x.portalDrops }

/-- An index write is ignored and logged, event 40 (04:R87, 15:Table 15.2). -/
def Dev.badIndex (d : Dev) (s q : Nat) (cq : Bool) : Dev := d.pkgEvent 40 (q + if cq then 4 else 0) (some s)

/-- An SQ tail write meets the rules of 04:R87. -/
def Queue.tailOk (q : Queue) (v : BitVec 32) : Bool :=
  (q.state == .running || q.state == .faulted) && decide ((v - q.head).toNat ≤ 2 ^ q.log2) &&
    decide ((q.tail - q.head).toNat ≤ (v - q.head).toNat)

/-- An accepted tail write moves the tail; its arrival is kept. -/
def Queue.moveTail (q : Queue) (v : BitVec 32) (now : Nat) : Queue :=
  { q with
    tail := v
    tails := (q.tails.filter fun t => decide (0 < (t.1 - q.head).toNat ∧ (t.1 - q.head).toNat ≤ (v - q.head).toNat)) ++ [(v, now)] }

/-- An SQ tail write reaches the home ridge (04:R87). -/
def Dev.tailWrite (d : Dev) (s q : Nat) (v : BitVec 32) : Dev :=
  let k := (d.seam s).queue q
  if k.state = .none then d.badIndex s q false
  else if k.tailOk v then (d.modQueue s q fun k => k.moveTail v d.clock).fetch s q
  else (d.modQueue s q fun k => { k with tailDrops := satInc k.tailDrops }).badIndex s q false

/-- A CQ_HEAD write reaches the home ridge (04:R87): credits become free, and reading may go on. -/
def Dev.cqHead (d : Dev) (s : Nat) (v : BitVec 32) : Dev :=
  match (d.seam s).run.cq with
  | none => d.badIndex s 0 true
  | some c =>
    if (v - c.head).toNat ≤ (c.write - c.head).toNat then
      (d.modRun s fun x => { x with cq := some { c with head := v } }).fetchSeam s
    else d.badIndex s 0 true

/-- While a seam is FROZEN and not SAVED, index writes update the snapshot, under the rules of 04:R87 (03:R76). -/
def Dev.snapTail (d : Dev) (s q : Nat) (v : BitVec 32) : Dev :=
  match (d.seam s).run.snapshot with
  | none => d
  | some n =>
    let k := n.queues.getD q Queue.blank
    if k.state = .none then d.badIndex s q false
    else if k.tailOk v then
      d.modRun s fun x => { x with snapshot := some { n with queues := n.queues.modify q fun k => k.moveTail v d.clock } }
    else (d.modRun s fun x => { x with snapshot := some { n with
        queues := n.queues.modify q fun k => { k with tailDrops := satInc k.tailDrops } } }).badIndex s q false

/-- CQ_HEAD of a FROZEN seam. -/
def Dev.snapHead (d : Dev) (s : Nat) (v : BitVec 32) : Dev :=
  match (d.seam s).run.snapshot with
  | some ⟨qs, some c⟩ =>
    if (v - c.head).toNat ≤ (c.write - c.head).toNat then
      d.modRun s fun x => { x with snapshot := some ⟨qs, some { c with head := v }⟩ }
    else d.badIndex s 0 true
  | _ => d.badIndex s 0 true

/-- The home ridge has a portal write to serve: it wakes if it sleeps (16:R357). -/
def Dev.wakeHome (d : Dev) (s : Nat) : Dev :=
  d.modRidge (d.homeOf s) fun x => if x.power = 0 ∧ x.inService then { x with power := 1 } else x

/-- A ring register of a page that answers: queue 0 to 3, or 4 for CQ_HEAD. During a takeover the link ridges hold the
write (14:R326); a SAVED seam's are discarded (03:R79). -/
def Dev.portalIndex (d : Dev) (l : Lk) (s which : Nat) (v : BitVec 32) : Dev :=
  let x := d.seam s
  let d := d.wakeHome s
  if x.run.takeover then d.modRun s fun y => { y with heldPortal := y.heldPortal ++ [(which, v)] }
  else if x.entry.state = .frozen then
    if x.entry.saved then d.portalDrop l else if which < 4 then d.snapTail s which v else d.snapHead s v
  else if which < 4 then d.tailWrite s which v else d.cqHead s v

/-- A portal write of a ring index: 8 bytes, or 4 bytes with the high half taken as zero (17:R370). -/
def Dev.portalWrite (d : Dev) (l : Lk) (s which size : Nat) (v : W64) : Dev :=
  if !d.answers l s then d.portalDrop l
  else if size = 8 ∨ size = 4 then d.portalIndex l s which (v.setWidth 32)
  else d

/-- PREFETCH_INVAL: the marked queues drop what they have prefetched and not dispatched, and read again from the SQ head
(04:R96). Only an 8-byte write takes effect (17:R370). -/
def Dev.invalidate (d : Dev) (s : Nat) (mask : W64) : Dev :=
  (List.range 4).foldl (init := d) fun d q =>
    if mask.getLsbD q then (d.modQueue s q fun k => { k with prefetch := [], reading := false }).fetch s q else d

end Sys2Proof.Machine
end

