-- ==== Sys2Proof/Machine/Grant.lean ====
section
/-! DEFINITION. The dispatch checks of stage 2 (05:R116, R408), arbitration (04:R97, R98), and the grant
(01:R23, 04:R94, R106, 08:R194 step 1). -/

namespace Sys2Proof.Machine

/-! ## What an opcode needs -/

/-- The key that a descriptor's field names; PREV names the last object of the chain (05:R119). -/
def Dev.named (d : Dev) (s : Nat) (h : W64) (elem : Nat) (prev : Option W64) : Except Nat KeyRef :=
  if h = BitVec.allOnes 64 ∧ elem ≠ 0 then
    match prev with
    | some p => d.resolve s p
    | none => .error 3
  else d.resolve s h

/-- The ALG of the key that KEY_A names, inline or by handle; 0 when it names none. -/
def Dev.algOf (d : Dev) (s : Nat) (x : Desc) (elem : Nat := 0) (prev : Option W64 := none) : Nat :=
  if x.inline then x.inlineAlg
  else match d.named s x.keyA elem prev with
  | .ok r => match d.material s r with
    | some k => tAlg k.template
    | none => 0
  | .error _ => 0

/-- The hash core of a hash ID: SHA-2 for 1 to 3, Keccak for the others (05:Table 5.15, 07:R173). -/
def hashClass (id : Nat) : EClass := if 1 ≤ id ∧ id ≤ 3 then .sha2 else .keccak

/-- The class of an ALG for KEY_GENERATE and KEY_DERIVE (05:Table 5.15). -/
def algClass (a : Nat) : EClass :=
  if isSymmetric a then .aes else if isKem a || isMldsa a then .lattice
  else if isSlh a then (if a % 2 = 1 then .sha2 else .keccak) else .drill

/-- A Deep service (05:Table 5.15). -/
def isDeep (op : Nat) : Bool := [0x0210, 0x0802, 0x0803, 0x0804, 0x0805, 0x0806].contains op

/-- The primary class of an operation, then the others it needs (05:Table 5.15, 06:R407), by the ALG of KEY_A; a Deep service
needs none at its grant, and the class that only a key decides is none where KEY_A names no key. A lattice opcode's Keccak
class is met by the sampler banks of its unit (07:R163). -/
def Desc.classes (x : Desc) (a : Nat) : List EClass :=
  let hash := if x.p 4 1 = 1 then [] else [hashClass (x.p 0 4)]
  match x.op with
  | 0x0101 | 0x0102 => .drill :: hash
  | 0x0104 => [.drill, hashClass (x.p 0 4)]
  | 0x0103 | 0x0105 | 0x0106 | 0x0107 | 0x0202 | 0x0203 | 0x0204 | 0x0302 | 0x0304 | 0x0F10 | 0x0F11 => [.drill]
  | 0x0201 => [.drill, hashClass (x.p 0 4)]
  | 0x0301 => if a = 0x302 then [.drill, .keccak] else if a = 0x301 then [.drill, .sha2] else [.drill]
  | 0x0303 => [.drill, .sha2]
  | 0x0401 | 0x0402 | 0x0411 | 0x0412 | 0x0F12 | 0x0F13 | 0x0F14 => [.lattice]
  | 0x0501 | 0x0502 => if isSlh a then [algClass a] else []
  | 0x0601 | 0x0602 | 0x0603 | 0x0604 | 0x0901 => [.aes]
  | 0x0701 | 0x0702 | 0x0704 | 0x0705 => [hashClass (x.p 0 4)]
  | 0x0703 => [.keccak]
  | 0x0801 => [algClass (tAlg x.keyB)]
  | 0x0807 => let c := algClass (tAlg x.keyB)
    if c = .keccak then [c] else [c, .keccak]
  | 0x0A01 | 0x0A02 | 0x0A03 => [.drill, .lattice, .sha2]
  | 0x0F01 => [.core]
  | _ => []

/-- The classes that a descriptor needs. -/
def Dev.classes (d : Dev) (s : Nat) (x : Desc) (elem : Nat := 0) (prev : Option W64 := none) : List EClass :=
  x.classes (d.algOf s x elem prev)

/-- The classes of a job, by the key that it holds: a key consumed or destroyed since its grant changes nothing. -/
def Job.classes (j : Job) : List EClass :=
  j.desc.classes (match j.keyA with
    | some k => tAlg k.template
    | none => j.desc.inlineAlg)

/-- A job is dispatched again when its engine is lost (05:Table 5.15). -/
def replayable (op : Nat) : Bool :=
  !([0x0203, 0x0304, 0x0210, 0x0401, 0x0402, 0x0704, 0x0705, 0x0801, 0x0807, 0x0802, 0x0A03, 0x0F01].contains op)

/-- An ALG whose public part is a scalar multiplication by the private value (06:R144). -/
def hasComb (a : Nat) : Bool := isCurve a || isEd a || isX a

/-- What an operation draws (05:R118, 12:R288): blinding, nonces, ephemeral keys, IVs, key generation, the PSS salt, the
bases of CURVE_LOAD (06:R148), projective coordinates (06:R144), the nonce of a blob (08:R202). -/
def Desc.draws (x : Desc) : Draws :=
  if x.op = 0x0901 then .host
  else if [0x0101, 0x0102, 0x0104, 0x0105, 0x0106, 0x0201, 0x0203, 0x0210, 0x0301, 0x0303, 0x0304, 0x0401, 0x0801, 0x0805,
      0x0A01, 0x0A03, 0x0F10, 0x0F11].contains x.op ||
    (([0x0411, 0x0501].contains x.op) && x.p 5 1 == 0) || (x.op == 0x0601 && x.p 0 1 == 1) ||
    (x.op == 0x0803 && x.p 0 1 == 1) || (x.op == 0x0807 && hasComb (tAlg x.keyB)) ||
    (makesKey x.op && x.op != 0x0A03 && tBlob x.keyB) then .internal
  else .no

/-- No engine of some class that the operation needs remains (05:R408, 11:R277). A Deep service drives what engines there
are; CURVE_LOAD runs its checks in software without a drill (06:R149). -/
def Dev.functionOff (d : Dev) (s : Nat) (x : Desc) (elem : Nat := 0) (prev : Option W64 := none) : Bool :=
  (d.classes s x elem prev).any fun c => !d.classExists c

/-! ## Stage 2 -/

/-- Usage bits (05:Table 5.3) that an operation needs of KEY_A: any one of the mask. -/
def Desc.usageA (x : Desc) : Nat :=
  match x.op with
  | 0x0101 | 0x0102 | 0x0201 | 0x0301 | 0x0411 | 0x0501 | 0x0A01 => 1
  | 0x0103 | 0x0202 | 0x0302 | 0x0412 | 0x0502 | 0x0A02 => 2
  | 0x0104 | 0x0402 | 0x0602 => 8
  | 0x0105 | 0x0401 | 0x0601 => 4
  | 0x0106 => 0x100
  | 0x0107 => 6
  | 0x0203 | 0x0304 | 0x0704 | 0x0705 | 0x0807 | 0x0A03 | 0x0F10 | 0x0F11 => 0x10
  | 0x0603 => if x.p 0 1 = 0 then 4 else 8
  | 0x0604 | 0x0702 | 0x0703 => 0x80
  | 0x0802 => 0x40
  | _ => 0

/-- Usage bits that an operation needs of KEY_B. -/
def Desc.usageB (x : Desc) : Nat :=
  match x.op with
  | 0x0803 => 0x20 | 0x0A01 => 1 | 0x0A02 => 2 | 0x0A03 => 8 | _ => 0

/-- The algorithm and size of KEY_A suit the opcode and PARAM (0x0102 otherwise; 05:Tables 5.7 to 5.12, R135, R137). -/
def Dev.suitsA (x : Desc) (k : KeyMat) : Bool :=
  let a := tAlg k.template
  let h := x.p 0 4
  match x.op with
  | 0x0101 | 0x0102 | 0x0103 | 0x0104 | 0x0105 | 0x0106 | 0x0107 => isRsa a
  | 0x0201 | 0x0202 | 0x0203 => isCurve a
  | 0x0301 | 0x0302 => isEd a
  | 0x0304 => isX a
  | 0x0401 | 0x0402 => isKem a
  | 0x0411 | 0x0412 => isMldsa a
  | 0x0501 | 0x0502 => isSlh a
  | 0x0601 | 0x0602 | 0x0604 => isAes a
  | 0x0603 => isXts a
  | 0x0702 => a == 0x10
  | 0x0703 => a == 0x11
  | 0x0704 => a == 0x12 || (a == 0x10 && decide (h ≤ 3)) || (a == 0x11 && decide (9 ≤ h))
  | 0x0705 => a == 0x10 || a == 0x12
  | 0x0802 => if x.p 0 1 = 0 then isAes a else isKem a
  | 0x0807 => (a == 0x12 || a == 0x11) && decide (32 ≤ tLen k.template)
  | 0x0A01 | 0x0A02 => a == (signSuite h).1
  | 0x0A03 => a == (kemSuite h).1
  | 0x0F10 | 0x0F11 => a == 0x12
  | _ => true

/-- The algorithm of KEY_B suits the opcode, where KEY_B is a handle. -/
def Dev.suitsB (x : Desc) (k : KeyMat) : Bool :=
  let a := tAlg k.template
  match x.op with
  | 0x0803 => if x.p 0 1 = 0 then isAes a else isKem a
  | 0x0A01 | 0x0A02 => a == (signSuite (x.p 0 4)).2
  | 0x0A03 => a == (kemSuite (x.p 0 4)).2
  | _ => true

/-- KEY_B carries a handle. -/
def Desc.handleB (x : Desc) : Bool :=
  x.op == 0x0803 || x.op == 0x0A01 || (x.op == 0x0A02 && x.keyA != 0) || (x.op == 0x0A03 && x.p 4 1 == 1)

/-- KEY_A carries a handle: used, and not 0 where 0 is allowed (05:R119, R120, R131). -/
def Desc.handleA (x : Desc) : Bool :=
  x.usesA && decide (x.op < 0x8000) && !x.inline && !(x.op == 0x0804 && x.param != 0)

/-- KEY_B carries a template. -/
def Desc.templateB (x : Desc) : Bool :=
  [0x0203, 0x0304, 0x0401, 0x0402, 0x0704, 0x0705, 0x0801, 0x0802, 0x0807, 0x0F10].contains x.op

/-- The length of the shared secret an operation makes (05:R123). -/
def Dev.secretLen (d : Dev) (s : Nat) (x : Desc) (k : Option KeyMat) : Nat :=
  match x.op with
  | 0x0203 => d.lp s (match k with | some k => tAlg k.template | none => 0)
  | 0x0304 => (match k with | some k => if tAlg k.template = 0x303 then 32 else 56 | none => 32)
  | 0x0F10 => x.inLen.toNat / 2
  | _ => 32

/-- The operation's template must name a shared secret. -/
def makesSecret (op : Nat) : Bool := [0x0203, 0x0304, 0x0401, 0x0402, 0x0A03, 0x0F10].contains op

/-- A template's judgement: the detail of KEY_POLICY (05:R408 step 4, R121, R123, R135). -/
def Dev.templateFault (d : Dev) (s : Nat) (x : Desc) (t : W64) (k : Option KeyMat) : Option Nat :=
  let a := tAlg t
  let short := x.op == 0x0203 && (match k with
    | some k => isLoadedCurve (tAlg k.template) && decide (d.lp s (tAlg k.template) < 16)
    | none => false)
  if !templateOk t short then some 0x104
  else if makesSecret x.op then
    if a ≠ 0x12 then some 0x102 else if tLen t ≠ d.secretLen s x k then some 0x104 else none
  else if x.op = 0x0704 ∨ x.op = 0x0705 then if isSymmetric a then none else some 0x102
  else if x.op = 0x0807 && isRsa a then some 0x102
  else if isLoadedCurve a && (d.curve s (a - 0x2C0)).isNone then some 0x102
  else none

/-- The output of a key made on a loaded curve: its public point, and its blob with AS_BLOB (05:Table 5.12, 08:R202). -/
def Dev.curveOut (d : Dev) (s : Nat) (t : W64) : Nat :=
  let pub := d.pubLen s (tAlg t) 0
  pub + if tBlob t then 64 + d.ln s (tAlg t) + pub else 0

/-- Lengths that a key decides (0x0201; 05:R129): of IN, then of OUT. -/
def Dev.keyLensOk (d : Dev) (s : Nat) (x : Desc) (ka kb : Option KeyMat) : Bool :=
  let n := x.inLen.toNat
  let o := x.outLen.toNat
  let h := x.p 0 4
  let pre := x.p 4 1 == 1
  match ka with
  | none =>
    if x.op = 0x0204 && decide (0xC0 ≤ x.p 8 8) then
      let a := 0x200 + x.p 8 8
      ((d.pointLens s a).any fun m => n == d.ln s a + m) && decide (d.pubLen s a 0 ≤ o)
    else if x.op = 0x0202 && decide (0xC0 ≤ x.p 8 8) then
      let r := 2 * d.ln s x.inlineAlg
      (d.pointLens s x.inlineAlg).contains x.auxLen.toNat && if pre then n == r + digestLen h else decide (r ≤ n)
    else if x.op = 0x0801 && isLoadedCurve (tAlg x.keyB) then decide (d.curveOut s x.keyB ≤ o)
    else true
  | some k =>
    let a := tAlg k.template
    let kk := k.rsaK
    let blob := if makesKey x.op && tBlob x.keyB then 64 + tLen x.keyB else 0
    match x.op with
    | 0x0101 | 0x0102 => decide (kk ≤ o)
    | 0x0103 => if pre then n == kk + digestLen h else decide (kk ≤ n)
    | 0x0104 => decide (2 + kk ≤ n) && decide (kk - 2 * digestLen h - 2 ≤ o)
    | 0x0105 => decide (kk ≤ o)
    | 0x0106 | 0x0107 => n == kk && decide (kk ≤ o)
    | 0x0201 => decide (2 * d.ln s a ≤ o)
    | 0x0202 => if pre then n == 2 * d.ln s a + digestLen h else decide (2 * d.ln s a ≤ n)
    | 0x0203 => (d.pointLens s a).contains n && decide (blob ≤ o)
    | 0x0304 => n == d.pubLen s a 0 && decide (blob ≤ o)
    | 0x0301 | 0x0411 | 0x0501 => decide (sigLen a ≤ o)
    | 0x0401 => decide (ctLen a + blob ≤ o)
    | 0x0402 => n == ctLen a && decide (blob ≤ o)
    | 0x0704 | 0x0705 => decide (blob ≤ o)
    | 0x0807 => !isLoadedCurve (tAlg x.keyB) || decide (d.curveOut s x.keyB ≤ o)
    | 0x0802 => if x.p 0 1 = 0 then decide (16 ≤ n) && n % 8 == 0 else decide (ctLen a + 16 ≤ n)
    | 0x0803 =>
      let body := 8 + k.priv.length
      let kwp := 8 * ((body + 7) / 8) + 8
      decide (kwp + (match kb with | some b => if isKem (tAlg b.template) then ctLen (tAlg b.template) else 0 | none => 0) ≤ o)
    | _ => true

/-- What stage 2 passes on: the keys, the references to consume or pin, whether an object is reserved, and the granules
reserved for its entry (08:R187). -/
structure Passed where
  keyA : Option KeyMat
  keyB : Option KeyMat
  refs : List KeyRef
  creates : Bool
  room : Nat

/-- SINGLE_USE resident keys among references: they count as released in the quota check (08:R200). -/
def Dev.released (d : Dev) (s : Nat) (rs : List KeyRef) : Nat :=
  rs.countP fun r => match r with
    | .resident _ => (match d.material s r with | some k => tSingle k.template | none => false)
    | .cached _ => false

/-- An inline key or a scalar multiplication names a curve slot that the seam has not loaded. -/
def Dev.unloaded (d : Dev) (s : Nat) (x : Desc) : Bool :=
  (x.op == 0x0204 || (x.op == 0x0202 && x.inline)) && decide (0xC0 ≤ x.p 8 8) && (d.curve s (x.p 8 8 - 0xC0)).isNone

/-- The granules of the entry that an operation will create (08:R187): exact for a curve and for a generated key, an upper
bound for RSA (08:Table 8.3) and for a wrapped key, whose private encoding is no longer than its wrapping (log 41). -/
def Dev.entryRoom (d : Dev) (s : Nat) (x : Desc) (t : W64) (ka : Option KeyMat) : Nat :=
  let a := tAlg t
  let pub := if isRsa a then 0 else d.pubLen s a 0
  if x.op = 0x0210 then granulesOf x.inLen.toNat
  else if x.op = 0x0802 then
    let ct := match ka with
      | some k => if x.p 0 1 = 1 then ctLen (tAlg k.template) else 0
      | none => 0
    granulesOf (x.inLen.toNat - 16 - ct + pub)
  else granulesOf (d.privLen s a (x.param.toNat / 8) (tLen t) + pub)

/-- An operation of a template creates a resident object (05:R123). -/
def Desc.stores (x : Desc) (t : W64) : Bool := makesKey x.op && !tBlob t

/-- Steps 4 to 7 of 05:R408 for a template: its validity and ALG, the export rules, the lengths that a key decides, the
quota, the capacity; what passes is whether an object is reserved, and its granules. -/
def Dev.stage2Late (d : Dev) (s : Nat) (x : Desc) (t : W64) (ka kb : Option KeyMat) (released : Nat) :
    Except Verdict (Bool × Nat) :=
  let bad := fun (st : BitVec 16) (c : Nat) => (.error (refuse st c) : Except Verdict (Bool × Nat))
  match (if x.templateB || x.op == 0x0A03 then d.templateFault s x t ka else none) with
  | some c => bad stKeyPolicy c
  | none =>
    let str := fun (k : KeyMat) => strength (tAlg k.template) (tLen k.template) (d.keyBits s k)
    if x.op = 0x0803 && (match ka with | some k => !tExportable k.template || tNever k.template | none => false) then
      bad stKeyPolicy 0x103
    else if x.op = 0x0803 && (match ka, kb with | some a, some b => decide (str b < str a) | _, _ => false) then
      bad stKeyPolicy 0x105
    else if !d.keyLensOk s x ka kb then bad stBadLength 0x201
    else
      let creates := x.stores t
      if creates && decide ((d.seam s).entry.quota ≤ (d.seam s).run.keyCount - released) then bad stStoreFull 0x301
      else
        let room := if creates || x.op == 0x0210 then d.entryRoom s x t ka else 0
        if (d.holders s).any (fun r => decide (areaGranules < d.granulesUsed r + room)) && decide (0 < room) then
          bad stStoreFull 0x302
        else .ok (creates, room)

/-- The first refusal of 05:R408, or what passes. Form 2 of KEY_ATTEST does not run on a seam queue (05:R136). The template of
HYBRID_KEM lies in AUX: steps 4 to 7 wait until it has been read (log 42). A key whose entry does not open is no live entry
(log 34). -/
def Dev.stage2 (d : Dev) (s : Nat) (x : Desc) (elem : Nat) (prev : Option W64) : Except Verdict Passed :=
  let bad := fun (st : BitVec 16) (c : Nat) => (.error (refuse st c) : Except Verdict Passed)
  if x.op = 0x0805 && x.p 0 2 == 2 then bad stMode 0
  else if d.functionOff s x elem prev then bad stFunctionOff 0
  else
    match (if x.handleA then (d.named s x.keyA elem prev).map some else .ok none) with
    | .error c => bad stBadHandle c
    | .ok ra => match (if x.handleB then (d.resolve s x.keyB).map some else .ok none) with
    | .error c => bad stBadHandle c
    | .ok rb =>
      let ka := ra.bind (d.material s)
      let kb := rb.bind (d.material s)
      let policy := fun (k : Option KeyMat) (suits : KeyMat → Bool) (usage : Nat) =>
        match k with
        | none => none
        | some k => if !suits k then some 0x102
          else if usage ≠ 0 ∧ Nat.land (tUsage k.template) usage = 0 then some 0x101 else none
      if ra.isSome != ka.isSome || rb.isSome != kb.isSome then bad stBadHandle 1
      else if d.unloaded s x then bad stKeyPolicy 0x102
      else match policy ka (Dev.suitsA x) x.usageA with
      | some c => bad stKeyPolicy c
      | none => match policy kb (Dev.suitsB x) x.usageB with
      | some c => bad stKeyPolicy c
      | none =>
        let refs := ra.toList ++ rb.toList
        if x.op = 0x0A03 then .ok ⟨ka, kb, refs, false, 0⟩
        else match d.stage2Late s x x.keyB ka kb (d.released s refs) with
        | .error v => .error v
        | .ok (creates, room) => .ok ⟨ka, kb, refs, creates, room⟩

/-- A reference that passed stage 2: a SINGLE_USE key is consumed, an entry of the cache is used (05:R124, 08:R200,
R204). -/
def Dev.useKey (d : Dev) (s : Nat) (r : KeyRef) : Dev :=
  match r with
  | .resident i =>
    match d.keyEntry s i with
    | some e => if tSingle e.template then
        (d.modEntries (Entry.isKey s i) fun e => { e with consumed := true }).countKeys s (· - 1)
      else d
    | none => d
  | .cached n =>
    let d := d.touchCache s n
    d.modRidges fun x => { x with cache := x.cache.map fun c =>
      if c.seam = s ∧ c.number = n ∧ tSingle c.key.template then { c with consumed := true } else c }

/-- Resident SINGLE_USE indices among references. -/
def Dev.consumedBy (d : Dev) (s : Nat) (rs : List KeyRef) : List Nat :=
  rs.filterMap fun r => match r with
    | .resident i => (d.keyEntry s i).bind fun e => if tSingle e.template then some i else none
    | .cached _ => none

/-- KEY_DESTROY takes effect at its grant: the key is refused from then on and leaves the count (05:R124, 08:R200). -/
def Dev.markDestroyed (d : Dev) (s : Nat) (r : KeyRef) : Dev :=
  match r with
  | .resident i =>
    match d.keyEntry s i with
    | some _ => (d.modEntries (Entry.isKey s i) fun e => { e with consumed := true }).countKeys s (· - 1)
    | none => d
  | .cached n => d.modRidges fun x => { x with cache := x.cache.map fun c =>
      if c.seam = s ∧ c.number = n then { c with consumed := true } else c }

/-! ## Dispatch -/

/-- The read of a job's buffer is issued: outstanding, or failed at once when no link carries it or PASID is disabled
(03:R59, R60). -/
def Dev.readOf (d : Dev) (s len : Nat) (used : Bool) : ReadState :=
  if !used then .none
  else if len = 0 then .got []
  else match d.dmaLink s with
    | some l => if (d.link l).pasidEn then .waiting else .failed stPasidFault
    | none => .failed stReadFault

/-- Granules are reserved for a job on home and mirror, with an index when it creates a key (08:R187, R194 step 1). -/
def Dev.reserve (d : Dev) (n s : Nat) (creates : Bool) (room : Nat) : Dev :=
  let before := (d.holders s).map fun r => (r, d.granulesUsed r)
  let slot := if creates then some (d.freeIndex s) else none
  let d := if creates then d.countKeys s (· + 1) else d
  let d := d.modJob n fun y => { y with tail := { y.tail with slot := slot, room := room } }
  before.foldl (fun d e => d.checkFull e.1 e.2) d

/-- A job's keys, references and reads for one descriptor or chain element that passed stage 2. -/
def Dev.load (d : Dev) (j : JobRec) (x : Desc) (p : Passed) : Dev :=
  let s := j.job.seam
  let consumed := if x.op = 0x0804 then
      p.refs.filterMap fun r => match r with | .resident i => some i | .cached _ => none
    else d.consumedBy s p.refs
  let pins := p.refs.filterMap fun r => match r with | .cached n => some n | .resident _ => none
  let d := if x.op = 0x0804 then p.refs.foldl (fun d r => d.markDestroyed s r) d
    else p.refs.foldl (fun d r => d.useKey s r) d
  let inp := d.readOf s x.inLen.toNat x.usesIn
  let aux := d.readOf s x.auxLen.toNat (x.usesAux && !x.chain)
  (d.modJob j.num fun y => { y with
    job := { y.job with desc := x, keyA := p.keyA, keyB := p.keyB, inp := inp, aux := aux, result := none }
    tail := { y.tail with
      consumed := y.tail.consumed ++ consumed, pins := y.tail.pins ++ pins, partsDone := [], waitFrom := none, streamed := 0
      unreplayable := y.tail.unreplayable || !replayable x.op } }).reserve j.num s p.creates p.room

/-- The template of HYBRID_KEM has been read: steps 4 to 7 of 05:R408 are judged, and an object is reserved, or the job ends with
the refusal (log 42). -/
def Dev.lateStage (d : Dev) (n : Nat) : Dev :=
  match d.job? n with
  | none => d
  | some j =>
    match j.job.desc.op, j.job.aux.bytes? with
    | 0x0A03, some aux =>
      match d.stage2Late j.job.seam j.job.desc (BitVec.ofNat 64 (field aux 0 8)) j.job.keyA j.job.keyB 0 with
      | .error v => (d.rollback j).finish n (j.unrun v) true
      | .ok (creates, room) => d.reserve n j.job.seam creates room
    | _, _ => d

/-- A job takes its engine, or waits for one (01:R23, R405). -/
def Dev.place (d : Dev) (n : Nat) : Dev :=
  match d.job? n with
  | none => d
  | some j =>
    match d.choose (d.homeOf j.job.seam) j.job.classes j.job.desc.draws with
    | some (r, b) =>
      (d.modJob n fun y => { y with
        job := { y.job with phase := .engine, ridge := r, blk := b, parts := [] }
        tail := { y.tail with partsDone := [], waitFrom := none, streamed := 0 } }).assign r b n
    | none => d.modJob n fun y => { y with job := { y.job with phase := .needsEngine } }

/-! ## Parts on engines of other classes (01:R404) -/

/-- The next part of a job, of another class, is given to an engine of its ridge as in step 4, or waits for one; a part that
does not run at once marks since when (01:R404). -/
def Dev.givePart (d : Dev) (n : Nat) (cs : List EClass) : Dev :=
  match d.job? n with
  | none => d
  | some j =>
    match cs[j.tail.partsDone.length]? with
    | none => d
    | some c =>
      let d := if j.job.parts.isEmpty then
          match d.pickEngine j.job.ridge c with
          | some b => (d.assign j.job.ridge b n).modJob n fun y => { y with job := { y.job with parts := [b] } }
          | none => d
        else d
      d.modJob n fun y =>
        if y.job.parts.any fun b => d.runsOn j.job.ridge b n then y
        else { y with tail := { y.tail with waitFrom := some (y.tail.waitFrom.getD d.clock) } }

/-- The delay of a job on a Keccak core: 26 cycles for each sampler permutation that ran there during it (07:R163). -/
def Engine.delay (e : Engine) : Nat := engNs (26 * e.perms)

/-- A part has run: its engine is wiped and free, and the wait before it counts in ENGINE_NS (01:R404), as does the delay that
samplers put on a Keccak core (07:R163). -/
def Dev.endPart (d : Dev) (n : Nat) : Dev :=
  match d.job? n with
  | none => d
  | some j =>
    let now := d.clock
    let late := (j.job.parts.map fun b => ((d.ridge j.job.ridge).engine b).delay).sum
    (j.job.parts.foldl (init := d) fun d b => d.release j.job.ridge b n).modJob n fun y =>
      { y with
        job := { y.job with parts := [] }
        tail := { y.tail with
          partsDone := y.tail.partsDone ++ y.job.parts, waitFrom := none
          ns := y.tail.ns + (now - y.tail.waitFrom.getD now) + late } }

/-- The part of a job runs on its engine now. -/
def Dev.partRuns (d : Dev) (n : Nat) : Bool :=
  match d.job? n with
  | none => false
  | some j => j.job.parts.any fun b => d.runsOn j.job.ridge b n

/-- The parts of an operation run one after another, each on an engine that is free again when it ends, until one has to
wait for its engine (01:R404). R404 leaves open which parts of an operation overlap: that none do, and that a part has run
once its operation's row finds it on its engine, is the model's choice (log 36). -/
def Dev.runParts (d : Dev) (n : Nat) (cs : List EClass) : Nat → Dev
  | 0 => d
  | k + 1 =>
    let d := d.givePart n cs
    if d.partRuns n then (d.endPart n).runParts n cs k else d

/-- Every part of a job has ended. -/
def Dev.partsEnded (d : Dev) (n : Nat) (cs : List EClass) : Bool :=
  match d.job? n with
  | none => false
  | some j => decide (cs.length ≤ j.tail.partsDone.length)

/-- A job without its engine takes another one; with no engine of its class left in the package it completes with
FUNCTION_OFF (01:R405, 07:R179). -/
def Dev.rePlace (d : Dev) (n : Nat) : Dev :=
  match d.job? n with
  | none => d
  | some j =>
    if j.job.classes.any fun c => !d.classExists c then (d.rollback j).finish n (j.unrun (refuse stFunctionOff 0)) true
    else d.place n

/-- A Deep service joins Keade's queue on the home ridge; during a Deep restart it ends with ABORT_DEEP_RESTART
(05:R400, 11:Table 11.3). -/
def Dev.queueDeep (d : Dev) (n : Nat) : Dev :=
  match d.job? n with
  | none => d
  | some j =>
    let r := d.homeOf j.job.seam
    (d.modJob n fun y => { y with job := { y.job with phase := .deepWait, ridge := r } }).modRidge r fun x =>
      { x with world := { x.world with waiting := x.world.waiting ++ [n] } }

/-- A tenant program takes its core at the grant (01:R31). -/
def Dev.placeProgram (d : Dev) (n : Nat) : Dev :=
  match d.job? n with
  | none => d
  | some j =>
    match d.choose (d.homeOf j.job.seam) [.core] .no with
    | some (r, b) =>
      (d.modJob n fun y => { y with job := { y.job with phase := .program, ridge := r, blk := b } }).modEngine r b fun e =>
        { e with running := some n }
    | none => d

/-- A new job record for a granted descriptor. -/
def Dev.newJob (d : Dev) (s q : Nat) (f : Fetched) : JobRec :=
  { num := d.nextJob
    job := { seam := s, queue := q, gen := (d.seam s).entry.gen, index := f.index, head := f.desc, desc := f.desc, elem := 0,
             chained := f.desc.chain, phase := .needsEngine, ridge := d.homeOf s, blk := 0, parts := [], keyA := none,
             keyB := none, inp := .none, aux := .none, result := none }
    tail := { arrival := f.arrival, granted := d.clock, started := d.clock, draining := none, ns := 0, partsDone := [],
              waitFrom := none, written := 0, streamed := 0, replayed := false, unreplayable := false, reran := false, slot := none,
              room := 0, created := [], handle := 0, prev := none, consumed := [], pins := [],
              discarded := false, link := none, prog := none } }

/-- A descriptor that passed stage 2 is dispatched: one CQ credit, one INFLIGHT, its keys, reads and engine. -/
def Dev.dispatch (d : Dev) (s q : Nat) (f : Fetched) (p : Passed) : Dev :=
  let j := d.newJob s q f
  let d := { d with jobs := d.jobs ++ [j], nextJob := d.nextJob + 1 }
  let d := d.modRun s fun x => { x with
    inflight := x.inflight + 1, cq := x.cq.map fun c => { c with held := c.held + 1 } }
  let d := d.load j f.desc p
  if isDeep f.desc.op then d.queueDeep j.num
  else if f.desc.op = 0x0F01 then d.placeProgram j.num
  else d.place j.num

/-- ARB counters of a ridge. -/
def Dev.modArb (d : Dev) (r : Nat) (f : Arb → Arb) : Dev := d.modRidge r fun x => { x with arb := f x.arb }

/-- A Deep service cannot be taken up: Deep restart under way (11:Table 11.3). -/
def Dev.deepDown (d : Dev) (s : Nat) : Bool := (d.ridge (d.homeOf s)).world.restarting

/-- The descriptor at a queue's head is granted: retired (04:R94, 05:R117), or dispatched. The SQ head advances; the
reported head waits for the mirror's acknowledgement, and for none while the seam is unmirrored (14:R321, R328). -/
def Dev.grant (d : Dev) (r s q : Nat) : Dev :=
  match ((d.seam s).queue q).prefetch with
  | [] => d
  | f :: rest =>
    let own := d.homeOf s = d.mirrorOf s
    let d := d.modQueue s q fun k =>
      { k with prefetch := rest, head := k.head + 1, reported := if own then k.reported + 1 else k.reported }
    let d := d.modArb r fun a => { a with grants := a.grants + 1 }
    let retire := fun (v : Verdict) => (d.modArb r fun a => { a with retired := a.retired + 1 }).retire s q f v
    let d := match f.bad with
      | some v => retire v
      | none =>
        if f.desc.op ≤ 1 then retire done
        else match d.stage2 s f.desc 0 none with
          | .error v => retire v
          | .ok p => if isDeep f.desc.op && d.deepDown s then retire (refuse stAbortDeep 0) else d.dispatch s q f p
    d.fetchSeam s

/-! ## Arbitration -/

/-- The descriptor at the head is held by a fence: an earlier one of its queue has not completed (04:R105). -/
def Dev.fenced (d : Dev) (s q : Nat) (f : Fetched) : Bool :=
  (f.desc.fence || f.desc.op == 1) && f.bad.isNone && !(d.queueJobs s q).isEmpty

/-- The head of a queue is retired under 04:R94, or stage 2 refuses it with FUNCTION_OFF for want of any engine. -/
def Dev.retires (d : Dev) (s : Nat) (f : Fetched) : Bool :=
  f.bad.isSome || decide (f.desc.op ≤ 1) || d.functionOff s f.desc

/-- An engine of every class is free somewhere under 01:R23, or the opcode is a Deep service, or no class is known because
KEY_A names no key: stage 2 refuses that one at its grant. -/
def Dev.engineFor (d : Dev) (s : Nat) (f : Fetched) : Bool :=
  isDeep f.desc.op || (d.classes s f.desc).isEmpty ||
    (d.choose (d.homeOf s) (d.classes s f.desc) f.desc.draws).isSome

/-- A queue is ready but for its engine (04:R97). -/
def Dev.queueReady (d : Dev) (s q : Nat) : Option Fetched :=
  let k := (d.seam s).queue q
  match k.state, k.prefetch with
  | .running, f :: _ => if f.mirrored && !d.fenced s q f then some f else none
  | .faulted, f :: _ => if f.mirrored && !d.fenced s q f then some f else none
  | _, _ => none

/-- The ridge whose dispatcher places a job: home of its seam, or for a program's request the ridge that runs the program
(10:R251). -/
def Dev.dispatcher (d : Dev) (j : JobRec) : Nat :=
  match j.tail.prog.bind fun t => d.progCore t.1 with
  | some (r, _) => r
  | none => d.homeOf j.job.seam

/-- Engines of these classes, drills not first, are kept out by the ceiling alone: no ridge can be chosen, and one could if the
admission rule did not count. -/
def Dev.keptOut (d : Dev) (cs : List EClass) : Bool :=
  match cs with
  | c :: _ => c != .drill && d.ridgeNums.any fun r => d.serves r && (d.ridge r).power == 2 && cs.all fun k => k.blocks.any (d.freeBut r)
  | [] => false

/-- A job of another class waits only for the governor: drill jobs give way (16:R360). -/
def Dev.drillsWait (d : Dev) : Bool :=
  (d.jobs.any fun j => j.job.phase == .needsEngine && d.keptOut j.job.classes &&
    (d.choose (d.dispatcher j) j.job.classes j.job.desc.draws).isNone) ||
  d.usedSeams.any fun s => (d.seam s).entry.state == .active && (List.range 4).any fun q =>
    match d.queueReady s q with
    | some f => d.keptOut (d.classes s f.desc) && !d.engineFor s f
    | none => false

/-- A queue is eligible (04:R97); a drill job also waits while another class's job is kept out by the ceiling. -/
def Dev.queueEligible (d : Dev) (s q : Nat) : Bool :=
  match d.queueReady s q with
  | some f => d.retires s f ||
      (d.engineFor s f && !((d.classes s f.desc).head? == some .drill && d.drillsWait))
  | none => false

/-- A seam is ready but for its queues (04:R97). -/
def Dev.seamReady (d : Dev) (s : Nat) : Bool :=
  let x := d.seam s
  x.entry.state == .active && x.run.freezing.isNone && x.run.destroying.isNone && !x.run.takeover &&
    decide (x.run.inflight < x.entry.slotQuota.toNat) && x.run.creditFree

/-- A seam is eligible (04:R97). -/
def Dev.seamEligible (d : Dev) (s : Nat) : Bool := d.seamReady s && (List.range 4).any (d.queueEligible s)

/-- The first of a circular ascending order after `cur`, `cur` itself last, that satisfies a test (04:R98). -/
def nextAfter (cur : Nat) (ns : List Nat) (p : Nat → Bool) : Option Nat :=
  ((ns.filter fun n => decide (cur < n)) ++ ns.filter fun n => decide (n ≤ cur)).find? p

/-- The queue-level round of 04:R98: the queue to grant, with the seam's counters after it. -/
def Dev.pickQueue (d : Dev) (s : Nat) : Option (Nat × SeamRun) :=
  let x := (d.seam s).run
  let ok := (List.range 4).map (d.queueEligible s)
  let el := fun (q : Nat) => ok.getD q false
  let cr := fun (qs : List Queue) (q : Nat) => (qs.getD q Queue.blank).credit
  let bl := fun (qs : List Queue) (q : Nat) => (qs.getD q Queue.blank).bleft
  let qs := if (List.range 4).any fun q => el q && decide (0 < cr x.queues q) then x.queues
    else x.queues.map fun k => if k.state = .none then k else { k with credit := k.weight, bleft := k.burst }
  let pick :=
    if el x.cur && decide (0 < cr qs x.cur) && decide (0 < bl qs x.cur) then some (x.cur, qs)
    else
      let qs := qs.modify x.cur fun k => if k.bleft = 0 then { k with bleft := k.burst } else k
      (nextAfter x.cur (List.range 4) fun q => el q && decide (0 < cr qs q)).map fun q => (q, qs)
  pick.map fun (q, qs) =>
    (q, { x with cur := q, queues := qs.modify q fun k => { k with credit := k.credit - 1, bleft := k.bleft - 1 } })

/-- A seam's credit never exceeds its WEIGHT (03:R68, 04:R98). -/
def Dev.capCredits (d : Dev) (ss : List Nat) : Dev :=
  ss.foldl (fun d s => d.modSeam s fun x =>
    { x with run := { x.run with credit := min x.run.credit x.entry.weight.toNat } }) d

/-- The seam-level round of 04:R98: refill, choice of the seam, then of its queue, then the grant. REFILLS counts the refills
of the seams' counters; whether one between the queues of a seam counts too is open, and that it does not is the model's choice
(log 40). -/
def Dev.decideGrant (d : Dev) (r : Nat) : Dev :=
  let ss := d.homedOn r
  let d := d.capCredits ss
  let el := ss.filter d.seamEligible
  if el.isEmpty then d
  else
    let d := d.modArb r fun a => { a with eligible := BitVec.ofNat 14 el.length }
    let d := if el.any fun s => Nat.blt 0 (d.seam s).run.credit then d
      else (ss.foldl (fun d s => if (d.seam s).entry.state = .active then d.modSeam s fun x =>
            { x with run := { x.run with credit := x.entry.weight.toNat, bleft := x.entry.burst.toNat } } else d) d).modArb r
          fun a => { a with refills := satInc a.refills }
    let cur := (d.ridge r).arb.cur.toNat
    let x := (d.seam cur).run
    let stay := el.contains cur && Nat.blt 0 x.credit && Nat.blt 0 x.bleft
    let d := if stay || !(ss.contains cur) || x.bleft != 0 then d
      else d.modSeam cur fun y => { y with run := { y.run with bleft := y.entry.burst.toNat } }
    match (if stay then some cur else nextAfter cur ss fun s => el.contains s && Nat.blt 0 (d.seam s).run.credit) with
    | none => d
    | some s =>
      let d := d.modArb r fun a => { a with cur := BitVec.ofNat 13 s }
      match d.pickQueue s with
      | none => d
      | some (q, x) =>
        (d.modRun s fun _ => { x with credit := x.credit - 1, bleft := x.bleft - 1 }).grant r s q

/-- Queues of the ridge passed over for want of a free engine (01:R24). -/
def Dev.skipped (d : Dev) (r : Nat) : List (Nat × Fetched) :=
  ((d.homedOn r).filter d.seamReady).flatMap fun s =>
    (List.range 4).filterMap fun q =>
      (d.queueReady s q).bind fun f => if !d.retires s f && !d.engineFor s f then some (s, f) else none

/-- Jobs that wait for an engine come before every descriptor not yet granted, and so do parts that wait for one
(01:R404, R405, 04:R106). A drill job waits on while another class's job is kept out by the ceiling (16:R360). -/
def Dev.placeWaiting (d : Dev) (r : Nat) : Dev :=
  let d := (d.jobs.filter fun j => j.job.phase == .needsEngine && d.dispatcher j == r).foldl (init := d) fun d j =>
    if j.job.classes.head? == some .drill && d.drillsWait then d else d.rePlace j.num
  (d.jobs.filter fun j => j.job.phase == .engine && j.job.ridge == r && j.tail.waitFrom.isSome).foldl (init := d) fun d j =>
    d.givePart j.num (j.job.classes.drop 1)

/-- GRANT_DECISION of a ridge's dispatcher. -/
def Dev.grantDecision (d : Dev) (r : Nat) : Dev :=
  if d.working && d.serves r && (d.ridge r).power == 2 then
    let d := d.placeWaiting r
    if d.fetching then
      let sk := d.skipped r
      let d := d.modArb r fun a => { a with skips := satInc a.skips sk.length }
      let d := match sk with
        | (s, f) :: _ => d.requestWake r (d.classes s f.desc)
        | [] => d
      d.decideGrant r
    else d
  else d

end Sys2Proof.Machine
end

