-- ==== Sys2Proof/Machine/Modes.lean ====
section
/-! DEFINITION. The mode record and mode changes (02), orders that lapse (09:R222), tamper classes, the tamper response
and Firedamp, and the Vigil domain (13). -/

namespace Sys2Proof.Machine

/-! ## Orders: what may open and execute in a mode -/

/-- A defined order kind (09:Table 9.3). -/
def kindDefined (k : Nat) : Bool := decide (1 ≤ k ∧ k ≤ 15) || decide (0x20 ≤ k ∧ k ≤ 0x25)

/-- A seam kind, or SEAM_RECUSTODY. -/
def kindSeam (k : Nat) : Bool := k == 15 || decide (0x20 ≤ k ∧ k ≤ 0x25)

/-- A kind may open in a mode (02:Table 2.5). `release`: the direction of a RANGE_FREEZE order. -/
def kindOpens (k : Nat) (release : Bool) (m : Mode) : Bool :=
  kindDefined k &&
  match m with
  | .blank => k == 1
  | .commission => [2, 3, 5, 6, 7, 8, 9].contains k
  | .service => !([1, 2, 3, 4].contains k)
  | .freeze => (k == 11 && release) || [12, 13, 5, 9].contains k
  | .locked => k == 4 || k == 5
  | _ => false

/-- A direct kind executes in a mode (09:Table 9.3). -/
def kindRuns (k : Nat) (release : Bool) (m : Mode) : Bool :=
  match k with
  | 1 => m == .blank
  | 2 | 3 | 6 => m == .commission
  | 4 => m == .locked
  | 5 => m == .commission || m == .service || m == .freeze || m == .locked
  | 7 | 8 => m == .commission || m == .service
  | 9 => m == .commission || m == .service || m == .freeze
  | 11 => if release then m == .freeze else m == .service
  | 12 | 13 => m == .freeze
  | _ => m == .service

/-- STATE of an order as QRM encodes it (09:Table 9.6). -/
def OrderState.code : OrderState → Nat
  | .pending => 1 | .armed => 2 | .done => 3 | .refused => 4 | .superseded => 5 | .cancelled => 6 | .lapsed => 7

/-- An order is PENDING or ARMED. -/
def Order.isOpen (o : Order) : Bool := o.state == .pending || o.state == .armed

/-- The release direction of a RANGE_FREEZE order. -/
def Order.release (o : Order) : Bool := (slice o.body 0 1).any fun b => b.getLsbD 0

/-- An order changes state: event 44 (09:R225). -/
def Dev.setOrder (d : Dev) (n : Nat) (st : OrderState) : Dev :=
  let d := d.modQuorum fun q => { q with
    orders := q.orders.map fun (o : Order) => if o.num = n then { o with state := st } else o }
  let seam := (d.quorum.orders.find? fun o => o.num == n).bind fun o => if kindSeam o.kind then some o.seam else none
  d.pkgEvent 44 (n % 2 ^ 24 + st.code * 2 ^ 24) seam

/-- Open orders of a test lapse. -/
def Dev.lapse (d : Dev) (p : Order → Bool) : Dev :=
  (d.quorum.orders.filter fun o => o.isOpen && p o).foldl (fun d o => d.setOrder o.num .lapsed) d

/-! ## The mode record (02:R36) -/

/-- EXTEST ends: BYPASS takes its place (18:R397). -/
def Dev.closeExtest (d : Dev) : Dev :=
  if d.access.instruction = 3 then d.modAccess fun a => { a with instruction := 0xFF, scanOut := 0 } else d

/-- The EXTEST permit closes (09:R225). -/
def Dev.closePermit (d : Dev) : Dev := d.modQuorum fun q => { q with permitEnd := none }

/-- Write 1: the new record goes into the proposed slot with the sequence raised. -/
def Dev.propose (d : Dev) (m : Mode) (prior : BitVec 3) (exported : Bool) : Dev :=
  let seq := (d.vigil.current.map (·.seq)).getD 0 + 1
  d.modVigil fun v => { v with proposed := some ⟨m, prior, exported, seq⟩, commit := false }

/-- Write 2: the MRAM copy on ridges 0 and 1 takes the proposed record. -/
def Dev.copyRecord (d : Dev) : Dev := { d with modeCopy := d.vigil.proposed }

/-- Write 3: the commit bit makes the proposed slot current. -/
def Dev.commitRecord (d : Dev) : Dev :=
  d.modVigil fun v => { v with current := v.proposed, proposed := none, commit := false }

/-- DEV.MODE takes the record's values, with its shadow. -/
def Dev.showMode (d : Dev) (m : Mode) (prior : BitVec 3) (exported : Bool) : Dev :=
  { d with mode := .of m.bits, prior := .of prior, exported := exported }

/-- A mode change: the three writes, DEV.MODE, event 32, the orders and the permit that the new mode ends (02:R36,
09:R222, R225). EXTEST gives way in a mode that does not allow it (18:R397). -/
def Dev.changeMode (d : Dev) (m : Mode) (prior : BitVec 3 := 0) (exported : Bool := false) : Dev :=
  let old := d.mode.val.toNat
  let d := (((d.propose m prior exported).copyRecord).commitRecord).showMode m prior exported
  let d := d.pkgEvent 32 (m.bits.toNat + old * 16)
  let d := d.lapse fun o => !kindOpens o.kind o.release m
  if m == .locked || m == .zeroized then d.closePermit.closeExtest
  else if m == .blank || m == .factory || d.quorum.permitEnd.isSome then d else d.closeExtest

/-! ## Erasures -/

/-- Blanks of the tamper configuration: the class defaults and CTRL at their reset values; fuse-offs and
the power envelope stay. -/
def Dev.defaultTamp (d : Dev) : Dev :=
  (d.modTamp fun x => { x with
    classPkg := Tamp.reset.classPkg, classRidge := Tamp.reset.classRidge, vigilMode := .of 0, outOnL := .of 0,
    outMs := .of 10, tinPol := .of 0 }).modPower fun x => { x with pers := x.pers.filter fun e => e.1 < 1024 || e.1 == 1029 }

/-- VSALT is erased in the Vigil domain and in every key derivation unit: nothing below SRK can be derived, and no entry opens
(08:R183, R211). -/
def Dev.eraseVsalt (d : Dev) : Dev :=
  { (d.modVigil fun v => { v with vsalt := none }).modRidges fun x => { x with kdu := none } with unsealed := false }

/-- What commissioning has set beside VSALT and the device-level entries goes, but for blown fuses: classes, CTRL, CACHE.MODE,
NEIGHBOUR, countersignatures, decode table (02:R55, 13:R295). -/
def Dev.discardSettings (d : Dev) : Dev :=
  let d := d.defaultTamp.modFw fun f => { f with
    slot0 := f.slot0.map fun (i : FwImage) => { i with counter := false }
    slot1 := f.slot1.map fun (i : FwImage) => { i with counter := false } }
  { d with cacheMode := false, neighbour := true, decode := List.replicate 32 [] }

/-- Everything commissioning has set, except blown fuses, is discarded with VSALT (02:R37, R55). -/
def Dev.discardCommission (d : Dev) : Dev := (d.eraseVsalt.discardSettings).eraseEntries fun e => e.owner.isNone

/-- First Surface byte of a ridge. -/
def Ridge.lineByte (x : Ridge) : Nat := x.world.line.val.toNat * granule

/-- Deep SRAM is wiped. -/
def Ridge.wipeDeep (x : Ridge) : Ridge := { x with sram := memZero x.sram 0 x.lineByte }

/-- What every ridge wipes under 08:Table 8.10 step 3, 13:Table 13.2 step 5 and 06:R154: derived keys, key cache, spine keys,
Deep SRAM, DRBG states, engines. -/
def Ridge.firedamp (x : Ridge) : Ridge :=
  { x.wipeDeep with
    cache := [], rng := x.rng.wipe, kdu := none, engines := x.engines.map Engine.wiped, spine := { x.spine with key := none } }

/-- Firedamp wipes every ridge. -/
def Dev.firedampWipe (d : Dev) : Dev := { d.modRidges Ridge.firedamp with unsealed := false }

/-! ## Management commands under way at a cut (13:R306, 14:R332) -/

/-- A waiting command's work stops: what it froze, tested or activated is let go. -/
def Dev.stopWaiting (d : Dev) : Dev :=
  let one := fun (x : Seam) => { x with run := { x.run with
    freezing := none, destroying := none, resetting := none
    queues := x.run.queues.map fun (q : Queue) => { q with shutCmd := none } } }
  let d := (d.modSeams fun _ x => one x).modMq fun q => { q with barrier := none, activate := none, selftest := [], freeze := none }
  d.modRidges fun x => { x with engines := x.engines.map fun (e : Engine) => { e with testing := false } }

/-- Every MQ command under way but the spared ones completes with a status. -/
def Dev.abortCmds (d : Dev) (status : BitVec 16) (spared : List Nat) : Dev :=
  let cs := (d.mq.cmds.filter fun c => c.started && !spared.contains c.index.toNat).map fun c => c.index.toNat
  cs.foldl (fun d c => d.mqComplete c (refuse status 0)) d.stopWaiting

/-! ## Tamper classes (13:R295, R297, R302) -/

/-- A tamper source of the variant. -/
def Dev.isSource (d : Dev) (id : Nat) : Bool :=
  id < 22 || (64 ≤ id && d.populated ((id - 64) / 72) && (id - 64) % 72 < 10)

/-- The fuse of a source: MESH pairs 0 to 3, TIN inputs 4 to 11. -/
def fuseOf (id : Nat) : Option Nat := if id < 8 then some (id % 4) else if id < 16 then some (id - 4) else none

/-- A source is fused off. -/
def Dev.fusedOff (d : Dev) (id : Nat) : Bool :=
  match fuseOf id with
  | some f => d.tamp.fuseoff.val.getLsbD f
  | none => false

/-- The class field of a source; a fused-off one reads 0. -/
def Dev.classOfId (d : Dev) (id : Nat) : BitVec 2 :=
  if d.fusedOff id then 0
  else if id < 32 then d.tamp.classPkg.val.extractLsb' (2 * id) 2
  else d.tamp.classRidge.val.extractLsb' (2 * ((id - 64) % 72)) 2

/-- The floor of a source (13:Table 13.1). -/
def classFloor (id : Nat) : Nat :=
  if id < 32 then (if id = 18 ∨ id = 21 then 1 else 0)
  else if [5, 6, 8].contains ((id - 64) % 72) then 1 else 0

/-- A condition that lasts, and so shows in LIVE: all but the detectors, which find a failure at one moment (log 22). -/
def lasting (id : Nat) : Bool := id < 22 || (id - 64) % 72 < 7

/-- A source's condition is present. -/
def Dev.isLive (d : Dev) (id : Nat) : Bool :=
  if id < 32 then d.tamp.live.getLsbD id else (d.ridge ((id - 64) / 72)).live.getLsbD ((id - 64) % 72)

/-- LIVE and LATCH of a source that raises. -/
def Dev.markSource (d : Dev) (id : Nat) : Dev :=
  if id < 32 then
    d.modTamp fun t => { t with live := t.live ||| (1#32 <<< id), latch := t.latch ||| (1#32 <<< id) }
  else
    let off := (id - 64) % 72
    d.modRidge ((id - 64) / 72) fun x => { x with
      live := if lasting id then x.live ||| (1#16 <<< off) else x.live, latch := x.latch ||| (1#16 <<< off) }

/-- A cell, the capacitor or the crystal fails with its source, and returns when it clears (13:R312, R316). -/
def Dev.markSupply (d : Dev) (id : Nat) (ok : Bool) : Dev :=
  d.modVigil fun v =>
    match id with
    | 16 => { v with cellA := ok }
    | 17 => { v with cellB := ok }
    | 18 => { v with cellA := ok, cellB := ok }
    | 19 => { v with vholdOk := ok }
    | 20 => { v with xtalOk := ok }
    | _ => v

/-- A source's condition clears: LIVE drops, and it may raise again (13:R296). -/
def Dev.clearSource (d : Dev) (id : Nat) : Dev :=
  let d := if id < 32 then d.modTamp fun t => { t with live := t.live &&& ~~~(1#32 <<< id) }
    else d.modRidge ((id - 64) / 72) fun x => { x with live := x.live &&& ~~~(1#16 <<< ((id - 64) % 72)) }
  if id = 18 ∨ id = 19 then d else d.markSupply id true

/-! ## The response (13:R298, R304, R305) -/

/-- TAMPER_OUT_N goes low for OUT_MS from now (13:R299). -/
def Dev.driveOut (d : Dev) : Dev :=
  d.modPins fun p => { p with tamperOut := some (d.clock + d.tamp.outMs.val.toNat * 1000000) }

/-- A command executes an order in the cycle of a cut: ORDER_TOKEN, and the commands that an ARMED order authorises. -/
def MqCmd.executesOrder (c : MqCmd) : Bool :=
  c.started && c.bad.isNone && [0x8007, 0x8021, 0x8041, 0x8050, 0x8051, 0x8052].contains c.desc.opcode.toNat

/-- A waiting command whose order would have executed in the cycle of the cut completes with MODE_REFUSED: the modes that the cut
leads to refuse it (02:R38, Table 2.4). -/
def Dev.refuseWaiting (d : Dev) (spared : List Nat) : Dev :=
  (d.mq.cmds.filter fun c => c.waiting && spared.contains c.index.toNat).foldl (init := d) fun d c =>
    d.mqComplete c.index.toNat (refuse stMode (if c.desc.opcode = 0x8050 then 0x000E else 0))

/-- The tamper cut: jobs that have not ended and MQ commands under way are aborted (13:R305, R306), but for the commands that
execute an order in the same spine cycle: the mode after the cut decides them (02:R38). -/
def Dev.cut (d : Dev) (status : BitVec 16) (hold : Bool) (spared : List Nat := []) : Dev :=
  let spared := (d.mq.cmds.filter fun c => c.executesOrder && spared.contains c.index.toNat).map fun c => c.index.toNat
  let d := d.stamp fun t c => { t with cut := c }
  ((d.abortJobs d.notEnded status hold).abortCmds status spared).refuseWaiting spared

/-- A ridge that sleeps starts its PLL for a class Z event (13:R308). -/
def Dev.wakeAll (d : Dev) : Dev :=
  d.modRidges fun x => if x.power = 0 ∧ x.inService then { x with power := 1 } else x

/-- The class L response. -/
def Dev.respondL (d : Dev) (spared : List Nat := []) : Dev :=
  match d.live with
  | .locked | .zeroized | .vigil => d
  | m =>
    let d := if d.tamp.outOnL.val = 1 then d.driveOut else d
    match m with
    | .service => (d.changeMode .locked 3).cut stAbortTamper true spared
    | .freeze => (d.changeMode .locked 4 d.exported).cut stAbortTamper true spared
    | .commission => (d.discardCommission.changeMode .blank).cut stAbortTamper true spared
    | _ => d.cut stAbortTamper true spared

/-- The class Z response: in FACTORY and BLANK the mode stays and no scrub follows (02:R37, 13:Table 13.5). -/
def Dev.respondZ (d : Dev) (spared : List Nat := []) : Dev :=
  let d := d.driveOut.wakeAll
  match d.live with
  | .factory | .blank => (d.cut stAbortTamper false spared).firedampWipe
  | .zeroized => d.firedampWipe.modPins fun p => { p with firedamp := true }
  | .vigil => d
  | _ =>
    let d := (d.eraseVsalt.changeMode .zeroized).modPins fun p => { p with firedamp := true, zeroOut := true }
    (d.cut stAbortTamper false spared).firedampWipe

/-- The response to a class, once (13:R304). -/
def Dev.respond (d : Dev) (cls : BitVec 2) (spared : List Nat := []) : Dev :=
  if cls = 1 then d.respondL spared else if 2 ≤ cls.toNat then d.respondZ spared else d

/-- The ridge that raises a source's event; none for the always-on domain. -/
def sourceRidge (id : Nat) : Option Nat := if id < 32 then none else some ((id - 64) / 72)

/-- A source whose DETAIL carries a reading: the temperature in °C, or the failing block (13:R314). -/
def reports (id : Nat) : Bool := decide (64 ≤ id) && [3, 4, 7].contains ((id - 64) % 72)

/-- One event of a source is recorded with its class and DETAIL (13:R304, R314). -/
def Dev.recordSource (d : Dev) (h : TamperHit) (cls : BitVec 2) : Dev :=
  let d := (d.markSource h.id).markSupply h.id false
  let d := d.raise (sourceRidge h.id) h.id cls (tamperDetail (if reports h.id then h.reading else 0) cls d.live false)
  d.modTamp fun t => { t with lastId := BitVec.ofNat 10 h.id, lastClass := cls }

/-- A source is armed: shadow comparison from power-up step 4, the spine's from step 6, the fault-injection detectors when the
engines have started in step 7, every other from before step 3 (13:R307). -/
def Dev.armed (d : Dev) (id : Nat) : Bool :=
  id < 64 || (match (id - 64) % 72 with
    | 7 => decide (7 ≤ d.boot.step)
    | 8 => decide (4 ≤ d.boot.step)
    | 9 => decide (6 ≤ d.boot.step)
    | _ => true)

/-- The hits of a spine cycle that raise: sources of the variant that are armed, neither fused off nor persisting, once each, in
ascending ID (13:R296, R302, R304, R307). -/
def Dev.raising (d : Dev) (hs : List TamperHit) : List TamperHit :=
  (List.range 640).filterMap fun id =>
    if d.isSource id && d.armed id && !d.fusedOff id && !d.isLive id then hs.find? fun h => h.id == id else none

/-- The highest class of a list. -/
def highest (cs : List (BitVec 2)) : BitVec 2 := cs.foldl (fun a b => if a.toNat < b.toNat then b else a) 0

/-- TAMPER_EVENT: every source of one spine cycle is recorded, and the highest class applies once. Before step 3 of a
power-up the events are held (13:R298, R304, R307). `orders`: the MQ commands that execute an order in the same cycle
(02:R38). It is of a later cycle than a class write, an order or a tamper event before it, so it takes the classes that the
write left (13:R297; log 18). -/
def Dev.tamper (d : Dev) (hs : List TamperHit) (orders : List Nat := []) : Dev :=
  if d.pins.inVigil || !d.pins.mainPower then d
  else
    let hs := d.raising hs
    let d := if hs.isEmpty then d else d.stampTamper
    let cs := hs.map fun h => d.classOfId h.id
    let e := hs.foldl (fun e h => e.recordSource h (d.classOfId h.id)) d
    if d.boot.step < 3 then
      e.modPins fun p => { p with held := p.held ++ hs.map fun h => (h.id, d.classOfId h.id) }
    else e.respond (highest cs) orders

/-- A shadow mismatch that a ridge finds (13:R303). -/
def Dev.mismatch (d : Dev) (r : Nat) : Dev := d.tamper [⟨ridgeId r 8, 0⟩]

/-- A failing check of a ridge's block (13:R145 text in R314): the fault-injection source, DETAIL the block bit. -/
def Dev.injection (d : Dev) (r : Nat) (blk : BitVec 16) : Dev := d.tamper [⟨ridgeId r 7, blk⟩]

/-! ## The Vigil domain (13:R310 to R313) -/

/-- A new record: a full log gives up its oldest class N record, or loses the new one (13:R313). -/
def Vigil.add (v : Vigil) (x : VRec) : Vigil :=
  if v.log.length < 32 then { v with log := v.log ++ [x] }
  else match v.log.findIdx? fun y => y.cls == 0 with
    | some i => { v with log := v.log.eraseIdx i ++ [x] }
    | none => { v with lost := satInc v.lost }

/-- A record enters the Vigil log: a repeat of the newest record's ID counts in it (13:R313). -/
def Vigil.record (v : Vigil) (x : VRec) : Vigil :=
  match v.log.getLast? with
  | some y => if y.id = x.id then { v with log := v.log.dropLast ++ [{ y with count := satInc y.count }] } else v.add x
  | none => v.add x

/-- A mode change that the Vigil domain makes on its own: current at once, the MRAM copy lagging (02:R36). -/
def Vigil.setMode (v : Vigil) (m : Mode) (prior : BitVec 3) : Vigil :=
  { v with current := v.current.map fun r =>
      { r with mode := m, prior := prior, exported := r.exported && prior == 4, seq := r.seq + 1 } }

/-- The stored mode under Table 2.4's VIGIL column. -/
def Vigil.apply (v : Vigil) (cls : BitVec 2) : Vigil :=
  match v.current with
  | none => v
  | some r =>
    if cls = 1 then
      match r.mode with
      | .service => v.setMode .locked 3
      | .freeze => v.setMode .locked 4
      | _ => v
    else if 2 ≤ cls.toNat then
      match r.mode with
      | .commission | .service | .freeze | .locked => v.setMode .zeroized 0
      | _ => v
    else v

/-- A source that the Vigil domain watches while main power is absent (13:R310). -/
def Dev.watched (d : Dev) (id : Nat) : Bool :=
  (id < 22 && id != 19 && !d.fusedOff id) || id == 67 || id == 68

/-- The class that acts in VIGIL: lost cells are class N in SAMPLED mode (13:Table 13.4). -/
def Dev.vigilClass (d : Dev) (id : Nat) : BitVec 2 :=
  if (id = 16 ∨ id = 17) ∧ d.tamp.vigilMode.val = 1 then 0 else d.classOfId id

/-- The Vigil domain records an event and applies its class (13:R310, R313). -/
def Dev.vigilEvent (d : Dev) (id : Nat) : Dev :=
  if d.pins.inVigil && d.watched id && !d.isLive id then
    let cls := d.vigilClass id
    let stored := (d.vigil.current.map (·.mode)).getD .blank
    let d := (d.markSource id).markSupply id false
    let v := (d.vigil.record ⟨id, cls, d.clock, 0, stored⟩).apply cls
    let d := (d.modVigil fun _ => v).modTamp fun t => { t with lastId := BitVec.ofNat 10 id, lastClass := cls }
    if 2 ≤ cls.toNat then
      d.eraseVsalt.driveOut.modPins fun p =>
        { p with zeroOut := p.zeroOut || (stored != .factory && stored != .blank) }
    else if cls = 1 && d.tamp.outOnL.val == 1 then d.driveOut else d
  else d

/-- Both cells lost with main power absent: VSALT and the mode record are lost whatever the class, and the event is
logged while the capacitor lasts (13:R312). -/
def Dev.cellsLost (d : Dev) : Dev :=
  if d.pins.inVigil then
    let cls := d.classOfId 18
    let stored := (d.vigil.current.map (·.mode)).getD .blank
    let d := (d.markSource 18).markSupply 18 false
    let v := d.vigil.record ⟨18, cls, d.clock, 0, stored⟩
    let d := d.eraseVsalt.modVigil fun _ => { v with vsalt := none, current := none, proposed := none, commit := false }
    (d.modPins fun p => { p with zeroOut := true }).modTamp fun t => { t with lastId := 18, lastClass := cls }
  else d

/-- A window of SAMPLED mode: each source whose condition is present is seen, and the others have cleared (13:R311). -/
def Dev.sampleWindow (d : Dev) (present : List Nat) : Dev :=
  if d.pins.inVigil && d.tamp.vigilMode.val = 1 then
    let d := ((List.range 22 ++ [67, 68]).filter fun id => d.isLive id && id != 18 && !present.contains id).foldl
      (fun d id => d.clearSource id) d
    (present.filter fun id => id != 18).foldl (fun d id => d.vigilEvent id) d
  else d

end Sys2Proof.Machine
end

