-- ==== Sys2Proof/Machine/Recovery.lean ====
section
/-! DEFINITION. Resets of seams, losing and regaining links and ridges, takeover and re-mirroring (03:R69 to R75, 14:R323
to R330, R402). -/

namespace Sys2Proof.Machine

/-! ## The writes of a seam -/

/-- Seams that are not FREE and satisfy a test. -/
def Dev.seamsWhere (d : Dev) (p : SeamEntry → Bool) : List Nat := d.usedSeams.filter fun s => p (d.seam s).entry

/-- The seam that a write on a link belongs to; none for the MQ and MSI-X. An output of a job that has gone belongs to the seam
that its PASID names on that link (03:Table 3.5, 0x0004). -/
def Dev.writeSeam (d : Dev) (l : Lk) (w : HostWrite) : Option Nat :=
  match w.kind with
  | .completion s => some s
  | .interrupt s => some s
  | .output n =>
    match d.job? n with
    | some j => some j.job.seam
    | none => w.pasid.bind fun p => (d.seamsWhere fun e => e.pasidValid && e.pasid == p && e.binds l).head?
  | _ => none

/-- What a seam has written and the links have not acknowledged is never written again (03:R70). -/
def Dev.forgetWrites (d : Dev) (s : Nat) : Dev :=
  [Lk.a, Lk.b].foldl (init := d) fun d l =>
    let old := (d.link l).unacked.filter fun w => d.writeSeam l w != some s
    d.modLink l fun x => { x with unacked := old }

/-! ## The reset cut (03:R69) -/

/-- A program stops at its next engine request or instruction fetch, its completion suppressed; one not yet on its core stops
when it is to be loaded, as its job is discarded. -/
def Dev.stopProgram (d : Dev) (n : Nat) : Dev :=
  match d.progCore n with
  | some (r, c) => (d.modProgram r c fun p => { p with ending := some (refuse stAbortQueue 0) }).closeProgram r c false
  | none => d

/-- A job that holds no engine of its own ends at the cut: a chain between elements, a job waiting for an engine. -/
def Job.parked (j : Job) : Bool := j.phase == .chainRead || j.phase == .chainReady || j.phase == .needsEngine

/-- The reset cut: GEN rises, queues, prefetch, credits and mirrored copies are forgotten, STATE is ACTIVE; jobs run to
their end under their old GEN, suppressed, and nothing sent before is sent again. -/
def Dev.resetCut (d : Dev) (s : Nat) : Dev :=
  let js := d.seamJobs s
  let d := (d.stamp fun t c => { t with cut := c }).forgetWrites s
  let d := js.foldl (fun d j => d.modJob j.num fun x => { x with tail := { x.tail with discarded := true } }) d
  let held := ((d.seam s).run.heldWrites.filter fun w => match w.kind with
    | .completion _ => true
    | _ => false).length
  let d := d.discard s held
  let d := d.modRun s fun x => { x with
    queues := List.replicate 4 Queue.blank, cq := none, snapshot := none, heldWrites := [], heldPortal := []
    credit := 0, bleft := 0, cur := 0, freezing := none }
  let d := d.modEntry s fun e => { e with state := .active, gen := e.gen + 1, saved := false }
  let d := (js.filter fun j => j.job.phase == .program).foldl (fun d j => d.stopProgram j.num) d
  let d := ((d.seamJobs s).filter fun j => j.job.parked).foldl (fun d j => d.finish j.num (refuse stAbortQueue 0) false) d
  d.ridgeNums.foldl (fun d r => d.freeWindow r s) d

/-! ## Links (03:R73 to R75, 14:R329, R330, R402) -/

/-- A bound pair of links. -/
def SeamEntry.dual (e : SeamEntry) : Bool := e.links == 3

/-- A write is held for a seam until a link returns. -/
def Dev.holdWrite (d : Dev) (s : Nat) (w : HostWrite) : Dev :=
  d.modRun s fun x => { x with heldWrites := x.heldWrites ++ [w] }

/-- A write that would leave through a function without PASID is not issued (03:R59): a completion makes its seam FAULTED and
counts in DISCARDS (R75), an output ends its job with PASID_FAULT. -/
def Dev.writeWithheld (d : Dev) (s : Nat) (w : HostWrite) : Dev :=
  match w.kind with
  | .completion _ => (d.seamFault s 1).discard s
  | .output n =>
    match d.job? n with
    | some j => (d.rollback j).finish n (refuse stPasidFault 0x22) true
    | none => d
  | _ => d

/-- Unacknowledged writes of dual-homed seams are issued again on the other link, in order; held for the seam when it
carries none (log 22). What a FAULTED seam had to write is not owed. -/
def Dev.reissue (d : Dev) (l : Lk) : Dev :=
  let ws := (d.link l).unacked
  ws.foldl (init := d) fun d w =>
    match d.writeSeam l w with
    | none => d
    | some s =>
      if (d.seam s).entry.dual && (d.seam s).entry.state != .faulted then
        let o := lkOther l
        if !(d.link o).carries then d.holdWrite s w
        else if w.pasid.isSome && !(d.link o).pasidEn then d.writeWithheld s w
        else (d.send o w).modLink o fun x => { x with reissued := satInc x.reissued }
      else d

/-- Why a read of a seam cannot be issued now: no link carries it, or its function has PASID disabled (03:R59, R60). -/
def Dev.readFault (d : Dev) (s : Nat) : Option (BitVec 16) :=
  match d.dmaLink s with
  | some l => if (d.link l).pasidEn then none else some stPasidFault
  | none => some stReadFault

/-- A job's reads that stood on a link end: issued again on the other for a dual-homed seam, else failed (14:R329, R402,
03:R59, R60). -/
def Dev.loseReads (d : Dev) (j : JobRec) : Dev :=
  let why := if (d.seam j.job.seam).entry.dual then d.readFault j.job.seam else some stReadFault
  match why with
  | none => d
  | some st =>
    let fail := fun (x : ReadState) => if x = .waiting then .failed st else x
    d.modJob j.num fun y => { y with job := { y.job with inp := fail y.job.inp, aux := fail y.job.aux } }

/-- DETAIL of a buffer that failed: 0x21 input, 0x22 output, 0x23 AUX, 0x24 chain element (04:R108). -/
def Job.failedRead (j : Job) : Option Verdict :=
  match j.inp, j.aux with
  | .failed st, _ => some (refuse st 0x21)
  | _, .failed st => some (refuse st 0x23)
  | _, _ => none

/-- A job whose read has failed ends (03:R60, 04:R108). -/
def Dev.endIfFailed (d : Dev) (j : JobRec) : Dev :=
  match j.job.failedRead with
  | some v => if j.tail.prog.isSome then d else (d.rollback j).finish j.num (j.unrun v) true
  | none => d

/-- Jobs whose read has failed end. -/
def Dev.endFailed (d : Dev) : Dev := d.jobs.foldl (fun d j => d.endIfFailed j) d

/-- Ring reads and chain-element reads of a seam that stood on a lost link: dropped for a seam of that link alone, failed
when a dual-homed seam has no other that can issue them (04:R109, 03:R59, R60). -/
def Dev.loseRing (d : Dev) (s : Nat) : Dev :=
  match d.readFault s with
  | none => d
  | some st =>
    let dual := (d.seam s).entry.dual
    let d := (List.range 4).foldl (init := d) fun d q =>
      if ((d.seam s).queue q).reading then
        if dual then d.queueFault s q else d.modQueue s q fun k => { k with reading := false }
      else d
    ((d.seamJobs s).filter fun j => j.job.phase == .chainRead).foldl
      (fun d j => d.finish j.num (j.unrun (refuse st 0x24)) true) d

/-- Completions among a lone link's unacknowledged writes are not owed: each counts in DISCARDS (14:R402). -/
def Dev.dropLone (d : Dev) (s : Nat) (ws : List HostWrite) : Dev :=
  d.discard s ((ws.filter fun w => w.kind == .completion s).length)

/-- The MQ loses its link: state 2, its unacknowledged commands held again, its own reads abandoned (04:R113, 14:R402). -/
def Dev.mqLinkLost (d : Dev) (l : Lk) : Dev :=
  if lkOf d.mq.link = l then
    let d := d.mqFault 2
    let d := d.modMq fun q => { q with held := q.sent ++ q.held, sent := [], reading := false }
    let cs := (d.mq.cmds.filter fun c => c.inp == .waiting || c.aux == .waiting).map fun c =>
      (c.index.toNat, if c.inp == .waiting then 0x21 else 0x23)
    cs.foldl (fun d c => d.mqComplete c.1 (refuse stReadFault c.2)) d
  else d

/-- A link is lost (03:R74): 0 Detect, 1 surprise down, 2 PERST. -/
def Dev.linkLoss (d : Dev) (l : Lk) (cause : Nat) : Dev :=
  if (d.link l).up then
    let ws := (d.link l).unacked
    let d := d.modLink l fun x => { x with
      up := false, pm := 2, width := 0, speed := 0, losses := satInc x.losses, unacked := [] }
    let d := d.raise (some (lkRidge (lkOther l))) 35 0 (BitVec.ofNat 32 (lkBit l + cause * 4))
    let lone := d.seamsWhere fun e => e.binds l && !e.dual
    let dual := d.seamsWhere fun e => e.dual
    let d := lone.foldl (fun d s => (d.dropLone s ws).seamFault s 0) d
    let d := ((d.modLink l fun x => { x with unacked := ws }).reissue l).modLink l fun x => { x with unacked := [] }
    let js := d.jobs.filter fun j => lone.contains j.job.seam || dual.contains j.job.seam
    let d := (js.foldl (fun d j => d.loseReads j) d).endFailed
    let d := (lone ++ dual).foldl (fun d s => d.loseRing s) d
    d.mqLinkLost l
  else d

/-- Writes held for a seam go out before any other write of it (13:R305). -/
def Dev.releaseHeld (d : Dev) (s : Nat) : Dev :=
  match d.dmaLink s with
  | some l =>
    let ws := (d.seam s).run.heldWrites
    ws.foldl (init := d.modRun s fun x => { x with heldWrites := [] }) fun d w =>
      if (d.seam s).entry.state = .faulted then (if w.kind = .completion s then d.discard s else d)
      else if w.pasid.isSome && !(d.link l).pasidEn then d.writeWithheld s w
      else d.send l w
  | none => d

/-- A link carries DMA again: held writes go out, queues read ahead (03:R73, 13:R305, 14:R330). -/
def Dev.linkServes (d : Dev) (l : Lk) : Dev :=
  if (d.link l).carries then
    (d.seamsWhere fun e => e.binds l).foldl (fun d s => (d.releaseHeld s).fetchSeam s) d
  else d

/-- LINK_UP: the link reaches L0. -/
def Dev.linkRises (d : Dev) (l : Lk) (width speed : Nat) : Dev :=
  let d := d.modLink l fun x => { x with up := true, width := width, speed := speed, pm := 0 }
  let d := d.raise (some (lkRidge l)) 35 0 (BitVec.ofNat 32 (lkBit l + 2))
  ((d.unmask l).linkServes l).govern

/-- The configuration of a function returns to its reset values (02:R46). -/
def Link.resetFunction (x : Link) : Link :=
  { x with bme := false, pasidEn := false, msixEn := false, fmask := false, seamSel := 0, qrmSel := 0, arbSel := 0
           msix := List.replicate 64 ⟨0, 0, true⟩, pba := 0 }

/-- Bus Master Enable is cleared: a link loss for the DMA of dual-homed seams (14:R330). -/
def Dev.bmeOff (d : Dev) (l : Lk) : Dev :=
  if (d.link l).bme then
    let d := d.modLink l fun x => { x with bme := false }
    let d := d.raise (some (lkRidge l)) 35 0 (BitVec.ofNat 32 (lkBit l + 12))
    let dual := d.seamsWhere fun e => e.dual
    let mine := fun (w : HostWrite) => match d.writeSeam l w with
      | some s => dual.contains s
      | none => false
    let d := (d.reissue l).modLink l fun x => { x with unacked := x.unacked.filter fun w => !(mine w) }
    let js := d.jobs.filter fun j => dual.contains j.job.seam
    let d := (js.foldl (fun d j => d.loseReads j) d).endFailed
    dual.foldl (fun d s => d.loseRing s) d
  else d

/-! ## Losing a ridge (14:R323 to R328) -/

/-- Number of seams mirrored on a ridge. -/
def Dev.mirroredOn (d : Dev) (r : Nat) : Nat :=
  (d.usedSeams.filter fun s => d.mirrorOf s == r && d.homeOf s != r).length

/-- Granules of a seam's entries. -/
def Dev.seamGranules (d : Dev) (s : Nat) : Nat :=
  (((d.ridge (d.homeOf s)).store.filter fun e => e.owner == some s).map fun e => granulesOf e.body).sum

/-- A ridge has room for a seam's entries, or for as many granules as a new seam will bring (03:R66, R80, R82). -/
def Dev.roomFor (d : Dev) (s r : Nat) (fresh : Nat := 0) : Bool :=
  decide (d.granulesUsed r + max (d.seamGranules s) fresh ≤ areaGranules)

/-- The mirror rule of 03:R66: a spine neighbour of home with the fewest mirrored seams, else any other in-service ridge by
fewest mirrored seams, then hops, then number. -/
def Dev.mirrorFor (d : Dev) (s home : Nat) (fresh : Nat := 0) : Option Nat :=
  let ok := fun (r : Nat) => r != home && d.serves r && d.roomFor s r fresh
  match leastBy (fun r => d.mirroredOn r * 8 + r) ((d.neighbours home).filter ok) with
  | some r => some r
  | none => leastBy (fun r => (d.mirroredOn r * 4 + hops home r) * 8 + r) (d.ridgeNums.filter ok)

/-- A seam is unmirrored: the home ridge serves as its own mirror, and a copy to a new mirror starts when a ridge can take
it (14:R328). Event +39. -/
def Dev.unmirror (d : Dev) (s : Nat) : Dev :=
  let home := d.homeOf s
  let d := d.modEntry s fun e => { e with mirror := .of (BitVec.ofNat 3 home) }
  let next := d.mirrorFor s home
  let d := d.modRun s fun x => { x with
    remirror := next
    queues := x.queues.map fun (k : Queue) =>
      { k with reported := k.head, prefetch := k.prefetch.map fun (f : Fetched) => { f with mirrored := true } } }
  d.ridgeEvent home 39 0 (some s)

/-- The ridge that an unmirrored seam's copy runs to: the one chosen, or the one that can take the copy by now (03:R66,
14:R328). -/
def Dev.copyTarget (d : Dev) (s : Nat) : Option Nat :=
  match (d.seam s).run.remirror with
  | some r => some r
  | none =>
    if (d.seam s).entry.state != .free && d.homeOf s == d.mirrorOf s && d.serves (d.homeOf s) then d.mirrorFor s (d.homeOf s) else none

/-- REMIRROR_COPY_DONE: the copy ends and MIRROR takes the new number (14:R328). -/
def Dev.copyDone (d : Dev) (s : Nat) : Dev :=
  match d.copyTarget s with
  | none => d
  | some r =>
    let d := d.modRun s fun x => { x with remirror := none }
    if d.serves r then
      let es := (d.ridge (d.homeOf s)).store.filter fun e => e.owner == some s
      let before := d.granulesUsed r
      let d := (d.modRidge r fun x => { x with store := (x.store.filter fun e => e.owner != some s) ++ es }).checkFull r before
      (d.modEntry s fun e => { e with mirror := .of (BitVec.ofNat 3 r) }).ridgeEvent (d.homeOf s) 39 1 (some s)
    else d.unmirror s

/-- A swept job: stopped and wiped, its key creation undone; it waits for the takeover. A program's requests end with it
(14:R324). -/
def Dev.sweep (d : Dev) (n : Nat) : Dev :=
  match d.job? n with
  | none => d
  | some j =>
    let d := d.rollback j
    if j.tail.prog.isSome then (d.dropJob j).destroyKeys j.job.seam j.tail.created
    else
      let d := match d.progCore n with
        | some (r, c) =>
          match (d.core r c).program with
          | some p => ((d.freeArea r p).modCore r c fun k => { k with program := none, pend := [] }).purgePrograms j.job.seam
          | none => d
        | none => d
      let d := d.modRidge j.job.ridge fun x => { x with world := { x.world with
        waiting := x.world.waiting.filter (· != n), running := x.world.running.filter fun e => e.1 != n } }
      (d.releaseAll j).modJob n fun x =>
        { x with job := { x.job with phase := .needsEngine, parts := [], result := none }
                 tail := { x.tail with draining := none, partsDone := [], waitFrom := none, streamed := 0 } }

/-- A swept or lost job is dispatched again from the home ridge's copy, its reads issued anew; one whose read cannot be issued
ends at once (03:R60, 14:R325, R326). -/
def Dev.replay (d : Dev) (n : Nat) : Dev :=
  match d.job? n with
  | none => d
  | some j =>
    let x := j.job.desc
    let d := d.modJob n fun y => { y with
      job := { y.job with
        inp := d.readOf j.job.seam x.inLen.toNat x.usesIn
        aux := d.readOf j.job.seam x.auxLen.toNat (x.usesAux && !x.chain), result := none, parts := [] }
      tail := { y.tail with replayed := true, draining := none, partsDone := [], waitFrom := none, streamed := 0 } }
    match d.job? n with
    | some j => if j.job.failedRead.isSome then d.endIfFailed j else if isDeep x.op then d.queueDeep n else d.place n
    | none => d

/-- A job without its engine is replayed, or ends with ABORT_UNIT_LOST (14:R325, R327). -/
def Dev.replayOrAbort (d : Dev) (n : Nat) : Dev :=
  match d.job? n with
  | none => d
  | some j => if j.tail.unreplayable || j.tail.discarded then d.finish n (refuse stUnitLost 0) false else d.replay n

/-- The jobs of a ridge that died whose seams are homed elsewhere (14:R325). -/
def Dev.loseJobsOn (d : Dev) (r : Nat) : Dev :=
  let js := d.jobs.filter fun j => j.job.ridge == r && d.homeOf j.job.seam != r
  let reqs := js.filter fun j => j.tail.prog.isSome
  let d := reqs.foldl (fun d j => (d.rollback j).finish j.num (refuse stUnitLost 0) false) d
  (js.filter fun j => j.tail.prog.isNone).foldl (init := d) fun d j =>
    if j.job.phase == .engine then (d.sweep j.num).replayOrAbort j.num
    else if j.job.phase == .program then
      let mine := (d.jobs.filter fun k => (k.tail.prog.map (·.1)) == some j.num).map (·.num)
      ((mine.foldl (fun d n => d.sweep n) d).sweep j.num).finish j.num (refuse stUnitLost 0) false
    else d

/-- Grants that the mirror ridge had not recorded: those at the end of the SQ head's run whose jobs have not completed
(14:R326; log 22). -/
def Dev.unrecorded (d : Dev) (s q : Nat) : Nat → Nat
  | 0 => 0
  | n + 1 =>
    let k := (d.seam s).queue q
    let done := d.unrecorded s q n
    let i := k.head - BitVec.ofNat 32 (done + 1)
    if done = n && decide (done < (k.head - k.reported).toNat) &&
      (d.queueJobs s q).any fun j => j.job.index == i then done + 1 else done

/-- The takeover's view of a queue: unrecorded grants go back to the prefetch cache, and what was not mirrored is read
again (14:R326 steps 1 and 4). -/
def Dev.takeQueue (d : Dev) (s q : Nat) : Dev :=
  let k := (d.seam s).queue q
  let n := d.unrecorded s q (k.head - k.reported).toNat
  let js := (d.queueJobs s q).filter fun j => decide (0 < (k.head - j.job.index).toNat ∧ (k.head - j.job.index).toNat ≤ n)
  let back := (List.range n).reverse.filterMap fun i =>
    (js.find? fun j => j.job.index == k.head - BitVec.ofNat 32 (i + 1)).map fun j =>
      (⟨j.job.index, j.job.head, none, true, j.tail.arrival⟩ : Fetched)
  let d := js.foldl (init := d) fun d j =>
    (d.dropJob j).modRun s fun x => { x with cq := x.cq.map fun (c : CQ) => { c with held := c.held - 1 } }
  d.modQueue s q fun k => { k with
    head := k.head - BitVec.ofNat 32 n, reported := k.head - BitVec.ofNat 32 n, reading := false
    prefetch := back ++ k.prefetch.takeWhile fun f => f.mirrored }

/-- Portal writes held during a takeover are delivered in order (14:R326 step 2). -/
def Dev.deliverPortal (d : Dev) (s : Nat) : Dev :=
  let ws := (d.seam s).run.heldPortal
  let d := d.modRun s fun x => { x with heldPortal := [] }
  ws.foldl (init := d) fun d w =>
    if w.1 < 4 then d.tailWrite s w.1 w.2 else if w.1 = 4 then d.cqHead s w.2 else d.invalidate s (w.2.setWidth 64)

/-- RIDGE_TAKEOVER_DONE: the mirror ridge becomes the home ridge, deals with recorded grants, and resumes (14:R326). -/
def Dev.takeOver (d : Dev) (s : Nat) : Dev :=
  if (d.seam s).run.takeover then
    let new := d.mirrorOf s
    let d := d.modEntry s fun e => { e with home := .of (BitVec.ofNat 3 new) }
    let d := (List.range 4).foldl (fun d q => d.takeQueue s q) d
    let d := d.modRun s fun x => { x with takeover := false }
    let d := d.deliverPortal s
    let ns := (d.seamJobs s).map (·.num)
    let d := ns.foldl (fun d n => d.replayOrAbort n) d
    (d.unmirror s).fetchSeam s
  else d

/-- Seams whose home ridge is gone: their jobs are swept and they wait for the takeover; a seam whose only copy is gone is
FAULTED (14:R324, R326, R328). -/
def Dev.homeGone (d : Dev) (s : Nat) : Dev :=
  let ns := (d.jobs.filter fun j => j.job.seam == s).map (·.num)
  let d := ns.foldl (fun d n => d.sweep n) d
  if d.mirrorOf s ≠ d.homeOf s && d.serves (d.mirrorOf s) then d.modRun s fun x => { x with takeover := true, remirror := none }
  else
    let d := d.seamFault s 0
    ((d.seamJobs s).map (·.num)).foldl (fun d n => d.finish n (refuse stUnitLost 0) false) d

/-- The mirror ridge of a seam is gone: the seam is unmirrored; one that waits for its takeover has lost both copies (14:R328). -/
def Dev.mirrorGone (d : Dev) (s : Nat) : Dev :=
  if (d.seam s).run.takeover then (d.modRun s fun x => { x with takeover := false, heldPortal := [] }).homeGone s
  else d.unmirror s

/-- MARK: a ridge's acknowledgement of the barrier, with every event it detected before it; the last one lets the writer
make the MARK record, and the command completes with its SEQ (15:R345). -/
def Dev.barrierAck (d : Dev) (r : Nat) : Dev :=
  match d.mq.barrier with
  | none => d
  | some (left, cmd) =>
    if r < 8 && left.getLsbD r then
      let d := d.flushEvents (some r)
      let left := left &&& ~~~(1#8 <<< r)
      if left = 0 then
        let d := (d.flushEvents none).modMq fun q => { q with barrier := none }
        let marker := (d.mqCmd cmd).map fun c => c.desc.keyA.setWidth 32
        let seq := d.log.next
        (d.markRecord (marker.getD 0)).mqComplete cmd ⟨stDone, seq, 0⟩
      else d.modMq fun q => { q with barrier := some (left, cmd) }
    else d

/-- The spine connections of a lost ridge fall silent (17:Table 17.6). -/
def Dev.spineDown (d : Dev) (r : Nat) : Dev :=
  d.ridgeNums.foldl (init := d.modRidge r fun x => { x with spine := { x.spine with up := 0 } }) fun d n =>
    if hops n r = 1 then
      d.modRidge n fun x => { x with spine := { x.spine with
        up := x.spine.up &&& ~~~(1#3 <<< (Nat.xor n r).log2) } }
    else d

/-- A ridge leaves service: wiped, stopped and fenced (14:R323, 12:R284). -/
def Dev.fence (d : Dev) (r : Nat) : Dev :=
  (d.modRidge r fun x => { x with
    inService := false, lost := true, power := 3, engines := List.replicate 33 Engine.reset, cores := List.replicate 4 Core.reset
    rng := x.rng.wipe, cache := [], kdu := none, spine := { x.spine with key := none }, programs := []
    staging := [], sram := [], gated := 0, waking := 0, throttled := 0
    world := { x.world with deepUp := false, restarting := false, claim := 0, claimed := [], waiting := [], running := [] } }).spineDown r

/-- A ridge that can still be lost: it serves, or it was held out of service and runs its spine port and link (02:R49). -/
def Dev.stands (d : Dev) (r : Nat) : Bool :=
  d.serves r || (d.populated r && (d.ridge r).power == 3 && !(d.ridge r).lost)

/-- A ridge is lost: 1 fatal error, 2 spine silence, 3 thermal trip, 4 spine transfer, 5 measurement (14:R323). -/
def Dev.loseRidge (d : Dev) (r cause : Nat) : Dev :=
  if d.stands r then
    let homed := d.homedOn r
    let mirrored := d.usedSeams.filter fun s => d.mirrorOf s == r && d.homeOf s != r
    let lost := d.jobs.filter fun j => j.job.ridge == r
    let d := d.modRidge r fun x => { x with inService := false, lost := true }
    let d := homed.foldl (fun d s => d.homeGone s) d
    let d := mirrored.foldl (fun d s => d.mirrorGone s) d
    let d := if lost.isEmpty then d else d.loseJobsOn r
    let d := d.fence r
    let d := d.modRidges fun x => { x with rng := { x.rng with askedBy := x.rng.askedBy.filter (· != r) } }
    let d := if r < 2 then (d.modPower fun p => { p with unmirrored := true }).modLog fun g => g.alone (1 - r) else d
    let d := d.pkgEvent 34 (r + cause * 256)
    let d := (d.mq.selftest.filter fun t => t.2.1 == r).foldl (fun d t =>
      (d.modMq fun q => { q with selftest := q.selftest.filter fun u => u.1 != t.1 }).mqComplete t.1 (refuse stUnitLost 0)) d
    let d := if r = 0 then d.linkLoss .a 1 else if r = 1 then d.linkLoss .b 1 else d
    d.barrierAck r
  else d

end Sys2Proof.Machine
end

