-- ==== Sys2Proof/Machine/Shaft.lean ====
section
/-! DEFINITION. The Shaft: entering Deep and coming back, claims, Deep faults and the Deep restart, the measurement log,
the waterline (11). -/

namespace Sys2Proof.Machine

/-- Keade runs on a ridge: the ridge serves, is awake and its Deep side is not restarting. -/
def Dev.keadeRuns (d : Dev) (r : Nat) : Bool :=
  d.serves r && (d.ridge r).power == 2 && !(d.ridge r).world.restarting

/-! ## Crossings (11:R264, R265) -/

/-- What a world switch does with a core's caches: in FLUSH mode, and when a core leaves it, dirty lines are written back and both
caches invalidated; the core adopts the mode of CACHE.MODE (11:R262, R263; log 45). It costs 40 core cycles, and a flush at most
2 µs in all, a free number (log 14). -/
def Core.switch (k : Core) (flush : Bool) (draw : Nat) : Core :=
  let gone := k.flush || flush
  { k with
    flush := flush
    icache := if gone then k.icache.flushed else k.icache
    dcache := if gone then k.dcache.flushed else k.dcache
    cycle := k.cycle + 40 + if gone then Config.freeNat draw % 2361 else 0 }

/-- A core enters Deep: its pending writes land, the resume address is saved, g1 to g7 are copied, g8 holds the cause, and
Keade starts at the entry point registered for it; at the place it last stood where none is registered (log 15). -/
def Dev.enterDeep (d : Dev) (r c : Nat) (resume : W64) (cause : Nat) : Dev :=
  let entry := assocGet (d.ridge r).world.entries cause
  let (n, d) := d.draw
  d.modCore r c fun k =>
    let k := k.boundary.switch d.cacheMode n
    let g := k.deepBank.g.take 1 ++ (k.surface.g.drop 1).take 7 ++ [BitVec.ofNat 64 cause] ++ k.deepBank.g.drop 9
    { k with deep := true, resume := some resume
             deepBank := { k.deepBank with g := g, pc := entry.getD k.deepBank.pc } }

/-- Request-ended signals that stayed pending are delivered (11:R268). -/
def Program.deliver (p : Program) : Program :=
  { p with tickets := p.tickets.map (Option.map fun t => { t with delivered := t.delivered || t.ended.isSome }) }

/-- A core returns to Surface: g1 and g2 are copied back, and it resumes at the saved address (11:R265, R268). -/
def Core.ascend (k : Core) (resume : W64) (flush : Bool) (draw : Nat) : Core :=
  let k := k.boundary.switch flush draw
  let g := k.surface.g.take 1 ++ (k.deepBank.g.drop 1).take 2 ++ k.surface.g.drop 3
  { k with deep := false, resume := none, surface := { k.surface with g := g, pc := resume }
           program := k.program.map Program.deliver }

/-- A core ascends (11:R265). -/
def Dev.leaveDeep (d : Dev) (r c : Nat) (resume : W64) : Dev :=
  let (n, d) := d.draw
  d.modCore r c fun k => k.ascend resume d.cacheMode n

/-- A trap of a Surface core, or the DESCEND that ends its program: it enters Deep with a cause, Keade's handler acts, and the
core ascends (11:R256, R258, R264). -/
def Dev.visitDeep (d : Dev) (r c : Nat) (resume : W64) (cause : Nat) : Dev := (d.enterDeep r c resume cause).leaveDeep r c resume

/-- A trap of a core in Deep goes to Keade's handler: g8 holds 0x100 plus the code of 10:Table 10.5, and pc the entry registered
for it (10:R239; log 15). -/
def Dev.deepTrap (d : Dev) (r c code : Nat) : Dev :=
  let entry := assocGet (d.ridge r).world.entries (0x100 + code)
  d.modCore r c fun k =>
    let k := k.boundary
    { k with deepBank := { k.deepBank with
        g := k.deepBank.g.set 8 (BitVec.ofNat 64 (0x100 + code)), pc := entry.getD k.deepBank.pc } }

/-- The Deep interrupt that a core takes first: a tamper notice, then the oldest (11:R267). -/
def nextInterrupt (due : List Nat) : Option Nat :=
  match due.find? fun x => x == 0x200 + Config.tamperSource with
  | some x => some x
  | none => due.head?

/-- A Surface core takes a waiting Deep interrupt at a boundary where no write is pending: it resumes at its next instruction
(10:R234, 11:R264, R267). -/
def Dev.takeDue (d : Dev) (r c : Nat) : Dev :=
  let k := (d.core r c).landDue
  match nextInterrupt k.due with
  | none => d
  | some cause =>
    if k.deep || !k.pend.isEmpty || !d.keadeRuns r then d
    else (d.modCore r c fun k => { k with due := k.due.erase cause }).enterDeep r c k.surface.pc cause

/-! ## Deep restart (11:R270 to R274) -/

/-- The measurement log takes an entry; it keeps 64 (11:R279). -/
def Dev.addMLog (d : Dev) (r cause result : Nat) (meas : BitVec 384) : Dev :=
  let now := d.clock
  d.modWorld r fun w => { w with
    mlog := (⟨w.mlogNext, BitVec.ofNat 8 cause, BitVec.ofNat 8 result, now, meas⟩ :: w.mlog).take 64
    mlogNext := w.mlogNext + 1 }

/-- A core at a Deep restart: Deep execution stops, its bank and the Deep ways of its caches are cleared, or the whole caches in
FLUSH mode; a program pauses, its pending writes with it, so that it resumes with the values it would have seen (10:R234,
11:Tables 11.2, 11.3). A core that had entered Deep stays there. -/
def Core.restart (c : Nat) (k : Core) : Core :=
  let wiped := fun (x : Cache) => if c = 0 || k.flush then x.flushed else x.clearDeep
  { k with deepBank := Bank.reset, spillBase := 0, spillLen := 0, borrowed := false, due := []
           pend := if k.deep then [] else k.pend
           icache := wiped k.icache, dcache := wiped k.dcache
           program := k.program.map fun p => { p with paused := true } }

/-- The jobs that a Deep restart of a ridge ends: Deep services of its seams that have not passed their commit point, and
programs still in their load checks (11:Table 11.3). -/
def Dev.deepJobs (d : Dev) (r : Nat) : List Nat :=
  (d.jobs.filter fun j =>
    (d.homeOf j.job.seam == r && isDeep j.job.desc.op &&
      (j.job.phase == .deepWait || j.job.phase == .deepRun || j.job.phase == .prepared)) ||
    (j.job.phase == .program && j.job.ridge == r && (d.progCore j.num).isNone)).map (·.num)

/-- Steps 1 to 3 of a Deep restart: Deep stops, its jobs and the MQ's commands end with ABORT_DEEP_RESTART, Deep SRAM is
zeroed. `but`: the firmware activation that restarts the ridge (14:R333). -/
def Dev.stopDeep (d : Dev) (r : Nat) (but : Option Nat) : Dev :=
  let d := d.modRidge r fun x => { x with cores := x.cores.mapIdx Core.restart }
  let d := d.modWorld r fun w => { w with deepUp := false, restarting := true, entries := [] }
  let act := d.mq.activate
  let d := d.abortJobs (d.deepJobs r) stAbortDeep false
  let d := if r = d.boss then (d.abortCmds stAbortDeep but.toList).modMq fun q =>
      { q with activate := if but.isSome then act else none } else d
  let d := (d.endClaims r (d.ridge r).world.claim).modWorld r fun w => { w with waiting := [], running := [] }
  d.modRidge r Ridge.wipeDeep

/-- A Deep fault of a ridge: 1 watchdog, 2 Deep trap, 3 refused ASCEND, 4 Deep SRAM error, 5 Keade's request. The third
restart within 10 s takes the ridge out of service (11:R270, R272). -/
def Dev.deepFault (d : Dev) (r cause : Nat) : Dev :=
  if d.keadeRuns r then
    let now := d.clock
    let recent := now :: (d.ridge r).world.faults.filter fun t => decide (now < t + 10000000000)
    let d := d.modWorld r fun w => { w with
      restarts := satInc w.restarts, lastCause := BitVec.ofNat 3 cause, faults := recent }
    let d := (d.ridgeEvent r 48 cause).stopDeep r none
    if 3 ≤ recent.length then d.loseRidge r 5 else d
  else d

/-- A core of 1 to 3 that a Deep restart found in Deep with a resume address ascends at step 6, with its registers unchanged
(11:R265, R273; log 46). -/
def Dev.returnCore (d : Dev) (r c : Nat) : Dev :=
  match (d.core r c).resume with
  | some a =>
    if (d.core r c).deep then
      let d := d.modCore r c fun k =>
        let g := k.deepBank.g.take 1 ++ (k.surface.g.drop 1).take 2 ++ k.deepBank.g.drop 3
        { k with deepBank := { k.deepBank with g := g } }
      d.leaveDeep r c a
    else d
  | none => d

/-- Steps 5 and 6: Keade accepts Deep services again, paused programs resume, pending signals are delivered. -/
def Dev.resumeDeep (d : Dev) (r : Nat) : Dev :=
  let d := d.modWorld r fun w => { w with deepUp := true, restarting := false }
  let d := [1, 2, 3].foldl (fun d c => d.returnCore r c) d
  d.modRidge r fun x => { x with cores := x.cores.map fun (k : Core) =>
    { k with program := k.program.map fun p => { p.deliver with paused := false } } }

/-- Step 4: the measurement is logged and compared; a difference, or a signature that fails, takes the ridge out of
service (11:R271, R272). -/
def Dev.remeasure (d : Dev) (r cause : Nat) (measured : BitVec 384) (signed : Bool) : Dev :=
  let same := measured == (d.ridge r).world.expected
  let d := (d.modWorld r fun w => { w with meas := measured }).addMLog r cause (if same then 0 else 1) measured
  let d := if same then d else d.ridgeEvent r 49 0
  if same && signed then d.resumeDeep r else d.loseRidge r 5

/-- DEEP_RESTART_COMPLETE. -/
def Dev.restartDone (d : Dev) (r : Nat) (measured : BitVec 384) (signed : Bool) : Dev :=
  if d.serves r && (d.ridge r).world.restarting then
    d.remeasure r (d.ridge r).world.lastCause.toNat measured signed
  else d

/-! ## The waterline (11:R259 to R261) -/

/-- What stands in Surface SRAM, base and length: staging windows, job areas, cached images (10:R246, 11:R261). -/
def Ridge.areas (x : Ridge) : List (Nat × Nat) :=
  x.staging.map (fun w => (w.2.1, w.2.2)) ++ x.programs.map (fun e => (e.base, e.image.size)) ++ x.cores.flatMap fun k =>
    match k.program with
    | some p => [(p.inBase, p.inLen), (p.outBase, p.outLen), (p.spillBase, p.image.spill), (p.imageBase, p.imageLen)]
    | none => []

/-- What Deep code has told the Shaft that it uses of Deep SRAM: the spill areas (10:R231). -/
def Ridge.deepAreas (x : Ridge) : List (Nat × Nat) := x.cores.map fun k => (k.spillBase, k.spillLen)

/-- Two stretches of SRAM share a byte. -/
def overlap (a b : Nat × Nat) : Bool :=
  decide (a.1 < b.1 + b.2 ∧ b.1 < a.1 + a.2 ∧ 0 < a.2 ∧ 0 < b.2)

/-- The highest place of Surface SRAM that holds `n` free bytes (11:R261). -/
def Ridge.alloc (x : Ridge) (n : Nat) : Option Nat :=
  let ends := sramSize :: x.areas.map (·.1)
  let ok := ends.filter fun e => decide (n ≤ e) && decide (x.lineByte ≤ e - n) && x.areas.all fun a => !(overlap a (e - n, n))
  (ok.foldl max 0) |> fun e => if ok.isEmpty then none else some (e - n)

/-- WATERLINE_MOVE: one granule changes side, zeroed first. The line is raised only over a granule that holds nothing and lowered
only over one that Keade has released, and stays between 96 and 192 (11:R259, R261). -/
def Dev.moveLine (d : Dev) (r : Nat) (up : Bool) : Dev :=
  let x := d.ridge r
  let line := x.world.line.val.toNat
  let g := if up then line else line - 1
  let free := (if up then x.areas else x.deepAreas).all fun a => !(overlap a (g * granule, granule))
  let next := if up then line + 1 else line - 1
  if d.keadeRuns r && x.world.deepUp && free && decide (96 ≤ next ∧ next ≤ 192) then
    (d.modRidge r fun x => { x with
      sram := memZero x.sram (g * granule) granule
      world := { x.world with line := .of (BitVec.ofNat 9 next) } }).ridgeEvent r 50 next
  else d

/-! ## Commands -/

/-- DEEP_INTERRUPT: a Surface core takes it at its next boundary with no write pending and enters Deep (10:R234, 11:R266, R267);
what a core that is in Deep already makes of it is Keade's own (log 15). -/
def execDeepInterrupt (ridge core : Nat) (source : W64) (s : State) : Host.Outcome State Fault Refusal := s.upd fun d =>
  if d.keadeRuns ridge && decide (core < 4) && !(d.core ridge core).deep then
    (d.modCore ridge core fun k => { k with due := k.due ++ [0x200 + source.toNat] }).takeDue ridge core
  else d

/-- DEEP_WATCHDOG_EXPIRY: a Deep fault of cause 1 (11:R270). -/
def execDeepWatchdogExpiry (ridge : Nat) (s : State) : Host.Outcome State Fault Refusal := s.upd fun d => d.deepFault ridge 1

/-- DEEP_RESTART: a Deep fault of the given cause (11:R270, R271). -/
def execDeepRestart (ridge cause : Nat) (s : State) : Host.Outcome State Fault Refusal := s.upd fun d =>
  if 1 ≤ cause ∧ cause ≤ 5 then d.deepFault ridge cause else d

/-- DEEP_RESTART_COMPLETE: 11:Table 11.2, steps 4 to 6. -/
def execDeepRestartComplete (ridge : Nat) (measured : BitVec 384) (signed : Bool) (s : State) :
    Host.Outcome State Fault Refusal := s.upd fun d => d.restartDone ridge measured signed

/-- DEEP_CLAIM_RELEASE: a claim ends, a deferred request is applied (11:R275, R276). -/
def execDeepClaimRelease (ridge blk : Nat) (s : State) : Host.Outcome State Fault Refusal := s.upd fun d => d.endClaim ridge blk

/-- DEEP_CLAIM_OVERTIME: a claim held for more than 100 ms is logged as event +53 (11:R275). -/
def execDeepClaimOvertime (ridge blk : Nat) (s : State) : Host.Outcome State Fault Refusal := s.upd fun d =>
  match assocGet (d.ridge ridge).world.claimed blk with
  | some t => (d.reach (t + 100000000)).ridgeEvent ridge 53 blk
  | none => d

/-- WATERLINE_MOVE (11:R261). -/
def execWaterlineMove (ridge : Nat) (up : Bool) (s : State) : Host.Outcome State Fault Refusal := s.upd fun d => d.moveLine ridge up

end Sys2Proof.Machine
end

