-- ==== Sys2Proof/Machine/Programs.lean ====
section
/-! DEFINITION. Tenant programs: images and their checks, the program cache, staging windows and job areas, the start of a
program, and its ends (10:R239, R240, R245 to R248, R253 to R255). -/

namespace Sys2Proof.Machine

/-! ## Images (10:R245) -/

/-- A segment table entry of 16 bytes. -/
def SegEntry.ofBytes (b : List Byte) : SegEntry :=
  ⟨field b 0 1, BitVec.ofNat 8 (field b 1 1), BitVec.ofNat 8 (field b 2 1), BitVec.ofNat 8 (field b 3 1), field b 4 4, field b 8 4⟩

/-- The parts of an image of given lengths, and its signature block: TYPE and the signature. -/
structure Container where
  image : Image
  typ : BitVec 8
  sig : List Byte
  signedPart : List Byte

/-- Where the header, the segment table, the code and the data end. -/
def signedLen (b : List Byte) : Nat := 96 + 16 * field b 32 2 + field b 16 4 + field b 20 4

/-- A container's fields (10:Table 10.6). -/
def Container.ofBytes (b : List Byte) : Container :=
  let n := field b 32 2
  let code := 96 + 16 * n
  let data := code + field b 16 4
  let stop := signedLen b
  let part := b.take stop
  { image :=
      { digest := sha384 part, stepping := BitVec.ofNat 32 (field b 8 4), signer := slice b 40 48, entry := field b 12 4
        segs := (List.range n).map fun i => SegEntry.ofBytes (slice b (96 + 16 * i) 16)
        code := (List.range (field b 16 4 / 4)).map fun i => BitVec.ofNat 32 (field b (code + 4 * i) 4)
        data := slice b data (field b 20 4), staging := field b 24 4, spill := field b 28 4, size := b.length }
    typ := BitVec.ofNat 8 (field b stop 1), sig := slice b (stop + 4) (field b (stop + 2) 2), signedPart := part }

/-- The header of an image of a KIND is well formed, and a signature block follows its signed part (10:Table 10.6). -/
def headerForm (kind : Nat) (b : List Byte) : Bool :=
  decide (96 ≤ b.length) && slice b 0 4 == ascii "IATU" && field b 4 2 == 1 && field b 6 2 == kind &&
    field b 16 4 % 4 == 0 && field b 20 4 % 8 == 0 && decide (field b 24 4 ≤ mib) && field b 28 4 % 128 == 0 &&
    decide (field b 28 4 ≤ 65536) && decide (1 ≤ field b 32 2 ∧ field b 32 2 ≤ 24) && field b 34 6 == 0 && field b 88 8 == 0 &&
    decide (signedLen b + 4 ≤ b.length)

/-- The header of a tenant program is well formed, and its lengths agree with AUX_LEN (10:Tables 10.5, 10.6). -/
def headerOk (b : List Byte) : Bool :=
  headerForm 2 b && b.length == signedLen b + 4 + field b (signedLen b + 2) 2

/-- A segment table entry is valid, and a STAGING or DATA segment fits (10:Table 10.7). -/
def SegEntry.ok (e : SegEntry) (raw : List Byte) (i : Image) : Bool :=
  let size := 2 ^ e.esize.toNat
  decide (1 ≤ e.region ∧ e.region ≤ 4) && decide (e.mode.toNat ≤ 2) && decide (e.esize.toNat ≤ 3) &&
    (e.access == 1 || (e.access == 3 && (e.region == 2 || e.region == 3))) && e.offset % size == 0 &&
    decide (1 ≤ e.limit) && modeOk (e.mode.setWidth 2) e.limit && field raw 12 4 == 0 &&
    match e.region with
    | 3 => decide (e.offset + e.limit * size ≤ i.staging)
    | 4 => decide (e.offset + e.limit * size ≤ i.data.length)
    | _ => true

/-- The checks of 10:R246 step 3, in order: the code of the first that fails. A signature block whose byte 1 is not zero does not
verify (10:R245; log 20). -/
def Dev.imageFault (d : Dev) (s : Nat) (b : List Byte) : Option Nat :=
  if !headerOk b then some 0x01
  else
    let c := Container.ofBytes b
    match (d.progKeys s).find? fun k => sha384 k.bytes == c.image.signer with
    | none => some 0x02
    | some k =>
      if k.typ != c.typ || field b (signedLen b + 1) 1 != 0 || !k.verifies c.signedPart c.sig then some 0x03
      else if (List.range c.image.segs.length).all fun i =>
          (c.image.segs.getD i ⟨0, 0, 0, 0, 0, 0⟩).ok (slice b (96 + 16 * i) 16) c.image then none
      else some 0x05

/-! ## The program cache (10:R247) -/

/-- Bytes of a seam's cached images. -/
def cachedBytes (ps : List CachedImage) (s : Nat) : Nat := ((ps.filter fun e => e.seam == s).map (·.image.size)).sum

/-- Least recently used images of the seam that do not run are evicted until `n` more bytes fit. -/
def evictImages (runs : Image → Bool) (s n quota : Nat) : Nat → List CachedImage → List CachedImage
  | 0, ps => ps
  | k + 1, ps =>
    if cachedBytes ps s + n ≤ quota then ps
    else match ps.findIdx? fun e => e.seam == s && !(runs e.image) with
      | some i => evictImages runs s n quota k (ps.eraseIdx i)
      | none => ps

/-- A new image enters the cache and Surface SRAM, with its place there; or it is to run without being cached, and evicts nothing,
when the running images or Surface SRAM leave no room (10:R247, 11:R261). -/
def Dev.cacheImage (d : Dev) (r s : Nat) (i : Image) (raw : List Byte) : Dev × Option Nat :=
  let x := d.ridge r
  let quota := (d.seam s).entry.progQuota.toNat * 4096
  let ps := evictImages (fun i => d.imageRuns r s i.digest) s i.size quota x.programs.length x.programs
  if cachedBytes ps s + i.size ≤ quota then
    match ({ x with programs := ps } : Ridge).alloc i.size with
    | some a => (d.modRidge r fun x => { x with programs := ps ++ [⟨s, i, a⟩], sram := memPut x.sram a raw }, some a)
    | none => (d, none)
  else (d, none)

/-- A cached image of the seam with this digest, whose signer is still enrolled, and its place (10:R246 step 2, R247). -/
def Dev.hitImage (d : Dev) (r s : Nat) (digest : List Byte) : Option (Image × Nat) :=
  ((d.ridge r).programs.find? fun e =>
    e.seam == s && e.image.digest == digest && (d.progKeys s).any fun k => sha384 k.bytes == e.image.signer).map fun e =>
      (e.image, e.base)

/-- A cached image is used: it becomes the most recently used. -/
def Dev.touchImage (d : Dev) (r s : Nat) (digest : List Byte) : Dev :=
  d.modRidge r fun x =>
    let mine := fun (e : CachedImage) => e.seam == s && e.image.digest == digest
    { x with programs := (x.programs.filter fun e => !(mine e)) ++ x.programs.filter mine }

/-! ## Staging windows and job areas (10:R246 steps 4 and 5) -/

/-- The seam's staging window on the ridge, made at its first program there, of no bytes when that needs none; none when it is too
small or SRAM cannot hold it. -/
def Dev.stage (d : Dev) (r s need : Nat) : Option (Dev × Nat) :=
  match (d.ridge r).staging.find? fun w => w.1 == s with
  | some w => if need ≤ w.2.2 then some (d, w.2.1) else none
  | none =>
    let n := (need + 65535) / 65536 * 65536
    ((d.ridge r).alloc n).map fun a => (d.modRidge r fun x => { x with staging := x.staging ++ [(s, a, n)] }, a)

/-- A segment of the job: base, and LIMIT as clipped at job start; none when it does not fit (10:Table 10.7). -/
def SegEntry.place (e : SegEntry) (inBase inLen outBase outLen stageBase dataBase : Nat) : Option Seg :=
  let size := 2 ^ e.esize.toNat
  let mode : BitVec 2 := e.mode.setWidth 2
  let seg := fun (base limit : Nat) => (⟨base + e.offset, limit, e.esize.setWidth 2, e.access.getLsbD 1, mode⟩ : Seg)
  let clip := fun (base len : Nat) =>
    let fit := (len - e.offset) / size
    if mode = 0 then some (seg base (min e.limit fit)) else if e.limit ≤ fit then some (seg base e.limit) else none
  match e.region with
  | 1 => clip inBase inLen
  | 2 => clip outBase outLen
  | 3 => some (seg stageBase e.limit)
  | _ => some (seg dataBase e.limit)

/-- The whole table; none when a segment does not fit its region at job start. -/
def placeSegs (es : List SegEntry) (place : SegEntry → Option Seg) : Option (List Seg) :=
  match es with
  | [] => some []
  | e :: rest => (place e).bind fun s => (placeSegs rest place).map fun t => s :: t

/-- The Surface bank at the start of a program (10:R248). -/
def startBank (core inLen outLen entry : Nat) (table : List Seg) : Bank :=
  { Bank.reset with
    g := [0, BitVec.ofNat 64 core, BitVec.ofNat 64 inLen, BitVec.ofNat 64 outLen] ++ List.replicate 12 0
    sel := (List.range 8).map fun i => table.getD i ⟨0, 0, 0, false, 0⟩
    pc := BitVec.ofNat 64 (entry * 4) }

/-- The budget (10:R254). -/
def budgetOf (param : BitVec 16) : Nat := (if param = 0 then 16 else param.toNat) * 65536

/-- The verdict of a program's end (10:R240): status by code, DETAIL with the instruction's index. -/
def progVerdict (code index : Nat) : Verdict :=
  let st := if code = 4 then stBadLength else if code < 4 then stSignature else if code < 0x20 then stSegment
    else if code < 0x30 then stReservedOp else stStepLimit
  refuse st (code % 256 + index % 2 ^ 24 * 256)

/-- Where the code of an image and its constant data begin in the image (10:R245). -/
def Image.codeAt (i : Image) : Nat := 96 + 16 * i.segs.length
def Image.dataAt (i : Image) : Nat := i.codeAt + 4 * i.code.length

/-- The program starts on its core: the job area built, the registers set (10:R246 steps 5 and 6, R248). An image without a place
in the cache has one in the job area. A core that no space is left for waits. A copy below the waterline does not take place
(11:R260). -/
def Dev.startProgram (d : Dev) (r c : Nat) (j : JobRec) (i : Image) (raw inp : List Byte) (stageBase : Nat) (at' : Option Nat) :
    Dev :=
  let outLen := j.job.desc.outLen.toNat
  let own := match at' with
    | some _ => 0
    | none => raw.length
  let n := inp.length + outLen + i.spill + own
  match (d.ridge r).alloc n with
  | none => d
  | some a =>
    let outBase := a + inp.length
    let spill := outBase + outLen
    let image := at'.getD (spill + i.spill)
    if a < (d.ridge r).lineByte then (d.injection r 0xFFFF).finish j.num (progVerdict 0x10 0) false
    else match placeSegs i.segs fun e => e.place a inp.length outBase outLen stageBase (image + i.dataAt) with
    | none => d.finish j.num (progVerdict 0x05 0) false
    | some table =>
      let p : Program :=
        { job := j.num, image := i, budget := budgetOf j.job.desc.param, cycles := 0, inBase := a, inLen := inp.length
          outBase := outBase, outLen := outLen, spillBase := spill, imageBase := image, imageLen := own, stageBase := stageBase
          table := table, tickets := List.replicate 8 none, paused := (d.ridge r).world.restarting, ending := none }
      let d := d.modRidge r fun x =>
        let m := memPut (memZero x.sram a n) a inp
        { x with sram := if own = 0 then m else memPut m image raw }
      let d := d.modCore r c fun k => { k with
        surface := startBank c inp.length outLen i.entry table, pend := [], resume := none, program := some p }
      d.modJob j.num fun x => { x with tail := { x.tail with started := d.clock } }

/-- Steps 2 to 6 of 10:R246 for a job whose image and IN have been read. A miss needs Keade: during a Deep restart it ends
with ABORT_DEEP_RESTART (11:Table 11.3). -/
def Dev.loadProgram (d : Dev) (r c : Nat) (j : JobRec) (image inp : List Byte) : Dev :=
  let s := j.job.seam
  let d := d.purgePrograms s
  let go := fun (d : Dev) (i : Image) (at' : Option Nat) =>
    match d.stage r s i.staging with
    | none => d.finish j.num (progVerdict 0x04 0) false
    | some (d, a) => d.startProgram r c j i image inp a at'
  match d.hitImage r s (Container.ofBytes image).image.digest with
  | some (i, a) => go (d.touchImage r s i.digest) i (some a)
  | none =>
    if (d.ridge r).world.restarting then d.finish j.num (refuse stAbortDeep 0) false
    else match d.imageFault s image with
      | some code => d.finish j.num (progVerdict code 0) false
      | none =>
        let i := (Container.ofBytes image).image
        let (d, at') := d.cacheImage r s i image
        go d i at'

/-- The job that a Surface core is to run: granted to it, its image and IN read (10:R246), and not stopped by a SEAM_RESET
(03:R69). -/
def Dev.programJob (d : Dev) (r c : Nat) : Option (JobRec × List Byte × List Byte) :=
  d.jobs.findSome? fun j =>
    if j.job.phase == .program && !j.tail.discarded && j.job.ridge == r && j.job.blk == 29 + c && (d.progCore j.num).isNone then
      match j.job.aux, j.job.inp with
      | .got a, .got b => some (j, a, b)
      | .got a, .none => some (j, a, [])
      | _, _ => none
    else none

/-- RUN_PROGRAM: the core loads and starts the program that its job names (10:R246, R248). -/
def execRunProgram (ridge core : Nat) (s : State) : Host.Outcome State Fault Refusal := s.upd fun d =>
  if 1 ≤ core ∧ core < 4 then
    match d.programJob ridge core with
    | some (j, image, inp) => d.loadProgram ridge core j image inp
    | none => d
  else d

/-! ## Ends (10:R239, R240, R253, R255) -/

/-- A program ends with a verdict; ENGINE_NS holds its core time at 1.2 GHz (10:R253, R269). A copy of its output that would lie
below the waterline does not take place: fault injection, and code 0x10 (11:R260). -/
def Dev.endProgram (d : Dev) (r c : Nat) (v : Verdict) : Dev :=
  match (d.core r c).program with
  | none => d
  | some p =>
    let low := v.status = stDone && v.written != 0 && decide (p.outBase < (d.ridge r).lineByte)
    let d := if low then d.injection r 0xFFFF else d
    let v := if low then refuse stSegment 0x10 else v
    let d := d.modJob p.job fun x => { x with tail := { x.tail with ns := p.cycles * 5 / 6 } }
    (d.modProgram r c fun p => { p with ending := some v }).closeProgram r c false

/-- A trap of a tenant program enters Deep, and ends it with the code of 10:Table 10.5. An access below the waterline is fault
injection before it is a segment fault (11:R260, R264). -/
def Dev.trapProgram (d : Dev) (r c code : Nat) : Dev :=
  let pc := (d.core r c).surface.pc
  let index := pc.toNat / 4
  let shown := if code = belowLine then 0x10 else code
  let d := if code = belowLine then d.injection r 0xFFFF else d
  (d.visitDeep r c pc (0x100 + shown)).endProgram r c (progVerdict shown index)

/-- The instruction word at an address of a program's code region; none outside it (10:Table 10.5, code 0x15). -/
def Program.word (p : Program) (pc : W64) : Option (BitVec 32) :=
  if pc.toNat % 4 = 0 then p.image.code[pc.toNat / 4]? else none

end Sys2Proof.Machine
end

