-- ==== Sys2Proof/Machine/Cores.lean ====
section
/-! DEFINITION. The commands of a Lamad core: a core issues an instruction, its own or one of the program it runs (10:R228
to R254, 11:R256 to R269). A Surface core issues the instruction that stands at the pc of its program; what no program
runs, or what the program does not hold there, does not occur (log 19). -/

namespace Sys2Proof.Machine

/-! ## Issuing -/

/-- What an instruction sees of its core. -/
def Dev.lam (d : Dev) (r c : Nat) : Lam :=
  let x := d.ridge r
  let k := d.core r c
  { core := k, sram := x.sram, line := x.lineByte, draws := d.draws
    spillBase := if k.deep then k.spillBase else (k.program.map (·.spillBase)).getD 0
    spillLen := if k.deep then k.spillLen else (k.program.map (·.image.spill)).getD 0
    table := (k.program.map (·.table)).getD [], npc := 0, extra := 0, charge := 1, wrote := [], fresh := []
    whole := c == 0 || k.flush }

/-- The program of a core after an instruction: in the Surface world it has been charged, and its cycles have passed
(10:R254, 11:R269). -/
def Core.charged (was : Core) (charge cycle : Nat) : Option Program :=
  if was.deep then was.program else was.program.map fun p =>
    { p with budget := p.budget - charge, cycles := p.cycles + (cycle - was.cycle) }

/-- Where the instruction at the pc of a core's world stands in SRAM: in the image of its program, in Keade's code. -/
def Dev.codeAddr (d : Dev) (r c : Nat) : Nat :=
  let k := d.core r c
  if k.deep then Config.keadeBase r + k.deepBank.pc.toNat
  else match k.program with
    | some p => p.imageBase + p.image.codeAt + k.surface.pc.toNat
    | none => k.surface.pc.toNat

/-- An instruction is fetched through the instruction cache (11:R262). -/
def Dev.codeFetch (d : Dev) (r c : Nat) : Dev :=
  let a := d.codeAddr r c
  d.modCore r c fun k => { k with icache := k.icache.access (c == 0 || k.flush) k.deep false a }

/-- What it leaves there: the core, SRAM, its program. -/
def Dev.putLam (d : Dev) (r c : Nat) (x : Lam) : Dev :=
  { d.modRidge r fun y => { y with
      sram := x.sram, cores := y.cores.set c { x.core with program := (d.core r c).charged x.charge x.core.cycle } } with
    draws := x.draws }

/-- A program on a core that can issue: not paused, not ending, in the Surface world. -/
def Core.issuing (k : Core) : Option Program :=
  match k.program with
  | some p => if k.deep || p.paused || p.ending.isSome then none else some p
  | none => none

/-- The step of a Surface core towards an instruction of its program: a fetch outside the code ends it (code 0x15), and so
does a budget that the instruction would pass (10:R254); `own` judges the word at the pc. -/
def Dev.surface (d : Dev) (r c : Nat) (own : BitVec 32 → Bool) (charge : Nat) (f : Dev → Dev) : Dev :=
  match (d.core r c).issuing with
  | none => d
  | some p =>
    let pc := (d.core r c).surface.pc
    match p.word pc with
    | none => d.trapProgram r c 0x15
    | some w =>
      if !own w then d
      else if p.budget < charge then d.endProgram r c (progVerdict 0x30 (pc.toNat / 4))
      else f d

/-- The instruction is fetched and runs; a trap of a Deep core goes to Keade's handler (10:R239). At the boundary after it the
core takes a Deep interrupt that waits (10:R234, 11:R267). -/
def Dev.runLam (d : Dev) (r c : Nat) (sem : Lam → Except Nat Lam) (post : Dev → Dev) : Dev :=
  let d := d.codeFetch r c
  match (d.lam r c).run sem with
  | .ok x => (post (d.putLam r c x)).takeDue r c
  | .error code => if (d.core r c).deep then d.deepTrap r c code else d.trapProgram r c code

/-- A core issues an instruction: in Deep while Keade's side runs, in Surface where it is the program's next one. -/
def Dev.issue (d : Dev) (r c : Nat) (i : Instr) (sem : Lam → Except Nat Lam) (post : Dev → Dev := id) : Dev :=
  if !d.serves r || !decide (c < 4) then d
  else if (d.core r c).deep then
    if (d.ridge r).world.restarting then d
    else if Lamad.namesReserved i then d.deepTrap r c 0x20
    else d.runLam r c sem post
  else d.surface r c (fun w => Lamad.decode r c w == some i && !(Lamad.namesReserved i)) ((d.core r c).surface.chargeOf i)
    fun d => d.runLam r c sem post

/-! ## Requests of a program (10:R249 to R252) -/

/-- The block of 64 bytes that a JSUB names, at an index of a selector of ESIZE 3; its 8 elements lie where the mode puts
them (code 0x16 for another ESIZE, log 20). -/
def Lam.block (x : Lam) (s : Seg) (i : Nat) : Except Nat (List Byte) :=
  if s.esize ≠ 3 then .error 0x16
  else (List.range 8).foldlM (init := []) fun bs k => do
    let v ← x.loadElem s (i + k)
    return bs ++ leBytes 8 v

/-- A buffer of a request lies in its segment, and the segment in Surface SRAM: its address, or the trap (10:R250,
11:R260). -/
def Lam.buffer (x : Lam) (sel off len : Nat) (store : Bool) : Except Nat Nat :=
  let s := x.sel (BitVec.ofNat 3 sel)
  if len = 0 then .ok s.base
  else if s.limit * s.size < off + len || (store && !s.write) then .error 0x16
  else do
    x.reach (s.base + off) len
    return s.base + off

/-- A request's block as a descriptor; buffers are SRAM addresses. -/
def requestDesc (b : List Byte) (inp out aux : Nat) : Desc :=
  { opcode := BitVec.ofNat 16 (field b 0 2), flags := BitVec.ofNat 8 (field b 2 1), dver := 2, tag := 0
    param := BitVec.ofNat 16 (field b 6 2), keyA := BitVec.ofNat 64 (field b 8 8), keyB := BitVec.ofNat 64 (field b 16 8)
    inAddr := BitVec.ofNat 64 inp, inLen := BitVec.ofNat 32 (field b 28 4), outLen := BitVec.ofNat 32 (field b 36 4)
    outAddr := BitVec.ofNat 64 out, auxAddr := BitVec.ofNat 64 aux, auxLen := BitVec.ofNat 32 (field b 44 4), check := 0 }

/-- A program-only primitive (10:Table 10.9). -/
def isPrimitive (op : Nat) : Bool := decide (0x0F10 ≤ op ∧ op ≤ 0x0F14)

/-- An opcode that a request may use (10:R251). -/
def requestOp (op : Nat) : Bool :=
  isPrimitive op || (defined op && decide (op < 0x8000) && !([0x0F01, 0x0210, 0x0805].contains op))

/-- Bytes of a polynomial of 256 coefficients. -/
def polyBytes : Nat := 1024

/-- PARAM of a primitive is one of its values. -/
def Desc.primParamOk (x : Desc) : Bool :=
  match x.op with
  | 0x0F12 => x.p 2 14 == 0
  | 0x0F13 => x.p 0 1 == 0 && x.p 2 14 == 0
  | 0x0F14 => decide (1 ≤ x.p 0 4 ∧ x.p 0 4 ≤ 6) && x.p 4 12 == 0
  | _ => x.param == 0

/-- Lengths of a primitive: of IN, then of OUT. -/
def Desc.primLens (x : Desc) : Bool × Bool :=
  let n := x.inLen.toNat
  let o := x.outLen.toNat
  let width := fun (k : Nat) => decide (128 ≤ k ∧ k ≤ 1024) && k % 8 == 0
  match x.op with
  | 0x0F10 => (n % 2 == 0 && width (n / 2), true)
  | 0x0F11 => (width n, decide (n ≤ o))
  | 0x0F12 => (n == polyBytes, decide (polyBytes ≤ o))
  | 0x0F13 => (n == 2 * polyBytes, decide (polyBytes ≤ o))
  | _ => (true, decide (polyBytes ≤ o))

/-- The judgement of a request before stage 2, with the codes of 04:Table 4.5 and offsets in the block (log 20). -/
def Dev.requestFault (d : Dev) (s : Nat) (x : Desc) : Option Verdict :=
  let bad := fun (st : BitVec 16) (code off written : Nat) =>
    some (⟨st, BitVec.ofNat 32 (code + off * 256), BitVec.ofNat 32 written⟩ : Verdict)
  let makes := makesKey x.op || x.op == 0x0806
  if !requestOp x.op then bad stBadOpcode 4 0 0
  else if Nat.land x.flags.toNat 0xF7 ≠ 0 then bad stMalformed 3 2 0
  else if makes != x.resultHandle then bad stMalformed 8 2 0
  else if isPrimitive x.op then
    if !x.primParamOk then bad stMalformed 8 6 0
    else if !x.primLens.1 then bad stBadLength 9 28 0
    else if !x.primLens.2 then bad stBadLength 0x0A 36 0
    else none
  else if !x.paramOk then bad stMalformed 8 6 0
  else if !d.inLenOk s x then bad stBadLength 9 28 0
  else if !x.outLenOk then bad stBadLength 9 36 0
  else if !d.auxLenOk s x then bad stBadLength 9 44 0
  else if x.outLen.toNat < d.fixedOut s x then bad stBadLength 0x0A 36 (d.fixedOut s x)
  else none

/-- What a JSUB will do, judged on the state before it: the value of rd, and the submission. -/
structure Submit where
  value : W64
  desc : Option Desc
  ticket : Nat
  block : Seg
  index : Nat
  inp : List Byte
  aux : List Byte

/-- The lowest free ticket. -/
def Program.freeTicket (p : Program) : Option Nat := p.tickets.findIdx? fun t => t.isNone

/-- JSUB's reading of its block and buffers; IN and AUX are read now (10:R250 lets the engine read them later, log 20).
All tickets held, or no program: rd takes all ones and nothing is submitted. -/
def Dev.jsubPlan (d : Dev) (r c : Nat) (ra : BitVec 6) (sel : BitVec 3) : Except Nat Submit :=
  let x := { d.lam r c with core := (d.core r c).landDue }
  let none' : Submit := ⟨BitVec.allOnes 64, none, 0, ⟨0, 0, 0, false, 0⟩, 0, [], []⟩
  match (if x.core.deep then none else x.core.program.bind Program.freeTicket) with
  | none => .ok none'
  | some t => do
    let s := x.sel sel
    let i := (x.r ra).toNat
    let b ← x.block s i
    let inp ← x.buffer (field b 3 1 % 8) (field b 24 4) (field b 28 4) false
    let out ← x.buffer (field b 4 1 % 8) (field b 32 4) (field b 36 4) true
    let aux ← x.buffer (field b 5 1 % 8) (field b 40 4) (field b 44 4) false
    return ⟨BitVec.ofNat 64 t, some (requestDesc b inp out aux), t, s, i,
      memBytes x.sram inp (field b 28 4), memBytes x.sram aux (field b 44 4)⟩

/-- A request is handed to the ridge's dispatcher: judged, and given to an engine or to Keade (10:R251). -/
def Dev.submit (d : Dev) (r c : Nat) (q : Submit) : Dev :=
  match q.desc, (d.core r c).program with
  | some x, some p =>
    match d.job? p.job with
    | none => d
    | some pj =>
      let s := pj.job.seam
      let n := d.nextJob
      let k : Ticket := ⟨n, q.block, q.index, x.outAddr.toNat, none, false⟩
      let d := d.modProgram r c fun p => { p with tickets := p.tickets.set q.ticket (some k) }
      let refused := fun (v : Verdict) => d.modProgram r c fun p =>
        { p with tickets := p.tickets.set q.ticket (some { k with ended := some (v.status, v.detail, v.written, 0), delivered := true }) }
      match d.requestFault s x with
      | some v => refused v
      | none =>
        if x.op ≤ 1 then refused done
        else match d.stage2 s x 0 none with
        | .error v => refused v
        | .ok pass =>
          if isDeep x.op && d.deepDown s then refused (refuse stAbortDeep 0)
          else
            let j := d.newJob s 0 ⟨0, x, none, true, d.clock⟩
            let j := { j with tail := { j.tail with prog := some (p.job, q.ticket) } }
            let d := ({ d with jobs := d.jobs ++ [j], nextJob := n + 1 }).load j x pass
            let d := d.modJob n fun y => { y with job := { y.job with
              inp := if x.usesIn || isPrimitive x.op then .got q.inp else .none
              aux := if x.usesAux then .got q.aux else .none } }
            let d := if isDeep x.op then d.queueDeep n else d.place n
            d.lateStage n
  | _, _ => d

/-- JWAIT and JPOLL: what the ticket answers. -/
inductive Answer where
  /-- a ticket that names no request: BAD_HANDLE 0x0001 -/
  | bad
  | running
  | ended (t : Ticket) (status : BitVec 16) (detail written : BitVec 32) (handle : W64)

/-- The ticket that a register names; a signal not yet delivered leaves it running (10:R249, 11:R268). -/
def Core.answer (k : Core) (n : W64) : Answer :=
  match (if k.deep then none else k.program.bind fun p => (p.tickets[n.toNat]?).join) with
  | none => .bad
  | some t =>
    match t.ended with
    | some (st, de, wr, h) => if t.delivered then .ended t st de wr h else .running
    | none => .running

/-- The result fields are written into the request block, and rd takes STATUS and DETAIL. -/
def Lam.answer (x : Lam) (rd : BitVec 6) (t : Ticket) (status : BitVec 16) (detail written : BitVec 32) (handle : W64) :
    Except Nat Lam := do
  let x ← x.storeElem t.block (t.index + 6) (status.toNat + written.toNat * 2 ^ 32)
  let x ← x.storeElem t.block (t.index + 7) handle.toNat
  return x.set rd (BitVec.ofNat 64 (status.toNat * 2 ^ 32 + detail.toNat))

/-- The ticket of a register is freed. -/
def Dev.freeTicket (d : Dev) (r c : Nat) (n : W64) : Dev :=
  d.modProgram r c fun p => { p with tickets := p.tickets.set n.toNat none }

/-- One stalled cycle, which is not charged (10:R249). -/
def Dev.stall (d : Dev) (r c : Nat) : Dev :=
  d.modCore r c fun k => { k with
    cycle := k.cycle + 1, program := k.program.map fun p => { p with cycles := p.cycles + 1 } }

/-- JWAIT, and JPOLL with `poll`. -/
def Dev.jwait (d : Dev) (r c : Nat) (i : Instr) (rd ra : BitVec 6) (poll : Bool) : Dev :=
  let x := { d.lam r c with core := (d.core r c).landDue }
  let n := x.r ra
  match x.core.answer n with
  | .bad => d.issue r c i fun x => .ok (x.set rd (BitVec.ofNat 64 (0x0301 * 2 ^ 32 + 1)))
  | .running =>
    if poll then d.issue r c i fun x => .ok (x.set rd (BitVec.allOnes 64))
    else if !d.serves r then d
    else d.surface r c (fun w => Lamad.decode r c w == some i && !(Lamad.namesReserved i)) 1 fun d => (d.stall r c).takeDue r c
  | .ended t st de wr h => d.issue r c i (fun x => x.answer rd t st de wr h) fun d => d.freeTicket r c n

/-! ## Crossings -/

/-- DESCEND: of a tenant program with a service other than 0, code 0x23; of a Surface core without one, the entry into
Deep (11:R264). -/
def Dev.descend (d : Dev) (r c : Nat) (i : Instr) (service : Nat) : Dev :=
  if !d.keadeRuns r || !decide (c < 4) || (d.core r c).deep then d
  else if (d.core r c).program.isSome then
    d.surface r c (fun w => Lamad.decode r c w == some i) 1 fun d => d.trapProgram r c 0x23
  else d.enterDeep r c ((d.core r c).surface.pc + 4) service

/-- EXIT: the program ends with DONE, g2 bytes of OUT and DETAIL from g3 (10:R253); more than OUT_LEN is code 0x17. -/
def Dev.exitProgram (d : Dev) (r c : Nat) (i : Instr) : Dev :=
  if !d.serves r then d
  else d.surface r c (fun w => Lamad.decode r c w == some i) 1 fun d =>
    let d := (d.modCore r c Core.boundary).stall r c
    let b := (d.core r c).surface
    let n := b.read false 2
    let room := ((d.core r c).program.map (·.outLen)).getD 0
    if room < n.toNat then d.trapProgram r c 0x17
    else (d.visitDeep r c (b.pc + 4) 0).endProgram r c ⟨stDone, (b.read false 3).setWidth 32, n.setWidth 32⟩

/-- ASCEND: back to Surface; refused on core 0 or without a resume address, a Deep fault; in the Surface world code 0x21
(11:R265). -/
def Dev.ascend (d : Dev) (r c : Nat) (i : Instr) : Dev :=
  if !d.serves r || !decide (c < 4) then d
  else if (d.core r c).deep then
    if !d.keadeRuns r then d
    else match (d.core r c).resume with
      | some a => if c = 0 then d.deepFault r 3 else (d.leaveDeep r c a).takeDue r c
      | none => d.deepFault r 3
  else d.surface r c (fun w => Lamad.decode r c w == some i) 1 fun d => d.trapProgram r c 0x21

/-! ## Privileged, custom and reserved -/

/-- The effect of an instruction of major 0x30 on its core (log 15). -/
def Lam.privileged (x : Lam) (op : PrivOp) : Lam :=
  match op with
  | .setSelector sel base limit esize mode write => x.setSel sel ⟨base, limit, esize, write, mode⟩
  | .setSpill base len => { x with core := { x.core with spillBase := base, spillLen := len } }
  | .setTable _ _ _ _ _ _ | .setEntry _ _ => x

/-- What it does beside its core's registers: an entry of the program's segment table, an entry point. -/
def Dev.privilegedSide (d : Dev) (r c : Nat) (op : PrivOp) : Dev :=
  match op with
  | .setTable entry base limit esize mode write =>
    d.modProgram r c fun p => { p with table := p.table.set entry.toNat ⟨base, limit, esize, write, mode⟩ }
  | .setEntry service pc => d.modWorld r fun w => { w with entries := assocSet w.entries service.toNat pc }
  | _ => d

/-- A major 0x30 instruction: Deep code has its effect; a program ends with code 0x21. -/
def Dev.privileged (d : Dev) (r c : Nat) (op : PrivOp) : Dev :=
  if !d.serves r || !decide (c < 4) then d
  else if (d.core r c).deep then
    if !d.keadeRuns r then d else (d.privilegedSide r c op).runLam r c (fun x => .ok (x.privileged op)) id
  else d.surface r c Lamad.isPrivileged 1 fun d => d.trapProgram r c 0x21

/-- The contents of a decode table slot as bytes: its slot image (10:R243, R244). -/
def slotBytes (ops : List W64) : List Byte := ops.flatMap fun m => leBytes 8 m.toNat

/-- The image of a slot. -/
def Firmware.slot (f : Firmware) (n : Nat) : Option FwImage := if n = 0 then f.slot0 else f.slot1

/-- The running Keade image lists a decode table slot with the digest of what it holds (10:R244). -/
def Dev.slotListed (d : Dev) (slot : Nat) (ops : List W64) : Bool :=
  match d.fw.slot d.fw.active with
  | some i => i.slots.any fun e => e.1 == slot && e.2 == sha384 (slotBytes ops)
  | none => false

/-- A custom instruction: Deep code runs the slot's micro-operations where its image lists them, and takes its own software path
where it does not; an empty slot, or a trap of a micro-operation, is a trap of the instruction, after those before it. A program
ends with code 0x22 (10:R244). -/
def Dev.custom (d : Dev) (r c : Nat) (i : Instr) (slot : BitVec 5) (rd ra rb : BitVec 6) (k : BitVec 3) : Dev :=
  if !d.serves r || !decide (c < 4) then d
  else if (d.core r c).deep then
    if !d.keadeRuns r then d
    else match d.decode.getD slot.toNat [] with
      | [] => d.deepTrap r c 0x20
      | ops =>
        if d.slotListed slot.toNat ops then
          let d := d.codeFetch r c
          match (d.lam r c).slotOps rd ra rb k ops with
          | (x, none) => d.putLam r c (x.modBank fun b => { b with pc := b.pc + 4 })
          | (x, some code) => (d.putLam r c x).deepTrap r c code
        else d
  else d.surface r c (fun w => Lamad.decode r c w == some i) 1 fun d => d.trapProgram r c 0x22

/-- A word that traps as a reserved opcode: no defined encoding, or a reserved register; majors 0x30 and 0x3E have codes
of their own (10:R241). -/
def reservedWord (r c : Nat) (w : BitVec 32) : Bool :=
  match Lamad.decode r c w with
  | some (.customX _ _ _ _ _ _ _) => false
  | some i => Lamad.namesReserved i
  | none => !(Lamad.isPrivileged w)

/-- Keade emulates a reserved encoding: the core enters Deep and ascends, registers take what the later stepping writes, the
program goes on at the next instruction and is charged one (10:R241, R254, 11:R264). -/
def Dev.emulate (d : Dev) (r c : Nat) (writes : List (BitVec 6 × W64)) : Dev :=
  (d.visitDeep r c (d.core r c).surface.pc 0x120).modCore r c fun k =>
    let x := writes.foldl (fun (b : Bank) e => match b.phys e.1 with
      | some p => b.put (e.2.setWidth 128) p
      | none => b) k.surface
    { k with surface := { x with pc := x.pc + 4 }, program := k.program.map fun p => { p with budget := p.budget - 1 } }

/-- RESERVED_OPCODE_TRAP: emulated, or the program ends with code 0x20; during a Deep restart it waits (10:R241). Of Deep code it
goes to Keade's handler (10:R239). -/
def Dev.reservedTrap (d : Dev) (r c : Nat) (writes : Option (List (BitVec 6 × W64))) : Dev :=
  if !d.keadeRuns r then d
  else if (d.core r c).deep then if writes.isNone && decide (c < 4) then d.deepTrap r c 0x20 else d
  else d.surface r c (reservedWord r c) 1 fun d =>
    match writes with
    | some ws => d.emulate r c ws
    | none => d.trapProgram r c 0x20

/-- BUDGET_EXHAUSTED: the next instruction would pass the budget (10:R254). -/
def Dev.budgetEnd (d : Dev) (r c : Nat) : Dev :=
  match (d.core r c).issuing with
  | none => d
  | some p =>
    let b := (d.core r c).surface
    let charge := ((p.word b.pc).bind (Lamad.decode r c)).elim 1 b.chargeOf
    if p.budget < charge then d.endProgram r c (progVerdict 0x30 (b.pc.toNat / 4)) else d

/-! ## The instructions -/

/-- ADD: integer addition setting C (10:R229). -/
def execAdd (ridge core : Nat) (rd ra rb : BitVec 6) (s : State) :
    Host.Outcome State Fault Refusal := s.upd fun d =>
  d.issue ridge core (.add ridge core rd ra rb) fun x => .ok (x.add rd ra rb)

/-- SUB: integer subtraction setting C (10:R229). -/
def execSub (ridge core : Nat) (rd ra rb : BitVec 6) (s : State) :
    Host.Outcome State Fault Refusal := s.upd fun d =>
  d.issue ridge core (.sub ridge core rd ra rb) fun x => .ok (x.sub rd ra rb)

/-- ADDC: addition with carry in (10:R229). -/
def execAddc (ridge core : Nat) (rd ra rb : BitVec 6) (s : State) :
    Host.Outcome State Fault Refusal := s.upd fun d =>
  d.issue ridge core (.addc ridge core rd ra rb) fun x => .ok (x.addc rd ra rb)

/-- SUBB: subtraction with borrow in (10:R229). -/
def execSubb (ridge core : Nat) (rd ra rb : BitVec 6) (s : State) :
    Host.Outcome State Fault Refusal := s.upd fun d =>
  d.issue ridge core (.subb ridge core rd ra rb) fun x => .ok (x.subb rd ra rb)

/-- AND: bitwise AND (10:R238). -/
def execAnd (ridge core : Nat) (rd ra rb : BitVec 6) (s : State) :
    Host.Outcome State Fault Refusal := s.upd fun d =>
  d.issue ridge core (.and ridge core rd ra rb) fun x => .ok (x.and rd ra rb)

/-- OR: bitwise OR (10:R238). -/
def execOr (ridge core : Nat) (rd ra rb : BitVec 6) (s : State) :
    Host.Outcome State Fault Refusal := s.upd fun d =>
  d.issue ridge core (.or ridge core rd ra rb) fun x => .ok (x.or rd ra rb)

/-- XOR: bitwise XOR (10:R238). -/
def execXor (ridge core : Nat) (rd ra rb : BitVec 6) (s : State) :
    Host.Outcome State Fault Refusal := s.upd fun d =>
  d.issue ridge core (.xor ridge core rd ra rb) fun x => .ok (x.xor rd ra rb)

/-- SHL: shift left by rb[5:0] (10:R238). -/
def execShl (ridge core : Nat) (rd ra rb : BitVec 6) (s : State) :
    Host.Outcome State Fault Refusal := s.upd fun d =>
  d.issue ridge core (.shl ridge core rd ra rb) fun x => .ok (x.shl rd ra rb)

/-- SHR: logical shift right (10:R238). -/
def execShr (ridge core : Nat) (rd ra rb : BitVec 6) (s : State) :
    Host.Outcome State Fault Refusal := s.upd fun d =>
  d.issue ridge core (.shr ridge core rd ra rb) fun x => .ok (x.shr rd ra rb)

/-- SAR: arithmetic shift right (10:R238). -/
def execSar (ridge core : Nat) (rd ra rb : BitVec 6) (s : State) :
    Host.Outcome State Fault Refusal := s.upd fun d =>
  d.issue ridge core (.sar ridge core rd ra rb) fun x => .ok (x.sar rd ra rb)

/-- CMPEQ: compare equal, writing 1 or 0 (10:R238). -/
def execCmpeq (ridge core : Nat) (rd ra rb : BitVec 6) (s : State) :
    Host.Outcome State Fault Refusal := s.upd fun d =>
  d.issue ridge core (.cmpeq ridge core rd ra rb) fun x => .ok (x.cmpeq rd ra rb)

/-- CMPLT: signed compare less than (10:R238). -/
def execCmplt (ridge core : Nat) (rd ra rb : BitVec 6) (s : State) :
    Host.Outcome State Fault Refusal := s.upd fun d =>
  d.issue ridge core (.cmplt ridge core rd ra rb) fun x => .ok (x.cmplt rd ra rb)

/-- CMPLTU: unsigned compare less than (10:R238). -/
def execCmpltu (ridge core : Nat) (rd ra rb : BitVec 6) (s : State) :
    Host.Outcome State Fault Refusal := s.upd fun d =>
  d.issue ridge core (.cmpltu ridge core rd ra rb) fun x => .ok (x.cmpltu rd ra rb)

/-- ADDI: add of a signed immediate (10:R238). -/
def execAddi (ridge core : Nat) (rd ra : BitVec 6) (imm : BitVec 14) (s : State) :
    Host.Outcome State Fault Refusal := s.upd fun d =>
  d.issue ridge core (.addi ridge core rd ra imm) fun x => .ok (x.addi rd ra imm)

/-- ANDI: aND with a zero-extended immediate (10:R238). -/
def execAndi (ridge core : Nat) (rd ra : BitVec 6) (imm : BitVec 14) (s : State) :
    Host.Outcome State Fault Refusal := s.upd fun d =>
  d.issue ridge core (.andi ridge core rd ra imm) fun x => .ok (x.andi rd ra imm)

/-- ORI: oR with a zero-extended immediate (10:R238). -/
def execOri (ridge core : Nat) (rd ra : BitVec 6) (imm : BitVec 14) (s : State) :
    Host.Outcome State Fault Refusal := s.upd fun d =>
  d.issue ridge core (.ori ridge core rd ra imm) fun x => .ok (x.ori rd ra imm)

/-- XORI: xOR with a zero-extended immediate (10:R238). -/
def execXori (ridge core : Nat) (rd ra : BitVec 6) (imm : BitVec 14) (s : State) :
    Host.Outcome State Fault Refusal := s.upd fun d =>
  d.issue ridge core (.xori ridge core rd ra imm) fun x => .ok (x.xori rd ra imm)

/-- SHLI: shift left by an immediate count (10:R238). -/
def execShli (ridge core : Nat) (rd ra : BitVec 6) (count : BitVec 6) (s : State) :
    Host.Outcome State Fault Refusal := s.upd fun d =>
  d.issue ridge core (.shli ridge core rd ra count) fun x => .ok (x.shli rd ra count)

/-- SHRI: logical shift right by an immediate count (10:R238). -/
def execShri (ridge core : Nat) (rd ra : BitVec 6) (count : BitVec 6) (s : State) :
    Host.Outcome State Fault Refusal := s.upd fun d =>
  d.issue ridge core (.shri ridge core rd ra count) fun x => .ok (x.shri rd ra count)

/-- SARI: arithmetic shift right by an immediate count (10:R238). -/
def execSari (ridge core : Nat) (rd ra : BitVec 6) (count : BitVec 6) (s : State) :
    Host.Outcome State Fault Refusal := s.upd fun d =>
  d.issue ridge core (.sari ridge core rd ra count) fun x => .ok (x.sari rd ra count)

/-- MOVZ: places an immediate in a halfword and clears the rest (10:R238). -/
def execMovz (ridge core : Nat) (rd : BitVec 6) (half : BitVec 2) (imm : BitVec 16) (s : State) :
    Host.Outcome State Fault Refusal := s.upd fun d =>
  d.issue ridge core (.movz ridge core rd half imm) fun x => .ok (x.movz rd half imm)

/-- MOVK: places an immediate in a halfword and keeps the rest (10:R238). -/
def execMovk (ridge core : Nat) (rd : BitVec 6) (half : BitVec 2) (imm : BitVec 16) (s : State) :
    Host.Outcome State Fault Refusal := s.upd fun d =>
  d.issue ridge core (.movk ridge core rd half imm) fun x => .ok (x.movk rd half imm)

/-- MULU: unsigned 128-bit multiply into ph:pl, landing three cycles later (10:R233). -/
def execMulu (ridge core : Nat) (ra rb : BitVec 6) (s : State) :
    Host.Outcome State Fault Refusal := s.upd fun d =>
  d.issue ridge core (.mulu ridge core ra rb) fun x => .ok (x.mul false ra rb)

/-- MULS: signed 128-bit multiply into ph:pl, landing three cycles later (10:R233). -/
def execMuls (ridge core : Nat) (ra rb : BitVec 6) (s : State) :
    Host.Outcome State Fault Refusal := s.upd fun d =>
  d.issue ridge core (.muls ridge core ra rb) fun x => .ok (x.mul true ra rb)

/-- MACC: multiply-accumulate into an accumulator, landing four cycles later (10:R233). -/
def execMacc (ridge core : Nat) (fn : BitVec 4) (ra rb : BitVec 6) (s : State) :
    Host.Outcome State Fault Refusal := s.upd fun d =>
  d.issue ridge core (.macc ridge core fn ra rb) fun x => .ok (x.macc fn ra rb)

/-- ACCSH: shifts an accumulator right (10:R238). -/
def execAccsh (ridge core : Nat) (acc rb : BitVec 6) (s : State) :
    Host.Outcome State Fault Refusal := s.upd fun d =>
  d.issue ridge core (.accsh ridge core acc rb) fun x => .ok (x.accsh acc rb)

/-- ACCCLR: clears an accumulator (10:R238). -/
def execAccclr (ridge core : Nat) (acc : BitVec 6) (s : State) :
    Host.Outcome State Fault Refusal := s.upd fun d =>
  d.issue ridge core (.accclr ridge core acc) fun x => .ok (x.accclr acc)

/-- LD: zero-extending load through a segment with a visible delay slot (10:R235). -/
def execLd (ridge core : Nat) (rd ra : BitVec 6) (sel : BitVec 3) (imm : BitVec 11) (s : State) :
    Host.Outcome State Fault Refusal := s.upd fun d =>
  d.issue ridge core (.ld ridge core rd ra sel imm) fun x => x.load false rd ra sel imm

/-- LDS: sign-extending load through a segment (10:R235). -/
def execLds (ridge core : Nat) (rd ra : BitVec 6) (sel : BitVec 3) (imm : BitVec 11) (s : State) :
    Host.Outcome State Fault Refusal := s.upd fun d =>
  d.issue ridge core (.lds ridge core rd ra sel imm) fun x => x.load true rd ra sel imm

/-- ST: store through a segment with write access (10:R235). -/
def execSt (ridge core : Nat) (rs ra : BitVec 6) (sel : BitVec 3) (imm : BitVec 11) (s : State) :
    Host.Outcome State Fault Refusal := s.upd fun d =>
  d.issue ridge core (.st ridge core rs ra sel imm) fun x => x.store rs ra sel imm

/-- SLOAD: copies a segment table entry into a selector (10:R236). -/
def execSload (ridge core : Nat) (dst : BitVec 3) (entry : BitVec 5) (s : State) :
    Host.Outcome State Fault Refusal := s.upd fun d =>
  d.issue ridge core (.sload ridge core dst entry) fun x => .ok (x.sload dst entry)

/-- SDERIVE: makes a narrower segment inside a LINEAR segment (10:R236). -/
def execSderive (ridge core : Nat) (dst src : BitVec 3) (ra rb : BitVec 6) (mode esize : BitVec 2) (s : State) :
    Host.Outcome State Fault Refusal := s.upd fun d =>
  d.issue ridge core (.sderive ridge core dst src ra rb mode esize) fun x => x.sderive dst src ra rb mode esize

/-- SLIMIT: reads the LIMIT of a selector (10:R236). -/
def execSlimit (ridge core : Nat) (rd : BitVec 6) (src : BitVec 3) (s : State) :
    Host.Outcome State Fault Refusal := s.upd fun d =>
  d.issue ridge core (.slimit ridge core rd src) fun x => .ok (x.slimit rd src)

/-- BEQ: branch if equal (10:R238). -/
def execBeq (ridge core : Nat) (ra rb : BitVec 6) (disp : BitVec 14) (s : State) :
    Host.Outcome State Fault Refusal := s.upd fun d =>
  d.issue ridge core (.beq ridge core ra rb disp) fun x => .ok (x.beq ra rb disp)

/-- BNE: branch if not equal (10:R238). -/
def execBne (ridge core : Nat) (ra rb : BitVec 6) (disp : BitVec 14) (s : State) :
    Host.Outcome State Fault Refusal := s.upd fun d =>
  d.issue ridge core (.bne ridge core ra rb disp) fun x => .ok (x.bne ra rb disp)

/-- BLT: branch if signed less (10:R238). -/
def execBlt (ridge core : Nat) (ra rb : BitVec 6) (disp : BitVec 14) (s : State) :
    Host.Outcome State Fault Refusal := s.upd fun d =>
  d.issue ridge core (.blt ridge core ra rb disp) fun x => .ok (x.blt ra rb disp)

/-- BGE: branch if signed greater or equal (10:R238). -/
def execBge (ridge core : Nat) (ra rb : BitVec 6) (disp : BitVec 14) (s : State) :
    Host.Outcome State Fault Refusal := s.upd fun d =>
  d.issue ridge core (.bge ridge core ra rb disp) fun x => .ok (x.bge ra rb disp)

/-- BLTU: branch if unsigned less (10:R238). -/
def execBltu (ridge core : Nat) (ra rb : BitVec 6) (disp : BitVec 14) (s : State) :
    Host.Outcome State Fault Refusal := s.upd fun d =>
  d.issue ridge core (.bltu ridge core ra rb disp) fun x => .ok (x.bltu ra rb disp)

/-- BGEU: branch if unsigned greater or equal (10:R238). -/
def execBgeu (ridge core : Nat) (ra rb : BitVec 6) (disp : BitVec 14) (s : State) :
    Host.Outcome State Fault Refusal := s.upd fun d =>
  d.issue ridge core (.bgeu ridge core ra rb disp) fun x => .ok (x.bgeu ra rb disp)

/-- JMP: jump by displacement (10:R238). -/
def execJmp (ridge core : Nat) (disp : BitVec 26) (s : State) :
    Host.Outcome State Fault Refusal := s.upd fun d =>
  d.issue ridge core (.jmp ridge core disp) fun x => .ok (x.jmp disp)

/-- CALL: call writing the return address and moving the register window (10:R230). -/
def execCall (ridge core : Nat) (disp : BitVec 26) (s : State) :
    Host.Outcome State Fault Refusal := s.upd fun d =>
  d.issue ridge core (.call ridge core disp) fun x => x.call disp

/-- JR: jump to a register (10:R238). -/
def execJr (ridge core : Nat) (ra : BitVec 6) (s : State) :
    Host.Outcome State Fault Refusal := s.upd fun d =>
  d.issue ridge core (.jr ridge core ra) fun x => .ok (x.jr ra)

/-- CALLR: call to a register address (10:R238). -/
def execCallr (ridge core : Nat) (ra : BitVec 6) (s : State) :
    Host.Outcome State Fault Refusal := s.upd fun d =>
  d.issue ridge core (.callr ridge core ra) fun x => x.callr ra

/-- RET: return to w15, moving the window back (10:R230). -/
def execRet (ridge core : Nat) (s : State) :
    Host.Outcome State Fault Refusal := s.upd fun d =>
  d.issue ridge core (.ret ridge core) fun x => x.ret

/-- JSUB: submits a program request block to the dispatcher and returns a ticket (10:R249). -/
def execJsub (ridge core : Nat) (rd ra : BitVec 6) (sel : BitVec 3) (s : State) :
    Host.Outcome State Fault Refusal := s.upd fun d =>
  match d.jsubPlan ridge core ra sel with
  | .error code => d.issue ridge core (.jsub ridge core rd ra sel) fun _ => .error code
  | .ok q => d.issue ridge core (.jsub ridge core rd ra sel) (fun x => .ok (x.set rd q.value)) fun d => d.submit ridge core q

/-- JWAIT: stalls until a request has ended, then returns its status and frees the ticket (10:R249). -/
def execJwait (ridge core : Nat) (rd ra : BitVec 6) (s : State) :
    Host.Outcome State Fault Refusal := s.upd fun d =>
  d.jwait ridge core (.jwait ridge core rd ra) rd ra false

/-- JPOLL: returns an ended request's status or an all-ones value if still running (10:R249). -/
def execJpoll (ridge core : Nat) (rd ra : BitVec 6) (s : State) :
    Host.Outcome State Fault Refusal := s.upd fun d =>
  d.jwait ridge core (.jpoll ridge core rd ra) rd ra true

/-- DESCEND: enters the Deep world through the Shaft for a registered service (11:R264). -/
def execDescend (ridge core : Nat) (service : BitVec 14) (s : State) :
    Host.Outcome State Fault Refusal := s.upd fun d =>
  d.descend ridge core (.descend ridge core service) service.toNat

/-- EXIT: dESCEND service 0 ends a tenant program, writes its output and completes with DONE (10:R253). -/
def execExit (ridge core : Nat) (s : State) :
    Host.Outcome State Fault Refusal := s.upd fun d =>
  d.exitProgram ridge core (.exit ridge core)

/-- ASCEND: returns a core from Deep to its saved Surface resume address (11:R265). -/
def execAscend (ridge core : Nat) (s : State) :
    Host.Outcome State Fault Refusal := s.upd fun d =>
  d.ascend ridge core (.ascend ridge core)

/-- LAMAD NOP: no-operation (10:R238). -/
def execLamadNop (ridge core : Nat) (s : State) :
    Host.Outcome State Fault Refusal := s.upd fun d =>
  d.issue ridge core (.lamadNop ridge core) fun x => .ok x

/-- RDBUD: reads the program's remaining instruction budget (10:R238). -/
def execRdbud (ridge core : Nat) (rd : BitVec 6) (s : State) :
    Host.Outcome State Fault Refusal := s.upd fun d =>
  let left := match (d.core ridge core).program with
    | some p => p.budget
    | none => Config.freeNat d.draws
  d.issue ridge core (.rdbud ridge core rd) fun x => .ok (x.set rd (BitVec.ofNat 64 left))

/-- RDCYC: reads the Surface cycles since program start (11:R269). -/
def execRdcyc (ridge core : Nat) (rd : BitVec 6) (s : State) :
    Host.Outcome State Fault Refusal := s.upd fun d =>
  let n := match (d.core ridge core).program with
    | some p => p.cycles
    | none => Config.freeNat d.draws
  d.issue ridge core (.rdcyc ridge core rd) fun x => .ok (x.set rd (BitVec.ofNat 64 n))

/-- PRIVILEGEDOP: deep-only major 0x30 instruction on selectors, segment tables and world state (10:R238). -/
def execPrivilegedOp (ridge core : Nat) (op : PrivOp) (s : State) :
    Host.Outcome State Fault Refusal := s.upd fun d =>
  d.privileged ridge core op

/-- CUSTOMX: deep code runs the micro-operations of a decode table slot (10:R244). -/
def execCustomX (ridge core : Nat) (slot : BitVec 5) (rd ra rb : BitVec 6) (k : BitVec 3) (s : State) :
    Host.Outcome State Fault Refusal := s.upd fun d =>
  d.custom ridge core (.customX ridge core slot rd ra rb k) slot rd ra rb k

/-- RESERVEDOPCODETRAP: a reserved encoding traps to Keade, which emulates it or ends the program (10:R241). -/
def execReservedOpcodeTrap (ridge core : Nat) (emulation : Option (List (BitVec 6 × W64))) (s : State) :
    Host.Outcome State Fault Refusal := s.upd fun d =>
  d.reservedTrap ridge core emulation

/-- BUDGETEXHAUSTED: the instruction budget would be passed and the program ends with PROG_STEP_LIMIT (10:R254). -/
def execBudgetExhausted (ridge core : Nat) (s : State) :
    Host.Outcome State Fault Refusal := s.upd fun d =>
  d.budgetEnd ridge core

end Sys2Proof.Machine
end

