-- ==== Sys2Proof/Machine/Results.lean ====
section
/-! DEFINITION. What engines share: arithmetic on numbers and points, drill times, the validation phase, making keys and
blobs, and running the job that an engine holds (05:R117, R118, R121 to R133, 06, 08:R202). -/

namespace Sys2Proof.Machine

/-! ## Times (01:R16, 06, 07) -/

/-- A time given only as a limit: a free number up to it (log 14). -/
def upTo (k limit : Nat) : Nat := Config.freeNat k % (limit + 1)

/-- A time that the spec gives as 'about' a figure: a free number within a tenth of it (log 14). -/
def about (k figure : Nat) : Nat := figure - figure / 10 + Config.freeNat k % (figure / 5 + 1)

/-- 06:Table 6.1, widths and cycles. -/
def modmulTable : List (Nat × Nat) :=
  [(64, 8), (128, 10), (192, 12), (256, 14), (320, 20), (384, 26), (448, 34), (512, 38), (576, 44), (640, 52), (768, 64),
   (1024, 88), (1536, 200), (2048, 330), (3072, 740), (4096, 1290), (6144, 2900), (8192, 5140)]

/-- Cycles of a modmul for a modulus of some bits (06:R142). -/
def modmul (bits : Nat) : Nat := ((modmulTable.find? fun e => decide (bits ≤ e.1)).map (·.2)).getD 5140

/-- Rounded up to a multiple of 16 engine cycles. -/
def round16 (n : Nat) : Nat := (n + 15) / 16 * 16

/-- Validation of an RSA key and integer, cycles (06:Table 6.7). -/
def rsaCheckCycles (k : Nat) : Nat := round16 (64 + k / 4)

/-- The largest s such that 2^s divides n, within a bound. -/
def twos : Nat → Nat → Nat
  | 0, _ => 0
  | f + 1, n => if n % 2 = 0 then 1 + twos f (n / 2) else 0

/-- Bits of the field prime of a curve. -/
def Dev.fieldBits (d : Dev) (s a : Nat) : Nat :=
  if a = 0x203 then 521 else if isNamedCurve a then 8 * d.lp s a else bitLen ((d.params s a).getD 0 0)

/-- Validation of a Weierstrass point, cycles (06:R152): `short` for the compressed form. -/
def Dev.pointCheckCycles (d : Dev) (s a : Nat) (short : Bool) : Nat :=
  let b := d.fieldBits s a
  let m := modmul b
  let c := d.params s a
  let t := if isNamedCurve a then 1 else twos 640 (c.getD 0 0 - 1)
  let h := if isNamedCurve a then 1 else c.getD 6 1
  round16 (24 * m + 64 + (if 1 < h then 30 * m else 0) + if short then (b + (b + 7) / 8 + t * (t + 1)) * m else 0)

/-- Validation of an Edwards public key, cycles. -/
def edCheckCycles (a : Nat) : Nat := if a = 0x301 then 5040 else 19104

/-- A hash by ID: block or rate, cycles a block, bytes that padding adds at least. KMAC has the rates of SHAKE. -/
def hashCost (id : Nat) : Nat × Nat × Nat :=
  match id with
  | 1 => (64, 72, 9) | 2 | 3 => (128, 88, 17) | 4 => (136, 26, 1) | 5 => (104, 26, 1) | 6 => (72, 26, 1)
  | 7 | 9 => (168, 26, 1) | _ => (136, 26, 1)

/-- Cycles of hashing a message, padding counted as data. -/
def hashCycles (id n : Nat) : Nat :=
  let (b, c, p) := hashCost id
  (n + p + b - 1) / b * c

/-- Cycles that the blocks of a message beyond its first add to a hash (07:R173). -/
def extraCycles (id n : Nat) : Nat := hashCycles id n - hashCycles id 0

/-! ## What an engine works on -/

/-- A job in an engine: the device, its seam, its descriptor, its input and AUX, and the number of its draw. -/
structure Work where
  d : Dev
  s : Nat
  x : Desc
  a : Option KeyMat
  b : Option KeyMat
  inp : List Byte
  aux : List Byte
  k : Nat

/-- ALG of the key in KEY_A, or of the inline key (05:R120). -/
def Work.alg (w : Work) : Nat := match w.a with
  | some k => tAlg k.template
  | none => w.x.inlineAlg

/-- Private encoding of KEY_A. -/
def Work.priv (w : Work) : List Byte := match w.a with
  | some k => k.priv
  | none => []

/-- HASH of PARAM. -/
def Work.h (w : Work) : Nat := w.x.p 0 4

/-- PREHASHED. -/
def Work.pre (w : Work) : Bool := w.x.p 4 1 == 1

/-- Cycles of a sequence on secret operands: a free number up to a limit that the public facts alone fix (06:R143). -/
def Work.fixedTo (w : Work) (a limit : Nat) : Nat :=
  Config.steps ([w.x.op, a, w.x.inLen.toNat, w.x.auxLen.toNat] ++ w.d.params w.s a) % (limit + 1)

/-- Numbers of a curve. -/
def Work.curve (w : Work) (a : Nat) : CurveNums := CurveNums.of (w.d.params w.s a)

/-- `n` random bytes of the job's draw, from place `at'` of its stream. -/
def Work.random (w : Work) (at' n : Nat) : List Byte := (List.range n).map fun i => Config.freeByte w.k (at' + i)

/-- The job's work is done: its output, with DETAIL. -/
def good (out : List Byte) (ns : Nat) (detail : Nat := 0) : Result :=
  ⟨⟨stDone, BitVec.ofNat 32 detail, BitVec.ofNat 32 out.length⟩, out, ns, none⟩

/-- The job's work ends with another status and writes nothing. -/
def bad (st : BitVec 16) (ns : Nat) (detail : Nat := 0) : Result := ⟨refuse st detail, [], ns, none⟩

/-- A refusal before the validation phase: ENGINE_NS 0 (05:R117). -/
def early (st : BitVec 16) (code : Nat) : Result := bad st 0 code

/-- 0x0203: OUT_LEN below the output that the lengths inside IN require, which OUT_WRITTEN gives. -/
def tooSmall (need : Nat) : Result := ⟨⟨stBadLength, 0x0203, BitVec.ofNat 32 need⟩, [], 0, none⟩

/-- A verification's end. -/
def verdictOf (ok : Bool) (ns : Nat) : Result := if ok then good [] ns else bad stSigInvalid ns

/-! ## The validation phase (06:R150 to R153) -/

/-- A failing check of a value: status, the offset of the value in its buffer, whether that is AUX or a resident key. -/
structure Flaw where
  status : BitVec 16
  off : Nat
  aux : Bool

/-- The first failing check in the order RANGE, ZERO_INPUT, ONE_INPUT, NOT_ON_CURVE, SMALL_ORDER; among equals the value
that stands first. -/
def firstFault (fs : List Flaw) : Option Flaw :=
  [stRange, stZeroInput, stOneInput, stNotOnCurve, stSmallOrder].findSome? fun st => fs.find? fun f => f.status == st

/-- A validation phase of some cycles, and the work that follows it. -/
def validated (fs : List Flaw) (cycles : Nat) (go : Unit → Result) : Result :=
  match firstFault fs with
  | some f => bad f.status (engNs cycles) (f.off % 2 ^ 15 + if f.aux then 2 ^ 15 else 0)
  | none => go ()

/-- Failing checks of a Weierstrass point (06:Table 6.6). -/
def Work.pointFaults (w : Work) (a : Nat) (b : List Byte) (off : Nat) (aux : Bool) : List Flaw :=
  let c := w.curve a
  let lp := w.d.lp w.s a
  let x := beNat (slice b 1 lp)
  let y := beNat (slice b (1 + lp) lp)
  let f := fun (st : BitVec 16) => (⟨st, off, aux⟩ : Flaw)
  let long := b.length == 1 + 2 * lp
  if b.length = 1 then [f stZeroInput]
  else
    (if c.p ≤ x ∨ (long ∧ c.p ≤ y) then [f stRange] else []) ++
    (if long ∧ x = 0 ∧ y = 0 then [f stZeroInput] else []) ++
    (if (c.decode lp b).isNone then [f stNotOnCurve] else []) ++
    (if isLoadedCurve a ∧ 1 < c.h ∧ (c.decode lp b).isSome ∧ (c.mul c.h (c.decode lp b)).isNone then [f stSmallOrder] else [])

/-- An RSA public key: modulus and exponent, of a resident key or inline (05:R130). -/
def Work.rsaPublic (w : Work) : Nat × Nat × Nat :=
  match w.a with
  | some k => let (n, e, _) := Config.rsaParts k.priv; (n, e, byteLen n)
  | none => (beNat (w.aux.drop 4), field w.aux 0 4, w.aux.length - 4)

/-- Failing checks of an RSA public key. An inline exponent that is even or below 3 is none that 05:R130 admits; that it fails
RANGE is the model's reading (log 39). -/
def Work.rsaKeyFaults (w : Work) : List Flaw :=
  let (n, e, k) := w.rsaPublic
  (if n ≤ e ∨ n % 2 = 0 ∨ (w.a.isNone ∧ (e % 2 = 0 ∨ e < 3)) then [⟨stRange, 0, true⟩] else []) ++
  (if n < 2 ^ (8 * (k - 1)) then [⟨stZeroInput, 0, true⟩] else [])

/-- Failing checks of an RSA integer in IN. -/
def rsaIntFaults (x n off : Nat) (priv : Bool) : List Flaw :=
  (if n ≤ x then [⟨stRange, off, false⟩] else []) ++ (if x = 0 then [⟨stZeroInput, off, false⟩] else []) ++
  (if priv ∧ (x = 1 ∨ x + 1 = n) then [⟨stOneInput, off, false⟩] else [])

/-- Failing checks of an Edwards public key (06:Table 6.6). -/
def edFaults (a : Nat) (b : List Byte) : List Flaw :=
  match edDecode a b with
  | none => [⟨stNotOnCurve, 0, true⟩]
  | some q => if edSmall a q then [⟨stSmallOrder, 0, true⟩] else []

/-! ## Keys made by operations (05:R121, R123, R135, 06:R160) -/

/-- The public part of a private encoding in its external encoding (05:Table 5.12). -/
def Dev.publicPart (d : Dev) (s a : Nat) (priv : List Byte) : List Byte :=
  if isSymmetric a then []
  else if isCurve a then
    let c := CurveNums.of (d.params s a)
    match c.mul (beNat priv) c.g with
    | some (x, y) => encodePoint (d.lp s a) x y
    | none => encodePoint (d.lp s a) 0 0
  else if isRsa a then Config.publicOf a [] priv
  else slice (Config.publicOf a [] priv) 0 (d.pubLen s a 0)

/-- A key object of a template and a private encoding. -/
def Dev.keyOf (d : Dev) (s : Nat) (t : W64) (priv : List Byte) : NewKey := ⟨t, priv, d.publicPart s (tAlg t) priv⟩

/-- Bytes of the seed of an ALG (05:R135). -/
def Dev.seedLen (d : Dev) (s a len : Nat) : Nat :=
  if isSymmetric a then len else if isCurve a then d.ln s a + 8
  else if isKem a then 64 else if isMldsa a then 32 else if isSlh a then 3 * slhN a else d.privLen s a 0 0

/-- The private encoding that a seed gives (05:R135, 06:R160). -/
def Dev.fromSeed (d : Dev) (s a : Nat) (seed : List Byte) : List Byte :=
  if isCurve a then beBytes (d.ln s a) (beNat seed % ((CurveNums.of (d.params s a)).n - 1) + 1)
  else if isSlh a then slice (Config.keygen a 0 [] seed) 0 (4 * slhN a)
  else seed

/-- A shared secret becomes a key. -/
def Work.secret (w : Work) (t : W64) (z : List Byte) (out : List Byte) (ns : Nat) : Result :=
  { good out ns with key := some (w.d.keyOf w.s t z) }

/-! ## Blobs (08:R202) -/

/-- A key blob under the seam's blob key: AES-256-GCM with a random nonce. -/
def Dev.blob (d : Dev) (s : Nat) (k : NewKey) (origin : Nat) (inside : Bool) (nonce : List Byte) : List Byte :=
  match d.blobKey s with
  | none => []
  | some (bk, bkid, epoch, _, _) =>
    let body := if isRsa (tAlg k.template) then k.priv else k.priv ++ k.pub
    let head := ascii "UJKB" ++ leBytes 2 1 ++ [0, 0] ++ slice bkid 0 8 ++ le2 epoch.toNat ++ le2 origin ++
      leBytes 4 body.length ++ leBytes 8 (tHeld k.template).toNat ++ [if inside then 1 else 0, 0, 0, 0] ++ nonce
    head ++ slice (Config.gcmEnc (bwk bk bkid epoch) nonce head body) 0 (body.length + 16)

/-- Operations whose keys are made inside (08:R192). -/
def madeInside (op : Nat) : Bool := op != 0x0802

/-- A result whose key is to leave as a blob: the blob follows the public part, and no object is made (05:R123). An output
above OUT_LEN is refused with 0x0203. -/
def Work.seal (w : Work) (r : Result) : Result :=
  let r := match r.key with
    | some k =>
      if tBlob k.template then
        let out := r.out ++ w.d.blob w.s k w.x.op (madeInside w.x.op) (w.random 65536 12)
        { r with out := out, key := none, verdict := { r.verdict with written := BitVec.ofNat 32 out.length } }
      else r
    | none => r
  if w.x.outLen.toNat < r.out.length then tooSmall r.out.length else r

/-! ## Running the job of an engine -/

/-- The job that an engine runs as its primary one, not yet computed. -/
def Dev.running (d : Dev) (r b : Nat) (ops : Nat → Bool) : Option JobRec :=
  ((d.ridge r).engine b).running.bind fun n => (d.job? n).bind fun j =>
    if j.job.phase == .engine && j.job.ridge == r && j.job.blk == b && ((d.ridge r).engine b).ram.out.isNone &&
        ops j.job.desc.op then some j
    else none

/-- The randomness of a job can be drawn (12:R288). -/
def Dev.drawable (d : Dev) (r : Nat) : Draws → Bool
  | .no => true
  | .internal => (d.ridge r).rng.serves false
  | .host => (d.ridge r).rng.serves true

/-- A result is a refusal of stage 3, before any randomness is needed: one of 05:R117, or of the validation phase. The secret of
XDH and HYBRID_KEM is tested after the ladder (05:R116, 06:R151). -/
def Result.refusal (x : Desc) (res : Result) : Bool :=
  [stMalformed, stBadLength, stRange, stZeroInput, stOneInput, stNotOnCurve].contains res.verdict.status ||
    (res.verdict.status == stSmallOrder && x.op != 0x0304 && x.op != 0x0A03)

/-! ### Samplers (07:R163, R164, Table 7.1) -/

/-- The rank k of an ML-KEM set. -/
def kemRank (a : Nat) : Nat := if a = 0x401 then 2 else if a = 0x402 then 3 else 4

/-- Blocks that ML-KEM samples: an entry of the matrix takes 4, a noise polynomial 2 for η = 3 and 1 for η = 2; key
generation draws 2k of η1, encapsulation and the re-encryption of decapsulation k of η1 and k + 1 of η2. -/
def kemBlocks (a : Nat) (gen : Bool) : Nat :=
  let k := kemRank a
  let eta1 := if a = 0x401 then 2 else 1
  4 * k * k + if gen then 2 * k * eta1 else k * eta1 + (k + 1)

/-- Rows k and columns l of an ML-DSA set, and the blocks of ExpandS for its η. -/
def dsaShape (a : Nat) : Nat × Nat × Nat := if a = 0x411 then (4, 4, 2) else if a = 0x412 then (6, 5, 3) else (8, 7, 2)

/-- Blocks that ML-DSA samples: an entry of the matrix takes 5, a polynomial of the mask 5, SampleInBall 1. -/
def dsaGenBlocks (a : Nat) : Nat := let (k, l, s) := dsaShape a; 5 * k * l + (k + l) * s
def dsaSignBlocks (a iterations : Nat) (seed : Bool) : Nat :=
  let (k, l, s) := dsaShape a
  (if seed then (k + l) * s else 0) + iterations * (5 * k * l + 5 * l + 1)
def dsaVerifyBlocks (a : Nat) : Nat := let (k, l, _) := dsaShape a; 5 * k * l + 1

/-- Blocks of a row of Table 7.1, for SAMPLE: which figure of a row of two applies stands nowhere in the request, and is free
(log 14). -/
def rowBlocks (row k : Nat) : Nat :=
  match row with
  | 1 => 4 | 2 => 5 | 3 => 1 + upTo k 1 | 4 => 2 + upTo k 1 | 5 => 5 | 6 => 1 | _ => 0

/-- Iterations of an ML-DSA signature: at least one, a free number (07:R167). -/
def Work.iterations (w : Work) : Nat := 1 + Config.freeNat w.k

/-- An ML-DSA key is held as its seed. -/
def seedForm (k : Option KeyMat) : Bool := k.any fun k => k.priv.length == 32

/-- Blocks that an operation's samplers squeeze for Table 7.1. -/
def Work.tableBlocks (w : Work) : Nat :=
  let gen := tAlg w.x.keyB
  match w.x.op with
  | 0x0401 | 0x0402 => kemBlocks w.alg false
  | 0x0411 => dsaSignBlocks w.alg w.iterations (seedForm w.a)
  | 0x0412 => dsaVerifyBlocks w.alg
  | 0x0801 | 0x0807 => if isKem gen then kemBlocks gen true else if isMldsa gen then dsaGenBlocks gen else 0
  | 0x0A01 => dsaSignBlocks (signSuite w.h).2 w.iterations (seedForm w.b)
  | 0x0A02 => dsaVerifyBlocks (signSuite w.h).2
  | 0x0A03 => kemBlocks (kemSuite w.h).2 false
  | 0x0F14 => rowBlocks (w.x.p 0 4) (w.k + 6)
  | _ => 0

/-- Further blocks, one at a time, that the samplers of an operation need (07:R164): none where nothing is sampled. -/
def Work.further (w : Work) : Nat := if w.tableBlocks = 0 then 0 else Config.furtherBlocks w.k

/-- Time of a lattice operation: its figure, and what further blocks add (07:R165). -/
def Work.latticeNs (w : Work) (ns : Nat) : Nat := ns + engNs (26 * w.further)

/-- A lattice unit's sampling runs on the sampler banks of its two paired cores, shared between them as the unit asks: a free
number on the first (07:R161, R163; log 14). -/
def Dev.sampled (d : Dev) (r unit n : Nat) : Dev :=
  match pairedCores unit with
  | [a, b] =>
    if n = 0 then d
    else
      let k := upTo d.draws n
      (({ d with draws := d.draws + 1 } : Dev).modEngine r a fun e => { e with perms := e.perms + k }).modEngine r b fun e =>
        { e with perms := e.perms + (n - k) }
  | _ => d

/-! ### Output that leaves before the end (07:R172, R175, R178) -/

/-- R and the FORS signature of an SLH-DSA set, and one XMSS layer with their number, in bytes (FIPS 205). -/
def slhChunks (a : Nat) : Nat × Nat × Nat :=
  match (a + 1) / 2 with
  | 0x281 => (2928, 704, 7) | 0x282 => (3712, 608, 22) | 0x283 => (6144, 1440, 7)
  | 0x284 => (7152, 1296, 22) | 0x285 => (10592, 2400, 8) | _ => (11232, 2272, 17)

/-- How much of its output an operation has written before its end: a free number of bytes for GCM, XTS and a digest of more
than one block, whole layers that have passed their comparison for SLH-DSA (log 43). -/
def Work.begun (w : Work) (n : Nat) : Nat :=
  match w.x.op with
  | 0x0601 | 0x0602 | 0x0603 => upTo (w.k + 5) n
  | 0x0701 =>
    let rate := if w.h = 7 then 168 else 136
    if 7 ≤ w.h ∧ rate < n then upTo (w.k + 5) n else 0
  | 0x0501 =>
    let (first, layer, layers) := slhChunks w.alg
    let m := upTo (w.k + 5) layers
    if m = 0 then 0 else min n (first + (m - 1) * layer)
  | _ => 0

/-- A job's output is written from a place onwards: a request's into its segment, another's to host memory under the seam's
PASID through the job's link; nothing under an old GEN or in FAULTED, nor for a program that is ending (10:R253, R255). The
answer is the verdict of a write that cannot be issued (03:R59, R60, R70, R75, 04:R104, R108, 14:R320). An engine's write below
the line does not take place, and ends the program (11:R260). -/
def Dev.emitAt (d : Dev) (j : JobRec) (at' : Nat) (out : List Byte) : Dev × Option Verdict :=
  if out.isEmpty then (d, none)
  else match j.tail.prog with
  | some (pj, _) =>
    match d.progCore pj with
    | some (r, c) =>
      if ((d.core r c).program.bind (·.ending)).isSome then (d, none)
      else
        let a := j.job.desc.outAddr.toNat + at'
        if a < (d.ridge r).lineByte then ((d.injection r 0xFFFF).trapProgram r c 0x10, none)
        else ((d.spineSend j.job.ridge r).modRidge r fun x => { x with sram := memPut x.sram a out }, none)
    | none => (d, none)
  | none =>
    let e := (d.seam j.job.seam).entry
    if j.tail.discarded || e.state == .faulted then (d, none)
    else match d.jobLink j.job.seam j.tail.link with
      | some l =>
        if (d.link l).pasidEn then
          (((d.spineSend j.job.ridge (lkRidge l)).send l
              ⟨.output j.num, some e.pasid, j.job.desc.outAddr + BitVec.ofNat 64 at', out⟩).modJob j.num fun y =>
            { y with tail := { y.tail with link := some (y.tail.link.getD l) } }, none)
        else (d, some (refuse stPasidFault 0x22))
      | none => (d, some (refuse stWriteFault 0x22))

/-- What an operation writes before its end leaves, unless the write cannot be issued: the end of the job then says so. -/
def Dev.stream (d : Dev) (n : Nat) (w : Work) (res : Result) : Dev :=
  match d.job? n with
  | none => d
  | some j =>
    let m := w.begun res.out.length
    if m = 0 ∨ res.verdict.status ≠ stDone then d
    else match d.emitAt j 0 (res.out.take m) with
      | (e, none) => e.modJob n fun y => { y with tail := { y.tail with streamed := m } }
      | (_, some _) => d

/-! ### The operation's row -/

/-- The operand RAM of an engine takes a result, with the draw that blinded its sequence. -/
def Dev.holdResult (d : Dev) (r b : Nat) (blind : Option Nat) (res : Result) : Dev :=
  d.modEngine r b fun e => { e with ram := { e.ram with blind := blind, out := some res } }

/-- What an engine works on: what its operand RAM holds for the job. -/
def Dev.workOf (d : Dev) (r b : Nat) (j : JobRec) : Work :=
  let m := ((d.ridge r).engine b).ram
  ⟨d, j.job.seam, j.job.desc, m.keyA, m.keyB, m.inp, m.aux, d.draws⟩

/-- The lattice unit that ran a job's lattice part: its primary engine, or the one of an ended part. -/
def JobRec.unit (j : JobRec) : Nat :=
  ((j.job.blk :: j.tail.partsDone).find? fun b => classOf b == .lattice).getD j.job.blk

/-- An operation's effect: its job runs on its engine with its reads delivered. A refusal of stage 3 stands at once. Otherwise its
parts run on engines of other classes (01:R404), its randomness is drawn (one generate request, log 14), its samplers squeeze
their blocks, and the result stands in operand RAM for JOB_END, some of its output already written. A job that waits on a DRAINED
instance is marked with the time (12:R288). -/
def Dev.work (d : Dev) (r b : Nat) (ops : Nat → Bool) (f : Work → Result) : Dev :=
  match d.running r b ops with
  | none => d
  | some j =>
    if j.job.inp.bytes?.isNone || j.job.aux.bytes?.isNone then d
    else
      let x := j.job.desc
      let w := d.workOf r b j
      let res := w.seal (f w)
      if res.refusal x then d.holdResult r b none res
      else
        let others := j.job.classes.drop 1
        let d := d.runParts j.num others (others.length + 1)
        if !d.partsEnded j.num others then d
        else if !d.drawable r x.draws then
          d.modJob j.num fun y => { y with tail := { y.tail with draining := some (y.tail.draining.getD d.clock) } }
        else
          let d := { d with draws := d.draws + 1 }
          let d := match x.draws with
            | .no => d
            | .internal => d.generate r false 1
            | .host => d.generate r true 1
          let d := d.holdResult r b (if x.draws = .no then none else some w.k) res
          let d := d.modJob j.num fun y => { y with tail := { y.tail with draining := none } }
          let d := d.sampled r ((d.job? j.num).getD j).unit (w.tableBlocks + w.further)
          d.stream j.num w res

end Sys2Proof.Machine
end

