-- ==== Sys2Proof/Machine/Public.lean ====
section
/-! DEFINITION. Public-key operations on drills: RSA, Weierstrass curves, Edwards and Montgomery curves (05:Tables 5.7 to
5.9, 06). -/

namespace Sys2Proof.Machine

/-! ## RSA -/

/-- Main cycles of an RSA private operation, its limit (06:R409). -/
def rsaLimit (bits : Nat) : Nat :=
  let e := bits / 2 + 64
  2 * (e + e / 4 + 16) * modmul (bits / 2) + 80 * modmul bits + 8000

/-- Cycles of an RSA private operation with validation (06:Table 6.9, R152, R409). -/
def Work.rsaPrivCycles (w : Work) (k : Nat) : Nat :=
  if k = 256 then 256000 else if k = 512 then 1856000
  else rsaCheckCycles k + w.fixedTo 0x100 (rsaLimit (8 * k) - rsaCheckCycles k)

/-- An RSA signature has no validation phase and takes that much less. -/
def Work.rsaSignNs (w : Work) (k : Nat) : Nat := engNs (w.rsaPrivCycles k - rsaCheckCycles k)

/-- Time of an RSA public operation: 3.6 µs at 2,048 bits with e = 65,537, open elsewhere beyond its validation (06:Table 6.9,
R152). -/
def Work.rsaPubNs (w : Work) (e k : Nat) : Nat :=
  if k = 256 ∧ e = 65537 then 3600 else engNs (rsaCheckCycles k) + Config.freeNat w.k

/-- A message adds the hashing of its blocks beyond the first to a figure that assumes a digest or a short message, at the cost of
its hash core (06:R157, 07:R173; log 14). -/
def Work.hashing (w : Work) (id n : Nat) : Nat := if w.pre then 0 else engNs (extraCycles id n)

/-- Private exponentiation, by its result (CRT and blinding do not change it). -/
def Work.rsaPower (w : Work) (m : Nat) : Nat := let (n, _, e) := Config.rsaParts w.priv; powMod m e n

/-- RSA_SIGN_PKCS1 and RSA_SIGN_PSS: k bytes. -/
def Work.rsaSign (w : Work) (pss : Bool) : Result :=
  let (_, _, k) := w.rsaPublic
  let salt := if pss then w.random 0 (digestLen w.h) else []
  good (slice (Config.sign 0x100 [] w.priv (variant w.x.param.toNat [if pss then 1 else 0]) w.inp salt) 0 k)
    (w.rsaSignNs k + w.hashing w.h w.inp.length)

/-- RSA_VERIFY: the signature first, then the message. -/
def Work.rsaVerify (w : Work) : Result :=
  let (n, e, k) := w.rsaPublic
  validated w.rsaKeyFaults (rsaCheckCycles k) fun _ =>
    verdictOf (Config.verify 0x100 [n, e] [] (variant w.x.param.toNat [if w.x.p 6 1 = 1 then 1 else 0])
      (w.inp.drop k) (slice w.inp 0 k)) (w.rsaPubNs e k + w.hashing w.h (w.inp.length - k))

/-- A label of OAEP: its length prefix is right, at most 256 bytes. -/
def labelOk (b : List Byte) : Bool := decide (field b 0 2 ≤ 256) && decide (2 + field b 0 2 ≤ b.length)

/-- RSA_DECRYPT_OAEP. -/
def Work.rsaDecrypt (w : Work) : Result :=
  let (n, _, k) := w.rsaPublic
  let l := field w.inp 0 2
  if !labelOk w.inp || w.inp.length != 2 + l + k then early stBadLength 0x0202
  else
    let c := beNat (slice w.inp (2 + l) k)
    validated (rsaIntFaults c n (2 + l) true) (rsaCheckCycles k) fun _ =>
      let ns := engNs (w.rsaPrivCycles k)
      match Config.oaepDecode w.h (slice w.inp 2 l) (beBytes k (w.rsaPower c)) with
      | some m => good (m.take (k - 2 * digestLen w.h - 2)) ns
      | none => bad stSigInvalid ns

/-- RSA_ENCRYPT_OAEP: a message longer than k − 2h − 2 is a part whose length the opcode does not allow. -/
def Work.rsaEncrypt (w : Work) : Result :=
  let (n, e, k) := w.rsaPublic
  let l := field w.inp 0 2
  let h := digestLen w.h
  if !labelOk w.inp || decide (k < w.inp.length - 2 - l + 2 * h + 2) then early stBadLength 0x0202
  else
    validated w.rsaKeyFaults (rsaCheckCycles k) fun _ =>
      let m := Config.oaepEncode w.h (slice w.inp 2 l) (w.inp.drop (2 + l)) (w.random 0 h) k
      good (beBytes k (powMod (beNat m) e n)) (w.rsaPubNs e k)

/-- RSA_RAW_PRIVATE. -/
def Work.rsaRawPrivate (w : Work) : Result :=
  let (n, _, k) := w.rsaPublic
  let x := beNat w.inp
  validated (rsaIntFaults x n 0 true) (rsaCheckCycles k) fun _ => good (beBytes k (w.rsaPower x)) (engNs (w.rsaPrivCycles k))

/-- RSA_RAW_PUBLIC. -/
def Work.rsaRawPublic (w : Work) : Result :=
  let (n, e, k) := w.rsaPublic
  let x := beNat w.inp
  validated (rsaIntFaults x n 0 false ++ w.rsaKeyFaults) (rsaCheckCycles k) fun _ =>
    good (beBytes k (powMod x e n)) (w.rsaPubNs e k)

/-! ## Weierstrass curves -/

/-- The limits of 06:R158: steps a bit, other modmuls, other cycles. -/
def Work.curveLimit (w : Work) (a steps other : Nat) : Nat :=
  (steps * bitLen (w.curve a).n + 64) * modmul (w.d.fieldBits w.s a) + other

/-- A compressed point's form. -/
def Work.isShort (w : Work) (a : Nat) (b : List Byte) : Bool := b.length == 1 + w.d.lp w.s a

/-- ECDSA_SIGN: r then s, Ln bytes each, with 32 random bytes beside the RFC 6979 input. -/
def Work.ecdsaSign (w : Work) : Result :=
  let a := w.alg
  let ns := engNs (if a = 0x201 then 64000 else if a = 0x202 then 185600 else w.fixedTo a (w.curveLimit a 18 8000))
  good (slice (Config.sign a (w.d.params w.s a) w.priv (variant w.x.param.toNat []) w.inp (w.random 0 32)) 0
    (2 * w.d.ln w.s a)) (ns + w.hashing w.h w.inp.length)

/-- Cycles of an ECDSA verification with its validation phase: P-256 takes 89,600 with an uncompressed point (06:Table 6.9,
R152, R158). -/
def Work.ecdsaVerifyCycles (w : Work) (a v : Nat) : Nat :=
  v + if a = 0x201 then 89600 - 400 else upTo w.k (w.curveLimit a 25 8000)

/-- ECDSA_VERIFY: an inline point is validated. -/
def Work.ecdsaVerify (w : Work) : Result :=
  let a := w.alg
  let n := 2 * w.d.ln w.s a
  let key := match w.a with
    | some k => k.pub
    | none => w.aux
  let flaws := if w.a.isSome then [] else w.pointFaults a w.aux 0 true
  let v := w.d.pointCheckCycles w.s a (w.a.isNone && w.isShort a w.aux)
  validated flaws v fun _ =>
    let ns := engNs (w.ecdsaVerifyCycles a v)
    verdictOf (Config.verify a (w.d.params w.s a) key (variant w.x.param.toNat []) (w.inp.drop n) (slice w.inp 0 n))
      (ns + w.hashing w.h (w.inp.length - n))

/-- The x-coordinate of (h · d) · Q, Lp bytes (05:R130 text, 06:R147). -/
def Work.ecdhSecret (w : Work) (a : Nat) (priv peer : List Byte) : List Byte :=
  let c := w.curve a
  let lp := w.d.lp w.s a
  let h := if isLoadedCurve a then c.h else 1
  match c.mul (h * beNat priv) (c.decode lp peer) with
  | some (x, _) => beBytes lp x
  | none => beBytes lp 0

/-- ECDH. -/
def Work.ecdh (w : Work) : Result :=
  let a := w.alg
  let v := w.d.pointCheckCycles w.s a (w.isShort a w.inp)
  validated (w.pointFaults a w.inp 0 false) v fun _ =>
    w.secret w.x.keyB (w.ecdhSecret a w.priv w.inp) [] (engNs (v + w.fixedTo a (w.curveLimit a 17 4000)))

/-- EC_POINT_MUL: a product at infinity has no uncompressed form, and its bytes are free (log 13). -/
def Work.pointMul (w : Work) : Result :=
  let a := 0x200 + w.x.p 8 8
  let c := w.curve a
  let lp := w.d.lp w.s a
  let n := w.d.ln w.s a
  let k := beNat (slice w.inp 0 n)
  let pt := w.inp.drop n
  let v := w.d.pointCheckCycles w.s a (w.isShort a pt)
  let scalar := (if c.n ≤ k then [(⟨stRange, 0, false⟩ : Flaw)] else []) ++ if k = 0 then [⟨stZeroInput, 0, false⟩] else []
  validated (scalar ++ w.pointFaults a pt n false) v fun _ =>
    let cycles := v + upTo w.k
      (if a = 0x201 then 42800 - 400 else if a = 0x202 then 118400 - 688 else w.curveLimit a 17 4000)
    match c.mul k (c.decode lp pt) with
    | some (x, y) => good (encodePoint lp x y) (engNs cycles)
    | none => good (w.random 0 (1 + 2 * lp)) (engNs cycles)

/-! ## Edwards and Montgomery curves -/

/-- CTX_LEN and the context fit in IN. -/
def ctxOk (b : List Byte) : Bool := decide (1 ≤ b.length) && decide (1 + field b 0 1 ≤ b.length)

/-- The context. -/
def ctxOf (b : List Byte) : List Byte := slice b 1 (field b 0 1)

/-- What follows the context. -/
def afterCtx (b : List Byte) : List Byte := b.drop (1 + field b 0 1)

/-- Hashing of a message in EdDSA, by SHA-512 or SHAKE256, in each of some passes (06:R157; log 14). -/
def Work.edHashing (w : Work) (a passes n : Nat) : Nat := passes * w.hashing (if a = 0x301 then 3 else 8) n

/-- EDDSA_SIGN. A pre-hashed input is 64 bytes (05:R127). -/
def Work.eddsaSign (w : Work) : Result :=
  let a := w.alg
  let m := afterCtx w.inp
  if !ctxOk w.inp || (w.pre && m.length != 64) then early stBadLength 0x0202
  else
    let ns := if a = 0x301 then 16000 else engNs (Config.steps [w.x.op, a])
    good (slice (Config.sign a [] w.priv (variant w.x.param.toNat (ctxOf w.inp)) m []) 0 (sigLen a)) (ns + w.edHashing a 2 m.length)

/-- The public key of an Edwards operation: resident or inline. -/
def Work.pubKey (w : Work) : List Byte := match w.a with
  | some k => k.pub
  | none => w.aux

/-- EDDSA_VERIFY, cofactored. -/
def Work.eddsaVerify (w : Work) : Result :=
  let a := w.alg
  let rest := afterCtx w.inp
  let n := sigLen a
  if !ctxOk w.inp || decide (rest.length < n) || (w.pre && rest.length != n + 64) then early stBadLength 0x0202
  else
    validated (edFaults a w.pubKey) (edCheckCycles a) fun _ =>
      verdictOf (Config.verify a [] w.pubKey (variant w.x.param.toNat (ctxOf w.inp)) (rest.drop n) (slice rest 0 n))
        (engNs (if a = 0x301 then 51600 else 240000) + w.edHashing a 1 (rest.length - n))

/-- Entry i of a batch (05:R132). -/
def batchEntry (b : List Byte) (i : Nat) : List Byte := slice b (104 * i) 104

/-- A batch entry's message lies in IN beyond the table. -/
def batchFits (b : List Byte) (count i : Nat) : Bool :=
  let e := batchEntry b i
  decide (104 * count ≤ field e 96 4) && decide (field e 96 4 + field e 100 4 ≤ b.length)

/-- A batch entry verifies. -/
def batchGood (b : List Byte) (i : Nat) : Bool :=
  let e := batchEntry b i
  (edDecode 0x301 (slice e 0 32)).isSome &&
    Config.verify 0x301 [] (slice e 0 32) (variant 0 []) (slice b (field e 96 4) (field e 100 4)) (slice e 32 64)

/-- EDDSA_BATCH_VERIFY: the bitmap, and the number of failures in DETAIL. The first check takes about 2,080,000 cycles for 64
entries, and no more for fewer (06:R159; log 14). -/
def Work.batchVerify (w : Work) : Result :=
  let n := w.x.p 0 7
  if !((List.range n).all fun i => batchFits w.inp n i) then early stBadLength 0x0202
  else
    let ok := (List.range n).map fun i => batchGood w.inp i
    let bits := ((List.range n).map fun i => if ok.getD i false then 2 ^ i else 0).sum
    let failed := ok.countP fun b => !b
    let first := if n = 64 then about w.k 2080000 else upTo w.k 2080000
    let ns := engNs first + if failed = 0 then 0 else upTo (w.k + 1) (40000 * n)
    let r := good (leBytes 8 bits) ns failed
    if failed = 0 then r else { r with verdict := { r.verdict with status := stSigInvalid } }

/-- Bytes of an X25519 or X448 value. -/
def xLen (a : Nat) : Nat := if a = 0x303 then 32 else 56

/-- The shared secret of X25519 or X448. -/
def xdhSecret (a : Nat) (priv peer : List Byte) : List Byte := slice (Config.xdh a priv peer) 0 (xLen a)

/-- XDH: an all-zero secret is refused after the ladder (06:R151). -/
def Work.xdh (w : Work) : Result :=
  let a := w.alg
  let ns := if a = 0x303 then 25600 else engNs (Config.steps [w.x.op, a])
  let z := xdhSecret a w.priv w.inp
  if z.all (· == 0) then bad stSmallOrder ns else w.secret w.x.keyB z [] ns

/-! ## Commands -/

/-- RSA_SIGN_PKCS1 (05:Table 5.7). -/
def execRsaSignPkcs1 (ridge blk : Nat) (s : State) : Host.Outcome State Fault Refusal :=
  s.upd fun d => d.work ridge blk (· == 0x0101) fun w => w.rsaSign false

/-- RSA_SIGN_PSS (05:Table 5.7). -/
def execRsaSignPss (ridge blk : Nat) (s : State) : Host.Outcome State Fault Refusal :=
  s.upd fun d => d.work ridge blk (· == 0x0102) fun w => w.rsaSign true

/-- RSA_VERIFY (05:Table 5.7). -/
def execRsaVerify (ridge blk : Nat) (s : State) : Host.Outcome State Fault Refusal :=
  s.upd fun d => d.work ridge blk (· == 0x0103) Work.rsaVerify

/-- RSA_DECRYPT_OAEP (05:Table 5.7, R128). -/
def execRsaDecryptOaep (ridge blk : Nat) (s : State) : Host.Outcome State Fault Refusal :=
  s.upd fun d => d.work ridge blk (· == 0x0104) Work.rsaDecrypt

/-- RSA_ENCRYPT_OAEP (05:Table 5.7). -/
def execRsaEncryptOaep (ridge blk : Nat) (s : State) : Host.Outcome State Fault Refusal :=
  s.upd fun d => d.work ridge blk (· == 0x0105) Work.rsaEncrypt

/-- RSA_RAW_PRIVATE (05:Table 5.7). -/
def execRsaRawPrivate (ridge blk : Nat) (s : State) : Host.Outcome State Fault Refusal :=
  s.upd fun d => d.work ridge blk (· == 0x0106) Work.rsaRawPrivate

/-- RSA_RAW_PUBLIC (05:Table 5.7). -/
def execRsaRawPublic (ridge blk : Nat) (s : State) : Host.Outcome State Fault Refusal :=
  s.upd fun d => d.work ridge blk (· == 0x0107) Work.rsaRawPublic

/-- ECDSA_SIGN (05:Table 5.8). -/
def execEcdsaSign (ridge blk : Nat) (s : State) : Host.Outcome State Fault Refusal :=
  s.upd fun d => d.work ridge blk (· == 0x0201) Work.ecdsaSign

/-- ECDSA_VERIFY (05:Table 5.8, 06:R150). -/
def execEcdsaVerify (ridge blk : Nat) (s : State) : Host.Outcome State Fault Refusal :=
  s.upd fun d => d.work ridge blk (· == 0x0202) Work.ecdsaVerify

/-- ECDH (05:Table 5.8, 06:R147). -/
def execEcdh (ridge blk : Nat) (s : State) : Host.Outcome State Fault Refusal :=
  s.upd fun d => d.work ridge blk (· == 0x0203) Work.ecdh

/-- EC_POINT_MUL (05:R131). -/
def execEcPointMul (ridge blk : Nat) (s : State) : Host.Outcome State Fault Refusal :=
  s.upd fun d => d.work ridge blk (· == 0x0204) Work.pointMul

/-- EDDSA_SIGN (05:Table 5.9). -/
def execEddsaSign (ridge blk : Nat) (s : State) : Host.Outcome State Fault Refusal :=
  s.upd fun d => d.work ridge blk (· == 0x0301) Work.eddsaSign

/-- EDDSA_VERIFY (05:R132). -/
def execEddsaVerify (ridge blk : Nat) (s : State) : Host.Outcome State Fault Refusal :=
  s.upd fun d => d.work ridge blk (· == 0x0302) Work.eddsaVerify

/-- EDDSA_BATCH_VERIFY (05:R132, 06:R159). -/
def execEddsaBatchVerify (ridge blk : Nat) (s : State) : Host.Outcome State Fault Refusal :=
  s.upd fun d => d.work ridge blk (· == 0x0303) Work.batchVerify

/-- XDH (05:R132, 06:R151). -/
def execXdh (ridge blk : Nat) (s : State) : Host.Outcome State Fault Refusal :=
  s.upd fun d => d.work ridge blk (· == 0x0304) Work.xdh

end Sys2Proof.Machine
end

