-- ==== Sys2Proof/Machine/Bulk.lean ====
section
/-! DEFINITION. Symmetric, hash, MAC, KDF and random operations on the bulk unit (05:Table 5.11, R127, R129, 07:R170 to
R174). -/

namespace Sys2Proof.Machine

/-! ## Costs (07:Tables 7.4, 7.5) -/

/-- 16-byte blocks; a partial one counts whole. -/
def blocks16 (n : Nat) : Nat := (n + 15) / 16

/-- Cycles of a parallel AES block by ALG. -/
def aesFast (a : Nat) : Nat := 5 + a

/-- Cycles of a serial AES block by ALG. -/
def aesSerial (a : Nat) : Nat := 8 + 2 * a

/-- Cycles of an HMAC: the message's blocks, three compressions, and a long key's own hash (07:R174). -/
def hmacCycles (id key n : Nat) : Nat :=
  let (b, c, _) := hashCost id
  hashCycles id n + 3 * c + if b < key then hashCycles id key else 0

/-- Time of a hash job: a start of 8 cycles. On a Keccak core JOB_END adds what sampler permutations delay it (07:R163, R173). -/
def hashNs (cycles : Nat) : Nat := engNs (8 + cycles)

/-! ## AES -/

/-- AAD of a GCM job. -/
def gcmAad (b : List Byte) : Nat := field b 0 4

/-- The prefix and the lengths it locates are right: AAD at most 64 KiB, text at most 1 MiB, all inside IN. -/
def gcmOk (b : List Byte) (tag : Nat) : Bool :=
  decide (gcmAad b ≤ 65536) && decide (16 + gcmAad b + tag ≤ b.length) && decide (b.length - 16 - gcmAad b - tag ≤ mib)

/-- AES_GCM_ENC: the IV is drawn with GEN_IV, and then stands first in OUT. -/
def Work.gcmEnc (w : Work) : Result :=
  let aad := gcmAad w.inp
  let text := w.inp.drop (16 + aad)
  let gen := w.x.p 0 1 == 1
  let given := slice w.inp 4 12
  let need := (if gen then 12 else 0) + text.length + 16
  if !gcmOk w.inp 0 then early stBadLength 0x0202
  else if w.x.outLen.toNat < need then tooSmall need
  else if gen && given.any (· != 0) then early stMalformed 0x0401
  else
    let iv := if gen then w.random 0 12 else given
    let c := slice (Config.gcmEnc w.priv iv (slice w.inp 16 aad) text) 0 (text.length + 16)
    good ((if gen then iv else []) ++ c)
      (engNs (96 + 2 * blocks16 aad + aesFast w.alg * blocks16 text.length + 16))

/-- AES_GCM_DEC: nothing is written unless the tag verifies (05:R128, 07:R172). -/
def Work.gcmDec (w : Work) : Result :=
  let aad := gcmAad w.inp
  let body := w.inp.drop (16 + aad)
  let n := body.length - 16
  if !gcmOk w.inp 16 then early stBadLength 0x0202
  else if w.x.outLen.toNat < n then tooSmall n
  else
    let one := 96 + 2 * (blocks16 aad + blocks16 n) + 16
    match Config.gcmDec w.priv (slice w.inp 4 12) (slice w.inp 16 aad) body with
    | some t => good (slice t 0 n) (engNs (one + aesFast w.alg * blocks16 n))
    | none => bad stSigInvalid (engNs one)

/-- AES_XTS: the tweak first. -/
def Work.xtsOp (w : Work) : Result :=
  let data := w.inp.drop 16
  good (slice (Config.xts (w.x.p 0 1 == 1) w.priv (slice w.inp 0 16) data) 0 data.length)
    (engNs (48 + (if w.alg = 5 then 6 else 8) * blocks16 data.length))

/-- AES_CMAC. -/
def Work.cmacOp (w : Work) : Result :=
  good (slice (Config.cmac w.priv w.inp) 0 16) (engNs (32 + aesSerial w.alg * max 1 (blocks16 w.inp.length) + 14))

/-! ## Hashes and MACs -/

/-- HASH: SHAKE writes OUT_LEN bytes. -/
def Work.hashOp (w : Work) : Result :=
  let h := w.h
  let o := w.x.outLen.toNat
  if h ≥ 7 then
    let (rate, c, _) := hashCost h
    good (slice (Config.shake h w.inp o) 0 o) (hashNs (hashCycles h w.inp.length + (o - 1) / rate * c))
  else good (digest h w.inp) (hashNs (hashCycles h w.inp.length))

/-- HMAC. -/
def Work.hmacOp (w : Work) : Result :=
  good (hmacOf w.h w.priv w.inp) (hashNs (hmacCycles w.h w.priv.length w.inp.length))

/-- KMAC: S_LEN and S first. -/
def Work.kmacOp (w : Work) : Result :=
  let o := w.x.outLen.toNat
  let big := w.x.p 0 1 == 1
  if !ctxOk w.inp then early stBadLength 0x0202
  else
    let m := afterCtx w.inp
    good (slice (Config.kmac big w.priv m o (ctxOf w.inp)) 0 o) (hashNs (hashCycles (if big then 10 else 9) m.length + 52))

/-! ## KDFs -/

/-- A 2-byte length prefix points inside IN. -/
def prefixOk (b : List Byte) : Bool := decide (2 + field b 0 2 ≤ b.length)

/-- What the prefix measures. -/
def prefixed (b : List Byte) : List Byte := slice b 2 (field b 0 2)

/-- What follows it. -/
def afterPrefix (b : List Byte) : List Byte := b.drop (2 + field b 0 2)

/-- SP 800-108 counter mode with HMAC: blocks i from 1, `n` of them. -/
def kdfCtr (h : Nat) (key label context : List Byte) (len : Nat) : Nat → List Byte
  | 0 => []
  | n + 1 => kdfCtr h key label context len n ++
      hmacOf h key (beBytes 4 (n + 1) ++ label ++ [0] ++ context ++ beBytes 4 (8 * len))

/-- KDF_CTR (05:Table 5.11). -/
def Work.kdfOp (w : Work) : Result :=
  let len := tLen w.x.keyB
  let h := w.h
  if !prefixOk w.inp then early stBadLength 0x0202
  else
    let label := prefixed w.inp
    let context := afterPrefix w.inp
    if h ≤ 3 then
      let n := (len + digestLen h - 1) / digestLen h
      w.secret w.x.keyB ((kdfCtr h w.priv label context len n).take len) []
        (hashNs (n * hmacCycles h w.priv.length (9 + label.length + context.length)))
    else
      let (rate, c, _) := hashCost h
      w.secret w.x.keyB (slice (Config.kmac (h == 10) w.priv context len label) 0 len) []
        (hashNs (hashCycles h context.length + 52 + (len - 1) / rate * c))

/-- HKDF-Expand: T(1) to T(n), newest first in the accumulator (RFC 5869). -/
def expand (h : Nat) (prk info : List Byte) : Nat → Nat → List Byte → List Byte
  | 0, _, _ => []
  | f + 1, i, last =>
    let t := hmacOf h prk (last ++ info ++ [BitVec.ofNat 8 i])
    t ++ expand h prk info f (i + 1) t

/-- HKDF of `len` bytes; without a salt it is a digest of zeros. -/
def hkdf (h : Nat) (extract : Bool) (salt ikm info : List Byte) (len : Nat) : List Byte :=
  let salt := if salt.isEmpty then List.replicate (digestLen h) 0 else salt
  let prk := if extract then hmacOf h salt ikm else ikm
  (expand h prk info ((len + digestLen h - 1) / digestLen h) 1 []).take len

/-- HKDF (05:Table 5.11): EXPAND_ONLY takes no salt. -/
def Work.hkdfOp (w : Work) : Result :=
  let len := tLen w.x.keyB
  let h := w.h
  let only := w.x.p 4 1 == 1
  if !prefixOk w.inp then early stBadLength 0x0202
  else if only && field w.inp 0 2 != 0 then early stMalformed 0x0401
  else
    let salt := prefixed w.inp
    let info := afterPrefix w.inp
    let n := (len + digestLen h - 1) / digestLen h
    let first := if only then 0 else hmacCycles h salt.length w.priv.length
    let key := if only then w.priv.length else digestLen h
    w.secret w.x.keyB (hkdf h (!only) salt w.priv info len) []
      (hashNs (first + hmacCycles h key (info.length + 1) + (n - 1) * hmacCycles h key (digestLen h + info.length + 1)))

/-- RANDOM_BYTES from the host instance; its engine time is open (log 14). -/
def Work.randomOp (w : Work) : Result := good (w.random 0 w.x.outLen.toNat) (Config.freeNat w.k)

/-! ## Commands -/

/-- AES_GCM_ENC (05:Table 5.11). -/
def execAesGcmEnc (ridge blk : Nat) (s : State) : Host.Outcome State Fault Refusal :=
  s.upd fun d => d.work ridge blk (· == 0x0601) Work.gcmEnc

/-- AES_GCM_DEC (07:R172). -/
def execAesGcmDec (ridge blk : Nat) (s : State) : Host.Outcome State Fault Refusal :=
  s.upd fun d => d.work ridge blk (· == 0x0602) Work.gcmDec

/-- AES_XTS (05:Table 5.11). -/
def execAesXts (ridge blk : Nat) (s : State) : Host.Outcome State Fault Refusal :=
  s.upd fun d => d.work ridge blk (· == 0x0603) Work.xtsOp

/-- AES_CMAC (05:Table 5.11). -/
def execAesCmac (ridge blk : Nat) (s : State) : Host.Outcome State Fault Refusal :=
  s.upd fun d => d.work ridge blk (· == 0x0604) Work.cmacOp

/-- HASH (05:Table 5.11). -/
def execHash (ridge blk : Nat) (s : State) : Host.Outcome State Fault Refusal :=
  s.upd fun d => d.work ridge blk (· == 0x0701) Work.hashOp

/-- HMAC (05:Table 5.11). -/
def execHmac (ridge blk : Nat) (s : State) : Host.Outcome State Fault Refusal :=
  s.upd fun d => d.work ridge blk (· == 0x0702) Work.hmacOp

/-- KMAC (05:Table 5.11). -/
def execKmac (ridge blk : Nat) (s : State) : Host.Outcome State Fault Refusal :=
  s.upd fun d => d.work ridge blk (· == 0x0703) Work.kmacOp

/-- KDF_CTR (05:Table 5.11). -/
def execKdfCtr (ridge blk : Nat) (s : State) : Host.Outcome State Fault Refusal :=
  s.upd fun d => d.work ridge blk (· == 0x0704) Work.kdfOp

/-- HKDF (05:Table 5.11). -/
def execHkdf (ridge blk : Nat) (s : State) : Host.Outcome State Fault Refusal :=
  s.upd fun d => d.work ridge blk (· == 0x0705) Work.hkdfOp

/-- RANDOM_BYTES (05:Table 5.12). -/
def execRandomBytes (ridge blk : Nat) (s : State) : Host.Outcome State Fault Refusal :=
  s.upd fun d => d.work ridge blk (· == 0x0901) Work.randomOp

end Sys2Proof.Machine
end

