-- ==== Sys2Proof/Machine/Lattice.lean ====
section
/-! DEFINITION. Lattice and hash-based operations: ML-KEM, ML-DSA, SLH-DSA (05:Table 5.10, 07:R161 to R169, R175). -/

namespace Sys2Proof.Machine

/-! ## ML-KEM -/

/-- A coefficient pair of 3 bytes is below q = 3,329. -/
def coeffOk (b : List Byte) (off : Nat) : Bool :=
  let v := field b off 3
  decide (v % 4096 < 3329) && decide (v / 4096 < 3329)

/-- The offset of the first 384-byte block that holds a coefficient of q or above (07:R169). -/
def kemBadBlock (a : Nat) (ek : List Byte) : Option Nat :=
  ((List.range (kemRank a)).find? fun i => !((List.range 128).all fun j => coeffOk ek (384 * i + 3 * j))).map (384 * ·)

/-- 07:Table 7.2: key generation, encapsulation, decapsulation, ns. -/
def kemTimes (a : Nat) : Nat × Nat × Nat :=
  if a = 0x401 then (1200, 1500, 1900) else if a = 0x402 then (1900, 2300, 2900) else (2800, 3300, 4100)

/-- Encapsulation to a key: ciphertext and secret. -/
def encaps (a : Nat) (ek rand : List Byte) : List Byte × List Byte :=
  let (c, z) := Config.kemEncaps a ek rand
  (slice c 0 (ctLen a), slice z 0 32)

/-- Decapsulation with implicit rejection. -/
def decaps (a : Nat) (dk ct : List Byte) : List Byte := slice (Config.kemDecaps a dk ct) 0 32

/-- MLKEM_ENCAPS: an inline key passes the modulus check, or is refused with RANGE. -/
def Work.kemEncaps (w : Work) : Result :=
  let a := w.alg
  match (if w.a.isSome then none else kemBadBlock a w.aux) with
  | some off => bad stRange (engNs (32 + 16 * kemRank a)) (off + 2 ^ 15)
  | none =>
    let (c, z) := encaps a w.pubKey (w.random 0 32)
    w.secret w.x.keyB z c (w.latticeNs (kemTimes a).2.1)

/-- MLKEM_DECAPS. -/
def Work.kemDecaps (w : Work) : Result :=
  w.secret w.x.keyB (decaps w.alg w.priv w.inp) [] (w.latticeNs (kemTimes w.alg).2.2)

/-! ## ML-DSA -/

/-- 07:Table 7.3: key generation, fixed part of signing, per iteration, verification, ns. -/
def dsaTimes (a : Nat) : Nat × Nat × Nat × Nat :=
  if a = 0x411 then (6900, 5000, 4400, 8100) else if a = 0x412 then (10800, 7600, 6350, 12300) else (15900, 12000, 9600, 19600)

/-- Absorbing a message or context beyond 256 bytes (07:R166). -/
def absorb (n : Nat) : Nat := engNs ((n - 256 + 135) / 136 * 26)

/-- The digest of a pre-hashed input has its length (05:R127). -/
def Work.digestFits (w : Work) (n : Nat) : Bool := !w.pre || n == digestLen w.h

/-- MLDSA_SIGN: DETAIL holds the iterations, saturating. -/
def Work.mldsaSign (w : Work) : Result :=
  let a := w.alg
  let m := afterCtx w.inp
  if !ctxOk w.inp || !w.digestFits m.length then early stBadLength 0x0202
  else
    let n := w.iterations
    let rand := if w.x.p 5 1 = 1 then [] else w.random 0 32
    let (_, fixed, per, _) := dsaTimes a
    good (slice (Config.sign a [] w.priv (variant w.x.param.toNat (ctxOf w.inp)) m rand) 0 (sigLen a))
      (w.latticeNs (fixed + n * per + absorb (w.inp.length - 1))) (min n 0xFFFF)

/-- A verification of Table 5.10: context, signature, message. -/
def Work.pqVerify (w : Work) (ns : Nat) : Result :=
  let a := w.alg
  let rest := afterCtx w.inp
  let n := sigLen a
  if !ctxOk w.inp || decide (rest.length < n) || !w.digestFits (rest.length - n) then early stBadLength 0x0202
  else verdictOf (Config.verify a [] w.pubKey (variant w.x.param.toNat (ctxOf w.inp)) (rest.drop n) (slice rest 0 n)) ns

/-- MLDSA_VERIFY. -/
def Work.mldsaVerify (w : Work) : Result :=
  w.pqVerify (w.latticeNs ((dsaTimes w.alg).2.2.2 + absorb (w.inp.length - 1 - sigLen w.alg)))

/-! ## SLH-DSA -/

/-- 07:Table 7.6: signing and verification, ns, by ALG. -/
def slhTimes (a : Nat) : Nat × Nat :=
  match a with
  | 0x501 => (570000000, 650000) | 0x502 => (314000000, 360000) | 0x503 => (32000000, 1900000)
  | 0x504 => (17600000, 1050000) | 0x505 => (1050000000, 1000000) | 0x506 => (578000000, 550000)
  | 0x507 => (52000000, 2800000) | 0x508 => (28600000, 1540000) | 0x509 => (930000000, 1450000)
  | 0x50A => (512000000, 800000) | 0x50B => (104000000, 2900000) | _ => (57200000, 1600000)

/-- Time of an SLH-DSA key: about the sign time over twice the set's number of layers (07:R175; log 14). -/
def slhMakeNs (k a : Nat) : Nat := about k ((slhTimes a).1 / (2 * (slhChunks a).2.2))

/-- PK.seed, which follows SK.seed and SK.prf in the private encoding (FIPS 205). -/
def slhSeed (a : Nat) (priv : List Byte) : List Byte := slice priv (2 * slhN a) (slhN a)

/-- SLHDSA_SIGN: opt_rand from the internal instance, or PK.seed when deterministic. -/
def Work.slhSign (w : Work) : Result :=
  let a := w.alg
  let m := afterCtx w.inp
  if !ctxOk w.inp || !w.digestFits m.length then early stBadLength 0x0202
  else
    let rand := if w.x.p 5 1 = 1 then slhSeed a w.priv else w.random 0 (slhN a)
    good (slice (Config.sign a [] w.priv (variant w.x.param.toNat (ctxOf w.inp)) m rand) 0 (sigLen a))
      (slhTimes a).1

/-- SLHDSA_VERIFY. -/
def Work.slhVerify (w : Work) : Result := w.pqVerify (slhTimes w.alg).2

/-! ## Commands -/

/-- MLKEM_ENCAPS (05:Table 5.10, 07:R169). -/
def execMlkemEncaps (ridge blk : Nat) (s : State) : Host.Outcome State Fault Refusal :=
  s.upd fun d => d.work ridge blk (· == 0x0401) Work.kemEncaps

/-- MLKEM_DECAPS (05:Table 5.10, 07:R165). -/
def execMlkemDecaps (ridge blk : Nat) (s : State) : Host.Outcome State Fault Refusal :=
  s.upd fun d => d.work ridge blk (· == 0x0402) Work.kemDecaps

/-- MLDSA_SIGN (05:Table 5.10, 07:R167). -/
def execMldsaSign (ridge blk : Nat) (s : State) : Host.Outcome State Fault Refusal :=
  s.upd fun d => d.work ridge blk (· == 0x0411) Work.mldsaSign

/-- MLDSA_VERIFY (05:Table 5.10). -/
def execMldsaVerify (ridge blk : Nat) (s : State) : Host.Outcome State Fault Refusal :=
  s.upd fun d => d.work ridge blk (· == 0x0412) Work.mldsaVerify

/-- SLHDSA_SIGN (05:Table 5.10, 07:R175). -/
def execSlhdsaSign (ridge blk : Nat) (s : State) : Host.Outcome State Fault Refusal :=
  s.upd fun d => d.work ridge blk (· == 0x0501) Work.slhSign

/-- SLHDSA_VERIFY (05:Table 5.10, 07:R175). -/
def execSlhdsaVerify (ridge blk : Nat) (s : State) : Host.Outcome State Fault Refusal :=
  s.upd fun d => d.work ridge blk (· == 0x0502) Work.slhVerify

end Sys2Proof.Machine
end

