-- ==== Sys2Proof/Machine/Composite.lean ====
section
/-! DEFINITION. Operations made of several parts or of many algorithms: key generation and derivation, hybrid suites, and
the primitives of tenant programs (05:R135, R137, R138, 06:R160, R407, 10:Table 10.9). -/

namespace Sys2Proof.Machine

/-! ## Making keys -/

/-- Engine time of making a key: exact for the lattice sets, up to its limit and fixed by public facts for curves and secrets,
open for RSA, whose search varies (06:R143, R160, R407, 07:R166, R175). -/
def Work.makeNs (w : Work) (a : Nat) : Nat :=
  if isSymmetric a then engNs (Config.steps [w.x.op, a, tLen w.x.keyB] % (97 + 8 * blocks16 (tLen w.x.keyB)))
  else if isCurve a then engNs (w.fixedTo a (w.curveLimit a 18 8000))
  else if a = 0x301 ∨ a = 0x303 then engNs (w.fixedTo a 72652)
  else if a = 0x302 ∨ a = 0x304 then engNs (w.fixedTo a 283128)
  else if isKem a then w.latticeNs (kemTimes a).1
  else if isMldsa a then w.latticeNs (dsaTimes a).1
  else if isSlh a then slhMakeNs w.k a
  else Config.freeNat w.k

/-- A key of the template, with its public part as output; a symmetric key has none. -/
def Work.makeKey (w : Work) (priv : List Byte) (ns : Nat) : Result :=
  let k := w.d.keyOf w.s w.x.keyB priv
  { good k.pub ns with key := some k }

/-- KEY_GENERATE. -/
def Work.keyGenerate (w : Work) : Result :=
  let a := tAlg w.x.keyB
  if isRsa a then w.makeKey (Config.keygen a w.x.param.toNat [] (w.random 0 1024)) (w.makeNs a)
  else w.makeKey (w.d.fromSeed w.s a (w.random 0 (w.d.seedLen w.s a (tLen w.x.keyB)))) (w.makeNs a)

/-- KEY_DERIVE: the seed is KMAC256 of parent and context under "UJ840KD" and the template. -/
def Work.keyDerive (w : Work) : Result :=
  let t := w.x.keyB
  let a := tAlg t
  let n := w.d.seedLen w.s a (tLen t)
  let seed := kmac256 w.priv w.inp n (ascii "UJ840KD" ++ leBytes 8 t.toNat)
  w.makeKey (w.d.fromSeed w.s a seed) (w.makeNs a + hashNs (hashCycles 10 w.inp.length + 52))

/-! ## Hybrid signatures (05:R137) -/

/-- M′ of a suite, context and message. -/
def hybridMessage (suite : Nat) (ctx m : List Byte) : List Byte :=
  ascii "UJHYBSG1" ++ [BitVec.ofNat 8 suite, BitVec.ofNat 8 ctx.length] ++ ctx ++ digest 3 m

/-- The variant of the classical part: SHA-256 on P-256, SHA-384 on P-384, pure EdDSA. -/
def hybridVariant (a : Nat) : List Byte := variant (if a = 0x201 then 1 else if a = 0x202 then 2 else 0) []

/-- Length of a classical signature. -/
def classicalSig (a : Nat) : Nat := if a = 0x201 then 64 else if a = 0x202 then 96 else sigLen a

/-- Time of the classical signature. -/
def classicalSignNs (a : Nat) : Nat :=
  if a = 0x201 then 40000 else if a = 0x202 then 116000 else if a = 0x301 then 16000 else engNs (Config.steps [0x0301, a])

/-- HYBRID_SIGN: the ML-DSA signature, then the classical one; the time is the sum of the parts. -/
def Work.hybridSign (w : Work) : Result :=
  let suite := w.h
  let (c, m) := signSuite suite
  if !ctxOk w.inp then early stBadLength 0x0202
  else
    let msg := hybridMessage suite (ctxOf w.inp) (afterCtx w.inp)
    let pq := match w.b with
      | some k => slice (Config.sign m [] k.priv (variant 0 []) msg (w.random 32 32)) 0 (sigLen m)
      | none => []
    let cl := slice (Config.sign c (w.d.params w.s c) w.priv (hybridVariant c) msg (w.random 0 32)) 0 (classicalSig c)
    let (_, fixed, per, _) := dsaTimes m
    good (pq ++ cl) (classicalSignNs c + w.latticeNs (fixed + w.iterations * per + absorb msg.length) +
      hashNs (hashCycles 3 (afterCtx w.inp).length))

/-- The public keys of HYBRID_VERIFY: of the named keys, or from AUX. -/
def Work.hybridKeys (w : Work) (m : Nat) : List Byte × List Byte :=
  let n := w.d.pubLen w.s m 0
  match w.a, w.b with
  | some a, some b => (a.pub, b.pub)
  | _, _ => (w.aux.take (w.aux.length - n), w.aux.drop (w.aux.length - n))

/-- Time of the classical verification, with a validation phase of `v` cycles. -/
def Work.classicalVerifyNs (w : Work) (a v : Nat) : Nat :=
  if a = 0x301 then 32250 else if a = 0x302 then 150000 else engNs (w.ecdsaVerifyCycles a v)

/-- HYBRID_VERIFY: both parts run; DETAIL names those that failed. An inline classical key is validated. -/
def Work.hybridVerify (w : Work) : Result :=
  let suite := w.h
  let (c, m) := signSuite suite
  let n := sigLen m + classicalSig c
  let rest := afterCtx w.inp
  if !ctxOk w.inp || decide (rest.length < n) then early stBadLength 0x0202
  else
    let (ck, pk) := w.hybridKeys m
    let flaws := if isEd c then edFaults c ck else if w.a.isSome then [] else w.pointFaults c ck 0 true
    let v := if isEd c then edCheckCycles c else w.d.pointCheckCycles w.s c (w.a.isNone && w.isShort c ck)
    validated flaws v fun _ =>
      let msg := hybridMessage suite (ctxOf w.inp) (rest.drop n)
      let pq := Config.verify m [] pk (variant 0 []) msg (slice rest 0 (sigLen m))
      let cl := Config.verify c (w.d.params w.s c) ck (hybridVariant c) msg (slice rest (sigLen m) (classicalSig c))
      let ns := w.classicalVerifyNs c v + w.latticeNs ((dsaTimes m).2.2.2 + absorb msg.length) +
        hashNs (hashCycles 3 (rest.drop n).length)
      if cl && pq then good [] ns else bad stSigInvalid ns ((if cl then 0 else 1) + if pq then 0 else 2)

/-! ## Hybrid key exchange (05:R138) -/

/-- The combined secret. -/
def kemSecret (suite : Nat) (z1 z2 eph ct : List Byte) : List Byte :=
  hkdf 2 true [] (z1 ++ z2) (ascii "UJHYBKM1" ++ [BitVec.ofNat 8 suite] ++ eph ++ ct) 32

/-- Time of an exchange on the classical curve. -/
def Work.agreeNs (w : Work) (a : Nat) : Nat :=
  if a = 0x303 then 25600 else engNs (w.fixedTo a (w.curveLimit a 17 4000))

/-- The classical secret of a private value and a peer. -/
def Work.agree (w : Work) (a : Nat) (priv peer : List Byte) : List Byte :=
  if isX a then xdhSecret a priv peer else w.ecdhSecret a priv peer

/-- HYBRID_KEM, roles send and receive; its template was judged when AUX arrived (05:R408). -/
def Work.hybridKem (w : Work) : Result :=
  let suite := w.h
  let (a, m) := kemSuite suite
  let t : W64 := BitVec.ofNat 64 (field w.aux 0 8)
  let send := w.x.p 4 1 == 0
  let second := if send then w.d.pubLen w.s m 0 else ctLen m
  let peer := w.inp.take (w.inp.length - second)
  let other := w.inp.drop (w.inp.length - second)
  let flaws := if isX a then [] else w.pointFaults a peer 0 false
  let v := if isX a then 0 else w.d.pointCheckCycles w.s a (w.isShort a peer)
  validated flaws v fun _ =>
    let ns := engNs v + w.agreeNs a + w.latticeNs (if send then (kemTimes m).2.1 else (kemTimes m).2.2)
    let zero := fun (z : List Byte) => isX a && z.all (· == 0)
    if send then
      match kemBadBlock m other with
      | some off => bad stRange (engNs (v + 32 + 16 * kemRank m)) (peer.length + off)
      | none =>
        let d1 := w.d.fromSeed w.s a (w.random 0 (w.d.seedLen w.s a 0))
        let eph := w.d.publicPart w.s a d1
        let z1 := w.agree a d1 peer
        let (ct, z2) := encaps m other (w.random 128 32)
        if zero z1 then bad stSmallOrder ns else w.secret t (kemSecret suite z1 z2 eph ct) (eph ++ ct) ns
    else
      let z1 := w.agree a w.priv peer
      let z2 := match w.b with
        | some k => decaps m k.priv other
        | none => []
      if zero z1 then bad stSmallOrder ns else w.secret t (kemSecret suite z1 z2 peer other) [] ns

/-! ## Primitives of tenant programs (10:Table 10.9) -/

/-- Failing checks of a modulus p and, with it, of y; MODEXP_G2 checks p alone, as an RSA modulus. -/
def modexpFaults (p y k : Nat) (base : Bool) : List Flaw :=
  if base then rsaIntFaults y p k true
  else (if p % 2 = 0 then [⟨stRange, 0, false⟩] else []) ++ if p < 2 ^ (8 * (k - 1)) then [⟨stZeroInput, 0, false⟩] else []

/-- MODEXP: y^x mod p becomes a key object. -/
def Work.modexp (w : Work) : Result :=
  let k := w.inp.length / 2
  let p := beNat (slice w.inp 0 k)
  let y := beNat (slice w.inp k k)
  validated (modexpFaults p y k true) (rsaCheckCycles k) fun _ =>
    w.secret w.x.keyB (beBytes k (powMod y (beNat w.priv) p)) []
      (engNs (rsaCheckCycles k + Config.steps [w.x.op, k]))

/-- MODEXP_G2: 2^x mod p. -/
def Work.modexpG2 (w : Work) : Result :=
  let k := w.inp.length
  let p := beNat w.inp
  validated (modexpFaults p 0 k false) (rsaCheckCycles k) fun _ =>
    good (beBytes k (powMod 2 (beNat w.priv) p)) (engNs (rsaCheckCycles k + Config.steps [w.x.op, k]))

/-- The modulus that PARAM[1] names (07:R161). -/
def Desc.wired (x : Desc) : Nat := if x.p 1 1 = 0 then 3329 else 8380417

/-- Coefficients of a polynomial in IN. -/
def coeffs (b : List Byte) (from' : Nat) : List Nat := (List.range 256).map fun i => field b (from' + 4 * i) 4

/-- Coefficients as bytes. -/
def coeffBytes (c : List Nat) : List Byte := c.flatMap fun v => leBytes 4 v

/-- The bit-reversal of 7 or 8 bits (FIPS 203, FIPS 204). -/
def rev (bits i : Nat) : Nat := bitrev bits i

/-- One layer of butterflies of a forward transform: `len` apart, with roots from index k upwards. -/
def nttLayer (q root bits len : Nat) (start : Nat) (c : List Nat) : List Nat :=
  (List.range 256).map fun i =>
    let blk := i / (2 * len)
    let z := powMod root (rev bits (start + blk)) q
    let at' := fun (j : Nat) => c.getD j 0
    if i % (2 * len) < len then (at' i + z * at' (i + len)) % q else subMod q (at' (i - len)) (z * at' i % q)

/-- The forward transform: layers of length 128 down to 2 for q = 3,329, to 1 for q = 8,380,417. -/
def nttForward (q root bits : Nat) (c : List Nat) : List Nat :=
  (List.range bits).foldl (fun c i => nttLayer q root bits (128 / 2 ^ i) (2 ^ i) c) c

/-- One layer of the inverse transform. -/
def nttBack (q root bits len start : Nat) (c : List Nat) : List Nat :=
  (List.range 256).map fun i =>
    let blk := i / (2 * len)
    let z := powMod root (rev bits (2 * start - 1 - blk)) q
    let at' := fun (j : Nat) => c.getD j 0
    if i % (2 * len) < len then (at' i + at' (i + len)) % q
    else z * subMod q (at' i) (at' (i - len)) % q

/-- The inverse transform with its final scaling (07:R162). -/
def nttInverse (q root bits : Nat) (c : List Nat) : List Nat :=
  let c := (List.range bits).reverse.foldl (fun c i => nttBack q root bits (128 / 2 ^ i) (2 ^ i) c) c
  let f := powMod (2 ^ bits) (q - 2) q
  c.map fun v => v * f % q

/-- The root of a wired modulus: 17 and 1,753, with 7 and 8 layers (FIPS 203, FIPS 204). -/
def nttRoot (q : Nat) : Nat × Nat := if q = 3329 then (17, 7) else (1753, 8)

/-- NTT: forward or inverse. -/
def Work.ntt (w : Work) : Result :=
  let q := w.x.wired
  let (root, bits) := nttRoot q
  let c := (coeffs w.inp 0).map (· % q)
  good (coeffBytes (if w.x.p 0 1 = 0 then nttForward q root bits c else nttInverse q root bits c)) (if q = 3329 then 35 else 40)

/-- A product in the NTT domain: pointwise, or base multiplication of degree 2 for q = 3,329. -/
def polyMul (q : Nat) (a b : List Nat) : List Nat :=
  let at' := fun (l : List Nat) (j : Nat) => l.getD j 0
  (List.range 256).map fun i =>
    if q = 3329 then
      let j := i / 2 * 2
      let z := powMod 17 (2 * rev 7 (i / 2) + 1) q
      if i % 2 = 0 then (at' a j * at' b j + at' a (j + 1) * at' b (j + 1) % q * z) % q
      else (at' a j * at' b (j + 1) + at' a (j + 1) * at' b j) % q
    else at' a i * at' b i % q

/-- POLY_MUL; its time is open (log 14). -/
def Work.polyProduct (w : Work) : Result :=
  let q := w.x.wired
  good (coeffBytes (polyMul q ((coeffs w.inp 0).map (· % q)) ((coeffs w.inp 1024).map (· % q)))) (Config.freeNat w.k)

/-- SAMPLE: a row of 07:Table 7.1; its time is open (log 14). -/
def Work.sample (w : Work) : Result :=
  let c := Config.sampler (w.x.p 0 4) w.inp
  good (coeffBytes ((List.range 256).map fun i => c.getD i 0)) (Config.freeNat w.k)

/-! ## Commands -/

/-- KEY_GENERATE (05:Table 5.12, 06:R160). -/
def execKeyGenerate (ridge blk : Nat) (s : State) : Host.Outcome State Fault Refusal :=
  s.upd fun d => d.work ridge blk (· == 0x0801) Work.keyGenerate

/-- KEY_DERIVE (05:R135). -/
def execKeyDerive (ridge blk : Nat) (s : State) : Host.Outcome State Fault Refusal :=
  s.upd fun d => d.work ridge blk (· == 0x0807) Work.keyDerive

/-- HYBRID_SIGN (05:R137). -/
def execHybridSign (ridge blk : Nat) (s : State) : Host.Outcome State Fault Refusal :=
  s.upd fun d => d.work ridge blk (· == 0x0A01) Work.hybridSign

/-- HYBRID_VERIFY (05:R137). -/
def execHybridVerify (ridge blk : Nat) (s : State) : Host.Outcome State Fault Refusal :=
  s.upd fun d => d.work ridge blk (· == 0x0A02) Work.hybridVerify

/-- HYBRID_KEM (05:R138). -/
def execHybridKem (ridge blk : Nat) (s : State) : Host.Outcome State Fault Refusal :=
  s.upd fun d => d.work ridge blk (· == 0x0A03) Work.hybridKem

/-- MODEXP (10:Table 10.9). -/
def execModexp (ridge blk : Nat) (s : State) : Host.Outcome State Fault Refusal :=
  s.upd fun d => d.work ridge blk (· == 0x0F10) Work.modexp

/-- MODEXP_G2 (10:Table 10.9). -/
def execModexpG2 (ridge blk : Nat) (s : State) : Host.Outcome State Fault Refusal :=
  s.upd fun d => d.work ridge blk (· == 0x0F11) Work.modexpG2

/-- NTT (10:Table 10.9, 07:R180). -/
def execNtt (ridge blk : Nat) (s : State) : Host.Outcome State Fault Refusal :=
  s.upd fun d => d.work ridge blk (· == 0x0F12) Work.ntt

/-- POLY_MUL (10:Table 10.9, 07:R180). -/
def execPolyMul (ridge blk : Nat) (s : State) : Host.Outcome State Fault Refusal :=
  s.upd fun d => d.work ridge blk (· == 0x0F13) Work.polyProduct

/-- SAMPLE (10:Table 10.9, 07:R180). -/
def execSample (ridge blk : Nat) (s : State) : Host.Outcome State Fault Refusal :=
  s.upd fun d => d.work ridge blk (· == 0x0F14) Work.sample

end Sys2Proof.Machine
end

