-- ==== Sys2Proof/Machine/Jobs.lean ====
section
/-! DEFINITION. The journey of a descriptor: portal writes, ring reads, mirror copies, grants, the reads of a job, the end
of an engine's work, key commits, chains, and entries that a shutdown removes (01:R22 to R30, R405, 04, 08:R194 to R199,
14:R318 to R321). -/

namespace Sys2Proof.Machine

/-! ## Output -/

/-- What a job has not yet written of its output is written. -/
def Dev.emit (d : Dev) (j : JobRec) (out : List Byte) : Dev × Option Verdict :=
  d.emitAt j j.tail.streamed (out.drop j.tail.streamed)

/-! ## The end of an element -/

/-- An element has ended: with DONE and CHAIN set the read of the next one is issued, else the job completes (04:R106,
R107), and the keys it consumed are erased (05:R124). A chain under an old GEN, or of a FAULTED seam, reads no further element. -/
def Dev.elementEnd (d : Dev) (n : Nat) (v : Verdict) : Dev :=
  match d.job? n with
  | none => d
  | some j =>
    let s := j.job.seam
    if v.status = stDone && j.job.desc.chain && j.tail.prog.isNone && !j.tail.discarded &&
        (d.seam s).entry.state != .faulted then
      let d := (d.releaseAll j).modJob n fun y =>
        { y with job := { y.job with phase := .chainRead, elem := y.job.elem + 1, parts := [], result := none }
                 tail := { y.tail with written := v.written, reran := false, draining := none, consumed := [] } }
      let d := d.eraseConsumed j
      match d.readOf s 64 true with
      | .failed st => d.finish n ⟨st, 0x24, v.written⟩ true
      | _ => d
    else d.finish n v true

/-! ## Key commits (08:R194 to R197) -/

/-- Step 3: the entry, sealed, stands PREPARED on the home ridge, and its copy is on the way to the mirror. -/
def Dev.prepare (d : Dev) (n : Nat) (k : NewKey) : Dev :=
  match d.job? n with
  | none => d
  | some j =>
    match j.tail.slot with
    | none => d
    | some i =>
      let s := j.job.seam
      let op := j.job.desc.op
      let e : Entry :=
        { state := .prepared, consumed := false, kind := 1, genInside := madeInside op, owner := some s, index := i
          use := d.useOf s i, epoch := (d.seam s).entry.epoch.val, origin := j.job.desc.opcode, template := tHeld k.template
          created := d.clock, nonce := d.draws, under := (d.ridge (d.homeOf s)).kdu, intact := true
          payload := .key k.priv k.pub }
      let d := ((d.drawNonce (some s)).spineSend j.job.ridge (d.homeOf s)).spineSend (d.homeOf s) (d.mirrorOf s)
      let before := d.granulesUsed (d.homeOf s)
      let d := (d.releaseAll j).modJob n fun y => { y with job := { y.job with phase := .prepared, parts := [] } }
      let d := { d with uses := assocSet d.uses (s * 2 ^ 23 + i) (d.useOf s i + 1) }
      (d.modRidge (d.homeOf s) fun x => { x with store := x.store ++ [e] }).checkFull (d.homeOf s) before

/-- MIRROR_PREPARED_ACK: the mirror's copy stands, and the reservation ends with it; the completion can be issued when GEN is
unchanged, the seam is not FAULTED and a bound link is up. Then the home ridge commits and sends the public part, else both
copies go (step 4, 5). -/
def Dev.preparedAck (d : Dev) (n : Nat) : Dev :=
  match d.job? n with
  | none => d
  | some j =>
    match j.job.phase, j.tail.slot, j.job.result with
    | .prepared, some i, some res =>
      let s := j.job.seam
      let home := d.homeOf s
      let es := (d.ridge home).store.filter (Entry.isKey s i)
      let d := es.foldl (fun d e => d.addEntry ((d.holders s).filter (· != home)) e)
        (d.modJob n fun y => { y with tail := { y.tail with room := 0 } })
      if j.tail.discarded || (d.seam s).entry.state == .faulted || !d.linkUpFor s then
        (d.rollback j).finish n (refuse stWriteFault 0x22) true
      else
        let d := (d.modRidge home fun x => { x with
          store := x.store.map fun e => if e.isKey s i then { e with state := .committed } else e }).modJob n
            fun y => { y with job := { y.job with phase := .committed } }
        match d.emit j res.out with
        | (d, none) => d
        | (d, some v) => d.modJob n fun y => { y with job := { y.job with result := some { res with verdict := v } } }
    | _, _, _ => d

/-- MIRROR_COMMIT_ACK: the mirror's copy is COMMITTED, and the completion is issued with the handle (steps 6, 7). -/
def Dev.commitAck (d : Dev) (n : Nat) : Dev :=
  match d.job? n with
  | none => d
  | some j =>
    match j.job.phase, j.tail.slot, j.job.result with
    | .committed, some i, some res =>
      let s := j.job.seam
      let d := d.modEntries (Entry.isKey s i) fun e => { e with state := .committed }
      let use := ((d.keyEntry s i).map (·.use)).getD 0
      let h := d.handle s false i use
      let d := d.modJob n fun y => { y with tail := { y.tail with
        slot := none, created := y.tail.created ++ [i], handle := h, prev := some h } }
      d.elementEnd n res.verdict
    | _, _, _ => d

/-- A job's work has ended with a result: its key is prepared, or its output is written and the element ends. -/
def Dev.endWork (d : Dev) (n : Nat) (res : Result) : Dev :=
  match d.job? n with
  | none => d
  | some j =>
    let d := d.modJob n fun y => { y with
      job := { y.job with result := some res }, tail := { y.tail with ns := y.tail.ns + res.ns } }
    match res.key with
    | some k => d.prepare n k
    | none =>
      match d.emit j res.out with
      | (d, some v) => (d.rollback j).finish n v true
      | (d, none) => (d.rollback j).elementEnd n res.verdict

/-! ## Engines that fail (01:R405, 06:R145, R154, 07:R168) -/

/-- An engine leaves service, wiped (06:R154, 07:R177), event +16: 1 wipe read-back, 2 known-answer test, 3 second result-check
failure, 4 operand RAM error. The job of its input slot takes another engine. -/
def Dev.removeEngine (d : Dev) (r b cause : Nat) : Dev :=
  let e := (d.ridge r).engine b
  if e.inService then
    let d := d.modRidge r fun x =>
      (pairedCores b).foldl (fun x c => x.modEng c fun e => { e with bank := none })
        (x.modEng b fun e => { e.wiped with inService := false, slot := none, readback := cause == 1 })
    let d := d.ridgeEvent r 16 (b + cause * 256)
    match e.slot with
    | some n =>
      let d := d.modJob n fun y => { y with job := { y.job with parts := y.job.parts.filter (· != b) } }
      match d.job? n with
      | some j => if j.job.blk = b then d.rePlace n else d
      | none => d
    | none => d
  else d

/-- A result check fails: the ridge's fault-injection source raises; where its class neither locks nor zeroizes the job runs
once more from its start with fresh values, and after a second failure the engine leaves service and the job is aborted. The
engine blamed is `b`: the job's own, or the one that ran a part (06:R145, 07:R168). -/
def Dev.checkFails (d : Dev) (n r b : Nat) (res : Result) : Dev :=
  let d := d.injection r (BitVec.ofNat 16 b)
  match d.job? n with
  | none => d
  | some j =>
    if j.tail.reran then (d.removeEngine r b 3).abortJob n stAbortTamper false
    else
      ((d.ridgeEvent r 18 b).modEngine r j.job.blk fun e => { e with ram := { e.ram with blind := none, out := none } }).modJob n
        fun y => { y with tail := { y.tail with
          reran := true, started := d.clock, partsDone := [], streamed := 0, ns := y.tail.ns + res.ns } }

/-- The job whose result stands in its engine, for an end of that engine, or else of one that ran a part of it. -/
def Dev.computed (d : Dev) (r b : Nat) : Option (JobRec × Result) :=
  let has := fun (j : JobRec) =>
    let e := (d.ridge r).engine j.job.blk
    if j.job.phase == .engine && j.job.ridge == r && e.running == some j.num then e.ram.out.map fun res => (j, res) else none
  let own := (((d.ridge r).engine b).running.bind d.job?).bind fun j => if j.job.blk = b then has j else none
  match own with
  | some p => some p
  | none => d.jobs.findSome? fun j => if j.tail.partsDone.contains b then has j else none

/-- JOB_END: the engine has its result; its check, the wipe and its read-back, the output and the completion follow
(01:R29, R30, 06:R145, R154, R155). A Keccak core's time includes what samplers delayed it (07:R163). An end of an engine that ran
a part says whether that part's check passed (07:R168). -/
def Dev.jobEnd (d : Dev) (r b : Nat) (checkOk wipeOk : Bool) : Dev :=
  match d.computed r b with
  | none => d
  | some (j, res) =>
    let res := { res with ns := res.ns + ((d.ridge r).engine j.job.blk).delay }
    let late := d.reach (j.tail.started + res.ns)
    if !checkOk then late.checkFails j.num r b res
    else if j.job.blk != b then d
    else (if wipeOk then late else late.removeEngine r b 1).endWork j.num res

/-- ENGINE_FAULT_REMOVAL: besides the job of the input slot, one that runs there when the operand RAM fails takes another
engine (log 26). -/
def Dev.engineFault (d : Dev) (r b cause : Nat) : Dev :=
  let e := (d.ridge r).engine b
  if d.serves r && e.inService && decide (1 ≤ cause ∧ cause ≤ 4 ∧ b < 30) then
    let d := d.removeEngine r b cause
    match e.running.bind fun n => d.job? n with
    | none => d
    | some j =>
      let d := d.modEngine r b fun e => { e with running := none, perms := 0 }
      let d := d.modJob j.num fun y => { y with job := { y.job with parts := y.job.parts.filter (· != b) } }
      if j.job.blk = b && j.job.phase == .engine then
        (((d.releaseAll j).modJob j.num fun y => { y with job := { y.job with result := none, parts := [] } })).rePlace j.num
      else d
  else d

/-! ## Chains (04:R106, R107) -/

/-- The checks of a chain element: those of Table 4.5, where RUN_PROGRAM and FENCE fail check 7. -/
def Dev.elementChecks (d : Dev) (s : Nat) (bytes : List Byte) (elem : Nat) : Option Verdict :=
  let x := Desc.ofBytes bytes
  let v := d.fetchChecks s false bytes elem
  let early := match v with
    | some v => decide (v.detail.toNat % 256 < 7)
    | none => false
  if !early && (x.op == 1 || x.op == 0x0F01) then some (refuse stMalformed (7 + elem % 256 * 2 ^ 24)) else v

/-- An element whose copy stands on the mirror ridge is dispatched: stage 2, its keys and reads, its engine (04:R106). A chain
under an old GEN, or of a FAULTED seam, runs no further element. -/
def Dev.dispatchElement (d : Dev) (n : Nat) : Dev :=
  match d.job? n with
  | none => d
  | some j =>
    let s := j.job.seam
    let x := j.job.desc
    let fail := fun (v : Verdict) => d.finish n (j.unrun v) true
    if j.tail.discarded || (d.seam s).entry.state == .faulted then fail done
    else match d.stage2 s x j.job.elem j.tail.prev with
    | .error v => fail v
    | .ok p =>
      if isDeep x.op && d.deepDown s then fail (refuse stAbortDeep 0)
      else
        let d := (d.load j x p).modJob n fun y => { y with tail := { y.tail with started := d.clock } }
        (if isDeep x.op then d.queueDeep n else d.place n).endFailed

/-- The next element has been read: checked, and mirrored, or the chain ends. It waits for the mirror's acknowledgement as a
descriptor does, and for none while the seam is unmirrored (01:R27, 04:R106); a NOP needs none. -/
def Dev.element (d : Dev) (n : Nat) (bytes : List Byte) : Dev :=
  match d.job? n with
  | none => d
  | some j =>
    let s := j.job.seam
    let x := Desc.ofBytes bytes
    let fail := fun (v : Verdict) => d.finish n (j.unrun v) true
    match d.elementChecks s bytes j.job.elem with
    | some v => fail v
    | none =>
      let d := d.modJob n fun y => { y with job := { y.job with desc := x, phase := .chainReady, keyA := none, keyB := none } }
      if x.chain && decide (63 ≤ j.job.elem) then fail (refuse stChainLimit 0)
      else if x.op = 0 then d.elementEnd n done
      else if d.homeOf s = d.mirrorOf s then d.dispatchElement n
      else d.spineSend (d.homeOf s) (d.mirrorOf s)

/-- MIRROR_DESCRIPTOR_ACK: the copy of a descriptor of a queue stands on the mirror ridge; that of a chain's next element bears
the index of the chain's head (01:R27, 04:R106). -/
def Dev.mirrorAck (d : Dev) (s q : Nat) (i : BitVec 32) : Dev :=
  if ((d.seam s).queue q).prefetch.any fun f => f.index == i && !f.mirrored then d.mirrored s q i
  else match d.jobs.find? fun j =>
      j.job.seam == s && j.job.queue == q && j.job.index == i && j.job.phase == .chainReady && j.tail.prog.isNone with
    | some j => d.dispatchElement j.num
    | none => d

/-! ## Reads (03:R60, 14:R331) -/

/-- The status of a read that failed. -/
def readStatus : ReadAnswer → BitVec 16
  | .data _ => stDone
  | _ => stReadFault

/-- A failed read is counted on its link; a poisoned one is an AER report, Poisoned TLP Received, bit 12 (log 25). -/
def Dev.countRead (d : Dev) (l : Option Lk) (a : ReadAnswer) : Dev :=
  match l with
  | none => d
  | some l =>
    match a with
    | .data _ => d
    | .poisoned =>
      (d.modLink l fun x => { x with poisoned := satInc x.poisoned }).raise (some (lkRidge l)) 36 0
        (BitVec.ofNat 32 (lkBit l + 12 * 256 + 65536))
    | _ => d.modLink l fun x => { x with readFaults := satInc x.readFaults }

/-- A read that timed out is counted. -/
def Dev.countTimeout (d : Dev) (l : Option Lk) : Dev :=
  match l with
  | none => d
  | some l => d.modLink l fun x => { x with cplTimeouts := satInc x.cplTimeouts }

/-- The link on which a target's read stands. -/
def Dev.readLink (d : Dev) (t : ReadTarget) : Option Lk :=
  let ofJob := fun (n : Nat) => (d.job? n).bind fun j => d.dmaLink j.job.seam
  match t with
  | .ring s _ => d.dmaLink s
  | .jobIn n | .jobAux n | .chain n => ofJob n
  | .mqRing | .mqIn _ | .mqAux _ => some (lkOf d.mq.link)

/-- A read of this target is outstanding. -/
def Dev.outstanding (d : Dev) (t : ReadTarget) : Bool :=
  let ofJob := fun (n : Nat) (p : Job → Bool) => ((d.job? n).map fun j => p j.job).getD false
  match t with
  | .ring s q => ((d.seam s).queue q).reading
  | .jobIn n => ofJob n fun j => j.inp == .waiting
  | .jobAux n => ofJob n fun j => j.aux == .waiting
  | .chain n => ofJob n fun j => j.phase == .chainRead
  | .mqRing => d.mq.reading
  | .mqIn c => ((d.mqCmd c).map fun x => x.inp == .waiting).getD false
  | .mqAux c => ((d.mqCmd c).map fun x => x.aux == .waiting).getD false

/-- The MQ reads its ring ahead: enabled, running, in a mode and step that serves it, up to 8 descriptors beyond its SQ
head (04:R401, 02:R47). -/
def Dev.mqFetch (d : Dev) : Dev :=
  let q := d.mq
  if q.enable && q.state == 1 && !q.reading && (d.boot.step == 10 || d.boot.romHold) && !d.pins.cut && !d.pins.inVigil &&
      q.next != q.tail && decide ((q.next - q.head).toNat < 8) then
    if (d.link (lkOf q.link)).carries then d.modMq fun q => { q with reading := true } else d.mqFault 0
  else d

/-- Descriptors of an MQ ring read enter, checked (04:R91, R112). -/
def Dev.mqEnter (d : Dev) (bytes : List Byte) : Nat → Dev
  | 0 => d
  | n + 1 =>
    if bytes.length < 64 ∨ d.mq.next = d.mq.tail ∨ 8 ≤ (d.mq.next - d.mq.head).toNat then d
    else
      let b := bytes.take 64
      let c : MqCmd := ⟨d.mq.next, Desc.ofBytes b, d.fetchChecks 0 true b 0, false, false, .none, .none⟩
      (d.modMq fun q => { q with next := q.next + 1, cmds := q.cmds ++ [c] }).mqEnter (bytes.drop 64) n

/-- Input of a job crosses the spine from the link's ridge to the ridge that runs it (01:R19, R26). -/
def Dev.inputHop (d : Dev) (n : Nat) : Dev :=
  match d.job? n with
  | none => d
  | some j =>
    match d.dmaLink j.job.seam with
    | some l => d.spineSend (lkRidge l) j.job.ridge
    | none => d

/-- A read's data arrives. -/
def Dev.readData (d : Dev) (t : ReadTarget) (bytes : List Byte) : Dev :=
  match t with
  | .ring s q => d.ringData s q bytes
  | .mqRing => ((d.modMq fun q => { q with reading := false }).mqEnter bytes 8).mqFetch
  | .jobIn n =>
    ((d.inputHop n).modJob n fun y => { y with job := { y.job with inp := .got (slice bytes 0 y.job.desc.inLen.toNat) } }).deliver n
  | .jobAux n =>
    (((d.inputHop n).modJob n fun y =>
      { y with job := { y.job with aux := .got (slice bytes 0 y.job.desc.auxLen.toNat) } }).deliver n).lateStage n
  | .chain n => d.element n (slice bytes 0 64)
  | .mqIn c => d.modCmd c fun x => { x with inp := .got (slice bytes 0 x.desc.inLen.toNat) }
  | .mqAux c => d.modCmd c fun x => { x with aux := .got (slice bytes 0 x.desc.auxLen.toNat) }

/-- A read fails: the job or command ends with the status, a ring read faults its queue or the MQ (04:R108, R109, R113). -/
def Dev.readFails (d : Dev) (t : ReadTarget) (status : BitVec 16) : Dev :=
  let endJob := fun (n code : Nat) =>
    match d.job? n with
    | none => d
    | some j => (d.rollback j).finish n (j.unrun (refuse status code)) true
  match t with
  | .ring s q => d.queueFault s q
  | .mqRing => d.mqFault 0
  | .jobIn n => endJob n 0x21
  | .jobAux n => endJob n 0x23
  | .chain n => endJob n 0x24
  | .mqIn c => d.mqComplete c (refuse status 0x21)
  | .mqAux c => d.mqComplete c (refuse status 0x23)

/-- DMA_READ_COMPLETION. A completion that nothing waits for any longer is discarded and reported as an Unexpected
Completion, bit 16 of the AER status, on its link (14:R331, log 25). -/
def Dev.readAnswered (d : Dev) (t : ReadTarget) (a : ReadAnswer) : Dev :=
  let l := d.readLink t
  if d.outstanding t then
    match a with
    | .data bytes => d.readData t bytes
    | _ => (d.countRead l a).readFails t (readStatus a)
  else match l with
    | some l => d.raise (some (lkRidge l)) 36 0 (BitVec.ofNat 32 (lkBit l + 16 * 256 + 65536))
    | none => d

/-- When a target's read was issued, where the state tells: a job's, at its grant. -/
def Dev.issuedAt (d : Dev) (t : ReadTarget) : Option Nat :=
  match t with
  | .jobIn n | .jobAux n => (d.job? n).map (·.tail.granted)
  | _ => none

/-- DMA_READ_TIMEOUT: no answer within LINK.CPL_TIMEOUT, in units of 50 µs (03:R60, 17:Table 17.3). -/
def Dev.readTimesOut (d : Dev) (t : ReadTarget) : Dev :=
  if d.outstanding t then
    let d := match d.issuedAt t with
      | some g => d.reach (g + d.cplTimeout.toNat * 50000)
      | none => d
    (d.countTimeout (d.readLink t)).readFails t stTimeout
  else d

/-- WRITE_DLL_ACK: the oldest write kept for a link is acknowledged (14:R329). -/
def Dev.writeAcked (d : Dev) (l : Lk) : Dev :=
  match (d.link l).unacked with
  | [] => d
  | w :: rest =>
    let d := d.modLink l fun x => { x with unacked := rest }
    match w.kind with
    | .mqCompletion n => d.modMq fun q => { q with sent := q.sent.eraseP fun m => m.index.toNat == n }
    | _ => d

/-! ## Entries removed by a shutdown (04:R111 step 3) -/

/-- A unit that measures end-to-end time takes an entry that was never granted (15:R351). -/
def Dev.captureWhole (d : Dev) (s : Nat) (opcode : BitVec 16) (arrival : Nat) : Dev :=
  { d with perf := d.perf.map fun (u, p) =>
      if p.measure = 3 then
        match p.value s opcode 0 0 (d.clock - arrival) with
        | some v => (u, { p with now := p.now.take v })
        | none => (u, p)
      else (u, p) }

/-- The next remaining entry of a SHUTTING queue is completed with ABORT_QUEUE as a credit is free; of a FAULTED seam the
completion is suppressed (03:R75). -/
def Dev.abortEntry (d : Dev) (s q : Nat) (a : ReadAnswer) : Dev :=
  let x := d.seam s
  let k := x.queue q
  if k.state != .shutting || k.head == k.tail then d
  else
    let (tag, opcode, chained, detail) := match a with
      | .data b => let y := Desc.ofBytes b
        (y.tag, y.opcode, y.chain, 0)
      | _ => (0xFFFF, 0, false, 0x25)
    let next := fun (d : Dev) => d.modQueue s q fun k => { k with head := k.head + 1, reported := k.head + 1 }
    let d := d.countRead (d.dmaLink s) a
    if x.entry.state = .faulted then (next d).discard s
    else if !x.run.creditFree then d
    else
      let arrival := k.arrivalOf k.head d.clock
      let d := (next d).modRun s fun y => { y with cq := y.cq.map fun c => { c with held := c.held + 1 } }
      let c : Compl :=
        { tag := tag, status := stAbortQueue, gen := x.entry.gen, replayed := false, chained := chained, queue := q
          sqHead := k.head + 1, written := 0, detail := detail, ns := 0, handle := 0 }
      match d.putCompletion s c true none false with
      | (d, .written) => d.captureWhole s opcode arrival
      | (d, _) => d

/-! ## Commands -/

/-- The arbiter's next decision on the seam's home ridge falls on this queue, whose head has the opcode (04:R94, R98). -/
def Dev.grantHere (d : Dev) (s q op : Nat) : Dev :=
  match d.queueReady s q with
  | some f =>
    let e := (d.grantDecision (d.homeOf s)).endFailed
    if f.bad.isNone && f.desc.op == op && ((e.seam s).queue q).head == f.index + 1 then e else d
  | none => d

/-- NOP: retired at its grant with DONE (05:R139). -/
def execNop (seam queue : Nat) (s : State) : Host.Outcome State Fault Refusal := s.upd fun d => d.grantHere seam queue 0

/-- FENCE: held until earlier work of its queue has completed, then retired with DONE (04:R105, 05:R139). -/
def execFence (seam queue : Nat) (s : State) : Host.Outcome State Fault Refusal := s.upd fun d => d.grantHere seam queue 1

/-- SQ_TAIL_WRITE (04:R87). -/
def execSqTailWrite (link : Lk) (seam queue size : Nat) (value : W64) (s : State) : Host.Outcome State Fault Refusal :=
  s.upd fun d => if (d.link link).up && decide (queue < 4) then d.stampPortal.portalWrite link seam queue size value else d

/-- CQ_HEAD_WRITE (04:R87). -/
def execCqHeadWrite (link : Lk) (seam size : Nat) (value : W64) (s : State) : Host.Outcome State Fault Refusal :=
  s.upd fun d => if (d.link link).up then d.stampPortal.portalWrite link seam 4 size value else d

/-- A PREFETCH_INVAL write that its page answers; of 8 bytes (04:R96, 17:R370). -/
def Dev.invalWrite (d : Dev) (l : Lk) (s size : Nat) (v : W64) : Dev :=
  if !d.answers l s then d.portalDrop l
  else if size = 8 then
    let d := d.wakeHome s
    let x := d.seam s
    if x.run.takeover then d.modRun s fun y => { y with heldPortal := y.heldPortal ++ [(5, v.setWidth 32)] }
    else if x.entry.state == .frozen && x.entry.saved then d.portalDrop l
    else d.invalidate s v
  else d

/-- PREFETCH_INVAL_WRITE (04:R96). -/
def execPrefetchInvalWrite (link : Lk) (seam size : Nat) (value : W64) (s : State) : Host.Outcome State Fault Refusal :=
  s.upd fun d => if (d.link link).up then d.stampPortal.invalWrite link seam size value else d

/-- DESCRIPTOR_FETCH: a ring read returns into the prefetch cache (04:R91, R95). -/
def execDescriptorFetch (seam queue : Nat) (bytes : List Byte) (s : State) : Host.Outcome State Fault Refusal :=
  s.upd fun d => d.ringData seam queue bytes

/-- MIRROR_DESCRIPTOR_ACK (01:R27). -/
def execMirrorDescriptorAck (seam queue : Nat) (index : BitVec 32) (s : State) : Host.Outcome State Fault Refusal :=
  s.upd fun d => d.mirrorAck seam queue index

/-- GRANT_DECISION (04:R97, R98). -/
def execGrantDecision (ridge : Nat) (s : State) : Host.Outcome State Fault Refusal :=
  s.upd fun d => (d.grantDecision ridge).endFailed

/-- MIRROR_GRANT_ACK: the reported head counts one more grant (14:R321). -/
def execMirrorGrantAck (seam queue : Nat) (s : State) : Host.Outcome State Fault Refusal := s.upd fun d =>
  d.modQueue seam queue fun k => if k.reported = k.head then k else { k with reported := k.reported + 1 }

/-- DMA_READ_COMPLETION (03:R60, 14:R331). -/
def execDmaReadCompletion (target : ReadTarget) (answer : ReadAnswer) (s : State) : Host.Outcome State Fault Refusal :=
  s.upd fun d => d.readAnswered target answer

/-- DMA_READ_TIMEOUT (03:R60). -/
def execDmaReadTimeout (target : ReadTarget) (s : State) : Host.Outcome State Fault Refusal := s.upd fun d => d.readTimesOut target

/-- WRITE_DLL_ACK (14:R329). -/
def execWriteDllAck (link : Lk) (s : State) : Host.Outcome State Fault Refusal := s.upd fun d => d.writeAcked link

/-- CHAIN_ELEMENT_FETCH (04:R106). -/
def execChainElementFetch (job : Nat) (answer : ReadAnswer) (s : State) : Host.Outcome State Fault Refusal :=
  s.upd fun d => if d.outstanding (.chain job) then d.readAnswered (.chain job) answer else d

/-- JOB_END (01:R29, R30). -/
def execJobEnd (ridge blk : Nat) (checkOk wipeOk : Bool) (s : State) : Host.Outcome State Fault Refusal :=
  s.upd fun d => d.jobEnd ridge blk checkOk wipeOk

/-- MIRROR_PREPARED_ACK (08:R194 steps 3 to 5). -/
def execMirrorPreparedAck (job : Nat) (s : State) : Host.Outcome State Fault Refusal := s.upd fun d => d.preparedAck job

/-- MIRROR_COMMIT_ACK (08:R194 steps 6 and 7). -/
def execMirrorCommitAck (job : Nat) (s : State) : Host.Outcome State Fault Refusal := s.upd fun d => d.commitAck job

/-- ENGINE_FAULT_REMOVAL (01:R405). -/
def execEngineFaultRemoval (ridge blk cause : Nat) (s : State) : Host.Outcome State Fault Refusal :=
  s.upd fun d => d.engineFault ridge blk cause

/-- ABORT_QUEUE_WRITE (04:R111). -/
def execAbortQueueWrite (seam queue : Nat) (answer : ReadAnswer) (s : State) : Host.Outcome State Fault Refusal :=
  s.upd fun d => d.abortEntry seam queue answer

/-- ENTROPY_WAIT_TIMEOUT: 5 ms after it began to wait for a reseed, the job ends with ENTROPY_FAIL; ENGINE_NS includes the
wait (12:R288). -/
def execEntropyWaitTimeout (job : Nat) (s : State) : Host.Outcome State Fault Refusal := s.upd fun d =>
  match d.job? job with
  | none => d
  | some j =>
    match j.tail.draining with
    | none => d
    | some t =>
      let d := (d.reach (t + 5000000)).modJob job fun y => { y with tail := { y.tail with ns := y.tail.ns + 5000000 } }
      (d.rollback j).finish job (j.unrun (refuse stEntropyFail 0)) true

end Sys2Proof.Machine
end

