-- ==== Sys2Proof/Machine/Services.lean ====
section
/-! DEFINITION. Deep services: Keade takes them up and runs them: loading curves, wrapped import and export, destruction,
attestation records, loading blobs (05:R131 to R136, R399, R400, 06:R148, R149, 08:R203 to R210). -/

namespace Sys2Proof.Machine

/-! ## Taking up and running (05:R400) -/

/-- Keade may take a block for a service: an idle engine in service, neither gated nor under test; of cores 1 to 3 one that is in
the Surface world with no program (11:R258, R275). -/
def Dev.claimable (d : Dev) (r b : Nat) : Bool :=
  let x := d.ridge r
  let e := x.engine b
  !x.world.claim.getLsbD b && e.inService && !e.testing && !x.gateOn.getLsbD b && e.running.isNone && e.slot.isNone &&
    (b < 30 || x.coreFree (b - 29))

/-- The cores that Keade has not borrowed stay at least one (11:R258): of those asked for, in order, at most as many as leave
one. -/
def Ridge.spare (x : Ridge) : Nat := ((List.range 3).countP fun i => !(x.cores.getD (i + 1) Core.reset).borrowed) - 1

/-- Keade takes up the next Deep service in grant order, at most four at once, and claims the blocks that it will drive. -/
def Dev.startService (d : Dev) (r : Nat) (blocks : BitVec 33) : Dev :=
  let w := (d.ridge r).world
  match w.waiting with
  | [] => d
  | n :: rest =>
    if d.keadeRuns r && w.deepUp && decide (w.running.length < 4) then
      let asked := (List.range 33).filter fun b => blocks.getLsbD b && d.claimable r b
      let bs := asked.filter (· < 30) ++ (asked.filter (30 ≤ ·)).take (d.ridge r).spare
      let m := bs.foldl (fun (m : BitVec 33) b => setBit33 m b true) 0
      let d := d.modWorld r fun w => { w with waiting := rest, running := w.running ++ [(n, m)] }
      let d := bs.foldl (fun d b => d.claim r b) d
      d.modJob n fun y => { y with
        job := { y.job with phase := .deepRun }, tail := { y.tail with started := d.clock } }
    else d

/-- A service's refusal of its input, before any randomness is needed: of its lengths and its form, of what does not
authenticate or suit, of check 0x01 of a curve (05:R117, R133, 06:R148, 08:R203). -/
def Result.turnedDown (res : Result) : Bool :=
  [stMalformed, stBadLength, stKeyPolicy, stBadHandle].contains res.verdict.status ||
    (res.verdict.status == stCurveRejected && res.verdict.detail == 1)

/-- A running Deep service of an opcode has its reads and its randomness, and ends: its effect, its output, its completion.
One that waits on a DRAINED instance is marked (12:R288). -/
def Dev.service (d : Dev) (r n op : Nat) (f : Dev → Work → Dev × Result) : Dev :=
  match d.job? n with
  | none => d
  | some j =>
    if j.job.phase == .deepRun && j.job.ridge == r && j.job.desc.op == op && d.keadeRuns r then
      match j.job.inp.bytes?, j.job.aux.bytes? with
      | some inp, some aux =>
        let work := fun (d : Dev) (k : Nat) => (⟨d, j.job.seam, j.job.desc, j.job.keyA, j.job.keyB, inp, aux, k⟩ : Work)
        let early := ((f d (work d d.draws)).2).turnedDown
        let dr := j.job.desc.draws
        if !early && !d.drawable r dr then
          d.modJob n fun y => { y with tail := { y.tail with draining := some (y.tail.draining.getD d.clock) } }
        else
          let (k, d) := d.draw
          let d := if early then d else match dr with
            | .no => d
            | .internal => d.generate r false 1
            | .host => d.generate r true 1
          let w := work d k
          let (d, res) := f d w
          let res := w.seal res
          (((d.reach (j.tail.started + res.ns)).freeService r n).modJob n fun y =>
            { y with tail := { y.tail with draining := none } }).endWork n res
      | _, _ => d
    else d

/-! ## Curves (05:R131, 06:R148, R149) -/

/-- A number is prime: what the tests of check 0x02 decide (log 27). -/
def isPrime (n : Nat) : Bool := decide (2 ≤ n) && (List.range n).all fun k => decide (k < 2) || n % k != 0

/-- A curve block. -/
def Curve.ofBytes (b : List Byte) : Curve :=
  let l := field b 0 1
  let v := fun (i : Nat) => beNat (slice b (4 + i * l) l)
  ⟨l, field b 1 1, v 0, v 1, v 2, v 3, v 4, v 5⟩

/-- The first failing check of 06:Table 6.4. -/
def Curve.reject (c : Curve) : Option Nat :=
  let n := CurveNums.of c.nums
  let gap := (c.p + 1 : Int) - (c.cofactor * c.n : Int)
  if c.p / 2 ^ (8 * (c.len - 1)) = 0 ∨ c.p ≤ 3 then some 1
  else if !isPrime c.p then some 2
  else if c.p ≤ c.a ∨ c.p ≤ c.b then some 3
  else if (4 * c.a ^ 3 + 27 * c.b ^ 2) % c.p = 0 then some 4
  else if !isPrime c.n then some 5
  else if c.p ≤ c.gx ∨ c.p ≤ c.gy ∨ !n.on c.gx c.gy then some 6
  else if (n.mul c.n n.g).isSome then some 7
  else if c.n = c.p then some 8
  else if (List.range 20).any fun k => powMod c.p (k + 1) c.n == 1 % c.n then some 9
  else if (4 * c.p : Int) < gap * gap then some 10
  else none

/-- The seam's curve slots in use, with their curves. -/
def Dev.curves (d : Dev) (s : Nat) : List (Nat × Curve) :=
  (List.range 16).filterMap fun i => (d.curve s i).map fun c => (i, c)

/-- Time limit of CURVE_LOAD: 80 ms at 640 bits, in proportion to the cube of the bit length (06:R149, Table 6.5). -/
def curveLoadLimit (c : Curve) : Nat := 80000000 * bitLen c.p ^ 3 / 640 ^ 3

/-- CURVE_LOAD of a job. A cofactor outside 1 to 8, or a reserved byte that is not zero, is a fault of the block (log 27). The
granules of its entry have been reserved at stage 2 (08:R187); the entry takes their place. -/
def Work.curveLoad (n : Nat) (d : Dev) (w : Work) : Dev × Result :=
  let c := Curve.ofBytes w.inp
  let ns := upTo w.k (curveLoadLimit c)
  let alg := fun (a : Nat) => good (leBytes 2 a) ns
  if c.len < 8 ∨ 80 < c.len ∨ w.inp.length ≠ 4 + 6 * c.len then (d, early stBadLength 0x0202)
  else if field w.inp 2 2 ≠ 0 ∨ c.cofactor < 1 ∨ 8 < c.cofactor then (d, early stMalformed 0x0401)
  else match c.reject with
  | some code => (d, bad stCurveRejected ns code)
  | none =>
    let cs := d.curves w.s
    match cs.find? fun e => e.2.nums == c.nums with
    | some e => (d, alg (0x2C0 + e.1))
    | none =>
      match (List.range 7).find? fun i => namedCurve (0x201 + i) == c.nums with
      | some i => (d, alg (0x201 + i))
      | none =>
        match (List.range 16).find? fun i => !(cs.any fun e => e.1 == i) with
        | none => (d, bad stStoreFull ns 0x0303)
        | some i =>
          let d := d.modJob n fun y => { y with tail := { y.tail with room := 0 } }
          (d.storeEntry (d.holders w.s) (d.keadeEntry 2 (some w.s) (curveIndex i) w.x.opcode (.curve c)), alg (0x2C0 + i))

/-! ## Wrapped keys (05:R133, R134, R399) -/

/-- Limit of a wrap: 40 µs, or 60 µs in an envelope, and 1 µs for each KiB of P beyond the first. -/
def wrapLimit (envelope : Bool) (p : Nat) : Nat :=
  (if envelope then 60000 else 40000) + ((p + 1023) / 1024 - 1) * 1000

/-- What the AES key wrap of some bytes takes at least, on an AES core: 32 + 6m × 10, 12 or 14 cycles for m semiblocks and the
key's size (07:Table 7.4). -/
def kwCost (key p : Nat) : Nat := engNs (32 + 6 * ((p + 7) / 8) * (6 + key / 4))

/-- The time of a wrap: between the cost of its AES key wrap and its limit, a free number (log 14). -/
def wrapNs (k : Nat) (envelope : Bool) (key p : Nat) : Nat :=
  let low := min (kwCost key p) (wrapLimit envelope p)
  low + upTo k (wrapLimit envelope p - low)

/-- The key that wraps P in an envelope. -/
def envelopeKey (z ct : List Byte) : List Byte := hkdf 2 true [] z (ascii "UJWRAP1" ++ ct) 32

/-- KEY_EXPORT_WRAPPED. -/
def Work.exportKey (w : Work) : Result :=
  match w.a, w.b with
  | some a, some b =>
    let p := leBytes 8 (tHeld a.template).toNat ++ a.priv
    let n := 8 * ((p.length + 7) / 8) + 8
    if w.x.p 0 1 = 0 then
      good (slice (Config.kwp b.priv p) 0 n) (wrapNs w.k false b.priv.length p.length)
    else
      let (ct, z) := encaps (tAlg b.template) b.pub (w.random 0 32)
      good (ct ++ slice (Config.kwp (envelopeKey z ct) p) 0 n) (wrapNs w.k true 32 p.length)
  | _, _ => early stBadHandle 1

/-- The template of an imported key: usage in both, exportable in both, never exportable in either, the rest from KEY_B. -/
def mergeTemplate (inner outer : W64) : W64 :=
  let flag := fun (i : Nat) (b : Bool) => if b then (1#64 <<< i) else 0
  (outer &&& 0x00FF_FFFC_0000_FFFF) ||| (inner &&& outer &&& 0xFFFF_0000) |||
    flag 32 (tExportable inner && tExportable outer) ||| flag 33 (tNever inner || tNever outer)

/-- A private encoding is one of its ALG: of its length, in range, and for RSA and the lattice forms as its standard has it
(05:Table 5.4, R400). An RSA key has a modulus of 2,048 to 8,192 bits and the exponent 65,537. -/
def Dev.encodingOk (d : Dev) (s : Nat) (t : W64) (priv : List Byte) : Bool :=
  let a := tAlg t
  if isSymmetric a then priv.length == tLen t
  else if isCurve a then
    let n := (CurveNums.of (d.params s a)).n
    priv.length == d.ln s a && decide (1 ≤ beNat priv ∧ beNat priv < n)
  else if isRsa a then
    let (n, e, _) := Config.rsaParts priv
    decide (2048 ≤ bitLen n ∧ bitLen n ≤ 8192 ∧ e = 65537) && Config.privateOk a [] priv
  else if isKem a || isMldsa a then Config.privateOk a [] priv
  else priv.length == d.privLen s a 0 0

/-- A private encoding is the seed of its ALG (05:Table 5.4): of ML-KEM 64 bytes, of ML-DSA 32. -/
def isSeedForm (a : Nat) (priv : List Byte) : Bool := (isKem a && priv.length == 64) || (isMldsa a && priv.length == 32)

/-- Limit of an import, beside that of its wrap: the engine time of a seed's expansion, 1 ms for RSA (05:R400). -/
def Work.importExtra (w : Work) (a : Nat) (priv : List Byte) : Nat :=
  if isRsa a then upTo (w.k + 7) 1000000 else if isSeedForm a priv then w.makeNs a else 0

/-- KEY_IMPORT_WRAPPED: P does not authenticate, 0x0106; its ALG, or its private encoding, does not suit the template,
0x0102; the merged template is invalid, 0x0104 (log 27). -/
def Work.importKey (w : Work) : Result :=
  let envelope := w.x.p 0 1 == 1
  match w.a with
  | none => early stBadHandle 1
  | some a =>
    let p :=
      if envelope then
        let n := ctLen (tAlg a.template)
        let ct := slice w.inp 0 n
        Config.kwpOpen (envelopeKey (decaps (tAlg a.template) a.priv ct) ct) (w.inp.drop n)
      else Config.kwpOpen a.priv w.inp
    let ns := fun (n : Nat) => wrapNs w.k envelope (if envelope then 32 else a.priv.length) n
    let fail := fun (code : Nat) => bad stKeyPolicy (ns w.inp.length) code
    match p with
    | none => fail 0x0106
    | some p =>
      let t := mergeTemplate (BitVec.ofNat 64 (field p 0 8)) w.x.keyB
      let priv := p.drop 8
      if p.length < 8 ∨ tAlg (BitVec.ofNat 64 (field p 0 8)) ≠ tAlg w.x.keyB then fail 0x0102
      else if !templateOk t false then fail 0x0104
      else if !w.d.encodingOk w.s t priv then fail 0x0102
      else
        let k := w.d.keyOf w.s t priv
        { good k.pub (ns p.length + w.importExtra (tAlg t) priv) with key := some k }

/-! ## Destruction (05:R124, R131, 08:R210) -/

/-- A key of the seam, resident or cached, uses a loaded curve. -/
def Dev.curveUsed (d : Dev) (s a : Nat) : Bool :=
  let x := d.ridge (d.homeOf s)
  (x.store.any fun e => e.kind == 1 && e.owner == some s && tAlg e.template == a) ||
    x.cache.any fun c => c.seam == s && tAlg c.key.template == a

/-- KEY_DESTROY: a key has left at the grant; a curve is unloaded unless a key uses it. A slot that holds no curve is
refused as an ALG that does not suit (log 27). -/
def Work.destroy (d : Dev) (w : Work) : Dev × Result :=
  let a := w.x.param.toNat
  let ns := upTo w.k (3000 + 200 * hops (d.homeOf w.s) (d.mirrorOf w.s))
  if a = 0 then (d, good [] ns)
  else if (d.curve w.s (a - 0x2C0)).isNone then (d, bad stKeyPolicy ns 0x0102)
  else if d.curveUsed w.s a then (d, bad stKeyPolicy ns 0x0107)
  else (d.eraseEntries fun e => e.kind == 2 && e.owner == some w.s && e.index == curveIndex (a - 0x2C0), good [] ns)

/-! ## Attestation (08:R206 to R209) -/

/-- A TLV item. -/
def tlv (tag : Nat) (v : List Byte) : List Byte := leBytes 2 tag ++ leBytes 2 v.length ++ v

/-- The Keade version of the active image. -/
def Dev.version (d : Dev) : BitVec 32 := ((d.fw.slot d.fw.active).map (·.version)).getD 0

/-- Items that every form carries. -/
def Dev.commonItems (d : Dev) (nonce : List Byte) : List Byte :=
  let name := ascii ("UJ840-" ++ toString d.fuses.ridges)
  tlv 1 d.serial ++ tlv 2 (slice name 0 8) ++ tlv 3 (leBytes 4 d.fuses.stepping.toNat) ++ tlv 4 (leBytes 4 d.version.toNat) ++
    tlv 5 (leBytes 48 (d.ridge 0).world.meas.toNat) ++ tlv 6 [d.mode.val.setWidth 8] ++ tlv 7 (leBytes 8 d.clock) ++ tlv 8 nonce

/-- The signature of DIK-EC over SHA-384, and the pure ML-DSA-65 signature of DIK-ML, from a draw. -/
def Dev.dikSign (d : Dev) (k : Nat) (m : List Byte) : List Byte × List Byte :=
  (slice (Config.sign 0x202 (namedCurve 0x202) (beBytes 48 d.dikEc) (variant 2 []) m (randomBytes k 48)) 0 96,
   slice (Config.sign 0x412 [] d.dikMl (variant 0 []) m (randomBytes k 32)) 0 3309)

/-- A signed record: the header with its final length, the items, the chain, and both signatures over all before them. -/
def Dev.record (d : Dev) (form k : Nat) (items : List Byte) : List Byte :=
  let items := items ++ tlv 0x30 Config.dikChain
  let total := 16 + items.length + 100 + 3313
  let head := ascii "UJAT" ++ leBytes 2 1 ++ leBytes 2 form ++ leBytes 4 total ++ [0, 0, 0, 0]
  let (ec, ml) := d.dikSign k (head ++ items)
  head ++ items ++ tlv 0x31 ec ++ tlv 0x32 ml

/-- Items of form 0: the key in KEY_A. -/
def Dev.keyItems (d : Dev) (s : Nat) (k : KeyMat) : List Byte :=
  let e := (d.seam s).entry
  let bit := fun (b : Bool) (v : Nat) => if b then v else 0
  tlv 0x10 (leBytes 2 s) ++ tlv 0x11 (leBytes 48 e.ownerDigest.val.toNat) ++
    tlv 0x12 ([if e.migAllow then 1 else 0] ++ leBytes 4 e.migFloor.toNat) ++ tlv 0x13 (leBytes 8 (tHeld k.template).toNat) ++
    tlv 0x14 [BitVec.ofNat 8 (bit k.genInside 1 + bit k.cached 2)] ++ tlv 0x15 (leBytes 2 k.origin.toNat) ++
    tlv 0x16 (leBytes 8 k.created) ++
    if isSymmetric (tAlg k.template) then tlv 0x18 (kmac256 k.priv [] 16 (ascii "UJ840KCV")) else tlv 0x17 (sha384 k.pub)

/-- Limit of a record: a fixed part, and 10 µs for each iteration of the DIK-ML signature beyond the 20th, a free number
(05:R400). -/
def attestLimit (k fixed : Nat) : Nat := fixed + 10000 * (Config.freeNat k + 1 - 20)

/-- KEY_ATTEST, form 0. -/
def Work.provenance (w : Work) : Result :=
  match w.a with
  | some k => good (w.d.record 0 w.k (w.d.commonItems w.inp ++ w.d.keyItems w.s k)) (upTo w.k (attestLimit w.k 2000000))
  | none => early stBadHandle 1

/-- KEY_ATTEST, form 1. -/
def Work.identity (w : Work) : Result :=
  good (w.d.record 1 w.k (w.d.commonItems w.inp)) (upTo w.k (attestLimit w.k 2000000))

/-! ## Blobs (08:R203, R204) -/

/-- The seam's next load number is used up: 1 to 0x7FFFFF, then 1 again. -/
def Dev.nextLoad (d : Dev) (s : Nat) : Dev :=
  d.modEntries (fun e => e.kind == 5 && e.owner == some s) fun e =>
    match e.payload with
    | .blobKey a b c n w => { e with payload := if n = 0x7FFFFF then .blobKey a b c 1 true else .blobKey a b c (n + 1) w }
    | _ => e

/-- The body of a blob of the seam that authenticates. -/
def Dev.openBlob (d : Dev) (s : Nat) (b : List Byte) : Option (List Byte) :=
  match d.blobKey s with
  | none => none
  | some (bk, bkid, epoch, _, _) =>
    if slice b 0 4 == ascii "UJKB" && field b 4 2 == 1 && field b 6 2 == 0 && slice b 8 8 == slice bkid 0 8 &&
        field b 16 2 == epoch.toNat && field b 33 3 == 0 && bitsOf (field b 32 1) 1 7 == 0 then
      Config.gcmDec (bwk bk bkid epoch) (slice b 36 12) (b.take 48) (b.drop 48)
    else none

/-- KEY_LOAD_BLOB. CREATED of the cached key is the time of the load (log 27). -/
def Dev.loadBlob (d : Dev) (j : Nat) (w : Work) : Dev × Result :=
  let b := w.inp
  let body := field b 20 4
  let ns := upTo w.k (4000 + ((body + 1023) / 1024 - 1) * 500)
  if b.length ≠ 64 + body then (d, early stBadLength 0x0202)
  else match d.openBlob w.s b with
  | none => (d, bad stKeyPolicy ns 0x0106)
  | some m =>
    let t : W64 := BitVec.ofNat 64 (field b 24 8)
    let a := tAlg t
    if isLoadedCurve a && (d.curve w.s (a - 0x2C0)).isNone then (d, bad stKeyPolicy ns 0x0102)
    else
      let n := if isRsa a then m.length else m.length - d.pubLen w.s a 0
      let priv := m.take n
      let pub := if isRsa a then d.publicPart w.s a priv else m.drop n
      let k : KeyMat := ⟨t, BitVec.ofNat 16 (field b 18 2), (field b 32 1) % 2 == 1, true, d.clock, priv, pub⟩
      match d.blobKey w.s with
      | none => (d, bad stKeyPolicy ns 0x0106)
      | some (_, _, _, next, _) =>
        match d.loadCache w.s next k with
        | none => (d, bad stStoreFull ns 0x0302)
        | some d =>
          let h := d.handle w.s true next 0
          ((d.nextLoad w.s).modJob j fun y => { y with tail := { y.tail with handle := h } }, good [] ns)

/-! ## Commands -/

/-- DEEP_SERVICE_START (05:R400). -/
def execDeepServiceStart (ridge : Nat) (blocks : BitVec 33) (s : State) : Host.Outcome State Fault Refusal :=
  s.upd fun d => d.startService ridge blocks

/-- CURVE_LOAD (05:R131, 06:R148, R149). -/
def execCurveLoad (ridge job : Nat) (s : State) : Host.Outcome State Fault Refusal :=
  s.upd fun d => d.service ridge job 0x0210 (Work.curveLoad job)

/-- KEY_IMPORT_WRAPPED (05:R133, R399). -/
def execKeyImportWrapped (ridge job : Nat) (s : State) : Host.Outcome State Fault Refusal :=
  s.upd fun d => d.service ridge job 0x0802 fun d w => (d, w.importKey)

/-- KEY_EXPORT_WRAPPED (05:R133, R134). -/
def execKeyExportWrapped (ridge job : Nat) (s : State) : Host.Outcome State Fault Refusal :=
  s.upd fun d => d.service ridge job 0x0803 fun d w => (d, w.exportKey)

/-- KEY_DESTROY (05:R124, R131, 08:R210). -/
def execKeyDestroy (ridge job : Nat) (s : State) : Host.Outcome State Fault Refusal :=
  s.upd fun d => d.service ridge job 0x0804 Work.destroy

/-- KEY_ATTEST form 0 on a seam queue (05:R136, 08:R206). -/
def execKeyAttestProvenance (ridge job : Nat) (s : State) : Host.Outcome State Fault Refusal := s.upd fun d =>
  match d.job? job with
  | some j => if j.job.desc.p 0 2 = 0 then d.service ridge job 0x0805 fun d w => (d, w.provenance) else d
  | none => d

/-- KEY_LOAD_BLOB (08:R203, R204). -/
def execKeyLoadBlob (ridge job : Nat) (s : State) : Host.Outcome State Fault Refusal :=
  s.upd fun d => d.service ridge job 0x0806 (fun d w => d.loadBlob job w)

end Sys2Proof.Machine
end

