-- ==== Sys2Proof/Machine/Management.lean ====
section
/-! DEFINITION. The management queue: its registers, the start of its commands, what each mode accepts; and the commands
MARK, SELFTEST, FW_STAGE, FW_ACTIVATE and KEY_ATTEST (04:R112 to R114, R401, 02:R42, R51 to R53, 05:R136, 08:R209,
14:R333, 15:R345). -/

namespace Sys2Proof.Machine

/-! ## Registers (04:Table 4.8, R113) -/

/-- Keade on the boss ridge runs MQ commands; in boot-ROM hold the boot ROM does (02:R50). -/
def Dev.mqUp (d : Dev) : Bool :=
  d.pins.mainPower && !d.pins.cut && !d.pins.inVigil &&
    (d.boot.romHold || (d.boot.step == 10 && d.keadeRuns d.boss && (d.ridge d.boss).world.deepUp))

/-- An MQ command for Keade is a Deep interrupt: it wakes a ridge that sleeps (11:R266, 16:R357). -/
def Dev.wakeBoss (d : Dev) : Dev :=
  if d.boot.step = 10 then d.modRidge d.boss fun x => if x.power = 0 ∧ x.inService then { x with power := 1 } else x else d

/-- An MQ tail write: recorded, or ignored and logged under 04:R87, event 40 with bit 3: a disabled MQ takes none. -/
def Dev.mqTail (d : Dev) (v : BitVec 32) : Dev :=
  let q := d.mq
  let n := (v - q.head).toNat
  if q.state ≠ 0 ∧ n ≤ 2 ^ q.sqLog2.toNat ∧ (q.tail - q.head).toNat ≤ n then ((d.modMq fun q => { q with tail := v }).wakeBoss).mqFetch
  else d.pkgEvent 40 8

/-- An MQ CQ head write: completions that wait for a slot are written. -/
def Dev.mqHead (d : Dev) (v : BitVec 32) : Dev :=
  let q := d.mq
  if (v - q.cqHead).toNat ≤ (q.write - q.cqHead).toNat then
    (d.modMq fun q => { q with cqHead := v }).mqDrain d.mq.held.length
  else d.pkgEvent 40 12

/-- ENABLE rises: the four indices return to 0, held completions are written first, and fetching starts. -/
def Dev.mqRise (d : Dev) : Dev :=
  let d := d.modMq fun q => { q with
    enable := true, state := 1, stalled := false, tail := 0, cqHead := 0, head := 0, next := 0, write := 0, reading := false }
  (d.mqDrain d.mq.held.length).mqFetch

/-- A write of MQ.CTRL. Sizes and LINK change only while ENABLE is 0; a size outside 4 to 12 is not taken and logged
(log 28). -/
def Dev.mqCtrl (d : Dev) (l : Lk) (v : W64) : Dev :=
  let sq := v.extractLsb' 0 4
  let cq := v.extractLsb' 4 4
  let was := d.mq.enable
  let ok := decide (4 ≤ sq.toNat ∧ sq.toNat ≤ 12 ∧ 4 ≤ cq.toNat ∧ cq.toNat ≤ 12)
  let d := d.modMq fun q => { q with vector := v.extractLsb' 16 6 }
  let d := if was then d
    else
      let d := d.modMq fun q => { q with link := v.getLsbD 8 }
      if ok then d.modMq fun q => { q with sqLog2 := sq, cqLog2 := cq } else d.ignoredWrite l 0x20010
  if v.getLsbD 9 then (if was then d else d.mqRise)
  else d.modMq fun q => { q with enable := false, state := 0, reading := false }

/-! ## What a mode accepts (02:R42, R50, Tables 2.4 and 2.5, 05:R136, 03:R403) -/

/-- ORDER_OPEN, ORDER_TOKEN, ORDER_CANCEL. -/
def orderOp (op : Nat) : Bool := decide (0x8020 ≤ op ∧ op ≤ 0x8022)

/-- A range command. -/
def rangeOp (op : Nat) : Bool := decide (0x8050 ≤ op ∧ op ≤ 0x8052)

/-- A seam command. -/
def seamOp (op : Nat) : Bool := decide (0x8001 ≤ op ∧ op ≤ 0x8009)

/-- The commands that wait (04:R114). -/
def waitsOp (op : Nat) : Bool := [0x8002, 0x8006, 0x8011, 0x8050].contains op

/-- The seam that a seam or queue command names. -/
def Desc.target? (x : Desc) : Option Nat :=
  if seamOp x.op || decide (0x8010 ≤ x.op ∧ x.op ≤ 0x8012) then some (x.p 0 13) else none

/-- The live mode accepts the command, in the direction or form asked. -/
def Dev.listed (d : Dev) (x : Desc) : Bool :=
  let op := x.op
  let form := if op = 0x0805 then x.p 0 2 else 0
  if d.boot.romHold then op == 0x8040 && x.p 0 1 == 0
  else match d.live with
  | .blank => orderOp op || op == 0x8030 || op == 0x8031 || form == 1
  | .commission => orderOp op || op == 0x8030 || op == 0x8031 || op == 0x8040 || form == 1
  | .service =>
    (if op = 0x8050 then !x.keyB.getLsbD 0 else decide (0x8000 ≤ op) && op != 0x8051 && op != 0x8052) || form == 1 || form == 2
  | .freeze =>
    orderOp op || op == 0x8030 || op == 0x8031 || form == 1 || form == 2 ||
      (rangeOp op && !d.exported && (op != 0x8050 || x.keyB.getLsbD 0))
  | .locked => orderOp op || op == 0x8030 || form == 1
  | .zeroized => op == 0x8030
  | _ => false

/-- The seam is in a state that the command accepts (03:R66 to R80). -/
def Dev.seamAccepts (d : Dev) (op s : Nat) : Bool :=
  let e := (d.seam s).entry
  match op with
  | 0x8001 | 0x8008 => e.state == .free
  | 0x8003 => e.state == .active || e.state == .faulted
  | 0x8006 => e.state == .active
  | 0x8007 => e.state == .frozen
  | 0x8009 => e.state == .frozen && !e.saved && d.linkUpFor s
  | _ => e.state != .free

/-- DETAIL of a command that the live mode does not accept (03:R403, 09:Table 9.5): 0 where no table gives a code (log 28). -/
def modeDetail (op : Nat) : Nat :=
  if rangeOp op then 0x000E else if seamOp op then 0x0001
  else if op = 0x8020 then 0x0020 else if orderOp op then 0x0024 else 0

/-- The refusal of 03:R403 step 2. -/
def Dev.modeRefusal (d : Dev) (x : Desc) : Option Verdict :=
  let op := x.op
  if !d.listed x then some (refuse stMode (modeDetail op))
  else if seamOp op && !d.seamAccepts op (x.p 0 13) then some (refuse stMode 0x0001)
  else none

/-! ## Starting (04:R114, R401) -/

/-- A command under way that holds back a later one: it waits, and both name one seam or either is a range command. -/
def MqCmd.holdsBack (a b : MqCmd) : Bool :=
  a.started && a.bad.isNone && waitsOp a.desc.op &&
    (rangeOp a.desc.op || (b.bad.isNone && (rangeOp b.desc.op || (b.desc.target?.isSome && a.desc.target? == b.desc.target?))))

/-- A fetched command may start: every earlier one has started and none holds it back; an order command never waits. R114 starts
commands in ring order and lets a command that waits hold back none but the ones it names; that a command held back also holds
back those after it in the ring, as none of them has its turn before it, is the model's choice (log 28). -/
def MqCmd.mayStart (before : List MqCmd) (c : MqCmd) : Bool :=
  (c.bad.isNone && orderOp c.desc.op) || before.all fun a => a.started && !a.holdsBack c

/-- The read of one of a command's buffers: none when empty or not used, outstanding, or not issuable. -/
def Dev.mqRead (d : Dev) (used : Bool) (len : BitVec 32) : ReadState :=
  if !used || len == 0 then .none
  else if (d.link (lkOf d.mq.link)).carries then .waiting else .failed stReadFault

/-- The MQ SQ head: one past the last command of the ring before which every one has started (log 28). -/
def MQ.newHead (q : MQ) : BitVec 32 :=
  match q.cmds.find? fun c => !c.started && decide ((c.index - q.head).toNat < (q.next - q.head).toNat) with
  | some c => c.index
  | none => q.next

/-- The bytes of a token come with the command: what the mode says of it is answered, and logged, once they have been read. -/
def Desc.carriesToken (x : Desc) : Bool := x.op == 0x8021 && x.p 0 1 == 0

/-- Keade starts a command: one that failed a fetch check, or that the mode does not accept, completes; another's reads are
issued. Then the ring is read further. -/
def Dev.mqStart (d : Dev) (n : Nat) : Dev :=
  match d.mqCmd n with
  | none => d
  | some c =>
    let before := d.mq.cmds.takeWhile fun x => !(x.named n)
    if d.mqUp && !c.started && c.mayStart before then
      let x := c.desc
      let inp := d.mqRead x.usesIn x.inLen
      let aux := d.mqRead x.usesAux x.auxLen
      let d := d.modCmd n fun c => { c with started := true }
      let d := d.modMq fun q => { q with head := if q.enable then q.newHead else q.head }
      let d := match c.bad, if x.carriesToken then none else d.modeRefusal x with
        | some v, _ => d.mqComplete n v
        | none, some v => d.mqComplete n v
        | none, none =>
          match inp, aux with
          | .failed st, _ => d.mqComplete n (refuse st 0x21)
          | _, .failed st => d.mqComplete n (refuse st 0x23)
          | _, _ => d.modCmd n fun c => { c with inp := inp, aux := aux }
      d.mqFetch
    else d

/-- The order of a RANGE_FREEZE. -/
def Desc.orderNum (x : Desc) : Nat := x.keyA.toNat % 2 ^ 32

/-- Event 45: a token counted or refused (09:R225). -/
def Dev.tokenEvent (d : Dev) (num : Nat) (b : List Byte) (refused : Bool) : Dev :=
  d.pkgEvent 45 (num % 2 ^ 24 + field b 1 1 % 16 * 2 ^ 24 + field b 0 1 % 4 * 2 ^ 28 + if refused then 2 ^ 30 else 0)
    ((d.quorum.orders.find? fun o => o.num == num).bind fun o => if kindSeam o.kind then some o.seam else none)

/-- A started command of an opcode whose reads have returned is carried out; the mode and the seam's state are judged as
they stand (03:R403). -/
def Dev.command (d : Dev) (n op : Nat) (f : Dev → Desc → List Byte → List Byte → Dev) : Dev :=
  match d.mqCmd n with
  | none => d
  | some c =>
    if c.started && !c.waiting && c.desc.op == op && d.mqUp then
      match c.inp.bytes?, c.aux.bytes? with
      | some i, some a =>
        match d.modeRefusal c.desc with
        | some v => (if c.desc.carriesToken then d.tokenEvent c.desc.orderNum i true else d).mqComplete n v
        | none => f d c.desc i a
      | _, _ => d
    else d

/-- A command waits for a later step. -/
def Dev.cmdWaits (d : Dev) (n : Nat) : Dev := d.modCmd n fun c => { c with waiting := true }

/-- A command completes with DONE, its output when it has room for it; a longer one is refused with BAD_LENGTH and the
length needed (log 28). -/
def Dev.cmdDone (d : Dev) (n : Nat) (x : Desc) (out : List Byte := []) (detail : Nat := 0) : Dev :=
  if x.outLen.toNat < out.length then d.mqComplete n ⟨stBadLength, 0x0203, BitVec.ofNat 32 out.length⟩
  else d.mqComplete n ⟨stDone, BitVec.ofNat 32 detail, 0⟩ out

/-! ## Authorising orders (09:R217, 03:R403) -/

/-- The order is ARMED, of the kind, of the seam, and its body is the one that the command matches. -/
def Dev.authorised (d : Dev) (num kind seam : Nat) (body : List Byte) : Bool :=
  d.quorum.orders.any fun o =>
    o.num == num && o.state == .armed && o.kind == kind && o.seam == seam && o.body == body

/-! ### Conflicts (09:R226) -/

/-- The PENDING and ARMED orders. -/
def Dev.openOrders (d : Dev) : List Order := d.quorum.orders.filter Order.isOpen

/-- An order of a number. -/
def Dev.order (d : Dev) (num : Nat) : Option Order := d.quorum.orders.find? fun o => o.num == num

/-- A Range-owner order: SEAM_RECUSTODY needs the Range owner's quorum too. -/
def Order.isRange (o : Order) : Bool := decide (o.kind < 0x20)

/-- An order of one seam. -/
def Order.isSeam (o : Order) : Bool := kindSeam o.kind

/-- The source that a FUSE_OFF or CLASS_LOWER names. -/
def Order.source (o : Order) : Nat := field o.body 0 2

/-- Two sources are one: the same ID, or for fuses the same fuse. -/
def sameSource (a b : Order) : Bool :=
  a.source == b.source || ((a.kind == 6 || b.kind == 6) && (fuseOf a.source).isSome && fuseOf a.source == fuseOf b.source)

/-- Two orders of one kind have the same target. -/
def sameTarget (a b : Order) : Bool :=
  match a.kind with
  | 6 | 7 => sameSource a b
  | 8 => field a.body 0 1 == field b.body 0 1
  | 0x24 => a.seam == b.seam && a.body == b.body
  | 9 | 0x0A | 0x0B | 0x0C | 0x0D | 0x0E => true
  | k => kindSeam k && a.seam == b.seam

/-- Two kinds stand against each other, in either order. -/
def versus (a b : Order) (p : Order → Bool) (q : Order → Bool) : Bool := (p a && q b) || (p b && q a)

/-- Two open orders conflict. -/
def conflicts (a b : Order) : Bool :=
  let is := fun (ks : List Nat) (o : Order) => ks.contains o.kind
  versus a b (is [4]) (is [5]) ||
  (a.kind != b.kind && is [2, 3, 5] a && is [2, 3, 5] b) ||
  versus a b (fun o => o.kind == 0x0B && o.release) (is [0x0C, 0x0D, 5]) ||
  versus a b (is [0x0C]) (is [0x0D]) ||
  (a.kind == b.kind && sameTarget a b) ||
  (versus a b (is [6]) (is [7]) && sameSource a b) ||
  versus a b (is [0x0E]) Order.isRange ||
  (versus a b (is [0x0F, 0x20]) Order.isSeam && a.seam == b.seam)

/-- Every order that conflicts with one becomes SUPERSEDED. -/
def Dev.supersede (d : Dev) (o : Order) : Dev :=
  ((d.openOrders.filter fun x => x.num != o.num && conflicts o x).map (·.num)).foldl (fun d n => d.setOrder n .superseded) d

/-- Its command has completed with DONE: the order is consumed, and the orders opened since it armed that conflict with it are
superseded in the same step (09:R217, R226). -/
def Dev.consumeOrder (d : Dev) (num : Nat) : Dev :=
  match d.order num with
  | some o => ((d.stamp fun t c => { t with order := c }).setOrder num .done).supersede o
  | none => d

/-- No matching order authorises the command. -/
def quorumMissing : Verdict := refuse stQuorum 0

/-! ## MARK (15:R345) -/

/-- The barrier goes to every in-service ridge. -/
def Dev.startMark (d : Dev) (n : Nat) : Dev :=
  let m := (d.ridgeNums.filter d.serves).foldl (fun (m : BitVec 8) r => m ||| (1#8 <<< r)) 0
  if d.mq.barrier.isSome then d
  else (d.cmdWaits n).modMq fun q => { q with barrier := some (m, n) }

/-! ## SELFTEST (02:R53) -/

/-- The engine under test takes no further job. -/
def Dev.startTest (d : Dev) (n : Nat) (x : Desc) : Dev :=
  let b := x.p 0 6
  let r := x.p 8 3
  if !(d.serves r) || decide (30 ≤ b) then d.mqComplete n (refuse stMalformed 0x0035)
  else ((d.modEngine r b fun e => { e with testing := true }).cmdWaits n).modMq fun q =>
    { q with selftest := q.selftest ++ [(n, r, b)] }

/-- The engine is free: its tests have run. One that fails leaves service, event +16 cause 2; one that passes is wiped, and
returns to service when a wipe read-back had removed it (06:R154). Event 51. -/
def Dev.endTest (d : Dev) (r b : Nat) (pass : Bool) : Dev :=
  match d.mq.selftest.find? fun t => t.2.1 == r && t.2.2 == b with
  | none => d
  | some t =>
    let e := (d.ridge r).engine b
    if e.running.isSome || e.slot.isSome || !d.mqUp then d
    else
      let detail := b + r * 256 + if pass then 0 else 65536
      let d := d.modMq fun q => { q with selftest := q.selftest.erase t }
      let d := if pass then d.modEngine r b fun e => { e.wiped with inService := e.inService || e.readback, readback := false }
        else d.removeEngine r b 2
      let d := d.modEngine r b fun e => { e with testing := d.mq.selftest.any fun t => t.2.1 == r && t.2.2 == b }
      (d.pkgEvent 51 detail).mqComplete t.1 ⟨stDone, BitVec.ofNat 32 detail, 0⟩

/-! ## FW_STAGE (02:R51) -/

/-- The signature length of a block's TYPE (10:R245). -/
def blockLen (typ : Nat) : Option Nat := if typ = 1 then some 96 else if typ = 2 then some 3309 else none

/-- A signature block at an offset: TYPE, LEN, and whether it has its form and fits. -/
structure SigBlock where
  typ : Nat
  len : Nat
  sig : List Byte

/-- The block at an offset. -/
def SigBlock.at' (b : List Byte) (o : Nat) : SigBlock :=
  ⟨field b o 1, field b (o + 2) 2, slice b (o + 4) (field b (o + 2) 2)⟩

/-- A block verifies under a key record over a signed part. -/
def SigBlock.verifies (s : SigBlock) (k : KeyRecord) (part : List Byte) : Bool := k.typ.toNat == s.typ && k.verifies part s.sig

/-- The blocks of a Keade image: Askune's, and the countersignature when more bytes follow; none when the lengths disagree
with AUX_LEN or a TYPE is unknown. -/
def keadeBlocks (b : List Byte) : Option (SigBlock × Option SigBlock) :=
  let o := signedLen b
  let s := SigBlock.at' b o
  let p := o + 4 + s.len
  if !headerForm 1 b || (blockLen s.typ).isNone then none
  else if b.length = p then some (s, none)
  else
    let c := SigBlock.at' b p
    if (blockLen c.typ).isSome && b.length == p + 4 + c.len then some (s, some c) else none

/-- A change to a slot. -/
def Dev.setSlot (d : Dev) (n : Nat) (i : Option FwImage) : Dev :=
  d.modFw fun f => if n = 0 then { f with slot0 := i } else { f with slot1 := i }

/-- 4 MiB. -/
def maxImage : Nat := 4 * mib

/-- The boot ROM verifies the countersignature of the image that it starts (02:R45). -/
def Dev.counterNeeded (d : Dev) : Bool :=
  match d.live with
  | .service | .freeze | .locked => true
  | .commission => ((d.fw.slot d.fw.active).map (·.counter)).getD false
  | _ => false

/-- Form 0: the first refusal, or the image as staged. The boot ROM ignores a countersignature that it does not verify (R45). In
boot-ROM hold every refusal is MODE_REFUSED (02:R50). -/
def Dev.stageImage (d : Dev) (b : List Byte) : Except Verdict FwImage :=
  let no := fun (st : BitVec 16) (code : Nat) => (.error (refuse (if d.boot.romHold then stMode else st) code) : Except Verdict FwImage)
  if maxImage < b.length then no stBadLength 0x0034
  else match keadeBlocks b with
  | none => no stMalformed 0x0030
  | some (s, c) =>
    let part := b.take (signedLen b)
    let bad := fun (x : SigBlock) => blockLen x.typ != some x.len
    let counter := match c, d.csKey with
      | some x, some k => if d.boot.romHold && !d.counterNeeded then none else some (x.verifies k part)
      | _, _ => none
    if bad s || (c.map bad).getD false then no stBadLength 0x0034
    else if !Config.askuneSigned part (b.drop (signedLen b) |>.take (4 + s.len)) then no stKeyPolicy 0x0031
    else if counter == some false then no stKeyPolicy 0x0032
    else if !d.boot.romHold && decide ((Config.imageVersion part).toNat < d.version.toNat) then no stMode 0x0033
    else .ok ⟨Config.imageVersion part, sha384W part, counter == some true, part, Config.imageSlots part⟩

/-- The slot that is not active. -/
def Firmware.other (f : Firmware) : Nat := if f.active = 0 then 1 else 0

/-- Form 0: the image goes into the slot that is not active, event 49. In boot-ROM hold the sequence restarts from step 5,
when the countersignature is not required or is there (02:R45, R50). -/
def Dev.fwStage (d : Dev) (n : Nat) (b : List Byte) : Dev :=
  match d.stageImage b with
  | .error v => d.mqComplete n v
  | .ok i =>
    if d.boot.romHold && d.counterNeeded && !i.counter then d.mqComplete n (refuse stMode 0x0032)
    else
      let slot := d.fw.other
      let hold := d.boot.romHold
      let d := (d.setSlot slot (some i)).modFw fun f => { f with staged := true }
      let d := (d.pkgEvent 49 (slot * 2)).mqComplete n done
      if hold then d.modBoot fun x => { x with romHold := false, slot := slot } else d

/-- Form 1: a countersignature over the image of a slot (02:R51). -/
def Dev.fwCounter (d : Dev) (n : Nat) (x : Desc) (b : List Byte) : Dev :=
  let slot := x.keyB.toNat % 2
  let s := SigBlock.at' b 0
  let no := fun (st : BitVec 16) (code : Nat) => d.mqComplete n (refuse st code)
  if field b 1 1 ≠ 0 ∨ (blockLen s.typ).isNone ∨ b.length ≠ 4 + s.len then no stMalformed 0x0030
  else if blockLen s.typ ≠ some s.len ∨ maxImage < b.length then no stBadLength 0x0034
  else match d.csKey, d.fw.slot slot with
  | some k, some i =>
    if s.verifies k i.part then (d.setSlot slot (some { i with counter := true })).mqComplete n done
    else no stKeyPolicy 0x0032
  | _, _ => no stMode 0x0037

/-! ## FW_ACTIVATE (02:R52, 14:R333) -/

/-- The image staged. -/
def Dev.staged (d : Dev) : Option FwImage := if d.fw.staged then d.fw.slot d.fw.other else none

/-- The body that an order of kind 0x0A must have for the staged image. -/
def Dev.stagedBody (d : Dev) : Option (List Byte) :=
  d.staged.map fun i => [BitVec.ofNat 8 d.fw.other, 0, 0, 0] ++ leBytes 48 i.meas.toNat

/-- FW_ACTIVATE starts. -/
def Dev.activateStart (d : Dev) (n : Nat) (x : Desc) : Dev :=
  let num := x.keyA.toNat % 2 ^ 32
  match d.staged, d.stagedBody with
  | some i, some body =>
    if !d.authorised num 0x0A 0 body then d.mqComplete n quorumMissing
    else if !i.counter then d.mqComplete n (refuse stMode 0x0036)
    else if d.mq.activate.isSome then d
    else (d.cmdWaits n).modMq fun q => { q with activate := some ⟨n, num, 8, 0, false⟩ }
  | _, _ => d.mqComplete n quorumMissing

/-- The next ridge to restart: the highest in-service one below the last. -/
def Dev.nextActivated (d : Dev) (a : Activation) : Option Nat :=
  (d.ridgeNums.filter fun r => d.serves r && decide (r < a.last)).getLast?

/-- The activation has reached every ridge: the staged slot is the active one, event 49, and the command completes. -/
def Dev.activateEnd (d : Dev) (a : Activation) : Dev :=
  let slot := d.fw.other
  let left := a.left.toNat
  let d := (d.modFw fun f => { f with active := slot, staged := false }).modMq fun q => { q with activate := none }
  let d := d.pkgEvent 49 (1 + slot * 2 + left * 256)
  (d.consumeOrder a.order).mqComplete a.cmd ⟨stDone, BitVec.ofNat 32 left, 0⟩

/-- The next ridge runs its Deep restart on the staged image; `pass`: it measures as expected and its signatures verify. A
failing measurement is a free value. On the first ridge a failure stops the activation, and the ridge runs its previous
image again; on a later one the ridge leaves service (log 28). -/
def Dev.activateRidge (d : Dev) (r : Nat) (pass : Bool) : Dev :=
  match d.mq.activate, d.staged with
  | some a, some i =>
    match d.nextActivated a with
    | none => d.activateEnd a
    | some r' =>
      if r' = r && d.keadeRuns r then
        let (k, d) := d.draw
        let old := (d.ridge r).world.expected
        let measured := if pass then i.meas else BitVec.ofNat 384 (leNat (randomBytes k 48))
        let d := (d.stopDeep r (some a.cmd)).modWorld r fun w => { w with expected := i.meas, restarts := satInc w.restarts }
        if pass then
          let a := { a with last := r, moved := true }
          let d := (d.remeasure r 6 measured true).modMq fun q => { q with activate := some a }
          if (d.nextActivated a).isNone then d.activateEnd a else d
        else if a.moved then
          let a := { a with last := r, left := a.left ||| (1#8 <<< r) }
          let d := (d.modMq fun q => { q with activate := some a }).remeasure r 6 measured false
          if (d.nextActivated a).isNone then d.activateEnd a else d
        else
          let same := measured == i.meas
          let d := d.addMLog r 6 (if same then 0 else 1) measured
          let d := if same then d else d.ridgeEvent r 49 0
          let d := (d.modWorld r fun w => { w with expected := old }).resumeDeep r
          (d.modMq fun q => { q with activate := none }).mqComplete a.cmd (refuse stMode 0)
      else d
  | _, _ => d

/-! ## KEY_ATTEST on the MQ (05:R136, 08:R206 to R209) -/

/-- Items of form 2. -/
def Dev.receiveItems (d : Dev) (id ek pt : List Byte) : List Byte :=
  tlv 0x20 id ++ tlv 0x21 ek ++ tlv 0x22 pt ++ tlv 0x23 (sha384 ((d.csKey.map KeyRecord.bytes).getD []))

/-- A receive key is destroyed. -/
def Dev.eraseReceive (d : Dev) (id : List Byte) : Dev :=
  d.eraseEntries fun e => match e.payload with
    | .receive i _ _ _ _ => i == id
    | _ => false

/-- Form 1: the identity record. -/
def Dev.attestIdentity (d : Dev) (n : Nat) (x : Desc) (nonce : List Byte) : Dev :=
  if x.p 0 2 = 1 && d.drawable d.boss .internal then
    let (k, d) := (d.generate d.boss false 1).draw
    d.cmdDone n x (d.record 1 k (d.commonItems nonce))
  else d

/-- Form 2: a receive key is drawn and stored under DSK on ridges 0 and 1, the oldest leaving when it is the 65th, and the record
is written. A store without room for it refuses as 08:R187 does (log 34). -/
def Dev.attestMigration (d : Dev) (n : Nat) (x : Desc) (nonce : List Byte) : Dev :=
  if x.p 0 2 = 2 && d.drawable d.boss .internal then
    let (k, d) := (d.generate d.boss false 1).draw
    let (k2, d) := d.draw
    let id := randomBytes k 16
    let dk := slice (Config.keygen 0x403 0 [] (randomBytes k2 64)) 0 64
    let ek := slice (Config.publicOf 0x403 [] dk) 0 1568
    let c := namedCurve 0x202
    let e := slice (Config.keygen 0x202 0 c (randomBytes (k2 + 1) 48)) 0 48
    let pt := slice (Config.publicOf 0x202 c e) 0 97
    let d := { d with draws := d.draws + 1 }
    let items := d.commonItems nonce ++ d.receiveItems id ek pt
    let d := match d.receiveKeys with
      | (old, _) :: _ => if 64 ≤ d.receiveKeys.length then d.eraseReceive old else d
      | [] => d
    let entry := d.keadeEntry 6 none (d.itemIndex 6 none) 0x0805 (.receive id dk ek e pt)
    if d.storeRoom d.deviceHolders entry.body none then
      (d.storeEntry d.deviceHolders entry).cmdDone n x (d.record 2 k items)
    else d.mqComplete n (refuse stStoreFull 0x0302)
  else d

/-! ## Commands -/

/-- MQ_SQ_TAIL_WRITE (04:R112, R401). -/
def execMqSqTailWrite (link : Lk) (value : W64) (s : State) : Host.Outcome State Fault Refusal :=
  s.upd fun d => if (d.link link).up then d.stampWrite.mqTail (value.setWidth 32) else d

/-- MQ_CQ_HEAD_WRITE (04:R112). -/
def execMqCqHeadWrite (link : Lk) (value : W64) (s : State) : Host.Outcome State Fault Refusal :=
  s.upd fun d => if (d.link link).up then d.stampWrite.mqHead (value.setWidth 32) else d

/-- MQ_ENABLE: a write of MQ.CTRL with ENABLE set (04:R113). -/
def execMqEnable (link : Lk) (value : W64) (s : State) : Host.Outcome State Fault Refusal :=
  s.upd fun d => if (d.link link).up && value.getLsbD 9 then d.stampWrite.mqCtrl link value else d

/-- MQ_DISABLE: a write of MQ.CTRL with ENABLE clear (04:R113). -/
def execMqDisable (link : Lk) (value : W64) (s : State) : Host.Outcome State Fault Refusal :=
  s.upd fun d => if (d.link link).up && !value.getLsbD 9 then d.stampWrite.mqCtrl link value else d

/-- MQ_COMMAND_START (04:R114, R401). -/
def execMqCommandStart (cmd : Nat) (s : State) : Host.Outcome State Fault Refusal := s.upd fun d => d.mqStart cmd

/-- MARK (15:R345). -/
def execMark (cmd : Nat) (s : State) : Host.Outcome State Fault Refusal :=
  s.upd fun d => d.command cmd 0x8030 fun d _ _ _ => d.startMark cmd

/-- MARK_BARRIER_ACK (15:R345). -/
def execMarkBarrierAck (ridge : Nat) (s : State) : Host.Outcome State Fault Refusal :=
  s.upd fun d => if d.serves ridge then d.barrierAck ridge else d

/-- SELFTEST (02:R53). -/
def execSelftest (cmd : Nat) (s : State) : Host.Outcome State Fault Refusal :=
  s.upd fun d => d.command cmd 0x8031 fun d x _ _ => d.startTest cmd x

/-- SELFTEST_ENGINE_FREE (02:R53). -/
def execSelftestEngineFree (ridge blk : Nat) (pass : Bool) (s : State) : Host.Outcome State Fault Refusal :=
  s.upd fun d => d.endTest ridge blk pass

/-- FW_STAGE, form 0 (02:R50, R51). -/
def execFwStageImage (cmd : Nat) (s : State) : Host.Outcome State Fault Refusal := s.upd fun d =>
  d.command cmd 0x8040 fun d x _ aux => if x.p 0 1 = 0 then d.fwStage cmd aux else d

/-- FW_STAGE, form 1 (02:R51). -/
def execFwStageCountersign (cmd : Nat) (s : State) : Host.Outcome State Fault Refusal := s.upd fun d =>
  d.command cmd 0x8040 fun d x _ aux => if x.p 0 1 = 1 then d.fwCounter cmd x aux else d

/-- FW_ACTIVATE (02:R52). -/
def execFwActivate (cmd : Nat) (s : State) : Host.Outcome State Fault Refusal :=
  s.upd fun d => d.command cmd 0x8041 fun d x _ _ => d.activateStart cmd x

/-- FW_ACTIVATE_RIDGE (14:R333). -/
def execFwActivateRidge (ridge : Nat) (pass : Bool) (s : State) : Host.Outcome State Fault Refusal :=
  s.upd fun d => d.activateRidge ridge pass

/-- KEY_ATTEST form 1, on a seam queue or on the MQ (05:R136, 08:R206). -/
def execKeyAttestIdentity (onMq : Bool) (ridge job : Nat) (s : State) : Host.Outcome State Fault Refusal := s.upd fun d =>
  if onMq then d.command job 0x0805 fun d x inp _ => d.attestIdentity job x inp
  else match d.job? job with
    | some j => if j.job.desc.p 0 2 = 1 then d.service ridge job 0x0805 fun d w => (d, w.identity) else d
    | none => d

/-- KEY_ATTEST form 2 (05:R136, 08:R209). -/
def execKeyAttestMigration (cmd : Nat) (s : State) : Host.Outcome State Fault Refusal :=
  s.upd fun d => d.command cmd 0x0805 fun d x inp _ => d.attestMigration cmd x inp

end Sys2Proof.Machine
end

