-- ==== Sys2Proof/Machine/Seams.lean ====
section
/-! DEFINITION. The seam and queue commands, and RANGE_FREEZE (03:R61 to R76, 04:R83 to R85, R110, R111, 02:R40, R41). -/

namespace Sys2Proof.Machine

/-! ## Blocks (03:R64, R65, R406) -/

/-- A check of a block's field: its offset, whether it holds, the code of its refusal. -/
abbrev FieldCheck := Nat × Bool × Nat

/-- The refusal of the first check that fails: MALFORMED, the code below the offset. -/
def blockFault (cs : List FieldCheck) : Option Verdict :=
  (cs.find? fun c => !c.2.1).map fun c => refuse stMalformed (c.2.2 + c.1 * 65536)

/-- Bytes that are zero. -/
def zeros (b : List Byte) (off n : Nat) : Bool := (slice b off n).all (· == 0)

/-- The PASID is bound to another seam on a link of the binding. -/
def Dev.pasidTaken (d : Dev) (s pasid links : Nat) : Bool :=
  d.usedSeams.any fun t =>
    let e := (d.seam t).entry
    t != s && e.pasidValid && e.pasid.toNat == pasid && Nat.land e.links.toNat links != 0

/-- HOME and MIRROR of a block, at offsets `o` and `o + 1`: 0xFF lets Keade choose. -/
def Dev.ridgeChecks (d : Dev) (b : List Byte) (o : Nat) : List FieldCheck :=
  let h := field b o 1
  let m := field b (o + 1) 1
  let ok := fun (r : Nat) => r == 0xFF || d.serves r
  [(o, h == 0xFF || decide (h < 8), 2), (o, ok h, 3), (o + 1, m == 0xFF || decide (m < 8), 2),
   (o + 1, ok m && !(h == m && h != 0xFF) && (h != 0xFF || m == 0xFF || d.ridgeNums.any fun r => d.serves r && r != m), 3)]

/-- The create block's fields in ascending offset. R64 calls the bytes that it does not list reserved and R65 names no refusal of
them; that a nonzero one is refused with 0x0002 at its offset, here and in the bind and share blocks, is the model's choice
(log 47). -/
def Dev.createChecks (d : Dev) (s : Nat) (b : List Byte) : List FieldCheck :=
  let links := field b 0 1 % 4
  let p := field b 16 4
  [(0, links != 0 && decide (field b 0 1 < 8), 2)] ++ d.ridgeChecks b 1 ++
    [(3, field b 3 1 != 0, 2), (4, decide (1 ≤ field b 4 1 ∧ field b 4 1 ≤ 64), 2), (5, zeros b 5 1, 2),
     (6, decide (1 ≤ field b 6 2 ∧ field b 6 2 ≤ 1024), 2), (8, decide (field b 8 4 ≤ 0xFFFFFF), 2), (12, field b 12 2 != 0, 2),
     (14, zeros b 14 2, 2), (16, decide (p ≤ 0xFFFFF), 2), (16, p == 0 || !d.pasidTaken s p links, 4), (20, zeros b 20 4, 2),
     (24, field b 24 8 % 4 == 0, 2), (36, decide (field b 36 1 < 2), 2), (37, zeros b 37 11, 2), (96, zeros b 96 32, 2)]

/-- The bind block's fields. `choice`: HOME and MIRROR may be named, as for SEAM_RESTORE. R64 gives PASID 0 the meaning 'bind
later' in the create block, with the same layout here; as a bind block binds, and Table 3.3 gives PASID the values 1 to 0xF_FFFF,
the model refuses 0 with 0x0002, for SEAM_RESTORE too: its choice (log 47). -/
def Dev.bindChecks (d : Dev) (s : Nat) (b : List Byte) (choice : Bool) : List FieldCheck :=
  let p := field b 0 4
  let links := field b 4 1 % 4
  [(0, decide (1 ≤ p ∧ p ≤ 0xFFFFF), 2), (0, !d.pasidTaken s p links, 4), (4, links != 0 && decide (field b 4 1 < 8), 2)] ++
    (if choice then d.ridgeChecks b 5 else [(5, field b 5 1 == 0xFF, 2), (6, field b 6 1 == 0xFF, 2)]) ++
    [(7, zeros b 7 1, 2), (8, field b 8 8 % 4 == 0, 2), (20, decide (field b 20 1 < 2), 2), (21, zeros b 21 11, 2)]

/-- The share block's fields: zero leaves a field unchanged. -/
def shareChecks (b : List Byte) : List FieldCheck :=
  [(1, decide (field b 1 1 ≤ 64), 2), (2, decide (field b 2 2 ≤ 1024), 2), (4, decide (field b 4 4 ≤ 0xFFFFFF), 2),
   (10, zeros b 10 6, 2)]

/-! ## Home and mirror (03:R66) -/

/-- ACTIVE seams homed on a ridge. -/
def Dev.activeOn (d : Dev) (r : Nat) : Nat := ((d.homedOn r).filter fun s => (d.seam s).entry.state == .active).length

/-- The home that Keade chooses: in service, not the explicit mirror, with the fewest ACTIVE seams. -/
def Dev.homeFor (d : Dev) (mirror : Nat) : Nat :=
  (leastBy (fun r => d.activeOn r * 8 + r) (d.ridgeNums.filter fun r => d.serves r && r != mirror)).getD 0

/-- HOME and MIRROR of a seam from the values of a block, for entries of as many granules; with no ridge for the mirror, home
serves as its own. -/
def Dev.ridgesFor (d : Dev) (s h m fresh : Nat) : Nat × Nat :=
  let home := if h = 0xFF then d.homeFor m else h
  (home, if m = 0xFF then (d.mirrorFor s home fresh).getD home else m)

/-- Granules of a seam's blob key entry: BK, BKID, BK_EPOCH (08:R201). -/
def blobKeyGranules : Nat := granulesOf 46

/-- A new seam's blob key is drawn, and its KIND 5 entry stands on both ridges (08:R201). -/
def Dev.makeBlobKey (d : Dev) (s : Nat) : Dev :=
  let (k, d) := (d.generate d.boss false 1).draw
  d.storeEntry (d.holders s)
    (d.keadeEntry 5 (some s) 1 0x8001 (.blobKey (randomBytes k 32) (slice (randomBytes k 40) 32 8) (d.seam s).entry.epoch.val 1 false))

/-- A seam homed and mirrored on one ridge is unmirrored: event +39 on the home ridge. -/
def Dev.noteUnmirrored (d : Dev) (s : Nat) : Dev :=
  if d.homeOf s = d.mirrorOf s then d.ridgeEvent (d.homeOf s) 39 0 (some s) else d

/-- A seam command has been carried out: event 52, and its completion. -/
def Dev.seamDone (d : Dev) (n code s : Nat) : Dev := (d.pkgEvent 52 code (some s)).mqComplete n done

/-- SEAM_CREATE. The spec does not say whether DISCARDS starts again in a seam's new life; the model carries it over, as it resets
at power-up alone (Table 3.3): its choice (log 47). -/
def Dev.seamCreate (d : Dev) (n s : Nat) (b : List Byte) : Dev :=
  match blockFault (d.createChecks s b) with
  | some v => d.mqComplete n v
  | none =>
    let (home, mirror) := d.ridgesFor s (field b 1 1) (field b 2 1) blobKeyGranules
    let d := d.modSeam s fun x =>
      { entry :=
          { x.entry with
            state := .active, links := BitVec.ofNat 2 (field b 0 1), pref := (field b 0 1) / 4 % 2 == 1, saved := false
            pasidValid := field b 16 4 != 0, pasid := BitVec.ofNat 20 (field b 16 4)
            home := .of (BitVec.ofNat 3 home), mirror := .of (BitVec.ofNat 3 mirror), epoch := .of (x.entry.epoch.val + 1)
            weight := BitVec.ofNat 8 (field b 3 1), burst := BitVec.ofNat 7 (field b 4 1)
            slotQuota := BitVec.ofNat 11 (field b 6 2), keyQuota := BitVec.ofNat 24 (field b 8 4)
            progQuota := BitVec.ofNat 16 (field b 12 2), irqAddr := BitVec.ofNat 64 (field b 24 8)
            irqData := BitVec.ofNat 32 (field b 32 4), irqMask := field b 36 1 == 1, migFloor := 0, migAllow := false
            ownerDigest := .of (BitVec.ofNat 384 (field b 48 48)) }
        run := { SeamRun.blank with discards := x.run.discards } }
    ((d.makeBlobKey s).noteUnmirrored s).seamDone n 1 s

/-! ## The reset cut, SEAM_RESET, SEAM_DESTROY (03:R69 to R72) -/

/-- The cut removes a seam's queues: a QUEUE_SHUTDOWN under way completes with DONE (04:R111). -/
def Dev.cutSeam (d : Dev) (s : Nat) : Dev :=
  let cs := (d.seam s).run.queues.filterMap (·.shutCmd)
  cs.foldl (fun d c => d.mqComplete c done) (d.resetCut s)

/-- SEAM_RESET: refused while a job of the seam carries the new GEN (03:R71). -/
def Dev.seamReset (d : Dev) (n s : Nat) : Dev :=
  let gen := (d.seam s).entry.gen + 1
  if (d.seamJobs s).any fun j => j.job.gen == gen then d.mqComplete n (refuse stMode 0x0006)
  else ((d.cutSeam s).cmdWaits n).modRun s fun x => { x with resetting := some n }

/-- The output writes that started before the cut have been sent: SEAM_RESET completes (03:R70). -/
def Dev.resetDrained (d : Dev) (s : Nat) : Dev :=
  match (d.seam s).run.resetting with
  | some n => (d.modRun s fun x => { x with resetting := none }).seamDone n 3 s
  | none => d

/-- SEAM_DESTROY: the cut, then the wait for INFLIGHT 0. -/
def Dev.seamDestroy (d : Dev) (n s : Nat) : Dev :=
  ((d.cutSeam s).cmdWaits n).modRun s fun x => { x with destroying := some n }

/-- Everything the seam owns is erased, its orders are cancelled, EPOCH rises and the seam is FREE (03:R72, 09:R223). -/
def Dev.freeSeam (d : Dev) (s : Nat) : Dev :=
  let d := (d.eraseSeamStore s).purgePrograms s
  let os := (d.quorum.orders.filter fun o => o.isOpen && kindSeam o.kind && o.seam == s).map (·.num)
  let d := os.foldl (fun d o => d.setOrder o .cancelled) d
  d.modSeam s fun x =>
    { entry :=
        { x.entry with
          state := .free, links := 0, pref := false, saved := false, pasidValid := false, epoch := .of (x.entry.epoch.val + 1) }
      run := { SeamRun.blank with discards := x.run.discards } }

/-- No job of the seam is left: SEAM_DESTROY completes after the erasure. -/
def Dev.destroyDrained (d : Dev) (s : Nat) : Dev :=
  match (d.seam s).run.destroying with
  | some n => if (d.seam s).run.inflight = 0 then (d.freeSeam s).seamDone n 2 s else d
  | none => d

/-! ## Shares and binding (03:R67, R68) -/

/-- A nonzero field of the share block. -/
def newer {w : Nat} (old : BitVec w) (v : Nat) : BitVec w := if v = 0 then old else BitVec.ofNat w v

/-- Cached images above PROG_QUOTA leave each ridge, least recently used first (03:R68). -/
def Dev.fitPrograms (d : Dev) (s : Nat) : Dev :=
  let quota := (d.seam s).entry.progQuota.toNat * 4096
  d.ridgeNums.foldl (init := d) fun d r =>
    let runs := fun (i : Image) => d.imageRuns r s i.digest
    d.modRidge r fun x => { x with programs := evictImages runs s 0 quota x.programs.length x.programs }

/-- SEAM_SET_SHARE. -/
def Dev.seamShare (d : Dev) (n s : Nat) (b : List Byte) : Dev :=
  match blockFault (shareChecks b) with
  | some v => d.mqComplete n v
  | none =>
    let d := d.modEntry s fun e => { e with
      weight := newer e.weight (field b 0 1), burst := newer e.burst (field b 1 1), slotQuota := newer e.slotQuota (field b 2 2)
      keyQuota := newer e.keyQuota (field b 4 4), progQuota := newer e.progQuota (field b 8 2) }
    ((d.capCredits [s]).fitPrograms s).mqComplete n done

/-- The CQ of a seam, of its snapshot while FROZEN. -/
def SeamRun.cqNow (x : SeamRun) : Option CQ := match x.snapshot with
  | some n => n.cq
  | none => x.cq

/-- The queues of a seam, of its snapshot while FROZEN. -/
def SeamRun.queuesNow (x : SeamRun) : List Queue := match x.snapshot with
  | some n => n.queues
  | none => x.queues

/-- A seam has a created queue. -/
def SeamRun.anyQueue (x : SeamRun) : Bool := x.queuesNow.any fun q => q.state != .none

/-- One message when IRQ_MASK falls with completions not consumed (15:R349). -/
def Dev.unmaskIrq (d : Dev) (s : Nat) : Dev :=
  match (d.seam s).run.cqNow, d.dmaLink s with
  | some c, some l => if c.write = c.head then d else d.irq s l
  | _, _ => d

/-- The PASID, links and interrupt message of a bind block. -/
def SeamEntry.bind (e : SeamEntry) (b : List Byte) : SeamEntry :=
  { e with
    pasidValid := true, pasid := BitVec.ofNat 20 (field b 0 4), links := BitVec.ofNat 2 (field b 4 1)
    pref := field b 4 1 / 4 % 2 == 1, irqAddr := BitVec.ofNat 64 (field b 8 8), irqData := BitVec.ofNat 32 (field b 16 4)
    irqMask := field b 20 1 == 1 }

/-- SEAM_BIND_PASID. -/
def Dev.seamBind (d : Dev) (n s : Nat) (b : List Byte) : Dev :=
  let x := d.seam s
  if x.entry.state = .active && x.run.anyQueue then d.mqComplete n (refuse stMode 0x0005)
  else match blockFault (d.bindChecks s b false) with
  | some v => d.mqComplete n v
  | none =>
    let d := d.modEntry s fun e => e.bind b
    (if x.entry.irqMask && !(d.seam s).entry.irqMask then d.unmaskIrq s else d).seamDone n 8 s

/-! ## Freezing and thawing (03:R75, R76) -/

/-- The jobs of a seam that have not ended, requests of its programs among them. -/
def Dev.seamNotEnded (d : Dev) (s : Nat) : List Nat := (d.jobs.filter fun j => j.job.seam == s && !j.job.ended).map (·.num)

/-- Queues with nothing prefetched and no read under way. -/
def SeamRun.noPrefetch (x : SeamRun) : SeamRun :=
  { x with queues := x.queues.map fun (q : Queue) => { q with prefetch := [], reading := false } }

/-- SEAM_FREEZE: fetching and granting stop; with the drop option the seam's jobs are aborted. -/
def Dev.seamFreeze (d : Dev) (n s : Nat) (drop : Bool) : Dev :=
  let d := (d.modRun s fun x => { x.noPrefetch with freezing := some n }).cmdWaits n
  if drop then d.abortJobs (d.seamNotEnded s) stAbortFreeze false else d

/-- The seam's jobs have ended, and their completions are visible: the queues are snapshotted and the seam is FROZEN; a seam
that entered FAULTED meanwhile stays so, and the command is refused. -/
def Dev.freezeDrained (d : Dev) (s : Nat) : Dev :=
  let x := (d.seam s).run
  match x.freezing with
  | none => d
  | some n =>
    if x.inflight ≠ 0 || !x.heldWrites.isEmpty then d
    else if (d.seam s).entry.state = .active then
      let d := d.modRun s fun x => { x with
        freezing := none, snapshot := some ⟨x.noPrefetch.queues, x.cq⟩, queues := List.replicate 4 Queue.blank, cq := none }
      (d.modEntry s fun e => { e with state := .frozen }).seamDone n 4 s
    else (d.modRun s fun x => { x with freezing := none }).mqComplete n (refuse stMode 0x0001)

/-- SEAM_THAW: the seam goes on from its snapshot with the same GEN and phase. -/
def Dev.seamThaw (d : Dev) (n s : Nat) : Dev :=
  let d := d.modRun s fun x => match x.snapshot with
    | some k => { x with queues := k.queues, cq := k.cq, snapshot := none }
    | none => x
  ((d.modEntry s fun e => { e with state := .active }).fetchSeam s).seamDone n 5 s

/-! ## Queues (04:R83 to R85, R110, R111) -/

/-- Queues that exist in the device. That those of a FROZEN seam's snapshot count, and that SEAM_RESTORE and SEAM_THAW, which
create none, are not held to the limit of 04:R83, is the model's choice (log 47). -/
def Dev.queueCount (d : Dev) : Nat := (d.seams.map fun e => e.2.run.queuesNow.countP fun q => q.state != .none).sum

/-- The create block's checks: 0x0012 on the CQ's fields, then the ranges. -/
def queueChecks (b : List Byte) (hasCq : Bool) : List FieldCheck :=
  let cb := field b 8 8
  let ck := field b 17 1
  [(8, (cb == 0) == hasCq, 0x12), (17, (ck == 0) == hasCq, 0x12), (0, field b 0 8 % 64 == 0, 2), (8, hasCq || cb % 64 == 0, 2),
   (16, decide (4 ≤ field b 16 1 ∧ field b 16 1 ≤ 16), 2), (17, hasCq || decide (4 ≤ ck ∧ ck ≤ 16), 2), (18, field b 18 1 != 0, 2),
   (19, decide (1 ≤ field b 19 1 ∧ field b 19 1 ≤ 64), 2), (20, zeros b 20 12, 2)]

/-- QUEUE_CREATE. -/
def Dev.queueCreate (d : Dev) (n s q : Nat) (b : List Byte) : Dev :=
  let x := d.seam s
  let no := fun (code : Nat) => d.mqComplete n (refuse stMode code)
  if x.entry.state ≠ .active then no 0x0001
  else if !x.entry.pasidValid then no 0x0013
  else if (x.queue q).state ≠ .none then no 0x0010
  else if 16384 ≤ d.queueCount then no 0x0014
  else match blockFault (queueChecks b x.run.cq.isSome) with
  | some v => d.mqComplete n v
  | none =>
    let k : Queue := { Queue.blank with
      state := .running, base := BitVec.ofNat 64 (field b 0 8), log2 := field b 16 1, weight := field b 18 1, burst := field b 19 1 }
    let cq : CQ := ⟨BitVec.ofNat 64 (field b 8 8), field b 17 1, 0, 0, 0⟩
    (d.modRun s fun y => { y with queues := y.queues.set q k, cq := some (y.cq.getD cq) }).mqComplete n done

/-- QUEUE_SHUTDOWN: the tail becomes final and granting stops. -/
def Dev.queueShut (d : Dev) (n s q : Nat) : Dev :=
  let x := d.seam s
  let k := x.queue q
  if x.entry.state ≠ .active ∧ x.entry.state ≠ .faulted then d.mqComplete n (refuse stMode 0x0001)
  else if k.state ≠ .running ∧ k.state ≠ .faulted then d.mqComplete n (refuse stMode 0x0011)
  else (d.modQueue s q fun k => { k with state := .shutting, prefetch := [], reading := false, shutCmd := some n }).cmdWaits n

/-- Every entry and job of the queue has its completion: the queue goes, with the last one the CQ, and the command
completes. -/
def Dev.shutDrained (d : Dev) (s q : Nat) : Dev :=
  let k := (d.seam s).queue q
  match k.shutCmd with
  | none => d
  | some n =>
    if k.state = .shutting && k.head == k.tail && (d.queueJobs s q).isEmpty && (d.seam s).run.heldWrites.isEmpty then
      let d := d.modQueue s q fun _ => Queue.blank
      let d := if (d.seam s).run.anyQueue then d else d.modRun s fun x => { x with cq := none }
      d.mqComplete n done
    else d

/-- QUEUE_RESTART: a FAULTED queue runs again from its SQ head. -/
def Dev.queueRestart (d : Dev) (n s q : Nat) : Dev :=
  let x := d.seam s
  if x.entry.state ≠ .active then d.mqComplete n (refuse stMode 0x0001)
  else if (x.queue q).state ≠ .faulted then d.mqComplete n (refuse stMode 0x0011)
  else
    ((d.modQueue s q fun k => { k with state := .running, prefetch := [], reading := false }).fetch s q).mqComplete n done

/-! ## RANGE_FREEZE (02:R40, R41, 03:R403) -/

/-- The body that an order of kind 0x0B must have: the command's KEY_B. -/
def Desc.rangeBody (x : Desc) : List Byte := [x.keyB.setWidth 8]

/-- The freeze direction: fetching stops on every seam; with the drop option dispatched jobs are aborted. -/
def Dev.rangeFreeze (d : Dev) (n : Nat) (x : Desc) : Dev :=
  if !d.authorised x.orderNum 0x0B 0 x.rangeBody then d.mqComplete n quorumMissing
  else
    let d := d.modSeams fun _ (y : Seam) => { y with run := y.run.noPrefetch }
    let d := (d.cmdWaits n).modMq fun q => { q with freeze := some n }
    if x.keyB.getLsbD 1 then d.abortJobs d.notEnded stAbortFreeze false else d

/-- The last dispatched job has completed: FREEZE. An order that no longer stands authorises nothing, and fetching resumes
(log 28). -/
def Dev.rangeFrozen (d : Dev) : Dev :=
  match d.mq.freeze.bind fun n => (d.mqCmd n).map fun c => (n, c.desc) with
  | none => d
  | some (n, x) =>
    if !d.jobs.isEmpty || d.seams.any fun e => !e.2.run.heldWrites.isEmpty then d
    else
      let d := d.modMq fun q => { q with freeze := none }
      if d.authorised x.orderNum 0x0B 0 x.rangeBody && d.live == .service then
        (((d.consumeOrder x.orderNum).changeMode .freeze).pkgEvent 53 1).mqComplete n done
      else (d.mqComplete n quorumMissing).fetchAll

/-- The release direction: SERVICE, and the rings are read in order. -/
def Dev.rangeRelease (d : Dev) (n : Nat) (x : Desc) : Dev :=
  if !d.authorised x.orderNum 0x0B 0 x.rangeBody then d.mqComplete n quorumMissing
  else ((((d.consumeOrder x.orderNum).changeMode .service).pkgEvent 53 2).mqComplete n done).fetchAll

/-! ## Commands -/

/-- A seam or queue command of an opcode. -/
def Dev.seamCommand (d : Dev) (n op : Nat) (f : Dev → Nat → Desc → List Byte → Dev) : Dev :=
  d.command n op fun d x _ aux => f d (x.p 0 13) x aux

/-- SEAM_CREATE (03:R66). -/
def execSeamCreate (cmd : Nat) (s : State) : Host.Outcome State Fault Refusal := s.upd fun d =>
  if d.drawable d.boss .internal then d.seamCommand cmd 0x8001 fun d k _ b => d.seamCreate cmd k b else d

/-- SEAM_DESTROY (03:R72). -/
def execSeamDestroy (cmd : Nat) (s : State) : Host.Outcome State Fault Refusal :=
  s.upd fun d => d.seamCommand cmd 0x8002 fun d k _ _ => d.seamDestroy cmd k

/-- SEAM_DESTROY_DRAINED (03:R72). -/
def execSeamDestroyDrained (seam : Nat) (s : State) : Host.Outcome State Fault Refusal := s.upd fun d => d.destroyDrained seam

/-- SEAM_RESET (03:R69, R71). -/
def execSeamReset (cmd : Nat) (s : State) : Host.Outcome State Fault Refusal :=
  s.upd fun d => d.seamCommand cmd 0x8003 fun d k _ _ => d.seamReset cmd k

/-- SEAM_RESET_DRAINED (03:R70). -/
def execSeamResetDrained (seam : Nat) (s : State) : Host.Outcome State Fault Refusal := s.upd fun d => d.resetDrained seam

/-- SEAM_SET_SHARE (03:R68). -/
def execSeamSetShare (cmd : Nat) (s : State) : Host.Outcome State Fault Refusal :=
  s.upd fun d => d.seamCommand cmd 0x8004 fun d k _ b => d.seamShare cmd k b

/-- SEAM_BIND_PASID (03:R67, 15:R349). -/
def execSeamBindPasid (cmd : Nat) (s : State) : Host.Outcome State Fault Refusal :=
  s.upd fun d => d.seamCommand cmd 0x8005 fun d k _ b => d.seamBind cmd k b

/-- SEAM_FREEZE (03:R76). -/
def execSeamFreeze (cmd : Nat) (s : State) : Host.Outcome State Fault Refusal :=
  s.upd fun d => d.seamCommand cmd 0x8006 fun d k x _ => d.seamFreeze cmd k (x.keyB.getLsbD 0)

/-- SEAM_FREEZE_DRAINED (03:R75, R76). -/
def execSeamFreezeDrained (seam : Nat) (s : State) : Host.Outcome State Fault Refusal := s.upd fun d => d.freezeDrained seam

/-- SEAM_THAW (03:R75, R76). -/
def execSeamThaw (cmd : Nat) (s : State) : Host.Outcome State Fault Refusal :=
  s.upd fun d => d.seamCommand cmd 0x8009 fun d k _ _ => d.seamThaw cmd k

/-- QUEUE_CREATE (04:R84, R85). -/
def execQueueCreate (cmd : Nat) (s : State) : Host.Outcome State Fault Refusal :=
  s.upd fun d => d.seamCommand cmd 0x8010 fun d k x b => d.queueCreate cmd k (x.keyB.toNat % 4) b

/-- QUEUE_SHUTDOWN (04:R111). -/
def execQueueShutdown (cmd : Nat) (s : State) : Host.Outcome State Fault Refusal :=
  s.upd fun d => d.seamCommand cmd 0x8011 fun d k x _ => d.queueShut cmd k (x.keyB.toNat % 4)

/-- QUEUE_SHUTDOWN_DRAINED (04:R111). -/
def execQueueShutdownDrained (seam queue : Nat) (s : State) : Host.Outcome State Fault Refusal :=
  s.upd fun d => d.shutDrained seam queue

/-- QUEUE_RESTART (04:R110). -/
def execQueueRestart (cmd : Nat) (s : State) : Host.Outcome State Fault Refusal :=
  s.upd fun d => d.seamCommand cmd 0x8012 fun d k x _ => d.queueRestart cmd k (x.keyB.toNat % 4)

/-- RANGE_FREEZE in the freeze direction (02:R40). -/
def execRangeFreeze (cmd : Nat) (s : State) : Host.Outcome State Fault Refusal := s.upd fun d =>
  d.command cmd 0x8050 fun d x _ _ => if x.keyB.getLsbD 0 then d else d.rangeFreeze cmd x

/-- RANGE_FREEZE_DRAINED (02:R40). -/
def execRangeFreezeDrained (s : State) : Host.Outcome State Fault Refusal := s.upd fun d => d.rangeFrozen

/-- RANGE_FREEZE in the release direction (02:R41). -/
def execRangeRelease (cmd : Nat) (s : State) : Host.Outcome State Fault Refusal := s.upd fun d =>
  d.command cmd 0x8050 fun d x _ _ => if x.keyB.getLsbD 0 then d.rangeRelease cmd x else d

end Sys2Proof.Machine
end

