-- ==== Sys2Proof/Machine/Migration.lean ====
section
/-! DEFINITION. Moving a seam and the whole range: SEAM_SAVE, SEAM_RESTORE, RANGE_EXPORT, RANGE_IMPORT (03:R77 to R82, R403,
08:R201, R209). The encoding of a package's body is not given (log 29). -/

namespace Sys2Proof.Machine

/-! ## What a package carries (03:R78, R81) -/

/-- A seam section: its number, its table entry without PASID, home and mirror, and in a seam package without links and
interrupt message too, its queue snapshot, and what the key store holds for it. -/
structure PkgSeam where
  num : Nat
  entry : SeamEntry
  snapshot : Option Snapshot
  entries : List Entry
  deriving DecidableEq, Repr, Inhabited

/-- A package's body: the source's certificate chain; the PERS words and the decode table of a range; the seams. -/
structure PkgBody where
  chain : List Byte
  pers : List (Nat × W64)
  decode : List (List W64)
  seams : List PkgSeam
  deriving DecidableEq, Repr, Inhabited

/-- The bytes of a body (log 29). -/
opaque packBody : PkgBody → List Byte

/-- The body that bytes spell; none when they spell none (log 29). -/
opaque readBody : List Byte → Option PkgBody

/-- The table entry of a seam package: without PASID, links, interrupt message, home and mirror (03:R78). -/
def SeamEntry.unbound (e : SeamEntry) : SeamEntry :=
  { e with
    state := .frozen, links := 0, pref := false, saved := false, pasidValid := false, pasid := 0, home := .of 0, mirror := .of 0
    irqAddr := 0, irqData := 0, irqMask := false }

/-- The table entry of a range package's section: that of a seam package, and LINKS, PREF, IRQ_ADDR, IRQ_DATA and
IRQ_MASK (03:R81). -/
def SeamEntry.rangeEntry (e : SeamEntry) : SeamEntry :=
  { e.unbound with links := e.links, pref := e.pref, irqAddr := e.irqAddr, irqData := e.irqData, irqMask := e.irqMask }

/-- The committed entries of a seam, as its home ridge's key store controller opens them for the package; an entry whose
tag does not verify is not carried (08:R186; log 34). -/
def Dev.seamEntries (d : Dev) (s : Nat) : List Entry :=
  let x := d.ridge (d.homeOf s)
  x.store.filter fun e => e.owner == some s && e.state == .committed && !e.consumed && e.opens x.kdu

/-- A seam's section. -/
def Dev.section' (d : Dev) (s : Nat) (range : Bool) : PkgSeam :=
  let x := d.seam s
  ⟨s, if range then x.entry.rangeEntry else x.entry.unbound, some ⟨x.run.queuesNow, x.run.cqNow⟩, d.seamEntries s⟩

/-- The PERS words as reads return them. -/
def Dev.persWords (d : Dev) : List (Nat × W64) := (d.power.pers.filter fun e => decide (e.1 < 1024)).map fun e => (e.1, e.2.value)

/-! ## Attestation records (03:R77, R81, 08:R206 to R208) -/

/-- The TLV items of a record; none when they do not fill it exactly. -/
def tlvItems : Nat → List Byte → Option (List (Nat × List Byte))
  | 0, _ => none
  | f + 1, b =>
    if b.isEmpty then some []
    else
      let n := field b 2 2
      if b.length < 4 + n then none else (tlvItems f (b.drop (4 + n))).map fun r => (field b 0 2, slice b 4 n) :: r

/-- Tags ascend. -/
def rising : List Nat → Bool
  | a :: b :: rest => decide (a < b) && rising (b :: rest)
  | _ => true

/-- A form 2 record's items, when its header and the order of its items are right. -/
def recordItems (b : List Byte) : Option (List (Nat × List Byte)) :=
  if slice b 0 4 == ascii "UJAT" && field b 4 2 == 1 && field b 6 2 == 2 && field b 8 4 == b.length && field b 12 4 == 0 then
    (tlvItems (b.length + 1) (b.drop 16)).bind fun is => if rising (is.map (·.1)) then some is else none
  else none

/-- What a destination's record says. -/
structure Destination where
  serial : List Byte
  version : Nat
  ek : List Byte
  point : List Byte
  csDigest : List Byte

/-- The numbers of P-384. -/
def p384 : CurveNums := CurveNums.of (namedCurve 0x202)

/-- A record that Keade accepts, but for the version: both signatures verify, the chain ends at the Askune factory authority,
the family is Uliaja, and the ECDH key is a point (log 29). -/
def acceptRecord (b : List Byte) : Option Destination :=
  match recordItems b with
  | none => none
  | some is =>
    let get := fun (tag n : Nat) => (assocGet is tag).bind fun v => if v.length = n then some v else none
    match get 1 16, get 2 8, get 4 4, get 0x20 16, get 0x21 1568, get 0x22 97, get 0x23 48 with
    | some serial, some name, some version, some _, some ek, some point, some cs =>
      match get 0x31 96, get 0x32 3309, (assocGet is 0x30).bind Config.chainKeys with
      | some ec, some ml, some (kec, kml) =>
        let m := b.take (b.length - (100 + 3313))
        if (KeyRecord.mk 1 kec).verifies m ec && (KeyRecord.mk 2 kml).verifies m ml && slice name 0 6 == ascii "UJ840-" &&
            (p384.decode 48 point).isSome then some ⟨serial, leNat version, ek, point, cs⟩
        else none
      | _, _, _ => none
    | _, _, _, _, _, _, _ => none

/-! ## Building a package (03:R78, Table 3.7) -/

/-- ECDH P-384: the x coordinate. -/
def ecdh384 (priv point : List Byte) : List Byte :=
  match p384.mul (beNat priv) (p384.decode 48 point) with
  | some (x, _) => beBytes 48 x
  | none => beBytes 48 0

/-- The body key. -/
def bodyKey (pkgId z1 z2 header : List Byte) : List Byte := hkdf 2 true pkgId (z1 ++ z2) (header.take 64) 32

/-- A package of a body for a destination, from draws of the internal DRBG. The additional data of its GCM is empty
(log 29). -/
def Dev.package (d : Dev) (kind k : Nat) (t : Destination) (body : List Byte) : List Byte :=
  let id := randomBytes k 16
  let header := ascii "UJMP" ++ leBytes 2 1 ++ leBytes 2 kind ++ id ++ d.serial ++ t.serial ++ leBytes 4 body.length ++ [0, 0, 0, 0]
  let (ct, z1) := encaps 0x403 t.ek (randomBytes (k + 1) 32)
  let c := namedCurve 0x202
  let e := slice (Config.keygen 0x202 0 c (randomBytes (k + 2) 48)) 0 48
  let nonce := randomBytes (k + 3) 12
  let sealed' := slice (Config.gcmEnc (bodyKey id z1 (ecdh384 e t.point) header) nonce [] body) 0 (body.length + 16)
  let m := header ++ ct ++ slice (Config.publicOf 0x202 c e) 0 97 ++ leBytes 7 0 ++ nonce ++ leBytes 4 0 ++ sealed'
  let (ec, ml) := d.dikSign (k + 4) m
  m ++ ec ++ ml

/-- The length of a package. -/
def packageLen (body : List Byte) : Nat := body.length + 5173

/-! ## Opening a package (03:R80) -/

/-- The parts of a package that its checks use. -/
structure Package where
  bytes : List Byte
  /-- every byte before the signatures -/
  signed : List Byte
  ec : List Byte
  ml : List Byte

/-- A package of a kind whose header, length and destination serial are right. -/
def Dev.packageFor (d : Dev) (kind : Nat) (b : List Byte) : Option Package :=
  if slice b 0 4 == ascii "UJMP" && field b 4 2 == 1 && field b 6 2 == kind && slice b 40 16 == d.serial &&
      field b 60 4 == 0 && zeros b 1729 7 && zeros b 1748 4 && b.length == field b 56 4 + 5173 then
    let n := b.length - 3405
    some ⟨b, b.take n, slice b n 96, slice b (n + 96) 3309⟩
  else none

/-- The receive key that a package names, while it is held (log 29). -/
def Dev.receiveKey (d : Dev) (p : Package) : Option (List Byte × List Byte × List Byte × List Byte × List Byte) :=
  d.receiveKeys.find? fun r => r.1 == Config.packageKey p.bytes

/-- The body: decrypted and authenticated, signed under its own chain, of the Uliaja family. -/
def Package.open' (p : Package) (dk e : List Byte) : Option PkgBody :=
  let b := p.bytes
  let point := slice b 1632 97
  if (p384.decode 48 point).isNone then none
  else
    let key := bodyKey (slice b 8 16) (decaps 0x403 dk (slice b 64 1568)) (ecdh384 e point) b
    ((Config.gcmDec key (slice b 1736 12) [] (p.signed.drop 1752)).bind readBody).bind fun body =>
      match Config.chainKeys body.chain with
      | some (kec, kml) =>
        if (KeyRecord.mk 1 kec).verifies p.signed p.ec && (KeyRecord.mk 2 kml).verifies p.signed p.ml &&
            Config.chainUliaja body.chain then some body
        else none
      | none => none

/-- The checks of 03:R80 on a package, in order; its body and the ID of its receive key. -/
def Dev.openPackage (d : Dev) (kind : Nat) (b : List Byte) : Except Verdict (List Byte × PkgBody) :=
  match d.packageFor kind b with
  | none => .error (refuse stMalformed 9)
  | some p =>
    match d.receiveKey p with
    | none => .error (refuse stMode 0x0A)
    | some (id, dk, _, e, _) =>
      match p.open' dk e with
      | none => .error (refuse stMalformed 9)
      | some body => .ok (id, body)

/-! ## Installing a seam (03:R80, R82, 08:R201) -/

/-- An entry of the package as it is sealed on this device: under the seam's own SSK and epoch with the next draw as its
NONCE (08:R184), its load counter at the start (08:R203), CREATED and the attributes as carried. -/
def Dev.carried (d : Dev) (s : Nat) (e : Entry) : Entry :=
  { e with
    owner := some s, epoch := (d.seam s).entry.epoch.val, nonce := d.draws, under := (d.ridge (d.homeOf s)).kdu
    use := if e.kind = 1 then d.useOf s e.index else e.use
    payload := match e.payload with
      | .blobKey bk bkid epoch _ _ => .blobKey bk bkid epoch 1 false
      | p => p }

/-- The entries enter the copies on home and mirror, and count. -/
def Dev.installEntries (d : Dev) (s : Nat) (es : List Entry) : Dev :=
  let d := es.foldl (init := d) fun d e =>
    let d := d.storeEntry (d.holders s) (d.carried s e)
    if e.kind = 1 then { d with uses := assocSet d.uses (s * 2 ^ 23 + e.index) (d.useOf s e.index + 1) } else d
  d.countKeys s fun _ => es.countP fun e => e.kind == 1

/-- Granules that a section's entries take. -/
def PkgSeam.granules (p : PkgSeam) : Nat := (p.entries.map fun e => granulesOf e.body).sum

/-- The key store areas of two ridges can hold a section. -/
def Dev.canHold (d : Dev) (home mirror : Nat) (p : PkgSeam) : Bool :=
  [home, mirror].all fun r => decide (d.granulesUsed r + p.granules ≤ areaGranules)

/-- The table entry of a section on this device: EPOCH is the seam number's own (log 29). -/
def Dev.installSeam (d : Dev) (s home mirror : Nat) (p : PkgSeam) (e : SeamEntry) (snap : Option Snapshot) : Dev :=
  let d := d.modSeam s fun x =>
    { entry := { e with
        home := .of (BitVec.ofNat 3 home), mirror := .of (BitVec.ofNat 3 mirror), epoch := .of x.entry.epoch.val
        ownerDigest := .of e.ownerDigest.val }
      run := { SeamRun.blank with discards := x.run.discards, snapshot := snap } }
  (d.installEntries s p.entries).noteUnmirrored s

/-! ## The commands -/

/-- A record whose version suffices; `floor`: the lowest Keade version. -/
def acceptFrom (b : List Byte) (floor : Nat) : Option Destination :=
  (acceptRecord b).bind fun t => if floor ≤ t.version then some t else none

/-- SEAM_SAVE. -/
def Dev.seamSave (d : Dev) (n s : Nat) (x : Desc) (aux : List Byte) : Dev :=
  let e := (d.seam s).entry
  if !d.authorised x.orderNum 0x21 s (sha384 aux) then d.mqComplete n quorumMissing
  else if !e.migAllow then d.mqComplete n (refuse stKeyPolicy 8)
  else match acceptFrom aux e.migFloor.toNat with
  | none => d.mqComplete n (refuse stKeyPolicy 7)
  | some t =>
    let body := packBody ⟨Config.dikChain, [], [], [d.section' s false]⟩
    if e.saved && (d.seam s).run.savedTo != some t.serial then d.mqComplete n (refuse stMode 0x0D)
    else if x.outLen.toNat < packageLen body then
      d.mqComplete n ⟨stBadLength, 0x0C, BitVec.ofNat 32 (packageLen body)⟩
    else
      let d := d.generate d.boss false 1
      let out := d.package 1 d.draws t body
      let d := { d with draws := d.draws + 5 }
      let d := (d.modEntry s fun e => { e with saved := true }).modRun s fun r => { r with savedTo := some t.serial }
      ((d.consumeOrder x.orderNum).pkgEvent 52 6 (some s)).mqComplete n done out

/-- SEAM_RESTORE. -/
def Dev.seamRestore (d : Dev) (n s : Nat) (inp aux : List Byte) : Dev :=
  match blockFault (d.bindChecks s aux true) with
  | some v => d.mqComplete n v
  | none =>
    match d.openPackage 1 inp with
    | .error v => d.mqComplete n v
    | .ok (id, body) =>
      match body.seams with
      | [p] =>
        let (home, mirror) := d.ridgesFor s (field aux 5 1) (field aux 6 1) p.granules
        if !d.canHold home mirror p then d.mqComplete n (refuse stStoreFull 0x0B)
        else
          let e := ({ p.entry with state := .frozen, saved := false } : SeamEntry).bind aux
          ((d.installSeam s home mirror p e p.snapshot).eraseReceive id).seamDone n 7 s
      | _ => d.mqComplete n (refuse stMalformed 9)

/-- EXPORTED is set: the record of 02:R36 with the same mode. -/
def Dev.setExported (d : Dev) : Dev :=
  (((d.propose d.live d.prior.val true).copyRecord).commitRecord).showMode d.live d.prior.val true

/-- The body of a range package. -/
def Dev.rangeBody (d : Dev) : PkgBody :=
  ⟨Config.dikChain, d.persWords, d.decode, d.usedSeams.map fun s => d.section' s true⟩

/-- SHA-384 of the enrolled countersigning key record, as item 0x0023 carries it. -/
def Dev.csDigest (d : Dev) : List Byte := sha384 ((d.csKey.map KeyRecord.bytes).getD [])

/-- RANGE_EXPORT. -/
def Dev.rangeExport (d : Dev) (n : Nat) (x : Desc) (aux : List Byte) : Dev :=
  if !d.authorised x.orderNum 0x0C 0 (sha384 aux) then d.mqComplete n quorumMissing
  else match (acceptFrom aux d.version.toNat).bind fun t => if t.csDigest = d.csDigest then some t else none with
  | none => d.mqComplete n (refuse stKeyPolicy 7)
  | some t =>
    let body := packBody d.rangeBody
    if x.outLen.toNat < packageLen body then d.mqComplete n ⟨stBadLength, 0x0C, BitVec.ofNat 32 (packageLen body)⟩
    else
      let d := d.generate d.boss false 1
      let out := d.package 2 d.draws t body
      let d := { d with draws := d.draws + 5 }
      (((d.consumeOrder x.orderNum).setExported).pkgEvent 53 3).mqComplete n done out

/-- The carried PERS words stand in the destination's; a word not carried is zero. -/
def Dev.writePers (d : Dev) (ws : List (Nat × W64)) : Dev :=
  let put := fun (d : Dev) (i : Nat) (v : W64) =>
    d.modPower fun p => { p with pers := assocSet p.pers i (d.persSave { d.pers i with value := v }) }
  let mine := d.persWords.map (·.1)
  let d := (mine.filter fun i => (assocGet ws i).isNone).foldl (fun d i => put d i 0) d
  ws.foldl (fun d w => put d w.1 w.2) d

/-- One seam of a range: ACTIVE, unbound, without queues, on ridges that Keade chooses; none when no area holds it. -/
def Dev.importSeam (d : Dev) (p : PkgSeam) : Option Dev :=
  let (home, mirror) := d.ridgesFor p.num 0xFF 0xFF p.granules
  if d.canHold home mirror p then
    some (d.installSeam p.num home mirror p { p.entry with state := .active, saved := false, pasidValid := false, pasid := 0 } none)
  else none

/-- The seams of a range, one after another. -/
def Dev.importSeams (d : Dev) : List PkgSeam → Option Dev
  | [] => some d
  | p :: rest => (d.importSeam p).bind fun d => d.importSeams rest

/-- RANGE_IMPORT. That every seam is FREE (02:R41) is judged among the command's own checks, after its order, as the
wrong state of a seam (03:R403 step 4; log 29). -/
def Dev.rangeImport (d : Dev) (n : Nat) (x : Desc) (inp : List Byte) : Dev :=
  if !d.authorised x.orderNum 0x0D 0 (sha384 inp) then d.mqComplete n quorumMissing
  else if !d.usedSeams.isEmpty then d.mqComplete n (refuse stMode 1)
  else match d.openPackage 2 inp with
  | .error v => d.mqComplete n v
  | .ok (id, body) =>
    match d.importSeams body.seams with
    | none => d.mqComplete n (refuse stStoreFull 0x0B)
    | some d =>
      let d := { (d.writePers body.pers).eraseReceive id with decode := body.decode }
      ((d.consumeOrder x.orderNum).pkgEvent 53 4).mqComplete n done

/-- SEAM_SAVE (03:R77 to R79). -/
def execSeamSave (cmd : Nat) (s : State) : Host.Outcome State Fault Refusal := s.upd fun d =>
  if d.drawable d.boss .internal then d.command cmd 0x8007 fun d x _ aux => d.seamSave cmd (x.p 0 13) x aux else d

/-- SEAM_RESTORE (03:R80). -/
def execSeamRestore (cmd : Nat) (s : State) : Host.Outcome State Fault Refusal :=
  s.upd fun d => d.command cmd 0x8008 fun d x inp aux => d.seamRestore cmd (x.p 0 13) inp aux

/-- RANGE_EXPORT (03:R81). -/
def execRangeExport (cmd : Nat) (s : State) : Host.Outcome State Fault Refusal := s.upd fun d =>
  if d.drawable d.boss .internal then d.command cmd 0x8051 fun d x _ aux => d.rangeExport cmd x aux else d

/-- RANGE_IMPORT (03:R82). -/
def execRangeImport (cmd : Nat) (s : State) : Host.Outcome State Fault Refusal :=
  s.upd fun d => d.command cmd 0x8052 fun d x inp _ => d.rangeImport cmd x inp

end Sys2Proof.Machine
end

