-- ==== Sys2Proof/Machine/Orders.lean ====
section
/-! DEFINITION. Custodian sets, tokens and orders: ORDER_OPEN, ORDER_TOKEN, ORDER_CANCEL, the actions of direct orders,
conflicts and lapses (09, 02:R37 to R39, R54 to R56, 10:R242, R243, 13:R301, R302). -/

namespace Sys2Proof.Machine

/-! ## Bodies (09:R213, Table 9.3) -/

/-- A key record at the front of some bytes, and what follows it. -/
def readRecord (b : List Byte) : Option (KeyRecord × List Byte) :=
  let t := field b 0 1
  let n := field b 2 2
  if ((t = 1 ∧ n = 97) ∨ (t = 2 ∧ n = 1952)) ∧ field b 1 1 = 0 ∧ 4 + n ≤ b.length then
    some (⟨BitVec.ofNat 8 t, slice b 4 n⟩, b.drop (4 + n))
  else none

/-- `n` key records. -/
def readRecords : Nat → List Byte → Option (List KeyRecord × List Byte)
  | 0, b => some ([], b)
  | n + 1, b => (readRecord b).bind fun (k, rest) => (readRecords n rest).map fun (ks, rest) => (k :: ks, rest)

/-- No record twice. -/
def distinctKeys : List KeyRecord → Bool
  | [] => true
  | k :: ks => !ks.contains k && distinctKeys ks

/-- A custodian list: N, M, two zeros, N records; and what follows it. -/
def readSet (b : List Byte) (most : Nat) : Option (CustSet × List Byte) :=
  let n := field b 0 1
  let m := field b 1 1
  if 2 ≤ n ∧ n ≤ most ∧ 2 ≤ m ∧ m ≤ n ∧ field b 2 2 = 0 then
    (readRecords n (b.drop 4)).bind fun (ks, rest) => if distinctKeys ks then some (⟨m, ks⟩, rest) else none
  else none

/-- The point of a record is on P-384, or its ML-DSA key decodes (09:Table 9.5). -/
def KeyRecord.valid (k : KeyRecord) : Bool :=
  if k.typ = 1 then (p384.decode 48 k.key).isSome else Config.mldsaKeyOk k.key

/-- The custodians of a seam set, or of the Range owner's. -/
def mostCustodians (kind : Nat) : Nat := if kind = 1 ∨ kind = 0x0E then 16 else 8

/-- The new custodian set that a body lists. -/
def Order.newSet (o : Order) : Option CustSet :=
  if [1, 0x0E, 0x0F, 0x20].contains o.kind then (readSet o.body (mostCustodians o.kind)).map (·.1) else none

/-- A micro-operation of a decode slot: one Lamad instruction of major 0x00 to 0x13, and bits 63 to 36 zero (10:R243). -/
def microOk (v : Nat) : Bool :=
  decide (bitsOf v 26 6 ≤ 0x13) && (Lamad.decode 0 0 (BitVec.ofNat 32 v)).isSome && v / 2 ^ 36 == 0

/-- A DECODE_WRITE body (10:R243). -/
def decodeBody (b : List Byte) : Bool :=
  let n := field b 1 1
  decide (field b 0 1 < 32 ∧ n ≤ 64) && zeros b 2 6 && b.length == 8 + 8 * n &&
    (List.range n).all fun i => microOk (field b (8 + 8 * i) 8)

/-- The source of a class field: a package source, or ridge 0's number of a per-ridge one (13:R297, R301). -/
def classSource (id : Nat) : Bool := decide (id < 22) || decide (64 ≤ id ∧ id < 74)

/-- The fault of a body's form: 0x0021, or 0x0029 for a key (09:Table 9.5, 13:R301, R302, 10:R243). -/
def bodyFault (kind : Nat) (b : List Byte) : Option Nat :=
  let form := fun (ok : Bool) => if ok then none else some 0x21
  let keys := fun (ks : List KeyRecord) => if ks.all KeyRecord.valid then none else some 0x29
  let len := fun (n : Nat) (ok : Bool) => form (b.length == n && ok)
  match kind with
  | 1 => match readSet b 16 with
    | some (s, rest) => match readRecord rest with
      | some (k, []) => keys (s.keys ++ [k])
      | _ => some 0x21
    | none => some 0x21
  | 0x0E | 0x0F | 0x20 => match readSet b (mostCustodians kind) with
    | some (s, []) => keys s.keys
    | _ => some 0x21
  | 0x22 => match readRecord b with
    | some (k, []) => keys [k]
    | _ => some 0x21
  | 2 | 3 | 4 | 5 => len 0 true
  | 6 => len 2 (decide (field b 0 2 < 16))
  | 7 =>
    let id := field b 0 2
    len 3 (classSource id && decide (classFloor id ≤ field b 2 1 ∧ field b 2 1 < 3))
  | 8 => form (decodeBody b)
  | 9 => len 2 (decide (1 ≤ field b 0 2 ∧ field b 0 2 ≤ 3600))
  | 0x0A => len 52 (decide (field b 0 1 < 2) && zeros b 1 3)
  | 0x0B => len 1 (decide (field b 0 1 < 4))
  | 0x0C | 0x0D | 0x21 | 0x23 => len 48 true
  | 0x24 => len 8 true
  | 0x25 => len 8 (decide (field b 0 1 < 2) && zeros b 1 3)
  | _ => some 0x21

/-! ## Opening (09:R219, R220, R224, R410) -/

/-- The status beside a detail of Table 9.5. -/
def orderStatus (code : Nat) : BitVec 16 :=
  if code = 0x21 ∨ code = 0x28 ∨ code = 0x2A then stMalformed
  else if code = 0x25 ∨ code = 0x26 ∨ code = 0x29 then stKeyPolicy else stMode

/-- A refusal of an order command. -/
def orderRefusal (code : Nat) : Verdict := refuse (orderStatus code) code

/-- The seam of an order: 0 for a Range-owner order other than SEAM_RECUSTODY (log 30). -/
def orderSeam (kind : Nat) (keyB : W64) : Nat := if kindSeam kind then keyB.toNat % 8192 else 0

/-- A limit on open orders is reached: 256, 16 of the Range owner, 4 of a seam. -/
def Dev.ordersFull (d : Dev) (kind seam : Nat) : Bool :=
  let os := d.openOrders
  decide (256 ≤ os.length) ||
    (if kind < 0x20 then decide (16 ≤ os.countP fun o => decide (o.kind < 0x20))
     else decide (4 ≤ os.countP fun o => decide (0x20 ≤ o.kind) && o.seam == seam))

/-- The refusal of an ORDER_OPEN, in the order mode, seam, body, keys, handle, limits (log 30). -/
def Dev.openFault (d : Dev) (kind seam : Nat) (b : List Byte) : Option Nat :=
  let st := (d.seam seam).entry.state
  let release := field b 0 1 % 2 == 1
  if !kindOpens kind release d.live then some 0x20
  else if kindSeam kind && ((st != .active && st != .frozen) || (kind != 0x20 && (d.seamSet seam).isNone)) then some 0x23
  else match bodyFault kind b with
  | some c => some c
  | none =>
    let lives := match d.resolve seam (BitVec.ofNat 64 (field b 0 8)) with
      | .ok (.resident _) => true
      | _ => false
    if kind = 0x24 && !lives then some 0x2A
    else if d.ordersFull kind seam then some 0x22 else none

/-- The tokens an order needs, by SET: how many of sets 0, 1 and 3, and which indices of the new set (09:R218). -/
structure Needs where
  range : Nat
  seam : Nat
  fresh : List Nat
  owner : Nat

/-- Indices of a new set whose keys the current one does not hold. -/
def freshKeys (new : CustSet) (cur : Option CustSet) : List Nat :=
  (List.range new.keys.length).filter fun i =>
    match new.keys[i]? with
    | some k => !((cur.map (·.keys)).getD []).contains k
    | none => false

/-- What an order needs of the sets as they stand. -/
def Dev.needs (d : Dev) (o : Order) : Needs :=
  let rm := (d.rangeSet.map (·.m)).getD 0
  let cur := d.seamSet o.seam
  let new := o.newSet.getD ⟨0, []⟩
  match o.kind with
  | 1 => ⟨0, 0, List.range new.keys.length, 0⟩
  | 0x0E => ⟨rm, 0, freshKeys new d.rangeSet, 0⟩
  | 0x0F => ⟨rm, 0, freshKeys new cur, 1⟩
  | 0x20 => match cur with
    | some c => ⟨0, c.m, freshKeys new cur, 0⟩
    | none => ⟨0, 0, freshKeys new none, 1⟩
  | k => if k < 0x20 then ⟨rm, 0, [], 0⟩ else ⟨0, (cur.map (·.m)).getD 0, [], 0⟩

/-- Tokens needed in all. -/
def Needs.total (n : Needs) : Nat := n.range + n.seam + n.fresh.length + n.owner

/-- Counted tokens of a set. -/
def Order.from' (o : Order) (set' : Nat) : List Nat := (o.counted.filter fun t => t.1 == set').map (·.2)

/-- The quorum is reached: every group has its count. -/
def Needs.met (n : Needs) (o : Order) : Bool :=
  decide (n.range ≤ (o.from' 0).length) && decide (n.seam ≤ (o.from' 1).length) && n.fresh.all (o.from' 2).contains &&
    decide (n.owner ≤ (o.from' 3).length)

/-- DIGEST of an order (09:Table 9.1). -/
def Order.digest (o : Order) : List Byte := sha384 (leBytes 2 o.kind ++ leBytes 2 o.seam ++ o.body)

/-- The receipt (09:R219). -/
def Order.receipt (o : Order) : List Byte :=
  leBytes 4 o.num ++ [BitVec.ofNat 8 o.needed, 0, 0, 0] ++ leBytes 8 o.nonceExpiry ++ o.nonce ++ o.digest

/-- 600 s, 3,600 s and 86,400 s in ns. -/
def nonceTime : Nat := 600 * 1000000000
def armedTime : Nat := 3600 * 1000000000
def pendingTime : Nat := 86400 * 1000000000

/-- A change to an order. -/
def Dev.modOrder (d : Dev) (num : Nat) (f : Order → Order) : Dev :=
  d.modQuorum fun q => { q with orders := q.orders.map fun (o : Order) => if o.num = num then f o else o }

/-- A nonce of 32 bytes from the boss ridge's internal DRBG (09:R216). -/
def Dev.orderNonce (d : Dev) : List Byte × Dev :=
  let (k, d) := (d.generate d.boss false 1).draw
  (randomBytes k 32, d)

/-- ORDER_OPEN. -/
def Dev.openOrder (d : Dev) (n : Nat) (x : Desc) (body : List Byte) : Dev :=
  let kind := x.p 0 8
  let seam := orderSeam kind x.keyB
  match d.openFault kind seam body with
  | some c => d.mqComplete n (orderRefusal c)
  | none =>
    let (nonce, d) := d.orderNonce
    let num := d.quorum.nextOrder
    let o : Order :=
      { num, kind, seam, body, state := .pending, counted := [], needed := 0, nonce, nonceExpiry := d.clock + nonceTime
        oldNonces := [], deadline := d.clock + pendingTime, result := 0 }
    let o := { o with needed := (d.needs o).total }
    let d := d.modQuorum fun q => { q with nextOrder := num + 1, orders := q.orders ++ [o] }
    (d.setOrder num .pending).cmdDone n x o.receipt

/-! ## Actions of direct orders (09:Table 9.3) -/

/-- The refusal of a SEAL: the number of the first condition of 02:R56 that fails. -/
def Dev.sealFault (d : Dev) : Option Nat :=
  if !((d.fw.slot d.fw.active).map (·.counter)).getD false then some 1
  else if !(d.vigil.cellA && d.vigil.cellB && d.vigil.vholdOk) then some 2
  else if !d.vigil.xtalOk then some 3
  else if d.openOrders.any fun o => [6, 7, 8].contains o.kind then some 4 else none

/-- The handle of an EXPORT_WIDEN body. -/
def Order.keyHandle (o : Order) : W64 := BitVec.ofNat 64 (field o.body 0 8)

/-- The index of the resident key that a handle names. -/
def Dev.residentIndex (d : Dev) (s : Nat) (h : W64) : Option Nat :=
  match d.resolve s h with
  | .ok (.resident i) => some i
  | _ => none

/-- DETAIL of an ORDER_TOKEN (09:R221). -/
def Order.detail (o : Order) (reached armed : Bool) : Nat :=
  o.counted.length % 64 + o.needed % 64 * 256 + (if reached then 2 ^ 16 else 0) + if armed then 2 ^ 17 else 0

/-- The refusal of a direct order at its quorum, beside its mode: 02:R56, Table 9.3's EXPORT_WIDEN, a key store without room
(08:R187). DETAIL is R221's count where neither R56 nor R410 gives another (log 30). -/
def Dev.actionFault (d : Dev) (o : Order) : Option Verdict :=
  let ends := fun (st : BitVec 16) => refuse st (o.detail true false)
  let room := fun (rs : List Nat) (body : Nat) (old : Option CustSet) =>
    if d.storeRoom rs body (old.map fun c => c.bytes.length) then none else some (ends stStoreFull)
  match o.kind with
  | 2 => d.sealFault.map (refuse stMode)
  | 0x0E => o.newSet.bind fun s => room d.deviceHolders s.bytes.length d.rangeSet
  | 0x0F | 0x20 => o.newSet.bind fun s => room (d.holders o.seam) s.bytes.length (d.seamSet o.seam)
  | 0x22 => room (d.holders o.seam) o.body.length none
  | 0x24 => match d.residentIndex o.seam o.keyHandle with
    | none => some (refuse stBadHandle 1)
    | some i => if ((d.keyEntry o.seam i).map fun e => tNever e.template).getD true then some (ends stMode) else none
  | _ => none

/-- COMMISSION: VSALT is drawn, SRK derived on every ridge, and the Range-owner set and the countersigning key are stored under
it on ridges 0 and 1 (02:R54, 09:R214). -/
def Dev.commission (d : Dev) (o : Order) : Dev :=
  let cs := (readSet o.body 16).bind fun (_, rest) => (readRecord rest).map (·.1)
  let (k, d) := (d.generate d.boss false 1).draw
  let v := BitVec.ofNat 256 (leNat (randomBytes k 32))
  let d := (d.modVigil fun x => { x with vsalt := some v }).deriveRoots
  let d := match o.newSet with
    | some c => d.putDevice 3 0x8021 (.custodians c)
    | none => d
  let d := match cs with
    | some k => d.putDevice 4 0x8021 (.progKey k)
    | none => d
  let plain := fun (i : FwImage) => { i with counter := false }
  let d := d.modFw fun f => { f with slot0 := f.slot0.map plain, slot1 := f.slot1.map plain }
  d.changeMode .commission

/-- UNLOCK: the mode in PRIOR returns, and fetching resumes from the SQ heads (02:R39, Table 2.4). -/
def Dev.unlock (d : Dev) : Dev :=
  let m := Mode.ofBits d.prior.val
  let d := d.modSeams fun _ (y : Seam) => { y with run := y.run.noPrefetch }
  (d.changeMode m 0 d.exported).fetchAll

/-- ZEROIZE: as a class Z event, without TAMPER_OUT_N; the token's own command completes (08:R211, 13:R300). -/
def Dev.zeroize (d : Dev) (cmd : Nat) : Dev :=
  let d := d.wakeAll.eraseVsalt.changeMode .zeroized
  let d := d.modPins fun p => { p with firedamp := true, zeroOut := true }
  ((d.abortJobs d.notEnded stAbortTamper false).abortCmds stAbortTamper [cmd]).firedampWipe

/-- FUSE_OFF: the fuse is blown, and the bits of its sources read 0 (13:R302). -/
def Dev.blowFuse (d : Dev) (id : Nat) : Dev :=
  match fuseOf id with
  | none => d
  | some f =>
    let off := d.tamp.fuseoff.val ||| (1#12 <<< f)
    let m := ((List.range 16).filter fun i => fuseOf i == some f).foldl (fun (m : BitVec 32) i => m ||| (1#32 <<< i)) 0
    let d := { d with fuses := { d.fuses with off := off } }
    d.modTamp fun t => { t with fuseoff := .of off, live := t.live &&& ~~~m, latch := t.latch &&& ~~~m }

/-- A slot of the decode table takes its image, on every ridge (10:R242, R243). -/
def Dev.writeDecode (d : Dev) (b : List Byte) : Dev :=
  let ops := (List.range (field b 1 1)).map fun i => BitVec.ofNat 64 (field b (8 + 8 * i) 8)
  { d with decode := d.decode.set (field b 0 1) ops }

/-- A seam's set is replaced (09:R214). -/
def Dev.replaceSet (d : Dev) (s : Nat) (c : CustSet) (origin : BitVec 16) : Dev :=
  let d := d.eraseEntries fun e => e.kind == 3 && e.owner == some s
  d.storeEntry (d.holders s) (d.keadeEntry 3 (some s) 1 origin (.custodians c))

/-- PROG_KEY_ENROL: a key already enrolled is not entered twice. -/
def Dev.enrol (d : Dev) (s : Nat) (b : List Byte) (origin : BitVec 16) : Dev :=
  match readRecord b with
  | some (k, _) =>
    if (d.progKeys s).contains k then d
    else d.storeEntry (d.holders s) (d.keadeEntry 4 (some s) (d.itemIndex 4 (some s)) origin (.progKey k))
  | none => d

/-- PROG_KEY_REMOVE: the key goes, and the images of its signer that do not run (10:R247). -/
def Dev.unenrol (d : Dev) (s : Nat) (digest : List Byte) : Dev :=
  (d.eraseEntries fun e => e.kind == 4 && e.owner == some s && match e.payload with
    | .progKey k => sha384 k.bytes == digest
    | _ => false).purgePrograms s

/-- EXPORT_WIDEN: EXPORTABLE is set on both copies, sealed again under a fresh nonce since the AAD holds TEMPLATE (08:R184,
R191). -/
def Dev.widen (d : Dev) (o : Order) : Dev :=
  match d.residentIndex o.seam o.keyHandle with
  | some i => (d.drawNonce (some o.seam)).modEntries (Entry.isKey o.seam i) fun e =>
      { e with template := e.template ||| (1#64 <<< 32), nonce := d.draws }
  | none => d

/-- The action of a direct order. -/
def Dev.act (d : Dev) (o : Order) (cmd : Nat) : Dev :=
  match o.kind with
  | 1 => d.commission o
  | 2 => d.changeMode .service
  | 3 => d.discardCommission.changeMode .blank
  | 4 => d.unlock
  | 5 => d.zeroize cmd
  | 6 => d.blowFuse o.source
  | 8 => d.writeDecode o.body
  | 9 => d.modQuorum fun q => { q with permitEnd := some (d.clock + field o.body 0 2 * 1000000000) }
  | 0x0E => match o.newSet with
    | some c => d.putDevice 3 0x8021 (.custodians c)
    | none => d
  | 0x0F | 0x20 => match o.newSet with
    | some c => d.replaceSet o.seam c (BitVec.ofNat 16 0x8021)
    | none => d
  | 0x22 => d.enrol o.seam o.body (BitVec.ofNat 16 0x8021)
  | 0x23 => d.unenrol o.seam o.body
  | 0x24 => d.widen o
  | 0x25 => d.modEntry o.seam fun e => { e with
      migAllow := field o.body 0 1 == 1, migFloor := BitVec.ofNat 32 (field o.body 4 4) }
  | _ => d

/-! ## Tokens (09:R215, R216, R221, R224) -/

/-- An authorising kind. -/
def authorises (kind : Nat) : Bool := [7, 0x0A, 0x0B, 0x0C, 0x0D, 0x21].contains kind

/-- The statement that a token signs (09:Table 9.1). -/
def Dev.statement (d : Dev) (o : Order) (nonce : List Byte) (set' index : Nat) : List Byte :=
  ascii "UJ840TOK" ++ d.serial ++ nonce ++ leBytes 2 o.kind ++ leBytes 1 set' ++ leBytes 1 index ++ leBytes 2 o.seam ++ [0, 0] ++
    o.digest

/-- The key that a token's SET and INDEX name for an order, with the signature that follows. -/
def Dev.signer (d : Dev) (o : Order) (set' index : Nat) (rest : List Byte) : Option (KeyRecord × List Byte) :=
  let n := d.needs o
  let pick := fun (c : Option CustSet) => ((c.map (·.keys)).getD [])[index]?.map fun k => (k, rest)
  match set' with
  | 0 => if 0 < n.range then pick d.rangeSet else none
  | 1 => if 0 < n.seam then pick (d.seamSet o.seam) else none
  | 2 => if n.fresh.contains index then pick o.newSet else none
  | 3 =>
    if 0 < n.owner ∧ index = 0 then
      (readRecord rest).bind fun (k, sig) =>
        if leNat (sha384 k.bytes) = (d.seam o.seam).entry.ownerDigest.val.toNat then some (k, sig) else none
    else none
  | _ => none

/-- The refusal of a token: its form and key, counted already, its nonce, its signature (log 30). -/
def Dev.tokenFault (d : Dev) (o : Order) (b : List Byte) : Option Nat :=
  let set' := field b 0 1
  let index := field b 1 1
  if b.length < 4 ∨ field b 2 2 ≠ 0 then some 0x28
  else match d.signer o set' index (b.drop 4) with
  | none => some 0x28
  | some (k, sig) =>
    let signs := fun (nonce : List Byte) => k.verifies (d.statement o nonce set' index) sig
    if o.counted.contains (set', index) then some 0x27
    else if o.nonceExpiry ≤ d.clock then some 0x26
    else if signs o.nonce then none
    else if o.oldNonces.any signs then some 0x26 else some 0x25

/-- An order at its quorum ends: REFUSED with a status. -/
def Dev.refuseOrder (d : Dev) (n : Nat) (o : Order) (v : Verdict) : Dev :=
  ((d.modOrder o.num fun x => { x with result := v.status }).setOrder o.num .refused).mqComplete n v

/-- The order may execute or arm: in a mode listed for it, and for a seam that is ACTIVE or FROZEN (09:R218). -/
def Dev.mayExecute (d : Dev) (o : Order) : Bool :=
  let st := (d.seam o.seam).entry.state
  kindRuns o.kind o.release d.live && (!kindSeam o.kind || st == .active || st == .frozen)

/-- An order at its quorum: it arms, or its action is carried out; conflicting orders are superseded in the same step
(09:R217, R218, R226). -/
def Dev.quorumReached (d : Dev) (n : Nat) (o : Order) : Dev :=
  let d := d.stamp fun t c => { t with order := c }
  if !d.mayExecute o then d.refuseOrder n o ⟨stMode, BitVec.ofNat 32 (o.detail true false), 0⟩
  else if authorises o.kind then
    let d := (d.modOrder o.num fun x => { x with deadline := d.clock + armedTime }).setOrder o.num .armed
    (d.supersede o).mqComplete n ⟨stDone, BitVec.ofNat 32 (o.detail true true), 0⟩
  else match d.actionFault o with
  | some v => d.refuseOrder n o v
  | none =>
    let d := (d.setOrder o.num .done).supersede o
    (d.act o n).mqComplete n ⟨stDone, BitVec.ofNat 32 (o.detail true false), 0⟩

/-- ORDER_TOKEN. A COMMISSION that cannot draw VSALT yet waits (12:R288). -/
def Dev.orderToken (d : Dev) (n num : Nat) (b : List Byte) : Dev :=
  match d.order num with
  | none => (d.tokenEvent num b true).mqComplete n (orderRefusal 0x24)
  | some o =>
    if o.state = .superseded then (d.tokenEvent num b true).mqComplete n (refuse stSuperseded 0x24)
    else if o.state ≠ .pending then (d.tokenEvent num b true).mqComplete n (orderRefusal 0x24)
    else match d.tokenFault o b with
    | some c => (d.tokenEvent num b true).mqComplete n (orderRefusal c)
    | none =>
      let o := { o with counted := o.counted ++ [(field b 0 1, field b 1 1)] }
      if (d.needs o).met o then
        if o.kind = 1 && !d.drawable d.boss .internal then d
        else (((d.tokenEvent num b false).modOrder num fun _ => o)).quorumReached n o
      else ((d.tokenEvent num b false).modOrder num fun _ => o).mqComplete n ⟨stDone, BitVec.ofNat 32 (o.detail false false), 0⟩

/-- ORDER_TOKEN with RENEW: a new nonce and its receipt. -/
def Dev.renewOrder (d : Dev) (n num : Nat) (x : Desc) : Dev :=
  match d.order num with
  | none => d.mqComplete n (orderRefusal 0x24)
  | some o =>
    if o.state = .superseded then d.mqComplete n (refuse stSuperseded 0x24)
    else if o.state ≠ .pending then d.mqComplete n (orderRefusal 0x24)
    else
      let (nonce, d) := d.orderNonce
      let o := { o with nonce := nonce, nonceExpiry := d.clock + nonceTime, oldNonces := o.nonce :: o.oldNonces }
      (d.modOrder num fun _ => o).cmdDone n x o.receipt (o.detail false false)

/-- ORDER_CANCEL (09:R223). -/
def Dev.cancelOrder (d : Dev) (n num : Nat) : Dev :=
  match d.order num with
  | some o => if o.isOpen then (d.setOrder num .cancelled).mqComplete n done else d.mqComplete n (orderRefusal 0x24)
  | none => d.mqComplete n (orderRefusal 0x24)

/-- An open order in a state lapses at its deadline (09:R222). -/
def Dev.lapseOrder (d : Dev) (num : Nat) (st : OrderState) : Dev :=
  match d.order num with
  | some o => if o.state = st then (d.reach o.deadline).setOrder num .lapsed else d
  | none => d

/-- The permit ends: EXTEST gives way to BYPASS where the mode does not allow it (09:R225, 18:R397). -/
def Dev.endPermit (d : Dev) : Dev :=
  match d.quorum.permitEnd with
  | none => d
  | some t =>
    let d := (d.reach t).closePermit
    if d.live = .factory ∨ d.live = .blank then d else d.closeExtest

/-! ## Commands -/

/-- ORDER_OPEN (09:R220). -/
def execOrderOpen (cmd : Nat) (s : State) : Host.Outcome State Fault Refusal := s.upd fun d =>
  if d.drawable d.boss .internal then d.command cmd 0x8020 fun d x _ aux => d.openOrder cmd x aux else d

/-- ORDER_TOKEN (09:R221). -/
def execOrderToken (cmd : Nat) (s : State) : Host.Outcome State Fault Refusal := s.upd fun d =>
  d.command cmd 0x8021 fun d x inp _ => if x.p 0 1 = 0 then d.orderToken cmd x.orderNum inp else d

/-- ORDER_TOKEN with RENEW (09:R221). -/
def execOrderRenew (cmd : Nat) (s : State) : Host.Outcome State Fault Refusal := s.upd fun d =>
  if d.drawable d.boss .internal then
    d.command cmd 0x8021 fun d x _ _ => if x.p 0 1 = 1 then d.renewOrder cmd x.orderNum x else d
  else d

/-- ORDER_CANCEL (09:R223). -/
def execOrderCancel (cmd : Nat) (s : State) : Host.Outcome State Fault Refusal :=
  s.upd fun d => d.command cmd 0x8022 fun d x _ _ => d.cancelOrder cmd x.orderNum

/-- ORDER_PENDING_LAPSE: 86,400 s after it was opened (09:R222). -/
def execOrderPendingLapse (order : Nat) (s : State) : Host.Outcome State Fault Refusal :=
  s.upd fun d => d.lapseOrder order .pending

/-- ORDER_ARMED_LAPSE: 3,600 s after it was armed (09:R222). -/
def execOrderArmedLapse (order : Nat) (s : State) : Host.Outcome State Fault Refusal :=
  s.upd fun d => d.lapseOrder order .armed

/-- NONCE_EXPIRY: the clock has passed 600 s from the issue; a token over the nonce is refused from now on (09:R216). -/
def execNonceExpiry (order : Nat) (s : State) : Host.Outcome State Fault Refusal := s.upd fun d =>
  match d.order order with
  | some o => if o.state = .pending then d.reach o.nonceExpiry else d
  | none => d

/-- EXTEST_PERMIT_EXPIRY (09:R225, 18:R397). -/
def execExtestPermitExpiry (s : State) : Host.Outcome State Fault Refusal := s.upd fun d => d.endPermit

end Sys2Proof.Machine
end

