-- ==== Sys2Proof/Machine/Power.lean ====
section
/-! DEFINITION. Supplies and power-up: the loss and return of main power, POR_N, PFW_N, the power cut, VIGIL, the steps of
02:Table 2.7; the Vigil domain's commands; losing and regaining links and ridges; spine transfers; sleep, wake and clock
gating; tamper commands (02:R35 to R50, 08:R188, R198, R212, 13, 14:R323 to R332, 16:R354 to R364, log 31). -/

namespace Sys2Proof.Machine

/-! ## Persistent registers (16:R366) -/

/-- The place of a persistent register in `Power.pers`: words first, then the other registers. -/
def persCode : PersSlot → Nat
  | .word n => n
  | .classPkg => 1024
  | .classRidge => 1025
  | .tampCtrl => 1026
  | .cacheMode => 1027
  | .neighbour => 1028
  | .envelope => 1029

/-- A write: at once as reads see it; committed when 1 ms has passed since the last commit, else pending, a replaced
pending value counted. -/
def Dev.persWrite (d : Dev) (slot : PersSlot) (v : W64) : Dev :=
  let k := persCode slot
  let p := d.pers k
  let free := match p.last with
    | none => true
    | some t => decide (t + 1000000 ≤ d.clock)
  let p' := { p with value := v }
  d.modPower fun x => { x with
    pers := assocSet x.pers k (if free then d.persSave p' else { p' with waits := true })
    coalesced := if !free && p.waits then satInc x.coalesced else x.coalesced }

/-- The pending value commits, 1 ms after the last commit. -/
def Dev.persCommit (d : Dev) (slot : PersSlot) : Dev :=
  let k := persCode slot
  let p := d.pers k
  if p.waits then
    let d := d.reach ((p.last.getD 0) + 1000000)
    d.modPower fun x => { x with pers := assocSet x.pers k (d.persSave p) }
  else d

/-- Every pending value commits: the flush of a power cut (16:Table 16.4). -/
def Dev.persFlush (d : Dev) : Dev :=
  d.modPower fun x => { x with pers := x.pers.map fun e => if e.2.waits then (e.1, d.persSave e.2) else e }

/-- The value that MRAM holds; a default for a register never written. -/
def Dev.stored (d : Dev) (slot : PersSlot) (default' : W64) : W64 :=
  match assocGet d.power.pers (persCode slot) with
  | some p => p.best.value
  | none => default'

/-- The mirrors of a register at power-up step 9: one that differs takes the value with the higher write sequence; with one
ridge out of reach the other one's copy stands (16:R367). -/
def Pers.settle (p : Pers) (on0 on1 : Bool) : Pers :=
  let c := if on0 && on1 then p.best else if on0 then p.copy0 else if on1 then p.copy1 else p.best
  { p with value := if p.waits then p.value else c.value, copy0 := if on0 then c else p.copy0, copy1 := if on1 then c else p.copy1 }

/-- Step 9: the mirrors of every persistent register are settled. -/
def Dev.settlePers (d : Dev) : Dev :=
  d.modPower fun x => { x with
    pers := x.pers.map fun e => (e.1, e.2.settle (d.reaches 0) (d.reaches 1)), unmirrored := !(d.reaches 0 && d.reaches 1) }

/-! ## Losing state (02:R48, 18:R389, the 'Survives VIGIL' columns) -/

/-- What a ridge keeps: its MRAM. -/
def Ridge.offline (x : Ridge) : Ridge := { Ridge.reset with store := x.store }

/-- What a seam keeps: its entry, its key count, its snapshot and the destination it was saved for. -/
def Seam.offline (x : Seam) : Seam :=
  { x with run := { SeamRun.blank with keyCount := x.run.keyCount, snapshot := x.run.snapshot, savedTo := x.run.savedTo } }

/-- TAMP registers as stored: CTRL from its word, the package latches, no condition shown. -/
def Dev.storedTamp (d : Dev) : Tamp :=
  let c := d.stored .tampCtrl 0xA00
  { d.tamp with
    classPkg := .of (d.stored .classPkg Tamp.reset.classPkg.val)
    classRidge := .of ((d.stored .classRidge (Tamp.reset.classRidge.val.setWidth 64)).setWidth 32)
    vigilMode := .of (c.extractLsb' 0 1), outOnL := .of (c.extractLsb' 1 1), outMs := .of (c.extractLsb' 8 8)
    tinPol := .of (c.extractLsb' 16 8), live := 0 }

/-- Everything that neither MRAM, the fuses nor the Vigil domain holds returns to its reset value. -/
def Dev.volatileReset (d : Dev) : Dev :=
  let cleared : LogBlock := LogBlock.reset
  let code : BitVec 8 := if d.access.instruction = 3 then 0xFF else 1
  { d with
    linkA := Link.reset, linkB := Link.reset, cplTimeout := 200, mq := MQ.reset
    quorum := { d.quorum with conflicts := 0, permitEnd := none }
    seams := d.seams.map fun e => (e.1, e.2.offline)
    ridges := d.ridges.map Ridge.offline, jobs := [], perf := []
    log := { cleared with
      recs := d.log.recs, site := d.log.site, mirror := d.log.mirror, mirrored := d.log.mirrored, next := d.log.next }
    power :=
      { d.power with
        envelope := (d.stored .envelope (BitVec.ofNat 64 d.maxWatts)).toNat, bmcCap := d.maxWatts, pfw := false
        sleepUs := 1000, coalesced := 0, unmirrored := false
        pers := d.power.pers.map fun e => (e.1, { e.2 with value := e.2.best.value, waits := false }) }
    access := ⟨none, 0, 0, 0, [], code, 0, if code = 1 then d.fuses.idcode else 0⟩
    tamp := d.storedTamp, boot := ⟨0, 0, false, 0, 0, false⟩
    pins := { d.pins with firedamp := false, held := [] }
    vigil := { d.vigil with merged := 0 }
    unsealed := false, trained := false
    cacheMode := (d.stored .cacheMode 0).getLsbD 0, neighbour := (d.stored .neighbour 1).getLsbD 0 }

/-- The ridges stop and the device is in VIGIL with its mode stored; what the Vigil domain watches keeps its conditions
(02:R37, 16:Table 16.4). -/
def Dev.enterVigil (d : Dev) (cut main : Bool) : Dev :=
  let live := d.tamp.live
  let warm := (d.ridge 0).live &&& 0x18
  let held := match d.vigil.current with
    | some r => r.mode.bits
    | none => d.mode.val
  let d := (d.volatileReset.modTamp fun t => { t with live := live }).modRidge 0 fun x => { x with live := warm }
  let d := d.modVigil fun v => { v with held := held, lost := 0 }
  { d with mode := .of 7 }.modPins fun p => { p with inVigil := true, cut := cut, mainPower := main }

/-- Every event detected so far reaches the log. -/
def Dev.flushAll (d : Dev) : Dev := (none :: d.ridgeNums.map some).foldl (fun d s => d.flushEvents s) d

/-- The power cut: jobs past their commit point complete, every other job and MQ command under way is aborted, what MRAM
must hold is flushed, and the device is in VIGIL. What the links were handed stays theirs (14:R332, 16:R362). -/
def Dev.powerCut (d : Dev) : Dev :=
  let d := d.stamp fun t c => { t with cut := c }
  let d := ((d.modPins fun p => { p with cut := true }).modPower fun p => { p with pfw := true }).pkgEvent 50 0
  let ended := (d.jobs.filter fun j => j.job.ended).map (·.num)
  let d := ended.foldl (fun d n => d.commitAck n) d
  let d := (d.abortJobs d.notEnded stAbortPower false).abortCmds stAbortPower []
  let d := d.persFlush.flushAll
  let a := d.linkA.unacked
  let b := d.linkB.unacked
  let d := (d.enterVigil true true).modPower fun p => { p with pfw := true }
  (d.modLink .a fun x => { x with unacked := a }).modLink .b fun x => { x with unacked := b }

/-- PFW_N falls: the power cut once Keade or the boot ROM's hold runs; earlier it only holds the power-up (16:R362, R364). -/
def Dev.pfwFalls (d : Dev) : Dev :=
  let d := d.modPins fun p => { p with pfwLow := true }
  if d.pins.mainPower && !d.pins.cut && !d.pins.inVigil && (decide (5 ≤ d.boot.step) || d.boot.romHold) then d.powerCut else d

/-- POR_N falls with main power present: everything but the Vigil domain is reset (18:R389). -/
def Dev.porFalls (d : Dev) : Dev :=
  if d.pins.mainPower then
    let held := d.mode.val
    if d.pins.inVigil then d.modPins fun p => { p with porLow := true }
    else (d.volatileReset.modVigil fun v => { v with held := held }).modPins fun p => { p with porLow := true }
  else d

/-- Main power goes. With neither PFW_N nor POR_N low before it, every ridge sees its rail below range first (18:R388). -/
def Dev.mainLost (d : Dev) : Dev :=
  if !d.pins.mainPower then d
  else if d.pins.inVigil then
    (d.modPower fun p => { p with pfw := false }).modPins fun p => { p with mainPower := false, cut := false, porLow := false }
  else
    let d := if d.pins.porLow || d.pins.pfwLow then d
      else (d.tamper (d.ridgeNums.map fun r => (⟨ridgeId r 1, 0⟩ : TamperHit))).flushAll
    (d.enterVigil false false).modPins fun p => { p with porLow := false }

/-- The Vigil domain has a supply. -/
def Dev.vigilLives (d : Dev) : Bool := d.pins.mainPower || d.vigil.cellA || d.vigil.cellB

/-- An event in VIGIL. The loss of the last cell with main power absent is the loss of both (13:R312). -/
def Dev.vigilHit (d : Dev) (id : Nat) : Dev :=
  if !d.vigilLives then d
  else if id = 18 && !d.pins.mainPower then (if d.isLive 18 then d else d.cellsLost)
  else
    let d := d.vigilEvent id
    if d.pins.inVigil && !d.vigilLives && !d.isLive 18 then d.cellsLost else d

/-! ## Steps 1 to 3: the Vigil status (02:R35, R43, R44, 13:R307, R312, R313) -/

/-- The TIME of the newest pit log record. -/
def Dev.newestTime (d : Dev) : Option Nat := d.log.recs.head?.map (·.time)

/-- DEV.LAST_MODE, but for LATCHED: after VIGIL, after POR_N, with the record lost, or with none at all. With none at all LAST
reads 7 and HELD 7: the model's choice, the spec gives them no value there (log 31). -/
def Dev.readLast (d : Dev) (was : Bool) : LastMode :=
  match d.vigil.current, d.modeCopy with
  | none, none => ⟨7, 7, 0, false⟩
  | none, some c => ⟨7, c.mode.bits, 3, false⟩
  | some _, _ => if was then ⟨7, d.vigil.held, 1, false⟩ else ⟨d.vigil.held, d.vigil.held, 2, false⟩

/-- Steps 1 to 3. The highest latched or held class is the answer beside the device. -/
def Dev.bootVigil (d : Dev) (vholdOk : Bool) : Dev × BitVec 2 :=
  let was := d.pins.inVigil
  let d := d.modPins fun p => { p with mainPower := true, porLow := false, inVigil := false, cut := false }
  let d := (d.modLink .a fun x => { x with unacked := [] }).modLink .b fun x => { x with unacked := [] }
  let d := d.modPower fun p => { p with pfw := false }
  let d := if was then (d.modTamp fun t => { t with live := 0 }).modRidges fun x => { x with live := 0, latch := 0 } else d
  let d := if vholdOk then (d.clearSource 19).markSupply 19 true
    else (d.tamper [⟨19, 0⟩]).modVigil fun v => { v with vholdOk := false }
  let cls := highest (d.vigil.log.map (·.cls) ++ d.pins.held.map (·.2))
  let last := { d.readLast was with latched := cls != 0 }
  let d := match d.vigil.current, d.newestTime with
    | none, some t => { d with clock := t + 1000000000 }
    | _, _ => d
  let d := if d.vigil.current.isNone then d.eraseVsalt else d
  let d := if 2 ≤ cls.toNat then d.eraseVsalt.driveOut else if cls = 1 && d.tamp.outOnL.val == 1 then d.driveOut else d
  ({ d with lastMode := last }.modPins fun p => { p with held := [] }, cls)

/-! ## Step 4: the mode (02:R36, R44) -/

/-- The mode that Table 2.6 gives, PRIOR, and whether a scrub follows. -/
def resolved (stored : Mode) (prior : BitVec 3) (cls : BitVec 2) (lost : Bool) : Mode × BitVec 3 × Bool :=
  let z := lost || decide (2 ≤ cls.toNat)
  match stored with
  | .factory => (.factory, 0, false)
  | .commission => if z then (.zeroized, 0, true) else (.blank, 0, false)
  | .service => if z then (.zeroized, 0, true) else if cls = 1 then (.locked, 3, false) else (.service, 0, false)
  | .freeze => if z then (.zeroized, 0, true) else if cls = 1 then (.locked, 4, false) else (.freeze, 0, false)
  | .locked => if z then (.zeroized, 0, true) else (.locked, prior, false)
  | .zeroized => (.zeroized, 0, true)
  | _ => (.blank, 0, false)

/-- The MRAM copy agrees with the current record: equal to it, to the discarded proposal, or older (02:R36). -/
def Dev.copyAgrees (d : Dev) : Bool :=
  match d.vigil.current, d.modeCopy with
  | some r, some c => c == r || (!d.vigil.commit && d.vigil.proposed == some c) || decide (c.seq.toNat < r.seq.toNat)
  | _, _ => true

/-- The record takes the resolved mode, and its copy follows. -/
def Dev.setRecord (d : Dev) (m : Mode) (prior : BitVec 3) (exported : Bool) : Dev :=
  match d.vigil.current with
  | some r =>
    if r.mode = m ∧ r.prior = prior ∧ r.exported = exported then
      { d.modVigil (fun v => { v with proposed := none, commit := false }) with modeCopy := some r }
    else ((d.propose m prior exported).copyRecord).commitRecord
  | none =>
    let seq := (d.modeCopy.map (·.seq)).getD 0 + 1
    { d.modVigil (fun v => { v with current := some ⟨m, prior, exported, seq⟩, proposed := none, commit := false }) with
      modeCopy := some ⟨m, prior, exported, seq⟩ }

/-- Step 4: the fuses are sensed, the mode resolved, orders and the permit end, and DEV.MODE is valid. With no mode record
anywhere the mode is BLANK when the shipment fuse is blown, else FACTORY: the model's choice, Table 2.6 has no row for it
(log 31). -/
def Dev.bootMode (d : Dev) (cls : BitVec 2) : Dev :=
  let old := d.mode.val.toNat
  let d := d.modTamp fun t => { t with fuseoff := .of d.fuses.off }
  let lost := d.vigil.current.isNone
  let fresh : ModeRec := ⟨if d.fuses.shipped then .blank else .factory, 0, false, 0⟩
  let r := d.vigil.current.getD (d.modeCopy.getD fresh)
  let agrees := d.copyAgrees
  let (m, prior, scrub) := resolved r.mode r.prior cls lost
  let exported := r.exported && !lost && (m == .freeze || (m == .locked && prior == 4))
  let d := if r.mode == .commission then d.discardCommission else d
  let d := (d.setRecord m prior exported).showMode m prior exported
  let d := if scrub then
      (d.eraseVsalt.modPins fun p => { p with zeroOut := true, firedamp := true }).modBoot fun b => { b with scrub := true }
    else d
  let d := d.modBoot fun b => { b with step := 4 }
  let d := if m.bits.toNat = old then d else d.raise none 32 0 (BitVec.ofNat 32 (m.bits.toNat + old * 16))
  let d := ((d.lapse fun _ => true).closePermit).closeExtest
  if agrees then d else d.mismatch 0

/-! ## Steps 5 to 7: images, the spine, the ridges (02:R45, R49, R50, 11:R259, R279) -/

/-- The boot ROM accepts the image of a slot: Askune's signature verifies, and the countersignature where 02:R45 asks. -/
def Dev.slotBoots (d : Dev) (slot : Nat) (f : BootFacts) : Bool :=
  (if slot = 0 then f.imageOk.1 else f.imageOk.2) &&
    match d.fw.slot slot with
    | some i => i.counter || !(d.live == .service || d.live == .freeze || d.live == .locked)
    | none => false

/-- The slot that ridge 0 boots: the active one, else the other. -/
def Dev.bootSlot (d : Dev) (f : BootFacts) : Option Nat :=
  [d.fw.active, d.fw.other].find? fun n => d.slotBoots n f

/-- A ridge fails its tests: its measurement differs from ridge 0's, or it has no engine of some class. -/
def bootHolds (f : BootFacts) (r : Nat) : Bool :=
  (r != 0 && f.measDiffers.contains r) ||
    [EClass.drill, .lattice, .aes, .sha2, .keccak, .core].any fun c => c.blocks.all fun b => f.katFails.contains (r, b)

/-- The connections of a ridge's spine port. -/
def Dev.spineUp (d : Dev) (r : Nat) : BitVec 3 :=
  (List.range 3).foldl (fun (m : BitVec 3) k => if d.populated (Nat.xor r (2 ^ k)) then m ||| (1#3 <<< k) else m) 0

/-- One ridge starts: its measurement is logged, its engines are wiped (06:R154) and tested, its monitors are read, its cores 1
to 3 enter the Surface world (log 46); or it is held out of service, where it still runs its spine port and its link (R49), its
WORLD block as at reset but for the measurement log (17, the example of reading one ridge; log 31). -/
def Dev.bootRidge (d : Dev) (f : BootFacts) (r : Nat) : Dev :=
  let differs := r != 0 && f.measDiffers.contains r
  let (k, d) := d.draw
  let mine := if differs then BitVec.ofNat 384 (leNat (randomBytes k 48)) else f.measured
  let up := d.spineUp r
  let fails := (List.range 33).filter fun b => f.katFails.contains (r, b)
  let d := d.modRidge r fun x => { x with
    inService := true, power := 2
    engines := (List.range 33).map fun b => { Engine.reset with inService := !(fails.contains b) }
    cores := x.cores.mapIdx fun c (y : Core) => { y with deep := c == 0 }
    spine := { x.spine with up := up }
    levels := { x.levels with
      bootCore := BitVec.ofNat 11 (Config.freeNat k), bootSram := BitVec.ofNat 11 (Config.freeNat (k + 1))
      bootTemp := BitVec.ofNat 12 (Config.freeNat (k + 2)) }
    world := { x.world with line := .of 128, meas := mine, expected := f.measured } }
  let d := { d with draws := d.draws + 2 }
  let d := d.addMLog r 0 (if mine = f.measured then 0 else 1) mine
  let d := fails.foldl (fun d b => d.ridgeEvent r 16 (b + 2 * 256)) d
  if bootHolds f r then
    let d := d.modRidge r fun x => { x with
      inService := false, power := 3, engines := List.replicate 33 Engine.reset
      cores := List.replicate 4 Core.reset
      world := { World.reset with mlog := x.world.mlog, mlogNext := x.world.mlogNext } }
    (d.modBoot fun b => { b with ridgeFail := b.ridgeFail ||| (1#8 <<< r) }).pkgEvent 34 (r + 6 * 256)
  else d

/-- The pit log at the end of step 7: both copies, or the one that can be reached (15:R341; log 31). -/
def Dev.joinLog (d : Dev) : Dev :=
  d.modLog fun g => if d.reaches 0 && d.reaches 1 then g.joined else g.alone d.boss

/-- Steps 5 to 7: Keade starts on ridge 0, events held so far are written, the spine trains, the other ridges start. With
no valid image ridge 0 holds in its boot ROM. -/
def Dev.bootRidges (d : Dev) (f : BootFacts) : Dev :=
  match d.bootSlot f with
  | none => d.modBoot fun b => { b with romHold := true }
  | some slot =>
    let d := d.modBoot fun b => { b with romHold := false, slot := slot, step := 5 }
    let d := { d.flushEvents none with trained := true }
    ((d.ridgeNums.foldl (fun d r => d.bootRidge f r) d).modBoot fun b => { b with step := 7 }).joinLog

/-! ## Step 8: entropy and the spine key (12:R287, R289, 01:R20) -/

/-- A source calibrates and runs its start-up test. -/
def Dev.bootSource (d : Dev) (f : BootFacts) (r n : Nat) : Dev :=
  let d := d.calibrate r n
  if f.sourceFails.contains (r, n) then
    ((d.modSrc r n fun x => { x with aptFails := satInc x.aptFails }).ridgeEvent r 58 n).sourceFails r n
  else d.modSrc r n fun x => { x with state := 3, cleanSince := d.clock }

/-- A 384-bit block from a draw. -/
def blockOf (draw i : Nat) : BitVec 384 := BitVec.ofNat 384 (leNat (slice (randomBytes draw 288) (48 * i) 48))

/-- A ridge with a running source instantiates both instances; by step 10 its pool is full and its RNG_DATA buffer has
been filled (12:R287, R291). -/
def Dev.bootEntropy (d : Dev) (f : BootFacts) (r : Nat) : Dev :=
  if !d.serves r then d
  else
    let d := (d.bootSource f r 0).bootSource f r 1
    let x := (d.ridge r).rng
    if x.src0.state = 3 ∨ x.src1.state = 3 then
      let (k, d) := d.draw
      (d.modRng r fun x => { x with
        int := x.int.reseed (d.person r false) (blockOf k 0), host := x.host.reseed (d.person r true) (blockOf k 1)
        pool := [blockOf k 2, blockOf k 3, blockOf k 4, blockOf k 5] }).refillBuf r
    else d

/-- A ridge with no source of its own seeds from a neighbour. -/
def Dev.bootSeed (d : Dev) (r : Nat) : Dev :=
  if d.serves r && (d.ridge r).rng.int.state == 0 && d.starved r then
    let d := d.askSeed r
    match d.ridgeNums.find? fun g => (d.ridge g).rng.askedBy.contains r with
    | some g => d.takeSeed r g
    | none => d
  else d

/-- Step 8: the sources start, and ridge 0 draws the spine key and delivers it. -/
def Dev.bootSources (d : Dev) (f : BootFacts) : Dev := (d.ridgeNums.foldl (fun d r => d.bootEntropy f r) d).bootSeed 0

/-- The spine key on its way to a ridge: the ridge and its pair key, under which it is wrapped, and the draw that the key is
(01:R20). -/
structure WrappedKey where
  ridge : Nat
  pair : List Byte
  draw : Nat

/-- The boot ridge wraps the spine key for a ridge: its key derivation unit alone accepts the number of another ridge. -/
def Dev.wrapKey (d : Dev) (r k : Nat) : WrappedKey := ⟨r, d.pairKey r, k⟩

/-- A ridge opens a wrapped spine key: its key derivation unit computes the pair key of its own number, and no other. -/
def WrappedKey.openAt (w : WrappedKey) (r : Nat) : Option Nat := if w.ridge = r then some w.draw else none

/-- The spine key reaches every populated ridge that is not lost, held in its spine port alone. -/
def Dev.deliverKey (d : Dev) (k : Nat) : Dev :=
  (d.ridgeNums.filter fun r => !(d.ridge r).lost).foldl (init := d) fun d r =>
    d.modRidge r fun x => { x with spine := { x.spine with key := (d.wrapKey r k).openAt r } }

/-- The spine key is drawn once the internal instance of the boot ridge has been seeded, by a neighbour if need be (12:R289; log
31); then every ridge can seed from any
neighbour. -/
def Dev.bootKey (d : Dev) : Dev :=
  if (d.ridge d.boss).rng.int.state = 0 then d
  else
    let (k, d) := d.draw
    let d := (d.generate d.boss false 1).deliverKey k
    (d.ridgeNums.foldl (fun d r => d.bootSeed r) d).modBoot fun b => { b with step := 8 }

/-! ## Step 9: the key store (08:R183, R188, R198, R212) -/

/-- Two copies are of one object. -/
def Entry.twin (e f : Entry) : Bool := e.kind == f.kind && e.owner == f.owner && e.index == f.index

/-- The copies agree in what the AAD covers. -/
def Entry.agrees (e f : Entry) : Bool :=
  { e with state := .committed, consumed := false } == { f with state := .committed, consumed := false }

/-- The granule of an entry: where it lies is not given, so the DETAIL is a free number (log 14). -/
def Dev.freeGranule (d : Dev) : Nat × Dev :=
  let (k, d) := d.draw
  (Config.freeNat k % areaGranules, d)

/-- Entries of a kind, an owner and an INDEX. -/
def Entry.named (kind : Nat) (owner : Option Nat) (i : Nat) (e : Entry) : Bool :=
  e.kind == kind && e.owner == owner && e.index == i

/-- The copies whose bodies or tags do not read back as they were written. -/
def Dev.spoil (d : Dev) (bad : List (Nat × Nat × Option Nat × Nat)) : Dev :=
  bad.foldl (init := d) fun d (r, k, o, i) =>
    d.modRidge r fun x => { x with store := x.store.map fun e => if Entry.named k o i e then { e with intact := false } else e }

/-- The entries of a seam, or of the device, on a ridge. -/
def Ridge.owned (x : Ridge) (o : Option Nat) : List Entry := x.store.filter fun e => e.owner == o

/-- The entries of a seam, or of the device, on a ridge are replaced. -/
def Dev.setOwned (d : Dev) (o : Option Nat) (r : Nat) (es : List Entry) : Dev :=
  d.modRidge r fun x => { x with store := (x.store.filter fun e => e.owner != o) ++ es }

/-- A copy as its twin has it, but for STATE and LIVE, which stand outside the tag. -/
def Entry.rewritten (e twin : Entry) : Entry := { twin with state := e.state, consumed := e.consumed }

/-- The home and mirror ridges of a seam's entries; ridges 0 and 1 for the device's (08:R184). -/
def Dev.pairOf (d : Dev) : Option Nat → Nat × Nat
  | some s => (d.homeOf s, d.mirrorOf s)
  | none => (0, 1)

/-- A copy on one ridge that fails its tag while its twin on the other passes is rewritten from it, and the repair logged with
the granule's number. -/
def Dev.repairFrom (d : Dev) (o : Option Nat) (r t : Nat) : Dev :=
  let v := d.vigil.vsalt
  let good := ((d.ridge t).owned o).filter fun e => e.opens v
  let fixed := ((d.ridge r).owned o).filter fun e => !e.opens v && (good.find? e.twin).isSome
  if fixed.isEmpty then d
  else
    let es := ((d.ridge r).owned o).map fun e =>
      match good.find? e.twin with
      | some g => if e.opens v then e else e.rewritten g
      | none => e
    fixed.foldl (init := d.setOwned o r es) fun d _ =>
      let (g, d) := d.freeGranule
      d.ridgeEvent r 36 g

/-- The copies of a seam's entries, or of the device's, are verified and repaired; when both fail, a shadow mismatch
(08:R188). -/
def Dev.repair (d : Dev) (o : Option Nat) : Dev :=
  let (h, m) := d.pairOf o
  let d := if h ≠ m && d.serves h && d.serves m then (d.repairFrom o h m).repairFrom o m h else d
  let failed := fun (r : Nat) => d.vigil.vsalt.isSome && d.serves r && ((d.ridge r).owned o).any fun e => !e.opens d.vigil.vsalt
  if failed h then d.mismatch h else if failed m then d.mismatch m else d

/-- The copies of a seam's entries on home and mirror under Table 8.5: what stands, and whether any pair mismatches. With
one copy's ridge out of service, its twin is resolved as if it were both. -/
def resolvePairs (home mirror : List Entry) : List Entry × List Entry × Bool :=
  let gone := fun (e : Entry) (o : Option Entry) =>
    e.consumed || e.state == .prepared || (o.map fun f => f.consumed).getD false
  let keepHome := home.filterMap fun e => if gone e (mirror.find? e.twin) then none else some { e with state := EntryState.committed }
  let keepMirror := mirror.filterMap fun e =>
    match home.find? e.twin with
    | some h => if gone h (some e) then none else some { e with state := EntryState.committed }
    | none => if e.consumed || e.state == .prepared then none else some e
  let bad := (keepHome.any fun e => match mirror.find? e.twin with
      | some m => m.state == .committed && !e.agrees m
      | none => true) || keepMirror.any fun e => (home.find? e.twin).isNone
  (keepHome, keepMirror, bad)

/-- The copies of a seam's entries, or of the device's, are reconciled, and a seam's KEY_COUNT follows. With one of the two
ridges out of service the other's copies are resolved as if they were both. -/
def Dev.reconcile (d : Dev) (o : Option Nat) : Dev :=
  let (h, m) := d.pairOf o
  let (h, m) := if d.serves h then (h, m) else (m, h)
  let mine := (d.ridge h).owned o
  if !d.serves h then d
  else
    let both := h ≠ m && d.serves m
    let (a, b, bad) := resolvePairs mine (if both then (d.ridge m).owned o else mine)
    let d := d.setOwned o h a
    let d := if both then d.setOwned o m b else d
    let d := match o with
      | some s => d.modRun s fun x => { x with keyCount := (a.filter fun e => e.kind == 1).length }
      | none => d
    if bad then d.mismatch h else d

/-- Homes and mirrors on ridges held out of service move as for a lost ridge; a seam whose only copy is there is FAULTED
(02:R49, 14:R328). -/
def Dev.moveSeam (d : Dev) (s : Nat) : Dev :=
  let h := d.homeOf s
  let m := d.mirrorOf s
  if d.serves h then (if m ≠ h && !d.serves m then d.unmirror s else d)
  else if m ≠ h && d.serves m then (d.modEntry s fun e => { e with home := .of (BitVec.ofNat 3 m) }).unmirror s
  else d.seamFault s 0

/-- Stale copies: entries on a ridge that is no longer home or mirror of their seam, or whose seam is FREE. -/
def Dev.dropStale (d : Dev) : Dev :=
  d.ridgeNums.foldl (init := d) fun d r =>
    if d.serves r then
      d.modRidge r fun x => { x with store := x.store.filter fun e =>
        match e.owner with
        | none => true
        | some s => (d.seam s).entry.state != .free && (d.holders s).contains r }
    else d

/-- A FAULTED seam returns to ACTIVE with GEN raised (03:R63). -/
def Dev.unfault (d : Dev) : Dev :=
  d.modSeams fun _ x => if x.entry.state = .faulted then
    { x with entry := { x.entry with state := .active, gen := x.entry.gen + 1 } } else x

/-- The scrub: every key area, the decode table and the seam table are empty and the settings of commissioning gone; a ridge
that does not read back as zero is held out (08:R212, 02:R55; log 31). -/
def Dev.scrub (d : Dev) (f : BootFacts) : Dev :=
  let d := ((d.modRidges fun x => { x with store := [] }).discardSettings).modSeams fun _ x =>
    { entry := { SeamEntry.blank with epoch := x.entry.epoch }, run := SeamRun.blank }
  f.scrubFails.foldl (init := d) fun d r =>
    if d.serves r then
      let (g, d) := d.freeGranule
      let d := (d.ridgeEvent r 38 g).modRidge r fun x => { x with
        inService := false, power := 3, engines := List.replicate 33 Engine.reset, rng := x.rng.wipe }
      (d.modBoot fun b => { b with ridgeFail := b.ridgeFail ||| (1#8 <<< r) }).pkgEvent 34 (r + 6 * 256)
    else d

/-- The key store is unsealed, every tag verified, and the copies reconciled, the device's and each seam's. -/
def Dev.unseal (d : Dev) (f : BootFacts) : Dev :=
  let d := d.deriveRoots.unfault
  let d := d.usedSeams.foldl (fun d s => d.moveSeam s) d
  let owners := none :: d.usedSeams.map some
  let d := owners.foldl (fun d o => d.repair o) (d.dropStale.spoil f.badTags)
  owners.foldl (fun d o => d.reconcile o) d

/-- Step 9: unsealing or the scrub, and the merge of the Vigil log. After a Z event since step 4 the store stays sealed. -/
def Dev.bootStore (d : Dev) (f : BootFacts) : Dev :=
  let d := if d.boot.scrub then d.scrub f else if d.live == .zeroized then d else d.unseal f
  d.settlePers.joinLog.mergeVigilLog.modBoot fun b => { b with step := 9 }

/-! ## The sequence (02:R43) -/

/-- Steps 8 and 9; without entropy for the spine key the sequence waits in step 8. -/
def Dev.bootEnd (d : Dev) (f : BootFacts) : Dev :=
  let d := d.bootKey
  if d.boot.step = 8 then d.bootStore f else d

/-- POWER_UP: the sequence from where it stands: from POR or VIGIL, from step 4 where PFW_N held it, from step 8 where
the spine key could not be drawn. -/
def Dev.powerUp (d : Dev) (f : BootFacts) : Dev :=
  if d.pins.cut then d
  else if d.boot.step = 7 && d.pins.mainPower then d.bootEnd f
  else
    let d := if d.boot.step = 0 then
        let (d, cls) := d.bootVigil f.vholdOk
        d.bootMode cls
      else d
    if d.boot.step = 4 && !d.boot.romHold && !d.pins.pfwLow && d.pins.mainPower then
      let d := d.bootRidges f
      if d.boot.step = 7 then (d.bootSources f).bootEnd f else d
    else d

/-- POWER_UP_COMPLETE: step 10. On a scrub path the device is BLANK. -/
def Dev.bootDone (d : Dev) (elapsed : Nat) : Dev :=
  if d.boot.step = 9 then
    let d := d.modBoot fun b => { b with step := 10, elapsed := BitVec.ofNat 16 elapsed }
    let d := d.modRidges fun x => if x.inService && !x.lost then { x with world := { x.world with deepUp := true } } else x
    let d := d.pkgEvent 33 (elapsed % 65536)
    let d := if d.boot.scrub then
        (((d.changeMode .blank).modPins fun p => { p with zeroOut := false, firedamp := false })).modBoot fun b => { b with scrub := false }
      else d
    d.govern.mqFetch
  else d

/-! ## Spine transfers (01:R19, R21, 17:R380) -/

/-- A change to a ridge's spine port. -/
def Dev.modSpine (d : Dev) (r : Nat) (f : SpinePort → SpinePort) : Dev := d.modRidge r fun x => { x with spine := f x.spine }

/-- The latency of a single-hop transfer is measured at the receiver. -/
def SpinePort.measure (p : SpinePort) (k latency : Nat) : SpinePort :=
  let v := BitVec.ofNat 16 (min latency 65535)
  { p with
    latMax := p.latMax.modify k fun m => if m.toNat < v.toNat then v else m
    lats := p.lats.modify k fun l => (v :: l).take 65536 }

/-- A transfer under the spine key arrives, which no ridge can send before every one holds that key (01:R19, R20). One that
fails is discarded and raises spine integrity; when that class neither locks nor zeroizes it is resent once, and a second
failure loses the destination. -/
def Dev.transfer (d : Dev) (src dst : Nat) (authentic : Bool) (latency : Nat) : Dev :=
  if d.trained && d.keyed && d.populated src && d.populated dst && src != dst && !(d.ridge src).lost && !(d.ridge dst).lost then
    let d := d.spineSend src dst
    if authentic then
      let d := d.modSpine dst fun p => { p with retry := p.retry.filter (· != src) }
      if hops src dst = 1 then d.modSpine dst fun p => p.measure (Nat.xor src dst).log2 latency else d
    else
      let again := (d.ridge dst).spine.retry.contains src
      let cls := d.classOfId (ridgeId dst 9)
      let d := (d.modSpine dst fun p => { p with authFails := satInc p.authFails }).tamper [⟨ridgeId dst 9, 0⟩]
      if cls ≠ 0 then d
      else if again then (d.modSpine dst fun p => { p with retry := p.retry.filter (· != src) }).loseRidge dst 4
      else (d.modSpine dst fun p => { p with retry := p.retry ++ [src] }).modSpine src fun p => { p with resends := satInc p.resends }
  else d

/-! ## Sleep, wake, clock gating (16:R354 to R357) -/

/-- A cluster without a job in any engine is gated; an engine under test counts as busy (02:R49). -/
def Dev.gateCluster (d : Dev) (r c : Nat) : Dev :=
  let x := d.ridge r
  if d.serves r && x.power == 2 && decide (c < 7) && !x.waking.getLsbD c &&
      (clusterBlocks c).all fun b => !(x.engine b).holds && !(x.engine b).testing then
    d.modRidge r fun x => { x with gated := x.gated ||| (1#7 <<< c) }
  else d

/-- A gated cluster given a job is awake, and the job starts. -/
def Dev.ungateCluster (d : Dev) (r c : Nat) : Dev :=
  if (d.ridge r).waking.getLsbD c && decide (c < 7) then
    let d := d.modRidge r fun x => { x with gated := x.gated &&& ~~~(1#7 <<< c), waking := x.waking &&& ~~~(1#7 <<< c) }
    (clusterBlocks c).foldl (fun d b => d.promote r b) d
  else d

/-- The conditions of 16:R356 hold: no work in engines or cores, no descriptor to fetch or grant, no DMA outstanding. -/
def Dev.maySleep (d : Dev) (r : Nat) : Bool :=
  let x := d.ridge r
  let homed := d.homedOn r
  x.engines.all (fun e => !e.holds && !e.testing) && x.waking == 0 &&
    x.cores.all (fun k => k.program.isNone && !k.borrowed) && x.world.waiting.isEmpty && x.world.running.isEmpty &&
    !x.world.restarting && (r != d.boss || (d.mq.cmds.isEmpty && !d.mq.reading)) &&
    homed.all (fun s => (d.seam s).run.queues.all fun q => q.prefetch.isEmpty && !q.reading && q.tail == q.head) &&
    !(d.jobs.any fun j => j.job.ridge == r || homed.contains j.job.seam) &&
    (r != 0 || d.linkA.unacked.isEmpty) && (r != 1 || d.linkB.unacked.isEmpty)

/-- A ridge idle for SLEEP_US sleeps; 0 disables sleep. -/
def Dev.sleep (d : Dev) (r : Nat) : Dev :=
  if d.serves r && (d.ridge r).power == 2 && d.boot.step == 10 && d.power.sleepUs != 0 && d.maySleep r then
    (d.modRidge r fun x => { x with power := 0 }).govern
  else d

/-- What wakes a sleeping ridge; a dispatcher's request is subject to admission. -/
def Dev.wake (d : Dev) (r : Nat) (why : WakeCause) : Dev :=
  if d.serves r && (d.ridge r).power == 0 then
    match why with
    | .dispatcher from' => d.askWake from' r
    | _ => d.modRidge r fun x => { x with power := 1 }
  else d

/-- The ridge is awake. -/
def Dev.awake (d : Dev) (r : Nat) : Dev :=
  if d.serves r && (d.ridge r).power == 1 then (d.modRidge r fun x => { x with power := 2, wakeFor := none, pllFails := 0 }).govern else d

/-- A PLL has not locked in 100 µs: event +68 and one retry; a second failure loses the ridge. -/
def Dev.pllFail (d : Dev) (r : Nat) (core : Bool) : Dev :=
  if d.serves r && (d.ridge r).power == 1 then
    let second := (d.ridge r).pllFails != 0
    let d := (d.modRidge r fun x => { x with pllFails := x.pllFails + 1 }).ridgeEvent r 68
      ((if core then 1 else 0) + if second then 2 else 0)
    if second then d.loseRidge r 1 else d
  else d

/-! ## Links -/

/-- A link can train: the link controllers are released at step 4, its PERST is high, main power is good and its ridge
has not been lost (02:R46, R49, 14:R323). -/
def Dev.trains (d : Dev) (l : Lk) : Bool :=
  decide (4 ≤ d.boot.step) && d.pins.mainPower && !d.pins.inVigil && !(d.ridge (lkRidge l)).lost &&
    (match l with | .a => !d.pins.perstA | .b => !d.pins.perstB)

/-- PERST of a link. -/
def Dev.setPerst (d : Dev) (l : Lk) (v : Bool) : Dev :=
  d.modPins fun p => match l with | .a => { p with perstA := v } | .b => { p with perstB := v }

/-- The MQ writes what it owes and reads on. -/
def Dev.mqResume (d : Dev) : Dev := (d.mqDrain d.mq.held.length).mqFetch

/-! ## Commands -/

/-- SPINE_TRANSFER_RECEIVE (01:R21). -/
def execSpineTransferReceive (src dst : Nat) (authentic : Bool) (latency : Nat) (s : State) : Host.Outcome State Fault Refusal :=
  s.upd fun d => d.transfer src dst authentic latency

/-- SPINE_SILENCE: no keepalive for 10 µs (14:R323). -/
def execSpineSilence (ridge : Nat) (s : State) : Host.Outcome State Fault Refusal := s.upd fun d => d.loseRidge ridge 2

/-- THERMAL_TRIP: above +125 °C for 1 ms (14:R323). -/
def execThermalTrip (ridge : Nat) (s : State) : Host.Outcome State Fault Refusal := s.upd fun d => d.loseRidge ridge 3

/-- RIDGE_LOST: a fatal error (14:R323). -/
def execRidgeLost (ridge : Nat) (s : State) : Host.Outcome State Fault Refusal := s.upd fun d => d.loseRidge ridge 1

/-- RIDGE_TAKEOVER_DONE (14:R326). -/
def execRidgeTakeoverDone (seam : Nat) (s : State) : Host.Outcome State Fault Refusal := s.upd fun d => d.takeOver seam

/-- REMIRROR_COPY_DONE (14:R328). -/
def execRemirrorCopyDone (seam : Nat) (s : State) : Host.Outcome State Fault Refusal := s.upd fun d => d.copyDone seam

/-- LINK_LOST: Detect, or surprise down (03:R74). -/
def execLinkLost (link : Lk) (surprise : Bool) (s : State) : Host.Outcome State Fault Refusal :=
  s.upd fun d => d.linkLoss link (if surprise then 1 else 0)

/-- LINK_UP (03:R73). -/
def execLinkUp (link : Lk) (width speed : Nat) (s : State) : Host.Outcome State Fault Refusal := s.upd fun d =>
  if d.trains link && !(d.link link).up && [1, 2, 4, 8].contains width && decide (1 ≤ speed ∧ speed ≤ 5) then
    (d.linkRises link width speed).mqResume
  else d

/-- PERST_ASSERT: that link's function is reset, and its link is lost (02:R46, 03:R74). -/
def execPerstAssert (link : Lk) (s : State) : Host.Outcome State Fault Refusal := s.upd fun d =>
  ((d.linkLoss link 2).modLink link Link.resetFunction).setPerst link true

/-- PERST_DEASSERT (02:R46). -/
def execPerstDeassert (link : Lk) (s : State) : Host.Outcome State Fault Refusal := s.upd fun d => d.setPerst link false

/-- BME_CLEARED (14:R330). -/
def execBmeCleared (link : Lk) (s : State) : Host.Outcome State Fault Refusal := s.upd fun d => d.bmeOff link

/-- BME_SET (14:R330). -/
def execBmeSet (link : Lk) (s : State) : Host.Outcome State Fault Refusal := s.upd fun d =>
  if (d.link link).up then ((d.modLink link fun x => { x with bme := true }).linkServes link).mqResume else d

/-- CONFIGURATION_WRITE: PASID Enable, MSI-X Enable and Function Mask; pending vectors that may go are sent (03:R59,
17:R381). -/
def execConfigurationWrite (link : Lk) (pasid msix masked : Bool) (s : State) : Host.Outcome State Fault Refusal := s.upd fun d =>
  if (d.link link).up then
    (d.modLink link fun x => { x with pasidEn := pasid, msixEn := msix, fmask := masked }).unmask link
  else d

/-- LINK_ENTERS_L1: with nothing outstanding; the governor charges 0.02 W for its PHY (16:R359). -/
def execLinkEntersL1 (link : Lk) (s : State) : Host.Outcome State Fault Refusal := s.upd fun d =>
  if (d.link link).up && (d.link link).pm == 0 && (d.link link).unacked.isEmpty then
    (d.modLink link fun x => { x with pm := 1 }).govern
  else d

/-- POWER_UP (02:R43). -/
def execPowerUp (facts : BootFacts) (s : State) : Host.Outcome State Fault Refusal := s.upd fun d => d.powerUp facts

/-- POWER_UP_COMPLETE (02:R43). -/
def execPowerUpComplete (elapsed : Nat) (s : State) : Host.Outcome State Fault Refusal := s.upd fun d => d.bootDone elapsed

/-- POR_ASSERT (18:R389). -/
def execPorAssert (s : State) : Host.Outcome State Fault Refusal := s.upd Dev.porFalls

/-- PFW_ASSERT (16:R362). -/
def execPfwAssert (s : State) : Host.Outcome State Fault Refusal := s.upd Dev.pfwFalls

/-- PFW_DEASSERT (16:R363, R364). -/
def execPfwDeassert (s : State) : Host.Outcome State Fault Refusal := s.upd fun d => d.modPins fun p => { p with pfwLow := false }

/-- FEED_RECOVERY_TIMEOUT: PFW_N high for 10 ms with the rails in range; the power-up may begin (16:R363). -/
def execFeedRecoveryTimeout (s : State) : Host.Outcome State Fault Refusal := s.upd fun d =>
  if d.pins.cut && d.pins.inVigil && d.pins.mainPower && !d.pins.pfwLow then d.modPins fun p => { p with cut := false } else d

/-- MAIN_POWER_LOST (02:R37, 18:R388). -/
def execMainPowerLost (s : State) : Host.Outcome State Fault Refusal := s.upd Dev.mainLost

/-- BOTH_CELLS_LOST with main power absent (13:R312). -/
def execBothCellsLost (s : State) : Host.Outcome State Fault Refusal := s.upd fun d =>
  if d.pins.mainPower || d.isLive 18 then d else d.cellsLost

/-- VIGIL_TAMPER_EVENT (13:R310). -/
def execVigilTamperEvent (id : Nat) (s : State) : Host.Outcome State Fault Refusal := s.upd fun d => d.vigilHit id

/-- VIGIL_SAMPLE_WINDOW: SAMPLED mode, with main power absent (13:R311). -/
def execVigilSampleWindow (present : List Nat) (s : State) : Host.Outcome State Fault Refusal := s.upd fun d =>
  if d.pins.mainPower || !d.vigilLives then d
  else
    let d := d.sampleWindow present
    if d.pins.inVigil && !d.vigilLives && !d.isLive 18 then d.cellsLost else d

/-- VHOLD_CHECK, hourly while main power is present (13:R312). -/
def execVholdCheck (pass : Bool) (s : State) : Host.Outcome State Fault Refusal := s.upd fun d =>
  if d.pins.mainPower && !d.pins.inVigil then
    if pass then (d.clearSource 19).markSupply 19 true else (d.markSupply 19 false).tamper [⟨19, 0⟩]
  else d

/-- TAMPER_EVENT (13:R298), with the MQ commands that execute an order in its spine cycle (02:R38). -/
def execTamperEvent (c : TamperCycle) (s : State) : Host.Outcome State Fault Refusal :=
  s.upd fun d => d.tamper c.hits c.orders

/-- TAMPER_CONDITION_CLEARED: 1 ms clear (13:R296, R312). -/
def execTamperConditionCleared (id : Nat) (s : State) : Host.Outcome State Fault Refusal := s.upd fun d =>
  if d.isSource id then d.clearSource id else d

/-- TAMPER_OUT_EXPIRY (13:R299). -/
def execTamperOutExpiry (s : State) : Host.Outcome State Fault Refusal := s.upd fun d =>
  match d.pins.tamperOut with
  | some t => (d.reach t).modPins fun p => { p with tamperOut := none }
  | none => d

/-- SHIPMENT_FUSE_BLOWN: FACTORY becomes BLANK for ever, and the test pattern's path is cut (02:R37, 12:R294). -/
def execShipmentFuseBlown (s : State) : Host.Outcome State Fault Refusal := s.upd fun d =>
  if d.live == .factory && d.pins.mainPower then
    let d := { d with fuses := { d.fuses with shipped := true } }.changeMode .blank
    d.modRidges fun x => { x with rng := { x.rng with
      src0 := { x.rng.src0 with tpsel := false }, src1 := { x.rng.src1 with tpsel := false } } }
  else d

/-- CLUSTER_IDLE_GATE: 2 µs without a job (16:R355). -/
def execClusterIdleGate (ridge cluster : Nat) (s : State) : Host.Outcome State Fault Refusal := s.upd fun d => d.gateCluster ridge cluster

/-- CLUSTER_WAKE_DONE (16:R355). -/
def execClusterWakeDone (ridge cluster : Nat) (s : State) : Host.Outcome State Fault Refusal := s.upd fun d => d.ungateCluster ridge cluster

/-- RIDGE_SLEEP (16:R356). -/
def execRidgeSleep (ridge : Nat) (s : State) : Host.Outcome State Fault Refusal := s.upd fun d => d.sleep ridge

/-- RIDGE_WAKE_REQUEST (16:R357). -/
def execRidgeWakeRequest (ridge : Nat) (why : WakeCause) (s : State) : Host.Outcome State Fault Refusal := s.upd fun d => d.wake ridge why

/-- RIDGE_WAKE_DONE (16:R357). -/
def execRidgeWakeDone (ridge : Nat) (s : State) : Host.Outcome State Fault Refusal := s.upd fun d => d.awake ridge

/-- PLL_LOCK_TIMEOUT (16:R354). -/
def execPllLockTimeout (ridge : Nat) (core : Bool) (s : State) : Host.Outcome State Fault Refusal := s.upd fun d => d.pllFail ridge core

end Sys2Proof.Machine
end

