-- ==== Sys2Proof/Machine/Monitors.lean ====
section
/-! DEFINITION. What runs beside the commands of the host: level monitors, entropy windows and source timers, neighbour
seeds, the pit log writer, capture units, pending persistent values (12:R280 to R294, 15:R341, R350 to R353, 16:R366). -/

namespace Sys2Proof.Machine

/-- A BAR0 write that takes effect from power-up step 10 only: ignored and logged from the links' release until then
(17:R375). A command that names no link counts as one of link A (log 32). -/
def Dev.hostWrite (d : Dev) (l : Lk) (offset : Nat) (f : Dev → Dev) : Dev :=
  if d.boot.step = 10 then f d.stampWrite else if d.boot.step < 4 then d else d.stampWrite.ignoredWrite l offset

/-! ## Level monitors (15:R352, R353) -/

/-- A change to a ridge's level monitors. -/
def Dev.modLevels (d : Dev) (r : Nat) (f : Levels → Levels) : Dev := d.modRidge r fun x => { x with levels := f x.levels }

/-- The latest sample and the latches. -/
def Levels.sample (x : Levels) (core sram : BitVec 11) (temp : BitVec 12) : Levels :=
  { x with
    core := core, sram := sram, now := temp
    coreMin := if core.toNat < x.coreMin.toNat then core else x.coreMin
    sramMin := if sram.toNat < x.sramMin.toNat then sram else x.sramMin
    coreMax := if core.toNat > x.coreMax.toNat then core else x.coreMax
    sramMax := if sram.toNat > x.sramMax.toNat then sram else x.sramMax
    tMin := if temp.toInt < x.tMin.toInt then temp else x.tMin
    tMax := if temp.toInt > x.tMax.toInt then temp else x.tMax }

/-- The six latches at their reset values. -/
def Levels.clear (x : Levels) : Levels :=
  { x with coreMin := 0x7FF, sramMin := 0x7FF, coreMax := 0, sramMax := 0, tMin := 0x7FF, tMax := 0x800 }

/-- Whether each threshold is passed by a sample, and whether the sample is back inside it by 2 °C (8 units) or 10 mV:
T_HIGH, T_LOW, VC_HIGH, VC_LOW. -/
def Levels.judge (x : Levels) : List (Bool × Bool) :=
  let t := x.now.toInt
  let v := x.core.toNat
  [(decide (t > x.tHigh.toInt), decide (t ≤ x.tHigh.toInt - 8)), (decide (t < x.tLow.toInt), decide (t ≥ x.tLow.toInt + 8)),
   (decide (v > x.vHigh.toNat), decide (v + 10 ≤ x.vHigh.toNat)), (decide (v < x.vLow.toNat), decide (v ≥ x.vLow.toNat + 10))]

/-- One threshold: it raises its event once, and again only after a sample inside it. -/
def Dev.threshold (d : Dev) (r i : Nat) (j : Bool × Bool) : Dev :=
  let x := (d.ridge r).levels
  let bit := 1#4 <<< i
  let sample := if i < 2 then x.now.toNat else x.core.toNat
  if j.1 && !x.raised.getLsbD i then
    (d.modLevels r fun y => { y with raised := y.raised ||| bit }).ridgeEvent r (if i % 2 = 0 then 64 else 65)
      ((if i < 2 then 0 else 1) + sample * 65536)
  else if j.2 then d.modLevels r fun y => { y with raised := y.raised &&& ~~~bit } else d

/-- A sample of a ridge with power. -/
def Dev.levelSample (d : Dev) (r : Nat) (core sram : BitVec 11) (temp : BitVec 12) : Dev :=
  if d.populated r && d.pins.mainPower && !d.pins.inVigil && decide (7 ≤ d.boot.step) then
    let d := d.modLevels r fun x => x.sample core sram temp
    ((d.ridge r).levels.judge.zipIdx).foldl (fun d j => d.threshold r j.2 j.1) d
  else d

/-! ## Entropy (12:R281 to R289, R294) -/

/-- A stopped source recalibrates 10 ms after its failure; one restart is counted, event +59 (12:R283). -/
def Dev.restartSource (d : Dev) (r n : Nat) : Dev :=
  let x := (d.ridge r).rng.src n
  if d.serves r && decide (n < 2) && x.state == 4 then
    let d := (d.reach (x.failedAt + 10000000)).calibrate r n
    let d := d.modSrc r n fun y => { y with restarts := y.restarts + 1 }
    d.ridgeEvent r 59 (n + 2 * ((d.ridge r).rng.src n).restarts.toNat)
  else d

/-- 60 s of running with no failure (12:R283). -/
def Dev.cleanSource (d : Dev) (r n : Nat) : Dev :=
  let x := (d.ridge r).rng.src n
  if d.serves r && decide (n < 2) && x.state == 3 then
    (d.reach (x.cleanSince + 60000000000)).modSrc r n fun y => { y with restarts := 0 }
  else d

/-- REARM of a latched source, event +61 (12:R283). -/
def Dev.rearm (d : Dev) (r n : Nat) : Dev :=
  if d.serves r && decide (n < 2) && ((d.ridge r).rng.src n).state == 5 then
    ((d.calibrate r n).modSrc r n fun y => { y with restarts := 0 }).ridgeEvent r 61 n
  else d

/-! ## Capture units (15:R350) -/

/-- A change to a capture unit. -/
def Dev.modPerf (d : Dev) (u : Nat) (f : PerfUnit → PerfUnit) : Dev :=
  if u < 64 then { d with perf := assocSet d.perf u (f (d.perfUnit u)) } else d

/-- MIN to BINS and the copy reset. -/
def PerfUnit.cleared (p : PerfUnit) : PerfUnit := { p with now := Capture.blank, copy := Capture.blank }

/-- SNAP: a copy is taken when it goes from 0 to 1. -/
def PerfUnit.setSnap (p : PerfUnit) (v : Bool) : PerfUnit :=
  { p with snap := v, copy := if v && !p.snap then p.now else p.copy }

/-- SEAM, ALL, GROUP, MEASURE: a change clears the unit. -/
def PerfUnit.configure (p : PerfUnit) (v : W64) : PerfUnit :=
  let q := { p with seam := v.extractLsb' 0 13, all := v.getLsbD 13, group := v.extractLsb' 16 8, measure := v.extractLsb' 24 2 }
  if q.seam = p.seam ∧ q.all = p.all ∧ q.group = p.group ∧ q.measure = p.measure then q else q.cleared

/-- A write of CFG. -/
def PerfUnit.write (p : PerfUnit) (v : W64) : PerfUnit :=
  let p := p.configure v
  let p := if v.getLsbD 33 then p.cleared else p
  p.setSnap (v.getLsbD 32)

/-! ## Commands -/

/-- LEVEL_MONITOR_SAMPLE (15:R352). -/
def execLevelMonitorSample (ridge : Nat) (core sram : BitVec 11) (temp : BitVec 12) (s : State) :
    Host.Outcome State Fault Refusal := s.upd fun d => d.levelSample ridge core sram temp

/-- LEVEL_CLR_LATCH (15:R352). -/
def execLevelClrLatch (ridge : Nat) (s : State) : Host.Outcome State Fault Refusal := s.upd fun d =>
  if d.populated ridge then d.hostWrite .a (0xA8028 + 0x40 * ridge) fun d => d.modLevels ridge Levels.clear else d

/-- ENTROPY_WINDOW (12:R282). -/
def execEntropyWindow (ridge src : Nat) (window : BitVec 1024) (s : State) : Host.Outcome State Fault Refusal := s.upd fun d =>
  if d.sourceOn ridge src && d.pins.mainPower && !d.pins.inVigil then d.entropyWindow ridge src window else d

/-- SOURCE_RESTART_TIMER (12:R283). -/
def execSourceRestartTimer (ridge src : Nat) (s : State) : Host.Outcome State Fault Refusal :=
  s.upd fun d => d.restartSource ridge src

/-- SOURCE_CLEAN_TIMER (12:R283). -/
def execSourceCleanTimer (ridge src : Nat) (s : State) : Host.Outcome State Fault Refusal :=
  s.upd fun d => d.cleanSource ridge src

/-- SRC_REARM (12:R283). -/
def execSrcRearm (ridge src : Nat) (s : State) : Host.Outcome State Fault Refusal := s.upd fun d =>
  if d.populated ridge && decide (src < 2) then d.hostWrite .a (0x71000 + 0x1000 * ridge + 8 * src) fun d => d.rearm ridge src else d

/-- NEIGHBOUR_SEED_REQUEST (12:R289). -/
def execNeighbourSeedRequest (ridge : Nat) (s : State) : Host.Outcome State Fault Refusal := s.upd fun d =>
  if d.serves ridge && d.starved ridge then d.askSeed ridge else d

/-- NEIGHBOUR_SEED_BLOCK (12:R289). -/
def execNeighbourSeedBlock (ridge giver : Nat) (s : State) : Host.Outcome State Fault Refusal :=
  s.upd fun d => if d.serves ridge then d.takeSeed ridge giver else d

/-- EVENT_TO_WRITER (15:R341). -/
def execEventToWriter (source : Option Nat) (s : State) : Host.Outcome State Fault Refusal := s.upd fun d => d.passEvent source

/-- PERF_CFG_WRITE (15:R350). -/
def execPerfCfgWrite (unit : Nat) (value : W64) (s : State) : Host.Outcome State Fault Refusal := s.upd fun d =>
  if unit < 64 then d.hostWrite .a (0xA0000 + 0x100 * unit) fun d => d.modPerf unit fun p => p.write value else d

/-- PERF_SNAP (15:R350). -/
def execPerfSnap (unit : Nat) (s : State) : Host.Outcome State Fault Refusal := s.upd fun d =>
  if unit < 64 then d.hostWrite .a (0xA0000 + 0x100 * unit) fun d => d.modPerf unit fun p => p.setSnap true else d

/-- PERF_CLEAR (15:R350). -/
def execPerfClear (unit : Nat) (s : State) : Host.Outcome State Fault Refusal := s.upd fun d =>
  if unit < 64 then d.hostWrite .a (0xA0000 + 0x100 * unit) fun d => d.modPerf unit PerfUnit.cleared else d

/-- PERS_WORD_WRITE (16:R366). -/
def execPersWordWrite (word : Nat) (value : W64) (s : State) : Host.Outcome State Fault Refusal := s.upd fun d =>
  if word < 1024 then d.hostWrite .a (0xC0000 + 8 * word) fun d => d.persWrite (.word word) value else d

/-- PERS_PENDING_COMMIT (16:R366). -/
def execPersPendingCommit (slot : PersSlot) (s : State) : Host.Outcome State Fault Refusal := s.upd fun d => d.persCommit slot

end Sys2Proof.Machine
end

