-- ==== Sys2Proof/Machine/Readout.lean ====
section
/-! DEFINITION. What registers read as: BAR0, the seam portal and the I3C register space (17, 02:Tables 2.2 and 2.3,
03:Tables 3.2 and 3.3, 04:Tables 4.3 and 4.8, 09:Table 9.6, 11:Table 11.5, 12:Tables 12.5 and 12.6, 13:Table 13.5,
15:Tables 15.5 to 15.8, 16:Table 16.5). No command of the table reads BAR0 or the portal but RNG_DATA_READ: these functions
say what the host sees. -/

namespace Sys2Proof.Machine

/-- A register word from its fields: lowest bit, width, value. -/
def word (fs : List (Nat × Nat × Nat)) : W64 := BitVec.ofNat 64 ((fs.map fun f => f.2.2 % 2 ^ f.2.1 * 2 ^ f.1).sum)

/-- One bit per ridge of a test. -/
def Dev.ridgeBits (d : Dev) (p : Nat → Bool) : Nat := ((d.ridgeNums.filter p).map fun r => 2 ^ r).sum

/-! ## DEV (17:Table 17.2, 02:Tables 2.2 and 2.3) -/

/-- DEV.RIDGES. -/
def Dev.regRidges (d : Dev) : W64 :=
  word [(0, 8, d.ridgeBits fun _ => true), (8, 8, if d.boot.step < 7 then 0 else d.ridgeBits d.serves)]

/-- DEV.MODE. -/
def Dev.regMode (d : Dev) : W64 :=
  word [(0, 3, d.mode.val.toNat), (4, 3, d.prior.val.toNat), (8, 1, d.reduced.toNat), (9, 1, d.exported.toNat)]

/-- DEV.LAST_MODE. -/
def Dev.regLastMode (d : Dev) : W64 :=
  let l := d.lastMode
  word [(0, 3, l.last.toNat), (4, 3, l.held.toNat), (8, 4, l.cause.toNat), (12, 1, l.latched.toNat)]

/-- DEV.BOOT. -/
def Dev.regBoot (d : Dev) : W64 :=
  let b := d.boot
  word [(0, 4, b.step), (4, 1, b.slot), (5, 1, b.romHold.toNat), (8, 8, b.ridgeFail.toNat), (32, 16, b.elapsed.toNat)]

/-- The measurement of the staged image; zero when none is staged. -/
def Dev.fwMeas (d : Dev) : BitVec 384 := (d.staged.map (·.meas)).getD 0

/-- The DEV block. -/
def Dev.readDev (d : Dev) (o : Nat) : W64 :=
  let active := d.fw.slot d.fw.active
  match o with
  | 0x00 => word [(0, 16, 0x0840), (16, 4, d.fuses.ridges), (32, 32, d.fuses.stepping.toNat)]
  | 0x08 => d.regRidges
  | 0x10 => d.regMode
  | 0x18 => d.regLastMode
  | 0x20 => d.regBoot
  | 0x28 => d.fuses.serial0
  | 0x30 => d.fuses.serial1
  | 0x38 => word [(0, 1, d.fw.active), (1, 1, d.fw.staged.toNat), (2, 1, ((active.map (·.counter)).getD false).toNat),
      (3, 1, ((d.staged.map (·.counter)).getD false).toNat)]
  | 0x40 => word [(0, 32, (active.map (·.version.toNat)).getD 0), (32, 32, (d.staged.map (·.version.toNat)).getD 0)]
  | _ => if 0x48 ≤ o ∧ o ≤ 0x70 then d.fwMeas.extractLsb' (8 * (o - 0x48)) 64 else 0

/-! ## LINK and MQ (17:Table 17.3, 04:Table 4.8) -/

/-- A link's registers. -/
def Link.read (l : Link) (o : Nat) : W64 :=
  match o with
  | 0x00 => word [(0, 1, l.up.toNat), (4, 4, l.width), (8, 3, l.speed), (12, 2, l.pm.toNat), (16, 1, l.bme.toNat),
      (17, 1, l.pasidEn.toNat), (18, 1, (l.msixEn && !l.fmask).toNat)]
  | 0x08 => word [(0, 32, l.portalDrops.toNat), (32, 32, l.cplTimeouts.toNat)]
  | 0x10 => word [(0, 32, l.readFaults.toNat), (32, 32, l.poisoned.toNat)]
  | 0x18 => word [(0, 32, l.reissued.toNat), (32, 16, l.losses.toNat)]
  | _ => 0

/-- The MQ block. -/
def MQ.read (q : MQ) (o : Nat) : W64 :=
  match o with
  | 0x00 => q.sqBase
  | 0x08 => q.cqBase
  | 0x10 => word [(0, 4, q.sqLog2.toNat), (4, 4, q.cqLog2.toNat), (8, 1, q.link.toNat), (9, 1, q.enable.toNat),
      (16, 6, q.vector.toNat)]
  | 0x18 => q.tail.setWidth 64
  | 0x20 => q.cqHead.setWidth 64
  | 0x28 => word [(0, 32, q.head.toNat), (32, 2, q.state.toNat)]
  | _ => 0

/-! ## QRM (09:Table 9.6) -/

/-- QRM.PERMIT.REMAIN: seconds left, rounded up (log 32). -/
def Dev.permitLeft (d : Dev) : Nat := match d.quorum.permitEnd with
  | some t => (t - d.clock + 999999999) / 1000000000
  | none => 0

/-- The QRM block, for one function's selector. -/
def Dev.readQrm (d : Dev) (l : Lk) (o : Nat) : W64 :=
  let sel := (d.link l).qrmSel
  let ord := d.quorum.orders.find? fun x => x.num == sel.toNat
  match o with
  | 0x00 => word [(0, 5, (d.rangeSet.map fun s => s.keys.length).getD 0), (8, 5, (d.rangeSet.map (·.m)).getD 0)]
  | 0x08 => sel.setWidth 64
  | 0x10 => match ord with
    | some x => word [(0, 8, x.kind), (8, 3, x.state.code), (16, 6, x.counted.length), (24, 6, x.needed), (32, 13, x.seam),
        (48, 16, x.result.toNat)]
    | none => 0
  | 0x18 => match ord with
    | some x => BitVec.ofNat 64 x.deadline
    | none => 0
  | 0x20 => word [(0, 9, d.openOrders.length)]
  | 0x28 => word [(0, 12, d.permitLeft)]
  | 0x30 => word [(0, 16, d.quorum.conflicts.toNat)]
  | _ => 0

/-! ## SEAMTAB (03:Table 3.3) -/

/-- STATE of a seam as the table encodes it. -/
def SeamState.code : SeamState → Nat
  | .free => 0 | .active => 1 | .frozen => 2 | .faulted => 3

/-- One bit per created queue. -/
def Seam.queueBits (x : Seam) (p : QState → Bool) : Nat :=
  (((List.range 4).filter fun q => p (x.run.queuesNow.getD q Queue.blank).state).map fun q => 2 ^ q).sum

/-- Word w of a seam's table entry. -/
def Dev.seamWord (d : Dev) (s w : Nat) : W64 :=
  let x := d.seam s
  let e := x.entry
  match w with
  | 0 => word [(0, 2, e.state.code), (2, 2, e.links.toNat), (4, 1, e.pref.toNat), (5, 1, e.saved.toNat),
      (6, 1, e.pasidValid.toNat), (8, 3, e.home.val.toNat), (12, 3, e.mirror.val.toNat), (16, 8, e.gen.toNat),
      (24, 20, e.pasid.toNat), (48, 16, e.epoch.val.toNat)]
  | 1 => word [(0, 8, e.weight.toNat), (8, 7, e.burst.toNat), (16, 11, e.slotQuota.toNat), (32, 11, x.run.inflight),
      (48, 4, x.queueBits (· != .none))]
  | 2 => word [(0, 24, e.keyQuota.toNat), (32, 24, x.run.keyCount)]
  | 3 => word [(0, 16, e.progQuota.toNat), (32, 32, x.run.discards.toNat)]
  | 4 => e.irqAddr
  | 5 => word [(0, 32, e.irqData.toNat), (32, 1, e.irqMask.toNat)]
  | 6 => word [(0, 32, e.migFloor.toNat), (32, 1, e.migAllow.toNat)]
  | _ => if 8 ≤ w ∧ w ≤ 13 then e.ownerDigest.val.extractLsb' (64 * (w - 8)) 64 else 0

/-- The SEAMTAB block, for one function's selector. -/
def Dev.readSeamtab (d : Dev) (l : Lk) (o : Nat) : W64 :=
  let sel := (d.link l).seamSel
  if o = 0 then sel.setWidth 64
  else if 0x100 ≤ o ∧ o ≤ 0x178 then d.seamWord sel.toNat ((o - 0x100) / 8) else 0

/-! ## ARB (17:Tables 17.4 and 17.5) -/

/-- The queue view of one function's selector. -/
def Dev.readQueueView (d : Dev) (l : Lk) (o : Nat) : W64 :=
  let sel := (d.link l).arbSel
  let x := d.seam (sel.toNat / 4)
  let q := x.run.queuesNow.getD (sel.toNat % 4) Queue.blank
  if o = 0 then sel.setWidth 64
  else if q.state = .none then 0
  else match o with
    | 0x08 => word [(0, 8, q.weight), (8, 7, q.burst), (16, 5, q.log2), (24, 5, (x.run.cqNow.map (·.log2)).getD 0),
        (32, 8, q.credit), (40, 7, q.bleft), (48, 8, x.run.credit), (56, 7, x.run.bleft)]
    | 0x10 => q.base
    | 0x18 => (x.run.cqNow.map (·.base)).getD 0
    | 0x20 => word [(0, 17, (x.run.cqNow.map (·.held)).getD 0)]
    | _ => 0

/-- A ridge's arbitration counters. -/
def Dev.readArb (d : Dev) (r o : Nat) : W64 :=
  let a := (d.ridge r).arb
  match o with
  | 0x00 => a.grants
  | 0x08 => a.retired
  | 0x10 => word [(0, 32, a.skips.toNat), (32, 32, a.refills.toNat)]
  | 0x18 => word [(0, 13, a.cur.toNat), (16, 14, (d.homedOn r).length), (32, 14, a.eligible.toNat)]
  | _ => 0

/-! ## PWR and PERS (16:Table 16.5) -/

/-- Drills throttled in the package. -/
def Dev.drillsThrottled (d : Dev) : Nat :=
  (d.ridgeNums.map fun r => (List.range 16).countP fun b => (d.ridge r).throttled.getLsbD b).sum

/-- PWR.STATUS. The governor reports a charge once Keade runs (00:R10; log 32). -/
def Dev.regPower (d : Dev) : W64 :=
  word [(0, 7, d.ceiling), (8, 13, if d.boot.step < 5 then 0 else d.charge / 10), (24, 1, if d.boot.step < 5 then 0 else d.isOver.toNat),
    (25, 1, d.power.pfw.toNat),
    (32, 8, d.drillsThrottled)]

/-- The PWR block. -/
def Dev.readPwr (d : Dev) (o : Nat) : W64 :=
  match o with
  | 0x00 => BitVec.ofNat 64 d.power.envelope
  | 0x08 => BitVec.ofNat 64 d.power.bmcCap
  | 0x10 => d.regPower
  | 0x18 => d.power.sleepUs.setWidth 64
  | _ =>
    let r := o / 8 % 32
    if !d.populated r then 0
    else if o / 256 = 1 then (d.ridge r).gateReq.setWidth 64
    else if o / 256 = 2 then word [(0, 2, (d.ridge r).power.toNat), (8, 33, (d.ridge r).throttled.toNat)] else 0

/-- The PERS block. PENDING counts the words (log 32). -/
def Dev.readPers (d : Dev) (o : Nat) : W64 :=
  if o < 0x2000 then (d.pers (o / 8)).value
  else if o = 0x2000 then
    word [(0, 11, d.power.pers.countP fun e => decide (e.1 < 1024) && e.2.waits), (11, 1, d.power.unmirrored.toNat),
      (32, 32, d.power.coalesced.toNat)]
  else 0

/-! ## RNG (12:Table 12.6) -/

/-- A source's register. -/
def Source.read (x : Source) : W64 :=
  word [(0, 3, x.state.toNat), (4, 2, x.restarts.toNat), (9, 1, x.tpsel.toNat), (16, 16, x.rctFails.toNat),
    (32, 16, x.aptFails.toNat), (56, 8, x.dac.toNat)]

/-- A ridge's registers. -/
def Rng.read (x : Rng) (o : Nat) : W64 :=
  match o with
  | 0x00 => x.src0.read
  | 0x08 => x.src1.read
  | 0x10 => word [(0, 2, x.int.state.toNat), (16, 13, x.int.count), (32, 2, x.host.state.toNat), (48, 13, x.host.count)]
  | 0x18 => word [(0, 3, x.pool.length), (16, 16, x.nbTaken.toNat), (32, 16, x.nbGiven.toNat), (48, 16, x.fails.toNat)]
  | 0x20 => word [(0, 11, x.buf.length)]
  | _ => 0

/-! ## TAMP (13:Table 13.5) -/

/-- A class register: fields of fused-off and reserved sources read 0. -/
def Dev.classWord (d : Dev) (first n : Nat) : W64 := word ((List.range n).map fun i => (2 * i, 2, (d.classOfId (first + i)).toNat))

/-- TAMP.STATUS. What the always-on domain reads of the Vigil status at power-up step 3 stands at its reset value until then
(00:R10, 02:Table 2.7; log 32). -/
def Dev.regTamp (d : Dev) : W64 :=
  let known := fun (n : Nat) => if d.boot.step < 3 then 0 else n
  word [(0, 10, d.tamp.lastId.toNat), (12, 2, d.tamp.lastClass.toNat), (16, 1, known d.vigil.cellA.toNat),
    (17, 1, known d.vigil.cellB.toNat), (18, 1, known d.vigil.vholdOk.toNat), (19, 1, known d.vigil.xtalOk.toNat),
    (20, 1, d.pins.firedamp.toNat), (21, 1, d.pins.tamperOut.isSome.toNat), (22, 1, known d.pins.zeroOut.toNat),
    (32, 6, d.vigil.merged.toNat), (40, 8, known d.vigil.lost.toNat)]

/-- TAMP.CTRL. -/
def Tamp.ctrl (t : Tamp) : W64 :=
  word [(0, 1, t.vigilMode.val.toNat), (1, 1, t.outOnL.val.toNat), (8, 8, t.outMs.val.toNat), (16, 8, t.tinPol.val.toNat)]

/-- The TAMP block. -/
def Dev.readTamp (d : Dev) (o : Nat) : W64 :=
  match o with
  | 0x00 => d.classWord 0 22
  | 0x08 => d.classWord 64 10
  | 0x10 => d.tamp.fuseoff.val.setWidth 64
  | 0x18 => d.tamp.ctrl
  | 0x20 => d.tamp.live.setWidth 64
  | 0x28 => d.tamp.latch.setWidth 64
  | 0x30 => d.regTamp
  | _ =>
    let r := (o - 0x40) / 8
    if 0x40 ≤ o ∧ o ≤ 0x78 ∧ d.populated r then
      word [(0, 16, (d.ridge r).live.toNat), (16, 16, (d.ridge r).latch.toNat)] else 0

/-! ## LOG and EVT (15:Tables 15.5 and 15.6) -/

/-- The LOG registers for a cursor. Records are returned from power-up step 5 onwards (02:R47). -/
def Dev.readLog (d : Dev) (cursor : BitVec 32) (o : Nat) : W64 :=
  match o with
  | 0x00 => cursor.setWidth 64
  | 0x08 => if d.boot.step < 5 then 0
    else word [(0, 32, (d.log.recs.head?.map (·.seq.toNat)).getD 0), (32, 32, (d.log.recs.getLast?.map (·.seq.toNat)).getD 0)]
  | 0x10 => d.log.lost.setWidth 64
  | 0x18 => BitVec.ofNat 64 d.clock
  | _ => if 5 ≤ d.boot.step ∧ 0x100 ≤ o ∧ o ≤ 0x1F8 then d.log.window cursor ((o - 0x100) / 32) ((o - 0x100) / 8 % 4) else 0

/-- EVT.STATE. -/
def Dev.regEvt (d : Dev) : W64 := word [(0, 1, d.alert.toNat), (1, 1, d.log.isHard.toNat)]

/-- EVT.PENDINGw. -/
def Dev.regPending (d : Dev) (w : Nat) : W64 := if w < 10 then d.log.pendBits.extractLsb' (64 * w) 64 else 0

/-- A route register. -/
def Route.read (x : Route) : W64 := word [(0, 6, x.vector.toNat), (7, 1, x.msi.toNat), (8, 1, x.alert.toNat), (9, 1, x.link.toNat)]

/-- An event ID of a ridge that the variant has, or of the package (00:R4). -/
def Dev.idExists (d : Dev) (id : Nat) : Bool := id < 64 || (id < 640 && d.populated ((id - 64) / 72))

/-- The EVT block. -/
def Dev.readEvt (d : Dev) (o : Nat) : W64 :=
  if o < 0x1400 then
    if d.idExists (o / 8) then (d.log.routes.getD (o / 8) (Route.reset (o / 8))).read else 0
  else if 0x2000 ≤ o ∧ o ≤ 0x2048 then d.regPending ((o - 0x2000) / 8)
  else if o = 0x2080 then d.regEvt else 0

/-! ## PERF and level monitors (15:Tables 15.7 and 15.8) -/

/-- A capture unit. -/
def PerfUnit.read (p : PerfUnit) (o : Nat) : W64 :=
  let c := if p.snap then p.copy else p.now
  match o with
  | 0x00 => word [(0, 13, p.seam.toNat), (13, 1, p.all.toNat), (16, 8, p.group.toNat), (24, 2, p.measure.toNat),
      (32, 1, p.snap.toNat)]
  | 0x08 => c.min
  | 0x10 => c.max
  | 0x18 => c.count
  | 0x20 => c.sum
  | _ =>
    let j := (o - 0x40) / 8
    if 0x40 ≤ o ∧ o ≤ 0xB8 then word [(0, 32, (c.bins.getD (2 * j) 0).toNat), (32, 32, (c.bins.getD (2 * j + 1) 0).toNat)] else 0

/-- A ridge's level monitors. A latch that no sample has replaced shows the reading of power-up step 7. -/
def Levels.read (x : Levels) (booted : Bool) (o : Nat) : W64 :=
  let show' := fun {w : Nat} (v reset boot : BitVec w) => if booted && v == reset then boot.toNat else v.toNat
  match o with
  | 0x00 => word [(0, 11, x.core.toNat), (16, 11, x.sram.toNat)]
  | 0x08 => word [(0, 11, show' x.coreMin 0x7FF x.bootCore), (16, 11, show' x.sramMin 0x7FF x.bootSram)]
  | 0x10 => word [(0, 11, show' x.coreMax 0 x.bootCore), (16, 11, show' x.sramMax 0 x.bootSram)]
  | 0x18 => word [(0, 12, x.now.toNat), (16, 12, show' x.tMin 0x7FF x.bootTemp), (32, 12, show' x.tMax 0x800 x.bootTemp)]
  | 0x20 => word [(0, 12, x.tHigh.toNat), (16, 12, x.tLow.toNat), (32, 11, x.vHigh.toNat), (48, 11, x.vLow.toNat)]
  | _ => 0

/-- The level monitor register at an offset of a ridge. -/
def Dev.readLevel (d : Dev) (r o : Nat) : W64 := if d.populated r then (d.ridge r).levels.read (decide (7 ≤ d.boot.step)) o else 0

/-! ## WORLD (11:Tables 11.5 and 11.6) -/

/-- The 64 bytes of a measurement log entry. -/
def MLog.bytes (m : MLog) : List Byte :=
  leBytes 4 m.seq.toNat ++ [m.cause, m.result, 0, 0] ++ leBytes 8 m.time ++ leBytes 48 m.meas.toNat

/-- The entry of an index: SEQ s stands in entry (s − 1) mod 64. -/
def World.entry (w : World) (i : Nat) : List Byte :=
  match w.mlog.find? fun m => (m.seq.toNat - 1) % 64 == i with
  | some m => m.bytes
  | none => []

/-- A ridge's WORLD registers. -/
def Ridge.readWorld (x : Ridge) (cacheMode : Bool) (o : Nat) : W64 :=
  let w := x.world
  match o with
  | 0x00 => w.line.val.setWidth 64
  | 0x08 => word [(0, 1, cacheMode.toNat)]
  | 0x10 => word (((List.range 4).map fun c => (c, 1, (x.cores.getD c Core.reset).deep.toNat)) ++
      [(4, 1, w.deepUp.toNat), (5, 1, w.restarting.toNat), (8, 8, w.restarts.toNat), (16, 3, w.lastCause.toNat)])
  | 0x18 => w.claim.setWidth 64
  | 0x20 => word [(0, 33, w.deferPending.toNat), (48, 16, w.deferTotal.toNat)]
  | 0x80 => w.mlogSel.setWidth 64
  | _ =>
    if 0x40 ≤ o ∧ o ≤ 0x68 then w.meas.extractLsb' (8 * (o - 0x40)) 64
    else if 0x88 ≤ o ∧ o ≤ 0xC0 then BitVec.ofNat 64 (field (w.entry w.mlogSel.toNat) (o - 0x88) 8) else 0

/-! ## SPINE (17:Table 17.6) -/

/-- Ridges reached from a set over connections that carry keepalives. -/
def Dev.reach1 (d : Dev) (rs : List Nat) : List Nat :=
  d.ridgeNums.filter fun r => rs.contains r || rs.any fun q => hops q r == 1 && (d.ridge q).spine.up.getLsbD (Nat.xor q r).log2

/-- Ridges that ridge 0 reaches; itself not counted (log 32). -/
def Dev.reachable (d : Dev) : List Nat := (d.reach1 (d.reach1 (d.reach1 [0]))).filter (· != 0)

/-- A ridge's spine port. -/
def SpinePort.read (p : SpinePort) (o : Nat) : W64 :=
  let mean := fun (l : List (BitVec 16)) => if l.isEmpty then 0 else (l.map (·.toNat)).sum / l.length
  let three := fun (f : Nat → Nat) => word ((List.range 3).map fun k => (16 * k, 16, f k))
  match o with
  | 0x00 => word [(0, 3, p.up.toNat), (16, 16, p.authFails.toNat), (32, 16, p.resends.toNat)]
  | 0x08 => three fun k => (p.latMax.getD k 0).toNat
  | 0x10 => three fun k => mean (p.lats.getD k [])
  | _ => 0

/-- The SPINE block's package register. -/
def Dev.regSpine (d : Dev) : W64 :=
  word [(0, 1, d.trained.toNat), (1, 1, d.keyed.toNat), (8, 8, if d.trained then (d.reachable.map fun r => 2 ^ r).sum else 0)]

/-! ## MSI-X (17:R381) -/

/-- A function's table and pending bits. -/
def Link.readMsix (l : Link) (o : Nat) : W64 :=
  let e := l.msix.getD (o / 16) ⟨0, 0, true⟩
  if o < 0x400 then (if o % 16 = 0 then e.addr else word [(0, 32, e.data.toNat), (32, 1, e.masked.toNat)])
  else if o = 0x800 then l.pba else 0

/-! ## BAR0, the portal, I3C -/

/-- The 8-byte register at an aligned BAR0 offset, read through a function (17:R370 to R376). -/
def Dev.readBar0 (d : Dev) (l : Lk) (off : Nat) : W64 :=
  let o := off % 65536
  let ridge := fun (f : Nat → Nat → W64) (base : Nat) =>
    let r := (o - base) / 0x1000
    if base ≤ o ∧ d.populated r then f r ((o - base) % 0x1000) else 0
  match off / 65536 with
  | 0x0 => d.readDev o
  | 0x1 => if o = 0 then d.cplTimeout.setWidth 64 else if o / 256 = 1 then d.linkA.read (o % 256)
      else if o / 256 = 2 then d.linkB.read (o % 256) else 0
  | 0x2 => d.mq.read o
  | 0x3 => d.readQrm l o
  | 0x4 => d.readSeamtab l o
  | 0x5 => if o < 0x1000 then d.readQueueView l o else ridge d.readArb 0x1000
  | 0x6 => d.readPwr o
  | 0x7 => if o = 0 then word [(0, 1, d.neighbour.toNat)] else ridge (fun r => (d.ridge r).rng.read) 0x1000
  | 0x8 => d.readTamp o
  | 0x9 => d.readLog d.log.cursor o
  | 0xA => if o < 0x4000 then (d.perfUnit (o / 256)).read (o % 256)
      else if 0x8000 ≤ o then d.readLevel ((o - 0x8000) / 0x40) (o % 0x40) else 0
  | 0xB => d.readEvt o
  | 0xC => d.readPers o
  | 0xD => ridge (fun r => (d.ridge r).readWorld d.cacheMode) 0
  | 0xE => if o = 0 then d.regSpine else ridge (fun r => (d.ridge r).spine.read) 0x1000
  | 0xF => (d.link l).readMsix o
  | _ => 0

/-- The register at an aligned offset of a seam's page, RNG_DATA apart; a page that does not answer reads as zero (03:R58,
04:Table 4.3); a FROZEN seam's page shows the snapshot (03:R76). -/
def Dev.readPortal (d : Dev) (l : Lk) (s o : Nat) : W64 :=
  let x := d.seam s
  let queue := fun (q : Nat) => x.run.queuesNow.getD q Queue.blank
  if !d.answers l s then 0
  else if o ≤ 0x18 then (queue (o / 8)).tail.setWidth 64
  else if o = 0x40 then ((x.run.cqNow.map fun (c : CQ) => c.head).getD 0).setWidth 64
  else if o = 0x80 then
    word [(0, 2, x.entry.state.code), (8, 8, x.entry.gen.toNat), (16, 4, x.queueBits (· != .none)),
      (20, 4, x.queueBits (· == .faulted)), (32, 32, (x.run.cqNow.map (·.write.toNat)).getD 0)]
  else if 0x88 ≤ o ∧ o ≤ 0xA0 then
    let q := queue ((o - 0x88) / 8)
    let st := match q.state with | .none => 0 | .running => 1 | .faulted => 2 | .shutting => 3
    word [(0, 32, q.reported.toNat), (32, 2, st), (36, 4, q.prefetch.length), (40, 8, q.tailDrops.toNat)]
  else 0

/-- The 8-byte register at an offset of the I3C space (17:Table 17.8). -/
def Dev.readI3c (d : Dev) (o : Nat) : W64 :=
  if o % 8 ≠ 0 then 0
  else if o ≤ 0x1F8 then d.readLog d.log.i3cCursor o
  else if 0x1100 ≤ o ∧ o ≤ 0x1148 then d.regPending ((o - 0x1100) / 8)
  else if 0x1300 ≤ o ∧ o < 0x1500 then d.readLevel ((o - 0x1300) / 0x40) (o % 0x40)
  else match o with
    | 0x1000 => d.regMode
    | 0x1008 => d.regBoot
    | 0x1010 => d.regRidges
    | 0x1018 => d.regEvt
    | 0x1200 => BitVec.ofNat 64 d.power.bmcCap
    | 0x1208 => d.regPower
    | 0x1800 => d.regTamp
    | _ => 0

end Sys2Proof.Machine
end

