-- ==== Sys2Proof/Machine/Registers.lean ====
section
/-! DEFINITION. What the host's writes to registers do: the named commands of the table, and any other write by its address
(17:R370 to R382, 00:R9, 09:R227, 11:R263, R276, 12:R290 to R292, 13:R301, R316, R317, 15:R346, R352, 16:R358, log 32). -/

namespace Sys2Proof.Machine

/-! ## RNG_DATA (12:R291, 02:R47) -/

/-- Table 12.5: DATA with VALID. -/
def rngWord (w : BitVec 32) : W64 := word [(0, 32, w.toNat), (32, 1, 1)]

/-- Table 12.5: ERR alone. -/
def rngErr : W64 := word [(33, 1, 1)]

/-- What a read of RNG_DATA returns, with the device after it. -/
def Dev.rngData (d : Dev) (l : Lk) (s size : Nat) : W64 × Dev :=
  let r := d.homeOf s
  if size ≠ 8 then (0, d)
  else if d.boot.step ≠ 10 then (rngErr, d)
  else if !d.answers l s then (0, d)
  else if d.live ≠ .service then (rngErr, d)
  else match (d.ridge r).rng.buf with
    | [] => (rngErr, d)
    | w :: rest => (rngWord w, (d.modRng r fun x => { x with buf := rest }).refillBuf r)

/-- The read's answer stays where the host has taken it from. -/
def Dev.rngDataRead (d : Dev) (l : Lk) (s size : Nat) : Dev :=
  let a := d.rngData l s size
  a.2.modAccess fun x => { x with rngRead := a.1 }

/-! ## TAMP (13:R301, R316, R317, 09:R226, R227) -/

/-- The order that permits a class: ARMED, a CLASS_LOWER that names the source and the class. -/
def Dev.classOrder (d : Dev) (id : Nat) (v : BitVec 2) : Option Order :=
  d.quorum.orders.find? fun o =>
    o.state == .armed && o.kind == 7 && field o.body 0 2 == id && field o.body 2 1 == v.toNat

/-- A class field takes its value, shadow and all (13:R303). -/
def Dev.setClass (d : Dev) (id : Nat) (v : BitVec 2) : Dev :=
  let n := if id < 32 then 2 * id else 2 * ((id - 64) % 72)
  let put := fun {w : Nat} (x : BitVec w) => (x &&& ~~~(BitVec.ofNat w 3 <<< n)) ||| (v.setWidth w <<< n)
  if id < 32 then d.modTamp fun t => { t with classPkg := .of (put t.classPkg.val) }
  else d.modTamp fun t => { t with classRidge := .of (put t.classRidge.val) }

/-- A write to the field of a source is judged on its own. A fused-off source ignores it (13:R302). -/
def Dev.classWrite (d : Dev) (id : Nat) (v : BitVec 2) : Dev :=
  let now := d.classOfId id
  let refused := d.pkgEvent 42 (id + v.toNat * 1024)
  if d.fusedOff id then d
  else if v.toNat = 3 ∨ v.toNat < classFloor id then refused
  else if v = now then d
  else if now.toNat < v.toNat then (if d.live = .zeroized then refused else d.setClass id v)
  else match d.classOrder id v with
    | some o => (d.consumeOrder o.num).setClass id v
    | none => refused

/-- The field of a source in one write, or in the writes of both links in one cycle (09:R227): the same value is applied
once; two values are both refused, counted and logged. -/
def Dev.classField (d : Dev) (id n : Nat) (a b : Option W64) : Dev :=
  let get := fun (v : W64) => v.extractLsb' n 2
  match a, b with
  | some a, some b =>
    if get a = get b then d.classWrite id (get a)
    else if d.fusedOff id then d
    else (d.modQuorum fun q => { q with conflicts := satInc q.conflicts }).pkgEvent 43
      (id + (get a).toNat * 1024 + (get b).toNat * 4096)
  | some a, none => d.classWrite id (get a)
  | none, some b => d.classWrite id (get b)
  | none, none => d

/-- A class register is written: its fields in turn, and the register becomes persistent (16:R366). -/
def Dev.classRegister (d : Dev) (perRidge : Bool) (a b : Option W64) : Dev :=
  let first := if perRidge then 64 else 0
  let d' := (List.range (if perRidge then 10 else 22)).foldl (fun d k => d.classField (first + k) (2 * k) a b) d
  if perRidge then
    (if d'.tamp.classRidge = d.tamp.classRidge then d' else d'.persWrite .classRidge (d'.tamp.classRidge.val.setWidth 64))
  else if d'.tamp.classPkg = d.tamp.classPkg then d' else d'.persWrite .classPkg d'.tamp.classPkg.val

/-- TAMP.CTRL with the fields that the mode lets change (13:R317): all in COMMISSION, an OUT_MS of 0 apart; in SERVICE,
VIGIL_MODE to 0 and OUT_ON_L to 1. -/
def Dev.ctrlAfter (d : Dev) (v : W64) : Tamp :=
  let t := d.tamp
  let ms := v.extractLsb' 8 8
  if d.live = .commission then
    { t with
      vigilMode := .of (v.extractLsb' 0 1), outOnL := .of (v.extractLsb' 1 1), tinPol := .of (v.extractLsb' 16 8)
      outMs := if ms = 0 then t.outMs else .of ms }
  else if d.live = .service then
    { t with
      vigilMode := if v.getLsbD 0 then t.vigilMode else .of 0
      outOnL := if v.getLsbD 1 then .of 1 else t.outOnL }
  else t

/-- A write of TAMP.CTRL. A change that is refused, and a write that changes nothing, are logged. -/
def Dev.tampCtrl (d : Dev) (l : Lk) (v : W64) : Dev :=
  let t := d.ctrlAfter v
  let d' := if t = d.tamp then d else (d.modTamp fun _ => t).persWrite .tampCtrl t.ctrl
  if t = d.tamp ∨ t.ctrl ≠ v &&& 0xFFFF03 then d'.ignoredWrite l 0x80018 else d'

/-! ## Registers that only COMMISSION changes (11:R263, 12:R290) -/

/-- WORLD.CACHE.MODE: one value on every ridge. -/
def Dev.setCacheMode (d : Dev) (l : Lk) (offset : Nat) (v : W64) : Dev :=
  if d.live = .commission then { d with cacheMode := v.getLsbD 0 }.persWrite .cacheMode (v &&& 1)
  else d.ignoredWrite l offset

/-- RNG.CTRL.NEIGHBOUR. -/
def Dev.setNeighbour (d : Dev) (l : Lk) (v : W64) : Dev :=
  if d.live = .commission then { d with neighbour := v.getLsbD 0 }.persWrite .neighbour (v &&& 1)
  else d.ignoredWrite l 0x70000

/-! ## PWR (16:R358, 11:R276) -/

/-- WATTS of a write, from 6 W to the variant's maximum. -/
def Dev.watts (d : Dev) (v : W64) : Option Nat :=
  let w := v.toNat % 128
  if 6 ≤ w ∧ w ≤ d.maxWatts then some w else none

/-- A new ceiling in place of the old one is logged, and the governor acts on it. -/
def Dev.newCeiling (d : Dev) (was : Nat) : Dev := (d.pkgEvent 54 d.ceiling).govern (decide (was < d.ceiling))

/-- PWR.ENVELOPE. -/
def Dev.setEnvelope (d : Dev) (l : Lk) (v : W64) : Dev :=
  match d.watts v with
  | none => d.ignoredWrite l 0x60000
  | some w =>
    let d' := (d.modPower fun p => { p with envelope := w }).persWrite .envelope (BitVec.ofNat 64 w)
    if w = d.power.envelope then d' else d'.newCeiling d.ceiling

/-- PWR.BMC_CAP, through I3C. -/
def Dev.setCap (d : Dev) (v : W64) : Dev :=
  match d.watts v with
  | none => d.pkgEvent 41 0x60008
  | some w => if w = d.power.bmcCap then d else (d.modPower fun p => { p with bmcCap := w }).newCeiling d.ceiling

/-- The host's request on one block: obeyed, or deferred while Deep has a claim on it; a later request replaces the pending
one, and a request to ungate clears it. -/
def Dev.gateBlock (d : Dev) (r b : Nat) (v : Bool) : Dev :=
  let w := (d.ridge r).world
  let was := w.deferPending.getLsbD b
  if v then
    if w.claim.getLsbD b then
      (d.modWorld r fun w => { w with
        deferPending := setBit33 w.deferPending b true, deferValue := setBit33 w.deferValue b false
        deferTotal := satInc w.deferTotal }).ridgeEvent r 51 (b + if was then 64 else 0)
    else d.modRidge r fun x => { x with gateOn := setBit33 x.gateOn b true }
  else
    (d.modRidge r fun x => { x with gateOn := setBit33 x.gateOn b false }).modWorld r fun w => { w with
      deferPending := setBit33 w.deferPending b false, deferValue := setBit33 w.deferValue b false }

/-- PWR.GATEr: the blocks whose request changes. -/
def Dev.gateWrite (d : Dev) (r : Nat) (v : W64) : Dev :=
  if d.populated r then
    let old := (d.ridge r).gateReq
    let new := v.extractLsb' 0 33
    let d := d.modRidge r fun x => { x with gateReq := new }
    ((List.range 33).filter fun b => old.getLsbD b != new.getLsbD b).foldl (fun d b => d.gateBlock r b (new.getLsbD b)) d
  else d

/-! ## LINK, SPINE -/

/-- LINK.CPL_TIMEOUT, in units of 50 µs (17:R378). -/
def Dev.setTimeout (d : Dev) (l : Lk) (v : W64) : Dev :=
  let u := v.extractLsb' 0 10
  if 1 ≤ u.toNat ∧ u.toNat ≤ 1000 then { d with cplTimeout := u } else d.ignoredWrite l 0x10000

/-- CLR.LAT: the longest latencies of a ridge's connections (17:R380). -/
def Dev.clearLat (d : Dev) (r : Nat) : Dev :=
  d.modRidge r fun x => { x with spine := { x.spine with latMax := List.replicate 3 0 } }

/-! ## The MSI-X table (17:R381) -/

/-- One 4-byte word of an entry: address low, address high, data, vector control. -/
def MsixEntry.put (e : MsixEntry) (n : Nat) (v : BitVec 32) : MsixEntry :=
  match n with
  | 0 => { e with addr := e.addr.extractLsb' 32 32 ++ v }
  | 1 => { e with addr := v ++ e.addr.extractLsb' 0 32 }
  | 2 => { e with data := v }
  | _ => { e with masked := v.getLsbD 0 }

/-- A 4-byte word of a function's table; the pending bit array is read-only. -/
def Dev.msixWord (d : Dev) (l : Lk) (o : Nat) (v : BitVec 32) : Dev :=
  if o < 0x400 then
    (d.modLink l fun x => { x with msix := x.msix.modify (o / 16) fun e => e.put (o / 4 % 4) v }).unmask l
  else if 0x800 ≤ o ∧ o < 0x808 then d
  else d.ignoredWrite l (0xF0000 + o)

/-! ## BAR0 by address (17:R370, R371, R375, R376) -/

/-- An 8-byte write to DEV, QRM, SEAMTAB, or another block of which the table here gives the last read-only register and
the selector. -/
def Dev.writeSelect (d : Dev) (l : Lk) (off : Nat) (v : W64) : Dev :=
  if off ≤ 0x70 then d
  else if off = 0x30008 then d.modLink l fun x => { x with qrmSel := v.setWidth 32 }
  else if 0x30000 ≤ off ∧ off ≤ 0x30030 then d
  else if off = 0x40000 then d.modLink l fun x => { x with seamSel := v.setWidth 13 }
  else if 0x40100 ≤ off ∧ off ≤ 0x40178 then d
  else if off = 0x50000 then d.modLink l fun x => { x with arbSel := v.setWidth 15 }
  else if 0x50008 ≤ off ∧ off ≤ 0x50020 then d
  else if 0x51000 ≤ off ∧ off < 0x59000 ∧ off % 0x1000 ≤ 0x18 then d
  else d.ignoredWrite l off

/-- LINK and MQ (17:Table 17.3, 04:Table 4.8, R113). -/
def Dev.writeLinkMq (d : Dev) (l : Lk) (off : Nat) (v : W64) : Dev :=
  if off = 0x10000 then d.setTimeout l v
  else if (0x10100 ≤ off ∧ off ≤ 0x10118) ∨ (0x10200 ≤ off ∧ off ≤ 0x10218) then d
  else if off = 0x20000 then (if d.mq.enable then d else d.modMq fun q => { q with sqBase := v &&& ~~~63#64 })
  else if off = 0x20008 then (if d.mq.enable then d else d.modMq fun q => { q with cqBase := v &&& ~~~63#64 })
  else if off = 0x20010 then d.mqCtrl l v
  else if off = 0x20018 then d.mqTail (v.setWidth 32)
  else if off = 0x20020 then d.mqHead (v.setWidth 32)
  else if off = 0x20028 then d
  else d.ignoredWrite l off

/-- PWR and PERS (16:Table 16.5). -/
def Dev.writePwr (d : Dev) (l : Lk) (off : Nat) (v : W64) : Dev :=
  if off = 0x60000 then d.setEnvelope l v
  else if off = 0x60008 ∨ off = 0x60010 then d
  else if off = 0x60018 then d.modPower fun p => { p with sleepUs := v.setWidth 16 }
  else if 0x60100 ≤ off ∧ off < 0x60140 then d.gateWrite ((off - 0x60100) / 8) v
  else if 0x60200 ≤ off ∧ off < 0x60240 then d
  else if 0xC0000 ≤ off ∧ off < 0xC2000 then d.persWrite (.word ((off - 0xC0000) / 8)) v
  else if off = 0xC2000 then d
  else d.ignoredWrite l off

/-- A source's register: TPSEL in FACTORY, then REARM (12:Table 12.6, R294). -/
def Dev.writeSource (d : Dev) (r n : Nat) (v : W64) : Dev :=
  let d := if d.live = .factory then d.modSrc r n fun x => { x with tpsel := v.getLsbD 9 } else d
  if v.getLsbD 8 then d.rearm r n else d

/-- RNG (12:Table 12.6). -/
def Dev.writeRng (d : Dev) (l : Lk) (off : Nat) (v : W64) : Dev :=
  let r := (off - 0x71000) / 0x1000
  let o := off % 0x1000
  if off = 0x70000 then d.setNeighbour l v
  else if 0x71000 ≤ off ∧ r < 8 ∧ o ≤ 0x20 then
    (if d.populated r && decide (o ≤ 8) then d.writeSource r (o / 8) v else d)
  else d.ignoredWrite l off

/-- TAMP (13:Table 13.5). -/
def Dev.writeTamp (d : Dev) (l : Lk) (off : Nat) (v : W64) : Dev :=
  let a := if l = .a then some v else none
  let b := if l = .b then some v else none
  let r := (off - 0x80040) / 8
  if off = 0x80000 then d.classRegister false a b
  else if off = 0x80008 then d.classRegister true a b
  else if off = 0x80018 then d.tampCtrl l v
  else if off = 0x80028 then d.modTamp fun t => { t with latch := t.latch &&& ~~~(v.setWidth 32) }
  else if off ≤ 0x80030 then d
  else if off ≤ 0x80078 then
    (if d.populated r then d.modRidge r fun x => { x with latch := x.latch &&& ~~~(v.extractLsb' 16 16) } else d)
  else d.ignoredWrite l off

/-- LOG and EVT (15:Tables 15.5 and 15.6). -/
def Dev.writeLogEvt (d : Dev) (l : Lk) (off : Nat) (v : W64) : Dev :=
  let route : Route := ⟨v.extractLsb' 0 6, v.getLsbD 7, v.getLsbD 8, v.getLsbD 9⟩
  let id := (off - 0xB0000) / 8
  if off = 0x90000 then d.modLog fun g => { g with cursor := v.setWidth 32 }
  else if off ≤ 0x90018 ∨ (0x90100 ≤ off ∧ off ≤ 0x901F8) then d
  else if 0xB0000 ≤ off ∧ off < 0xB1400 then
    (if d.idExists id then d.modLog fun g => { g with routes := g.routes.set id route } else d)
  else if 0xB2000 ≤ off ∧ off ≤ 0xB2048 then d.modLog fun g => g.clearPending ((off - 0xB2000) / 8) v
  else if off = 0xB2080 then d
  else d.ignoredWrite l off

/-- THR of a ridge's level monitors (15:Table 15.8). -/
def Levels.setThr (x : Levels) (v : W64) : Levels :=
  { x with tHigh := v.extractLsb' 0 12, tLow := v.extractLsb' 16 12, vHigh := v.extractLsb' 32 11, vLow := v.extractLsb' 48 11 }

/-- PERF and the level monitors (15:Tables 15.7 and 15.8). -/
def Dev.writePerf (d : Dev) (l : Lk) (off : Nat) (v : W64) : Dev :=
  let u := (off - 0xA0000) / 0x100
  let o := off % 0x100
  let r := (off - 0xA8000) / 0x40
  let q := off % 0x40
  if off < 0xA4000 then
    if o = 0 then d.modPerf u fun p => p.write v
    else if o ≤ 0x20 ∨ (0x40 ≤ o ∧ o ≤ 0xB8) then d else d.ignoredWrite l off
  else if 0xA8000 ≤ off ∧ r < 8 ∧ q ≤ 0x28 then
    if !d.populated r then d
    else if q = 0x20 then d.modLevels r fun x => x.setThr v
    else if q = 0x28 ∧ v.getLsbD 0 then d.modLevels r Levels.clear else d
  else d.ignoredWrite l off

/-- WORLD and SPINE (11:Table 11.5, 17:Table 17.6). -/
def Dev.writeWorld (d : Dev) (l : Lk) (off : Nat) (v : W64) : Dev :=
  let o := off % 0x1000
  let rw := (off - 0xD0000) / 0x1000
  let rs := (off - 0xE1000) / 0x1000
  if off < 0xD8000 ∧ (o ≤ 0x20 ∨ (0x40 ≤ o ∧ o ≤ 0x68) ∨ (0x80 ≤ o ∧ o ≤ 0xC0)) then
    if !d.populated rw then d
    else if o = 8 then d.setCacheMode l off v
    else if o = 0x80 then d.modWorld rw fun w => { w with mlogSel := v.setWidth 6 } else d
  else if off = 0xE0000 then d
  else if 0xE1000 ≤ off ∧ rs < 8 ∧ o ≤ 0x18 then
    (if d.populated rs && decide (o = 0x18) && v.getLsbD 0 then d.clearLat rs else d)
  else d.ignoredWrite l off

/-- A BAR0 write that R375 lets take effect before power-up step 10: LINK, MQ, LOG, EVT and PWR.ENVELOPE. -/
def earlyOffset (off : Nat) : Bool := [0x1, 0x2, 0x9, 0xB].contains (off / 0x10000) || off == 0x60000

/-- An aligned 8-byte word written at a BAR0 offset. -/
def Dev.writeBar0 (d : Dev) (l : Lk) (off : Nat) (v : W64) : Dev :=
  if d.boot.step ≠ 10 ∧ !earlyOffset off then d.ignoredWrite l off
  else match off / 0x10000 with
    | 0x0 | 0x3 | 0x4 | 0x5 => d.writeSelect l off v
    | 0x1 | 0x2 => d.writeLinkMq l off v
    | 0x6 | 0xC => d.writePwr l off v
    | 0x7 => d.writeRng l off v
    | 0x8 => d.writeTamp l off v
    | 0x9 | 0xB => d.writeLogEvt l off v
    | 0xA => d.writePerf l off v
    | 0xD | 0xE => d.writeWorld l off v
    | _ => (d.msixWord l (off % 0x10000) (v.extractLsb' 0 32)).msixWord l (off % 0x10000 + 4) (v.extractLsb' 32 32)

/-- Word i of the data of a write. -/
def dataWord (v : BitVec 512) (i : Nat) : W64 := v.extractLsb' (64 * i) 64

/-- Whole 8-byte words at an aligned offset: applied in ascending address. -/
def wordWrite (off size : Nat) : Bool := off % 8 == 0 && size % 8 == 0 && decide (8 ≤ size ∧ size ≤ 64)

/-- What a read of any size and alignment returns, from the 8-byte registers (17:R370): a register, the addressed half of one, or
whole words, the lowest address in the lowest bits; zero for any other size or alignment. -/
def readSized (reg : Nat → W64) (off size : Nat) : BitVec 512 :=
  if size = 4 ∧ off % 4 = 0 then ((reg (off - off % 8)).extractLsb' (8 * (off % 8)) 32).setWidth 512
  else if wordWrite off size then
    BitVec.ofNat 512 (((List.range (size / 8)).map fun i => (reg (off + 8 * i)).toNat * 2 ^ (64 * i)).sum)
  else 0

/-- A BAR0 read through a function. No BAR0 read has a side effect (17:R372). -/
def Dev.bar0Read (d : Dev) (l : Lk) (off size : Nat) : BitVec 512 := readSized (d.readBar0 l) off size

/-- A read of a seam's page through a function, RNG_DATA apart, which reads as zero here (17:R370, 12:R291). -/
def Dev.pageRead (d : Dev) (l : Lk) (s o size : Nat) : BitVec 512 := readSized (d.readPortal l s) o size

/-- An aligned 8-byte word that one link, or both in one spine cycle, write at a BAR0 offset: A's write applies before B's; of a
class register the two are judged together (09:R227). -/
def Dev.writeBoth (d : Dev) (off : Nat) (a b : Option W64) : Dev :=
  if d.boot.step = 10 && (off == 0x80000 || off == 0x80008) then
    d.stampClass.classRegister (off == 0x80008) a b
  else
    let d := match a with
      | some v => d.writeBar0 .a off v
      | none => d
    match b with
    | some v => d.writeBar0 .b off v
    | none => d

/-- A BAR0 write of no whole words: 4 bytes to the MSI-X table, or ignored and logged. -/
def Dev.writePart (d : Dev) (l : Lk) (off size : Nat) (v : BitVec 512) : Dev :=
  if size = 4 ∧ off % 4 = 0 ∧ off / 0x10000 = 0xF ∧ d.boot.step = 10 then d.msixWord l (off % 0x10000) (v.extractLsb' 0 32)
  else d.ignoredWrite l off

/-- A BAR0 write of any size, from one link or from both in one spine cycle: whole words in ascending address. -/
def Dev.bar0Write (d : Dev) (off size : Nat) (a b : Option (BitVec 512)) : Dev :=
  if wordWrite off size then
    (List.range (size / 8)).foldl (init := d) fun d i =>
      d.writeBoth (off + 8 * i) (a.map fun v => dataWord v i) (b.map fun v => dataWord v i)
  else
    let d := match a with
      | some v => d.writePart .a off size v
      | none => d
    match b with
    | some v => d.writePart .b off size v
    | none => d

/-! ## The portal by address (17:R370, R371, 04:Table 4.3) -/

/-- The page's registers that a write leaves alone: SEAM_STATUS and RNG_DATA. -/
def portalReadOnly (o : Nat) : Bool := decide (0x80 ≤ o ∧ o ≤ 0xA0) || o == 0x100

/-- An aligned 8-byte word, or the 4-byte low half of a register, written to a seam's page. -/
def Dev.writePage (d : Dev) (l : Lk) (s o size : Nat) (v : W64) : Dev :=
  if !d.answers l s then d.portalDrop l
  else if o ≤ 0x18 ∧ o % 8 = 0 then d.portalWrite l s (o / 8) size v
  else if o = 0x40 then d.portalWrite l s 4 size v
  else if o = 0xC0 then d.invalWrite l s size v
  else if portalReadOnly (o - o % 8) || (o % 8 == 4 && (decide (o ≤ 0x1C) || o == 0x44 || o == 0xC4)) then d
  else d.portalDrop l

/-- A portal write of any size. -/
def Dev.bar2Write (d : Dev) (l : Lk) (off size : Nat) (v : BitVec 512) : Dev :=
  if wordWrite off size then
    (List.range (size / 8)).foldl (fun d i => d.writePage l ((off + 8 * i) / 0x1000) ((off + 8 * i) % 0x1000) 8 (dataWord v i)) d
  else if size = 4 ∧ off % 4 = 0 then d.writePage l (off / 0x1000) (off % 0x1000) 4 (v.extractLsb' 0 32 |>.setWidth 64)
  else if d.answers l (off / 0x1000) then d else d.portalDrop l

/-! ## Commands -/

/-- RNG_DATA_READ (12:R291). -/
def execRngDataRead (link : Lk) (seam size : Nat) (s : State) : Host.Outcome State Fault Refusal :=
  s.upd fun d => if (d.link link).up then d.rngDataRead link seam size else d

/-- TAMP_CLASS_WRITE: a write of CLASS_PKG or CLASS_RIDGE from a link, or from both in one cycle (13:R301, 09:R227). Before
power-up step 10 each is ignored and logged (17:R375). -/
def execTampClassWrite (perRidge : Bool) (fromA fromB : Option W64) (s : State) : Host.Outcome State Fault Refusal :=
  s.upd fun d =>
    let a := if d.linkA.up then fromA else none
    let b := if d.linkB.up then fromB else none
    if a.isNone && b.isNone then d else d.stampWrite.writeBoth (if perRidge then 0x80008 else 0x80000) a b

/-- A command that is one aligned 8-byte BAR0 write through a link. -/
def State.hostWord (s : State) (l : Lk) (off : Nat) (v : W64) : Host.Outcome State Fault Refusal :=
  s.upd fun d => if (d.link l).up then d.stampWrite.writeBar0 l off v else d

/-- TAMP_CTRL_WRITE (13:R317). -/
def execTampCtrlWrite (link : Lk) (value : W64) (s : State) : Host.Outcome State Fault Refusal := s.hostWord link 0x80018 value

/-- EVT_PENDING_CLEAR, by the host or the controller (15:R347). -/
def execEvtPendingClear (word : Nat) (mask : W64) (s : State) : Host.Outcome State Fault Refusal := s.upd fun d =>
  d.modLog fun g => g.clearPending word mask

/-- CACHE_MODE_WRITE, at ridge 0's register: the same value stands on every ridge (11:R263). -/
def execCacheModeWrite (link : Lk) (value : W64) (s : State) : Host.Outcome State Fault Refusal := s.hostWord link 0xD0008 value

/-- NEIGHBOUR_WRITE (12:R290). -/
def execNeighbourWrite (link : Lk) (value : W64) (s : State) : Host.Outcome State Fault Refusal := s.hostWord link 0x70000 value

/-- PWR_ENVELOPE_WRITE (16:R358). -/
def execPwrEnvelopeWrite (link : Lk) (value : W64) (s : State) : Host.Outcome State Fault Refusal := s.hostWord link 0x60000 value

/-- The I3C target answers: from power-up step 2 with main power, and not while EXTEST holds its pins (17:R383, 18:R397). -/
def Dev.i3cUp (d : Dev) : Bool :=
  d.pins.mainPower && !d.pins.inVigil && decide (2 ≤ d.boot.step) && d.access.instruction != 3

/-- BMC_CAP_WRITE (16:R358, 17:Table 17.8). -/
def execBmcCapWrite (value : W64) (s : State) : Host.Outcome State Fault Refusal :=
  s.upd fun d => if d.i3cUp then d.setCap value else d

/-- PWR_GATE_WRITE (11:R276, R277). -/
def execPwrGateWrite (ridge : Nat) (value : W64) (s : State) : Host.Outcome State Fault Refusal := s.upd fun d =>
  if d.populated ridge then d.hostWrite .a (0x60100 + 8 * ridge) fun d => d.gateWrite ridge value else d

/-- SPINE_CLR_LAT (17:R380). -/
def execSpineClrLat (ridge : Nat) (s : State) : Host.Outcome State Fault Refusal := s.upd fun d =>
  if d.populated ridge then d.hostWrite .a (0xE1018 + 0x1000 * ridge) fun d => d.clearLat ridge else d

/-- CPL_TIMEOUT_WRITE (17:R378). -/
def execCplTimeoutWrite (link : Lk) (value : W64) (s : State) : Host.Outcome State Fault Refusal := s.hostWord link 0x10000 value

/-- REGISTER_WRITE, with what the other link writes to the same place in the same spine cycle: offsets below 1 MiB lie in BAR0,
those above in BAR2 (17:R370, 03:Table 3.1, 09:R227; log 18). -/
def execRegisterWrite (link : Lk) (offset size : Nat) (w : WriteData) (s : State) : Host.Outcome State Fault Refusal :=
  s.upd fun d =>
    let from' := fun (l : Lk) => if !(d.link l).up then none else if l = link then some w.value else w.other
    if (from' .a).isNone && (from' .b).isNone then d
    else if offset < 0x100000 then d.stampWrite.bar0Write offset size (from' .a) (from' .b)
    else if offset < 0x2100000 then
      let one := fun (d : Dev) (l : Lk) => match from' l with
        | some v => d.bar2Write l (offset - 0x100000) size v
        | none => d
      one (one d.stampPortal .a) .b
    else d

end Sys2Proof.Machine
end

