-- ==== Sys2Proof/Machine/Access.lean ====
section
/-! DEFINITION. The I3C target and the test access port (17:R383, 18:R393 to R397). What a GET command answers is not given
(log 11), nor is what an Askune private instruction does beside being the current one. -/

namespace Sys2Proof.Machine

/-! ## I3C (17:R383, 18:R393) -/

/-- The address at which the target answers: its dynamic address once it has one, until then its static address, 0x48 plus the
strapped pins (18:R393). -/
def Dev.i3cAddress (d : Dev) : BitVec 7 := d.access.dynAddr.getD (0x48 + d.fuses.i3cAddr.setWidth 7)

/-- A change to the target while it answers. -/
def Dev.i3c (d : Dev) (f : Access → Access) : Dev := if d.i3cUp then d.modAccess f else d

/-- 8 bytes written to an I3C register: CURSOR, EVT.PENDING, BMC_CAP; the others ignore them. -/
def Dev.writeI3c (d : Dev) (o : Nat) (v : W64) : Dev :=
  if o = 0 then d.modLog fun g => { g with i3cCursor := v.setWidth 32 }
  else if 0x1100 ≤ o ∧ o ≤ 0x1148 ∧ o % 8 = 0 then d.modLog fun g => g.clearPending ((o - 0x1100) / 8) v
  else if o = 0x1200 then d.setCap v else d

/-- I3C_REGISTER_WRITE: an offset, then 8 bytes of data or a read of 8 bytes (17:R383). -/
def execI3cRegisterWrite (offset : BitVec 16) (data : Option W64) (s : State) : Host.Outcome State Fault Refusal := s.upd fun d =>
  if d.i3cUp then
    let d := d.modAccess fun a => { a with selected := offset }
    match data with
    | some v => d.writeI3c offset.toNat v
    | none => d.modAccess fun a => { a with answer := leBytes 8 (d.readI3c offset.toNat).toNat }
  else d

/-- SETDASA: at the static address, which the target answers until it has a dynamic one (18:R393). -/
def execSetdasa (addr : BitVec 7) (s : State) : Host.Outcome State Fault Refusal := s.upd fun d =>
  d.i3c fun a => if a.dynAddr.isSome then a else { a with dynAddr := some addr }

/-- ENTDAA: a target without a dynamic address takes part (18:R393). -/
def execEntdaa (addr : BitVec 7) (s : State) : Host.Outcome State Fault Refusal := s.upd fun d =>
  d.i3c fun a => if a.dynAddr.isSome then a else { a with dynAddr := some addr }

/-- RSTDAA (18:R393). -/
def execRstdaa (s : State) : Host.Outcome State Fault Refusal := s.upd fun d => d.i3c fun a => { a with dynAddr := none }

/-- SETMWL (18:R393). -/
def execSetmwl (len : BitVec 16) (s : State) : Host.Outcome State Fault Refusal := s.upd fun d =>
  d.i3c fun a => { a with maxWrite := len }

/-- SETMRL (18:R393). -/
def execSetmrl (len : BitVec 16) (s : State) : Host.Outcome State Fault Refusal := s.upd fun d =>
  d.i3c fun a => { a with maxRead := len }

/-- GETPID (18:R393): the bytes are not given (log 11). -/
def execGetpid (s : State) : Host.Outcome State Fault Refusal := s.upd fun d => d.i3c fun a => { a with answer := Config.i3cId 0 }

/-- GETBCR (18:R393): as GETPID. -/
def execGetbcr (s : State) : Host.Outcome State Fault Refusal := s.upd fun d => d.i3c fun a => { a with answer := Config.i3cId 1 }

/-- GETDCR (18:R393): as GETPID. -/
def execGetdcr (s : State) : Host.Outcome State Fault Refusal := s.upd fun d => d.i3c fun a => { a with answer := Config.i3cId 2 }

/-- GETSTATUS (18:R393): as GETPID, drawn anew each time. -/
def execGetstatus (s : State) : Host.Outcome State Fault Refusal := s.upd fun d =>
  if d.i3cUp then
    let (n, d) := d.draw
    d.modAccess fun a => { a with answer := Config.i3cId (3 + n) }
  else d

/-! ## Boundary scan (18:R395 to R397) -/

/-- The level of ALERT_N: low while an alert stands. Under EXTEST it follows the boundary register, whose contents no command of
the table gives (18:R397; log 11). -/
def Dev.alertPin (d : Dev) : Option Bool := if d.access.instruction = 3 then none else some (!d.alert)

/-- The test access port has its supply, VDD_IO. -/
def Dev.tapUp (d : Dev) : Bool := d.pins.mainPower

/-- The EXTEST permit is open (09:R225). -/
def Dev.permitOpen (d : Dev) : Bool := match d.quorum.permitEnd with
  | some t => decide (d.clock < t)
  | none => false

/-- Table 18.5: what an instruction code decodes as in the current state. -/
def Dev.scanCode (d : Dev) (code : BitVec 8) : BitVec 8 :=
  let m := d.live
  let ok := code == 0xFF || code == 1 || code == 2 ||
    (code == 3 && (m == .factory || m == .blank || ((m == .commission || m == .service || m == .freeze) && d.permitOpen))) ||
    (decide (0x80 ≤ code.toNat ∧ code.toNat ≤ 0xFE) && m == .factory)
  if ok then code else 0xFF

/-- An instruction is loaded: as it decodes. -/
def Dev.loadScan (d : Dev) (code : BitVec 8) : Dev :=
  let c := d.scanCode code
  d.modAccess fun a => { a with instruction := c, scanOut := if c = 1 then d.fuses.idcode else 0 }

/-- BYPASS (18:Table 18.5). -/
def execBypass (s : State) : Host.Outcome State Fault Refusal := s.upd fun d => if d.tapUp then d.loadScan 0xFF else d

/-- IDCODE (18:Table 18.5, R396). -/
def execIdcode (s : State) : Host.Outcome State Fault Refusal := s.upd fun d => if d.tapUp then d.loadScan 1 else d

/-- SAMPLE/PRELOAD (18:Table 18.5). -/
def execSamplePreload (s : State) : Host.Outcome State Fault Refusal := s.upd fun d => if d.tapUp then d.loadScan 2 else d

/-- EXTEST (18:R397): where Table 18.5 does not allow it, BYPASS; a load that takes effect outside FACTORY and BLANK is
event 41 with the offset of QRM.PERMIT. -/
def execExtest (s : State) : Host.Outcome State Fault Refusal := s.upd fun d =>
  if d.tapUp then
    let d' := d.loadScan 3
    if d'.access.instruction = 3 ∧ d.live ≠ .factory ∧ d.live ≠ .blank then d'.pkgEvent 41 0x30028 else d'
  else d

/-- ASKUNE_PRIVATE: codes 0x80 to 0xFE, in FACTORY (18:Table 18.5). -/
def execAskunePrivate (code : BitVec 8) (s : State) : Host.Outcome State Fault Refusal := s.upd fun d =>
  if d.tapUp && decide (0x80 ≤ code.toNat ∧ code.toNat ≤ 0xFE) then d.loadScan code else d

/-- TRST_ASSERT: TRST_N low loads IDCODE (18:R395). -/
def execTrstAssert (s : State) : Host.Outcome State Fault Refusal := s.upd fun d => if d.tapUp then d.loadScan 1 else d

end Sys2Proof.Machine
end

