-- ==== Sys2Proof/Machine/Dispatch.lean ====
section
/-! DEFINITION. The meaning of every command, one arm a row of the table. -/

namespace Sys2Proof.Machine

/-- The effect of a command on everything but the queue. -/
def exec (i : Instr) (s : State) : Host.Outcome State Fault Refusal :=
  match i with
  | .nop seam queue => Sys2Proof.Machine.execNop seam queue s
  | .fence seam queue => Sys2Proof.Machine.execFence seam queue s
  | .rsaSignPkcs1 ridge blk => Sys2Proof.Machine.execRsaSignPkcs1 ridge blk s
  | .rsaSignPss ridge blk => Sys2Proof.Machine.execRsaSignPss ridge blk s
  | .rsaVerify ridge blk => Sys2Proof.Machine.execRsaVerify ridge blk s
  | .rsaDecryptOaep ridge blk => Sys2Proof.Machine.execRsaDecryptOaep ridge blk s
  | .rsaEncryptOaep ridge blk => Sys2Proof.Machine.execRsaEncryptOaep ridge blk s
  | .rsaRawPrivate ridge blk => Sys2Proof.Machine.execRsaRawPrivate ridge blk s
  | .rsaRawPublic ridge blk => Sys2Proof.Machine.execRsaRawPublic ridge blk s
  | .ecdsaSign ridge blk => Sys2Proof.Machine.execEcdsaSign ridge blk s
  | .ecdsaVerify ridge blk => Sys2Proof.Machine.execEcdsaVerify ridge blk s
  | .ecdh ridge blk => Sys2Proof.Machine.execEcdh ridge blk s
  | .ecPointMul ridge blk => Sys2Proof.Machine.execEcPointMul ridge blk s
  | .curveLoad ridge job => Sys2Proof.Machine.execCurveLoad ridge job s
  | .eddsaSign ridge blk => Sys2Proof.Machine.execEddsaSign ridge blk s
  | .eddsaVerify ridge blk => Sys2Proof.Machine.execEddsaVerify ridge blk s
  | .eddsaBatchVerify ridge blk => Sys2Proof.Machine.execEddsaBatchVerify ridge blk s
  | .xdh ridge blk => Sys2Proof.Machine.execXdh ridge blk s
  | .mlkemEncaps ridge blk => Sys2Proof.Machine.execMlkemEncaps ridge blk s
  | .mlkemDecaps ridge blk => Sys2Proof.Machine.execMlkemDecaps ridge blk s
  | .mldsaSign ridge blk => Sys2Proof.Machine.execMldsaSign ridge blk s
  | .mldsaVerify ridge blk => Sys2Proof.Machine.execMldsaVerify ridge blk s
  | .slhdsaSign ridge blk => Sys2Proof.Machine.execSlhdsaSign ridge blk s
  | .slhdsaVerify ridge blk => Sys2Proof.Machine.execSlhdsaVerify ridge blk s
  | .aesGcmEnc ridge blk => Sys2Proof.Machine.execAesGcmEnc ridge blk s
  | .aesGcmDec ridge blk => Sys2Proof.Machine.execAesGcmDec ridge blk s
  | .aesXts ridge blk => Sys2Proof.Machine.execAesXts ridge blk s
  | .aesCmac ridge blk => Sys2Proof.Machine.execAesCmac ridge blk s
  | .hash ridge blk => Sys2Proof.Machine.execHash ridge blk s
  | .hmac ridge blk => Sys2Proof.Machine.execHmac ridge blk s
  | .kmac ridge blk => Sys2Proof.Machine.execKmac ridge blk s
  | .kdfCtr ridge blk => Sys2Proof.Machine.execKdfCtr ridge blk s
  | .hkdf ridge blk => Sys2Proof.Machine.execHkdf ridge blk s
  | .keyGenerate ridge blk => Sys2Proof.Machine.execKeyGenerate ridge blk s
  | .keyImportWrapped ridge job => Sys2Proof.Machine.execKeyImportWrapped ridge job s
  | .keyExportWrapped ridge job => Sys2Proof.Machine.execKeyExportWrapped ridge job s
  | .keyDestroy ridge job => Sys2Proof.Machine.execKeyDestroy ridge job s
  | .keyAttestProvenance ridge job => Sys2Proof.Machine.execKeyAttestProvenance ridge job s
  | .keyAttestIdentity onMq ridge job => Sys2Proof.Machine.execKeyAttestIdentity onMq ridge job s
  | .keyAttestMigration cmd => Sys2Proof.Machine.execKeyAttestMigration cmd s
  | .keyLoadBlob ridge job => Sys2Proof.Machine.execKeyLoadBlob ridge job s
  | .keyDerive ridge blk => Sys2Proof.Machine.execKeyDerive ridge blk s
  | .randomBytes ridge blk => Sys2Proof.Machine.execRandomBytes ridge blk s
  | .hybridSign ridge blk => Sys2Proof.Machine.execHybridSign ridge blk s
  | .hybridVerify ridge blk => Sys2Proof.Machine.execHybridVerify ridge blk s
  | .hybridKem ridge blk => Sys2Proof.Machine.execHybridKem ridge blk s
  | .runProgram ridge core => Sys2Proof.Machine.execRunProgram ridge core s
  | .modexp ridge blk => Sys2Proof.Machine.execModexp ridge blk s
  | .modexpG2 ridge blk => Sys2Proof.Machine.execModexpG2 ridge blk s
  | .ntt ridge blk => Sys2Proof.Machine.execNtt ridge blk s
  | .polyMul ridge blk => Sys2Proof.Machine.execPolyMul ridge blk s
  | .sample ridge blk => Sys2Proof.Machine.execSample ridge blk s
  | .seamCreate cmd => Sys2Proof.Machine.execSeamCreate cmd s
  | .seamDestroy cmd => Sys2Proof.Machine.execSeamDestroy cmd s
  | .seamDestroyDrained seam => Sys2Proof.Machine.execSeamDestroyDrained seam s
  | .seamReset cmd => Sys2Proof.Machine.execSeamReset cmd s
  | .seamResetDrained seam => Sys2Proof.Machine.execSeamResetDrained seam s
  | .seamSetShare cmd => Sys2Proof.Machine.execSeamSetShare cmd s
  | .seamBindPasid cmd => Sys2Proof.Machine.execSeamBindPasid cmd s
  | .seamFreeze cmd => Sys2Proof.Machine.execSeamFreeze cmd s
  | .seamFreezeDrained seam => Sys2Proof.Machine.execSeamFreezeDrained seam s
  | .seamSave cmd => Sys2Proof.Machine.execSeamSave cmd s
  | .seamRestore cmd => Sys2Proof.Machine.execSeamRestore cmd s
  | .seamThaw cmd => Sys2Proof.Machine.execSeamThaw cmd s
  | .rangeFreeze cmd => Sys2Proof.Machine.execRangeFreeze cmd s
  | .rangeRelease cmd => Sys2Proof.Machine.execRangeRelease cmd s
  | .rangeExport cmd => Sys2Proof.Machine.execRangeExport cmd s
  | .rangeImport cmd => Sys2Proof.Machine.execRangeImport cmd s
  | .queueCreate cmd => Sys2Proof.Machine.execQueueCreate cmd s
  | .queueShutdown cmd => Sys2Proof.Machine.execQueueShutdown cmd s
  | .abortQueueWrite seam queue answer => Sys2Proof.Machine.execAbortQueueWrite seam queue answer s
  | .queueShutdownDrained seam queue => Sys2Proof.Machine.execQueueShutdownDrained seam queue s
  | .queueRestart cmd => Sys2Proof.Machine.execQueueRestart cmd s
  | .orderOpen cmd => Sys2Proof.Machine.execOrderOpen cmd s
  | .orderToken cmd => Sys2Proof.Machine.execOrderToken cmd s
  | .orderRenew cmd => Sys2Proof.Machine.execOrderRenew cmd s
  | .orderCancel cmd => Sys2Proof.Machine.execOrderCancel cmd s
  | .mark cmd => Sys2Proof.Machine.execMark cmd s
  | .markBarrierAck ridge => Sys2Proof.Machine.execMarkBarrierAck ridge s
  | .selftest cmd => Sys2Proof.Machine.execSelftest cmd s
  | .selftestEngineFree ridge blk pass => Sys2Proof.Machine.execSelftestEngineFree ridge blk pass s
  | .fwStageImage cmd => Sys2Proof.Machine.execFwStageImage cmd s
  | .fwStageCountersign cmd => Sys2Proof.Machine.execFwStageCountersign cmd s
  | .fwActivate cmd => Sys2Proof.Machine.execFwActivate cmd s
  | .fwActivateRidge ridge pass => Sys2Proof.Machine.execFwActivateRidge ridge pass s
  | .sqTailWrite link seam queue size value => Sys2Proof.Machine.execSqTailWrite link seam queue size value s
  | .cqHeadWrite link seam size value => Sys2Proof.Machine.execCqHeadWrite link seam size value s
  | .prefetchInvalWrite link seam size value => Sys2Proof.Machine.execPrefetchInvalWrite link seam size value s
  | .rngDataRead link seam size => Sys2Proof.Machine.execRngDataRead link seam size s
  | .mqSqTailWrite link value => Sys2Proof.Machine.execMqSqTailWrite link value s
  | .mqCqHeadWrite link value => Sys2Proof.Machine.execMqCqHeadWrite link value s
  | .mqEnable link value => Sys2Proof.Machine.execMqEnable link value s
  | .mqDisable link value => Sys2Proof.Machine.execMqDisable link value s
  | .mqCommandStart cmd => Sys2Proof.Machine.execMqCommandStart cmd s
  | .descriptorFetch seam queue bytes => Sys2Proof.Machine.execDescriptorFetch seam queue bytes s
  | .mirrorDescriptorAck seam queue index => Sys2Proof.Machine.execMirrorDescriptorAck seam queue index s
  | .grantDecision ridge => Sys2Proof.Machine.execGrantDecision ridge s
  | .dmaReadCompletion target answer => Sys2Proof.Machine.execDmaReadCompletion target answer s
  | .dmaReadTimeout target => Sys2Proof.Machine.execDmaReadTimeout target s
  | .writeDllAck link => Sys2Proof.Machine.execWriteDllAck link s
  | .chainElementFetch job answer => Sys2Proof.Machine.execChainElementFetch job answer s
  | .jobEnd ridge blk checkOk wipeOk => Sys2Proof.Machine.execJobEnd ridge blk checkOk wipeOk s
  | .mirrorPreparedAck job => Sys2Proof.Machine.execMirrorPreparedAck job s
  | .mirrorCommitAck job => Sys2Proof.Machine.execMirrorCommitAck job s
  | .engineFaultRemoval ridge blk cause => Sys2Proof.Machine.execEngineFaultRemoval ridge blk cause s
  | .deepServiceStart ridge blocks => Sys2Proof.Machine.execDeepServiceStart ridge blocks s
  | .deepInterrupt ridge core source => Sys2Proof.Machine.execDeepInterrupt ridge core source s
  | .deepWatchdogExpiry ridge => Sys2Proof.Machine.execDeepWatchdogExpiry ridge s
  | .deepRestart ridge cause => Sys2Proof.Machine.execDeepRestart ridge cause s
  | .deepRestartComplete ridge measured signed => Sys2Proof.Machine.execDeepRestartComplete ridge measured signed s
  | .deepClaimRelease ridge blk => Sys2Proof.Machine.execDeepClaimRelease ridge blk s
  | .deepClaimOvertime ridge blk => Sys2Proof.Machine.execDeepClaimOvertime ridge blk s
  | .waterlineMove ridge up => Sys2Proof.Machine.execWaterlineMove ridge up s
  | .spineTransferReceive src dst authentic latency => Sys2Proof.Machine.execSpineTransferReceive src dst authentic latency s
  | .spineSilence ridge => Sys2Proof.Machine.execSpineSilence ridge s
  | .thermalTrip ridge => Sys2Proof.Machine.execThermalTrip ridge s
  | .ridgeLost ridge => Sys2Proof.Machine.execRidgeLost ridge s
  | .ridgeTakeoverDone seam => Sys2Proof.Machine.execRidgeTakeoverDone seam s
  | .remirrorCopyDone seam => Sys2Proof.Machine.execRemirrorCopyDone seam s
  | .linkLost link surprise => Sys2Proof.Machine.execLinkLost link surprise s
  | .linkUp link width speed => Sys2Proof.Machine.execLinkUp link width speed s
  | .perstAssert link => Sys2Proof.Machine.execPerstAssert link s
  | .perstDeassert link => Sys2Proof.Machine.execPerstDeassert link s
  | .bmeCleared link => Sys2Proof.Machine.execBmeCleared link s
  | .bmeSet link => Sys2Proof.Machine.execBmeSet link s
  | .powerUp facts => Sys2Proof.Machine.execPowerUp facts s
  | .powerUpComplete elapsed => Sys2Proof.Machine.execPowerUpComplete elapsed s
  | .tamperEvent hits => Sys2Proof.Machine.execTamperEvent hits s
  | .vigilTamperEvent id => Sys2Proof.Machine.execVigilTamperEvent id s
  | .vigilSampleWindow present => Sys2Proof.Machine.execVigilSampleWindow present s
  | .vholdCheck pass => Sys2Proof.Machine.execVholdCheck pass s
  | .tampClassWrite perRidge fromA fromB => Sys2Proof.Machine.execTampClassWrite perRidge fromA fromB s
  | .tampCtrlWrite link value => Sys2Proof.Machine.execTampCtrlWrite link value s
  | .evtPendingClear word mask => Sys2Proof.Machine.execEvtPendingClear word mask s
  | .srcRearm ridge src => Sys2Proof.Machine.execSrcRearm ridge src s
  | .cacheModeWrite link value => Sys2Proof.Machine.execCacheModeWrite link value s
  | .neighbourWrite link value => Sys2Proof.Machine.execNeighbourWrite link value s
  | .pwrEnvelopeWrite link value => Sys2Proof.Machine.execPwrEnvelopeWrite link value s
  | .bmcCapWrite value => Sys2Proof.Machine.execBmcCapWrite value s
  | .pwrGateWrite ridge value => Sys2Proof.Machine.execPwrGateWrite ridge value s
  | .persWordWrite word value => Sys2Proof.Machine.execPersWordWrite word value s
  | .persPendingCommit slot => Sys2Proof.Machine.execPersPendingCommit slot s
  | .perfCfgWrite unit value => Sys2Proof.Machine.execPerfCfgWrite unit value s
  | .perfSnap unit => Sys2Proof.Machine.execPerfSnap unit s
  | .perfClear unit => Sys2Proof.Machine.execPerfClear unit s
  | .levelClrLatch ridge => Sys2Proof.Machine.execLevelClrLatch ridge s
  | .spineClrLat ridge => Sys2Proof.Machine.execSpineClrLat ridge s
  | .cplTimeoutWrite link value => Sys2Proof.Machine.execCplTimeoutWrite link value s
  | .registerWrite link offset size value => Sys2Proof.Machine.execRegisterWrite link offset size value s
  | .levelMonitorSample ridge core sram temp => Sys2Proof.Machine.execLevelMonitorSample ridge core sram temp s
  | .entropyWindow ridge src window => Sys2Proof.Machine.execEntropyWindow ridge src window s
  | .sourceRestartTimer ridge src => Sys2Proof.Machine.execSourceRestartTimer ridge src s
  | .sourceCleanTimer ridge src => Sys2Proof.Machine.execSourceCleanTimer ridge src s
  | .entropyWaitTimeout job => Sys2Proof.Machine.execEntropyWaitTimeout job s
  | .neighbourSeedRequest ridge => Sys2Proof.Machine.execNeighbourSeedRequest ridge s
  | .neighbourSeedBlock ridge giver => Sys2Proof.Machine.execNeighbourSeedBlock ridge giver s
  | .clusterIdleGate ridge cluster => Sys2Proof.Machine.execClusterIdleGate ridge cluster s
  | .clusterWakeDone ridge cluster => Sys2Proof.Machine.execClusterWakeDone ridge cluster s
  | .ridgeSleep ridge => Sys2Proof.Machine.execRidgeSleep ridge s
  | .ridgeWakeRequest ridge why => Sys2Proof.Machine.execRidgeWakeRequest ridge why s
  | .ridgeWakeDone ridge => Sys2Proof.Machine.execRidgeWakeDone ridge s
  | .pllLockTimeout ridge core => Sys2Proof.Machine.execPllLockTimeout ridge core s
  | .orderPendingLapse order => Sys2Proof.Machine.execOrderPendingLapse order s
  | .orderArmedLapse order => Sys2Proof.Machine.execOrderArmedLapse order s
  | .nonceExpiry order => Sys2Proof.Machine.execNonceExpiry order s
  | .eventToWriter source => Sys2Proof.Machine.execEventToWriter source s
  | .i3cRegisterWrite offset data => Sys2Proof.Machine.execI3cRegisterWrite offset data s
  | .setdasa addr => Sys2Proof.Machine.execSetdasa addr s
  | .entdaa addr => Sys2Proof.Machine.execEntdaa addr s
  | .setmwl len => Sys2Proof.Machine.execSetmwl len s
  | .setmrl len => Sys2Proof.Machine.execSetmrl len s
  | .askunePrivate code => Sys2Proof.Machine.execAskunePrivate code s
  | .add ridge core rd ra rb => Sys2Proof.Machine.execAdd ridge core rd ra rb s
  | .sub ridge core rd ra rb => Sys2Proof.Machine.execSub ridge core rd ra rb s
  | .addc ridge core rd ra rb => Sys2Proof.Machine.execAddc ridge core rd ra rb s
  | .subb ridge core rd ra rb => Sys2Proof.Machine.execSubb ridge core rd ra rb s
  | .and ridge core rd ra rb => Sys2Proof.Machine.execAnd ridge core rd ra rb s
  | .or ridge core rd ra rb => Sys2Proof.Machine.execOr ridge core rd ra rb s
  | .xor ridge core rd ra rb => Sys2Proof.Machine.execXor ridge core rd ra rb s
  | .shl ridge core rd ra rb => Sys2Proof.Machine.execShl ridge core rd ra rb s
  | .shr ridge core rd ra rb => Sys2Proof.Machine.execShr ridge core rd ra rb s
  | .sar ridge core rd ra rb => Sys2Proof.Machine.execSar ridge core rd ra rb s
  | .cmpeq ridge core rd ra rb => Sys2Proof.Machine.execCmpeq ridge core rd ra rb s
  | .cmplt ridge core rd ra rb => Sys2Proof.Machine.execCmplt ridge core rd ra rb s
  | .cmpltu ridge core rd ra rb => Sys2Proof.Machine.execCmpltu ridge core rd ra rb s
  | .addi ridge core rd ra imm => Sys2Proof.Machine.execAddi ridge core rd ra imm s
  | .andi ridge core rd ra imm => Sys2Proof.Machine.execAndi ridge core rd ra imm s
  | .ori ridge core rd ra imm => Sys2Proof.Machine.execOri ridge core rd ra imm s
  | .xori ridge core rd ra imm => Sys2Proof.Machine.execXori ridge core rd ra imm s
  | .shli ridge core rd ra count => Sys2Proof.Machine.execShli ridge core rd ra count s
  | .shri ridge core rd ra count => Sys2Proof.Machine.execShri ridge core rd ra count s
  | .sari ridge core rd ra count => Sys2Proof.Machine.execSari ridge core rd ra count s
  | .movz ridge core rd half imm => Sys2Proof.Machine.execMovz ridge core rd half imm s
  | .movk ridge core rd half imm => Sys2Proof.Machine.execMovk ridge core rd half imm s
  | .mulu ridge core ra rb => Sys2Proof.Machine.execMulu ridge core ra rb s
  | .muls ridge core ra rb => Sys2Proof.Machine.execMuls ridge core ra rb s
  | .macc ridge core fn ra rb => Sys2Proof.Machine.execMacc ridge core fn ra rb s
  | .accsh ridge core acc rb => Sys2Proof.Machine.execAccsh ridge core acc rb s
  | .accclr ridge core acc => Sys2Proof.Machine.execAccclr ridge core acc s
  | .ld ridge core rd ra sel imm => Sys2Proof.Machine.execLd ridge core rd ra sel imm s
  | .lds ridge core rd ra sel imm => Sys2Proof.Machine.execLds ridge core rd ra sel imm s
  | .st ridge core rs ra sel imm => Sys2Proof.Machine.execSt ridge core rs ra sel imm s
  | .sload ridge core dst entry => Sys2Proof.Machine.execSload ridge core dst entry s
  | .sderive ridge core dst src ra rb mode esize => Sys2Proof.Machine.execSderive ridge core dst src ra rb mode esize s
  | .slimit ridge core rd src => Sys2Proof.Machine.execSlimit ridge core rd src s
  | .beq ridge core ra rb disp => Sys2Proof.Machine.execBeq ridge core ra rb disp s
  | .bne ridge core ra rb disp => Sys2Proof.Machine.execBne ridge core ra rb disp s
  | .blt ridge core ra rb disp => Sys2Proof.Machine.execBlt ridge core ra rb disp s
  | .bge ridge core ra rb disp => Sys2Proof.Machine.execBge ridge core ra rb disp s
  | .bltu ridge core ra rb disp => Sys2Proof.Machine.execBltu ridge core ra rb disp s
  | .bgeu ridge core ra rb disp => Sys2Proof.Machine.execBgeu ridge core ra rb disp s
  | .jmp ridge core disp => Sys2Proof.Machine.execJmp ridge core disp s
  | .call ridge core disp => Sys2Proof.Machine.execCall ridge core disp s
  | .jr ridge core ra => Sys2Proof.Machine.execJr ridge core ra s
  | .callr ridge core ra => Sys2Proof.Machine.execCallr ridge core ra s
  | .ret ridge core => Sys2Proof.Machine.execRet ridge core s
  | .jsub ridge core rd ra sel => Sys2Proof.Machine.execJsub ridge core rd ra sel s
  | .jwait ridge core rd ra => Sys2Proof.Machine.execJwait ridge core rd ra s
  | .jpoll ridge core rd ra => Sys2Proof.Machine.execJpoll ridge core rd ra s
  | .descend ridge core service => Sys2Proof.Machine.execDescend ridge core service s
  | .exit ridge core => Sys2Proof.Machine.execExit ridge core s
  | .ascend ridge core => Sys2Proof.Machine.execAscend ridge core s
  | .lamadNop ridge core => Sys2Proof.Machine.execLamadNop ridge core s
  | .rdbud ridge core rd => Sys2Proof.Machine.execRdbud ridge core rd s
  | .rdcyc ridge core rd => Sys2Proof.Machine.execRdcyc ridge core rd s
  | .privilegedOp ridge core op => Sys2Proof.Machine.execPrivilegedOp ridge core op s
  | .customX ridge core slot rd ra rb k => Sys2Proof.Machine.execCustomX ridge core slot rd ra rb k s
  | .reservedOpcodeTrap ridge core emulation => Sys2Proof.Machine.execReservedOpcodeTrap ridge core emulation s
  | .budgetExhausted ridge core => Sys2Proof.Machine.execBudgetExhausted ridge core s
  | .tamperConditionCleared id => Sys2Proof.Machine.execTamperConditionCleared id s
  | .mirrorGrantAck seam queue => Sys2Proof.Machine.execMirrorGrantAck seam queue s
  | .configurationWrite link pasid msix masked => Sys2Proof.Machine.execConfigurationWrite link pasid msix masked s
  | .linkEntersL1 link => Sys2Proof.Machine.execLinkEntersL1 link s
  | .rangeFreezeDrained => Sys2Proof.Machine.execRangeFreezeDrained s
  | .porAssert => Sys2Proof.Machine.execPorAssert s
  | .pfwAssert => Sys2Proof.Machine.execPfwAssert s
  | .feedRecoveryTimeout => Sys2Proof.Machine.execFeedRecoveryTimeout s
  | .mainPowerLost => Sys2Proof.Machine.execMainPowerLost s
  | .bothCellsLost => Sys2Proof.Machine.execBothCellsLost s
  | .shipmentFuseBlown => Sys2Proof.Machine.execShipmentFuseBlown s
  | .tamperOutExpiry => Sys2Proof.Machine.execTamperOutExpiry s
  | .extestPermitExpiry => Sys2Proof.Machine.execExtestPermitExpiry s
  | .rstdaa => Sys2Proof.Machine.execRstdaa s
  | .getpid => Sys2Proof.Machine.execGetpid s
  | .getbcr => Sys2Proof.Machine.execGetbcr s
  | .getdcr => Sys2Proof.Machine.execGetdcr s
  | .getstatus => Sys2Proof.Machine.execGetstatus s
  | .bypass => Sys2Proof.Machine.execBypass s
  | .idcode => Sys2Proof.Machine.execIdcode s
  | .samplePreload => Sys2Proof.Machine.execSamplePreload s
  | .extest => Sys2Proof.Machine.execExtest s
  | .trstAssert => Sys2Proof.Machine.execTrstAssert s
  | .pfwDeassert => Sys2Proof.Machine.execPfwDeassert s

end Sys2Proof.Machine
end

