-- ==== Sys2Proof/WellFormed.lean ====
section
/-! DEFINITION. When a command's operands lie in the ranges that the spec gives: ridges 0 to 7, block bits 0 to 32
(11:R278), cores 0 to 3, seams 0 to 8191, queues 0 to 3, event IDs 0 to 639. A Lamad instruction names no reserved
register (10:R228). A command that is not well formed names nothing of the package and changes nothing. -/

namespace Sys2Proof

/-- A ridge number (00:R5). -/
def ridgeOk (r : Nat) : Bool := decide (r < 8)

/-- A block bit of 11:R278. -/
def blkOk (b : Nat) : Bool := decide (b < 33)

/-- A Lamad core of a ridge (10:R227). -/
def coreOk (c : Nat) : Bool := decide (c < 4)

/-- A seam number (03:R57). -/
def seamOk (s : Nat) : Bool := decide (s < 8192)

/-- A submission queue of a seam (04:R83). -/
def queueOk (q : Nat) : Bool := decide (q < 4)

/-- An event ID (15:R335). -/
def eventOk (e : Nat) : Bool := decide (e < 640)

/-- A write of 4 or 8 bytes (17:R370). -/
def sizeOk (n : Nat) : Bool := n == 4 || n == 8

/-- A read target's numbers. -/
def ReadTarget.wf : ReadTarget → Bool
  | .ring s q => seamOk s && queueOk q
  | .mqRing | .jobIn _ | .jobAux _ | .chain _ | .mqIn _ | .mqAux _ => true

/-- The site of a command that runs on a Lamad core: its ridge and core. -/
def Instr.site : Instr → Option (Nat × Nat)
  | .add r c _ _ _ | .sub r c _ _ _ | .addc r c _ _ _ | .subb r c _ _ _ | .and r c _ _ _ | .or r c _ _ _ | .xor r c _ _ _
  | .shl r c _ _ _ | .shr r c _ _ _ | .sar r c _ _ _ | .cmpeq r c _ _ _ | .cmplt r c _ _ _ | .cmpltu r c _ _ _
  | .addi r c _ _ _ | .andi r c _ _ _ | .ori r c _ _ _ | .xori r c _ _ _ | .shli r c _ _ _ | .shri r c _ _ _
  | .sari r c _ _ _ | .movz r c _ _ _ | .movk r c _ _ _ | .mulu r c _ _ | .muls r c _ _ | .macc r c _ _ _ | .accsh r c _ _
  | .accclr r c _ | .ld r c _ _ _ _ | .lds r c _ _ _ _ | .st r c _ _ _ _ | .sload r c _ _ | .sderive r c _ _ _ _ _ _
  | .slimit r c _ _ | .beq r c _ _ _ | .bne r c _ _ _ | .blt r c _ _ _ | .bge r c _ _ _ | .bltu r c _ _ _ | .bgeu r c _ _ _
  | .jmp r c _ | .call r c _ | .jr r c _ | .callr r c _ | .ret r c | .jsub r c _ _ _ | .jwait r c _ _ | .jpoll r c _ _
  | .descend r c _ | .exit r c | .ascend r c | .lamadNop r c | .rdbud r c _ | .rdcyc r c _ | .privilegedOp r c _
  | .customX r c _ _ _ _ _ | .reservedOpcodeTrap r c _ | .budgetExhausted r c | .runProgram r c | .deepInterrupt r c _ =>
    some (r, c)
  | _ => none

/-- The command of an engine: its ridge and block bit. -/
def Instr.engine : Instr → Option (Nat × Nat)
  | .rsaSignPkcs1 r b | .rsaSignPss r b | .rsaVerify r b | .rsaDecryptOaep r b | .rsaEncryptOaep r b | .rsaRawPrivate r b
  | .rsaRawPublic r b | .ecdsaSign r b | .ecdsaVerify r b | .ecdh r b | .ecPointMul r b | .eddsaSign r b | .eddsaVerify r b
  | .eddsaBatchVerify r b | .xdh r b | .mlkemEncaps r b | .mlkemDecaps r b | .mldsaSign r b | .mldsaVerify r b
  | .slhdsaSign r b | .slhdsaVerify r b | .aesGcmEnc r b | .aesGcmDec r b | .aesXts r b | .aesCmac r b | .hash r b | .hmac r b
  | .kmac r b | .kdfCtr r b | .hkdf r b | .keyGenerate r b | .keyDerive r b | .randomBytes r b | .hybridSign r b
  | .hybridVerify r b | .hybridKem r b | .modexp r b | .modexpG2 r b | .ntt r b | .polyMul r b | .sample r b
  | .selftestEngineFree r b _ | .jobEnd r b _ _ | .engineFaultRemoval r b _ | .deepClaimRelease r b | .deepClaimOvertime r b =>
    some (r, b)
  | _ => none

/-- The command's ridge, where it names one beside a core or a block. -/
def Instr.onRidge : Instr → Option Nat
  | .curveLoad r _ | .keyImportWrapped r _ | .keyExportWrapped r _ | .keyDestroy r _ | .keyAttestProvenance r _
  | .keyAttestIdentity _ r _ | .keyLoadBlob r _ | .markBarrierAck r | .fwActivateRidge r _ | .grantDecision r
  | .deepServiceStart r _ | .deepWatchdogExpiry r | .deepRestart r _ | .deepRestartComplete r _ _ | .waterlineMove r _
  | .spineSilence r | .thermalTrip r | .ridgeLost r | .srcRearm r _ | .pwrGateWrite r _ | .levelClrLatch r | .spineClrLat r
  | .levelMonitorSample r _ _ _ | .entropyWindow r _ _ | .sourceRestartTimer r _ | .sourceCleanTimer r _
  | .neighbourSeedRequest r | .clusterIdleGate r _ | .clusterWakeDone r _ | .ridgeSleep r | .ridgeWakeRequest r _
  | .ridgeWakeDone r | .pllLockTimeout r _ => some r
  | _ => none

/-- The command's seam and queue. -/
def Instr.onQueue : Instr → Option (Nat × Nat)
  | .nop s q | .fence s q | .abortQueueWrite s q _ | .queueShutdownDrained s q | .descriptorFetch s q _
  | .mirrorDescriptorAck s q _ | .mirrorGrantAck s q => some (s, q)
  | _ => none

/-- The command's seam alone. -/
def Instr.onSeam : Instr → Option Nat
  | .seamDestroyDrained s | .seamResetDrained s | .seamFreezeDrained s | .ridgeTakeoverDone s | .remirrorCopyDone s => some s
  | _ => none

/-- Ranges of the operands that only one command or a few have. -/
def Instr.rangesOk : Instr → Bool
  | .sqTailWrite _ s q n _ => seamOk s && queueOk q && sizeOk n
  | .cqHeadWrite _ s n _ => seamOk s && sizeOk n
  | .prefetchInvalWrite _ s n _ => seamOk s && sizeOk n
  | .rngDataRead _ s n => seamOk s && sizeOk n
  | .dmaReadCompletion t _ => t.wf
  | .dmaReadTimeout t => t.wf
  | .spineTransferReceive a b _ _ => ridgeOk a && ridgeOk b
  | .neighbourSeedBlock a b => ridgeOk a && ridgeOk b
  | .ridgeWakeRequest _ (.dispatcher r) => ridgeOk r
  | .tamperEvent c => c.hits.all fun h => eventOk h.id
  | .vigilTamperEvent e => eventOk e
  | .tamperConditionCleared e => eventOk e
  | .vigilSampleWindow es => es.all eventOk
  | .evtPendingClear w _ => decide (w < 10)
  | .srcRearm _ n => decide (n < 2)
  | .entropyWindow _ n _ => decide (n < 2)
  | .sourceRestartTimer _ n => decide (n < 2)
  | .sourceCleanTimer _ n => decide (n < 2)
  | .clusterIdleGate _ c => decide (c < 7)
  | .clusterWakeDone _ c => decide (c < 7)
  | .persWordWrite w _ => decide (w < 1024)
  | .perfCfgWrite u _ => decide (u < 64)
  | .perfSnap u => decide (u < 64)
  | .perfClear u => decide (u < 64)
  | .registerWrite _ o n _ => decide (1 ≤ n ∧ n ≤ 64 ∧ o < 0x2100000)
  | .eventToWriter (some r) => ridgeOk r
  | .descend _ _ k => k != 0
  | _ => true

/-- A command's operands lie in the ranges of the spec. -/
def Instr.wf (i : Instr) : Bool :=
  i.rangesOk && !Lamad.namesReserved i &&
  (match i.site with | some (r, c) => ridgeOk r && coreOk c | none => true) &&
  (match i.engine with | some (r, b) => ridgeOk r && blkOk b | none => true) &&
  (match i.onRidge with | some r => ridgeOk r | none => true) &&
  (match i.onQueue with | some (s, q) => seamOk s && queueOk q | none => true) &&
  (match i.onSeam with | some s => seamOk s | none => true)

end Sys2Proof
end

