-- ==== Sys2Proof/Safety.lean ====
section
/-! DEFINITION. What a run of the block must keep, in the terms that claims use, and the words in which the claims say what a
command leaves. -/

namespace Sys2Proof

open Machine

/-- The package has eight ridge records, whichever are populated. -/
def eightRidges (d : Dev) : Prop := d.ridges.length = 8

/-- DEV.MODE and TAMP's configuration agree with their shadows (13:R303). -/
def shadowsAgree (d : Dev) : Prop :=
  d.mode.agrees = true ∧ d.prior.agrees = true ∧ d.tamp.classPkg.agrees = true ∧ d.tamp.classRidge.agrees = true ∧
    d.tamp.fuseoff.agrees = true ∧ d.tamp.vigilMode.agrees = true ∧ d.tamp.outOnL.agrees = true ∧
    d.tamp.outMs.agrees = true ∧ d.tamp.tinPol.agrees = true

/-- A ridge record has 33 engines and four cores, its SRAM the canonical form, and its waterline agrees with its shadow
(01:Table 1.1, 11:R278, 13:R303). -/
def ridgeKept (x : Ridge) : Prop :=
  memWf x.sram = true ∧ x.engines.length = 33 ∧ x.cores.length = 4 ∧ x.world.line.agrees = true

/-- The shadowed fields of a seam table entry agree with their shadows (13:R303). -/
def entryKept (e : SeamEntry) : Prop :=
  e.home.agrees = true ∧ e.mirror.agrees = true ∧ e.epoch.agrees = true ∧ e.ownerDigest.agrees = true

/-- What every step keeps: eight ridge records in order, and every shadow register the inverse of its register. -/
def Kept (d : Dev) : Prop :=
  eightRidges d ∧ (∀ x ∈ d.ridges, ridgeKept x) ∧ shadowsAgree d ∧ ∀ e ∈ d.seams, entryKept e.2.entry

/-- A step that stops nowhere. -/
def goesOn (s : State) : Prop := ∃ t, step s = .next t

/-- A command answers a next state whose queue is as it stood and whose device is `d`. -/
def leaves (c : Instr) (s : State) (d : Dev) : Prop := exec c s = .next ⟨s.pending, d⟩

/-! ## Lamad -/

/-- The bank of the world that a core is in (11:R257). -/
def coreBank (k : Core) : Bank := if k.deep then k.deepBank else k.surface

/-- A core can issue instruction `i`, which names no reserved register (10:R228, R237, R254): in Deep while its ridge's Deep
side is not restarting; in Surface where `i` stands at the pc of a running program and is within the budget. -/
def issues (d : Dev) (r c : Nat) (i : Instr) : Prop :=
  d.serves r = true ∧ c < 4 ∧ Lamad.namesReserved i = false ∧
    (((d.core r c).deep = true ∧ (d.ridge r).world.restarting = false) ∨
      ((d.core r c).deep = false ∧
        ∃ p w, (d.core r c).program = some p ∧ p.paused = false ∧ p.ending = none ∧
          p.word (d.core r c).surface.pc = some w ∧ Lamad.decode r c w = some i ∧
          (d.core r c).surface.chargeOf i ≤ p.budget))

/-- A write to the register that a number names; g0 discards it (10:Table 10.1). -/
def writeReg (b : Bank) (n : BitVec 6) (v : W64) : Bank :=
  match b.phys n with
  | some p => b.put (v.setWidth 128) p
  | none => b

/-- A core after one instruction (10:R232, R233): its bank changes by `f`; the loads that were pending land, but for those of
a register that it wrote (`dst`); pc is `npc`; `n` cycles have passed. Products that were due have landed before. -/
def settle (k : Core) (f : Bank → Bank) (dst : List Phys) (npc : W64) (n : Nat) : Core :=
  let loads := k.pend.filter fun e => e.load && !(dst.contains e.dst)
  let k := { k.modBank f with pend := k.pend.filter fun e => !e.load }
  let k := loads.foldl (fun k e => k.modBank fun b => b.put e.value e.dst) k
  { k.modBank (fun b => { b with pc := npc }) with cycle := k.cycle + n }

/-- The core as an instruction finds it: its word fetched through the instruction cache, due products landed (10:R233, 11:R262).
-/
def found (d : Dev) (r c : Nat) : Core := ((d.codeFetch r c).core r c).landDue

/-- A core whose data cache has seen an access (11:R262). -/
def touched (c : Nat) (k : Core) (store : Bool) (a : Nat) : Core :=
  { k with dcache := k.dcache.access (c == 0 || k.flush) k.deep store a }

/-- The device once core `c` of ridge `r` stands as `k` after an instruction and its ridge's SRAM as `m`: a program in the Surface
world has been charged, its cycles have passed, and `draws` free values are drawn (10:R254, 11:R269). -/
def placed (d : Dev) (r c : Nat) (k : Core) (charge : Nat) (m : List Host.Cell) (draws : Nat) : Dev :=
  { (d.codeFetch r c).modRidge r fun y => { y with
      sram := m, cores := y.cores.set c { k with program := ((d.codeFetch r c).core r c).charged charge k.cycle } } with
    draws := draws }

/-- That device at its boundary: a Deep interrupt that waits is taken, where it can be (10:R234). -/
def retiredWith (d : Dev) (r c : Nat) (k : Core) (charge : Nat) (m : List Host.Cell) (draws : Nat) : Dev :=
  (placed d r c k charge m draws).takeDue r c

/-- An instruction that leaves SRAM alone and draws no free value. -/
def retired (d : Dev) (r c : Nat) (k : Core) (charge : Nat) : Dev := retiredWith d r c k charge (d.ridge r).sram d.draws

/-- A core after an instruction whose only results are C, where it sets it, and one register: the pc moves by 4, one cycle passes.
C is part of st (10:R229, R232). -/
def writtenCore (k : Core) (rd : BitVec 6) (v : W64) (carry : Option Bool) : Core :=
  settle k (fun b => writeReg { b with c := carry.getD b.c } rd v)
    (((coreBank k).phys rd).toList ++ if carry.isSome then [.st] else []) ((coreBank k).pc + 4) 1

/-- What such an instruction leaves: a program is charged one. -/
def written (d : Dev) (r c : Nat) (rd : BitVec 6) (v : W64) (carry : Option Bool) : Dev :=
  retired d r c (writtenCore (found d r c) rd v carry) 1

/-- What an instruction leaves that sets pc alone. -/
def jumped (d : Dev) (r c : Nat) (pc : W64) : Dev :=
  retired d r c (settle (found d r c) id [] pc 1) 1

/-- What an instruction leaves whose results land later, beside what else waits; for a load before it, it writes their registers
(10:R232, R233). -/
def promised (d : Dev) (r c : Nat) (ps : List Pend) : Dev :=
  let k := found d r c
  retired d r c (settle { k with pend := k.pend ++ ps } id (ps.reverse.flatMap fun p => p.dst.halves) ((coreBank k).pc + 4) 1) 1

end Sys2Proof
end

