-- ==== Sys2Proof/Certificates/Slice0/Obligations.lean ====
section
/-! DEFINITION. The statements for the provers. -/

/-! ## Lamad: integer operations, immediates, products -/

namespace Sys2Proof.Claims

open Machine

/-- The operations of three registers (10:Table 10.4). -/
inductive IntOp where
  | add | sub | addc | subb | and | or | xor | shl | shr | sar | cmpeq | cmplt | cmpltu
  deriving DecidableEq, Repr

/-- The command of an operation. -/
def IntOp.instr (f : IntOp) (r c : Nat) (rd ra rb : BitVec 6) : Instr :=
  match f with
  | .add => .add r c rd ra rb
  | .sub => .sub r c rd ra rb
  | .addc => .addc r c rd ra rb
  | .subb => .subb r c rd ra rb
  | .and => .and r c rd ra rb
  | .or => .or r c rd ra rb
  | .xor => .xor r c rd ra rb
  | .shl => .shl r c rd ra rb
  | .shr => .shr r c rd ra rb
  | .sar => .sar r c rd ra rb
  | .cmpeq => .cmpeq r c rd ra rb
  | .cmplt => .cmplt r c rd ra rb
  | .cmpltu => .cmpltu r c rd ra rb

/-- A bit as a number. -/
def bit (c : Bool) : Nat := if c then 1 else 0

/-- What the operation writes to rd, from ra, rb and C: shifts count by the low six bits of rb. -/
def IntOp.value (f : IntOp) (a b : W64) (c : Bool) : W64 :=
  match f with
  | .add => a + b
  | .sub => a - b
  | .addc => a + b + BitVec.ofNat 64 (bit c)
  | .subb => a - b - BitVec.ofNat 64 (bit c)
  | .and => a &&& b
  | .or => a ||| b
  | .xor => a ^^^ b
  | .shl => a <<< (b.extractLsb' 0 6).toNat
  | .shr => a >>> (b.extractLsb' 0 6).toNat
  | .sar => a.sshiftRight (b.extractLsb' 0 6).toNat
  | .cmpeq => if a = b then 1 else 0
  | .cmplt => if a.toInt < b.toInt then 1 else 0
  | .cmpltu => if a.toNat < b.toNat then 1 else 0

/-- The C that the operation sets: ADD and ADDC the carry out, SUB and SUBB the borrow; no other sets it. -/
def IntOp.carry (f : IntOp) (a b : W64) (c : Bool) : Option Bool :=
  match f with
  | .add => some (decide (2 ^ 64 ≤ a.toNat + b.toNat))
  | .addc => some (decide (2 ^ 64 ≤ a.toNat + b.toNat + bit c))
  | .sub => some (decide (a.toNat < b.toNat))
  | .subb => some (decide (a.toNat < b.toNat + bit c))
  | _ => none

/-- The operations of a register and an immediate (10:Table 10.4): the immediate as 14 bits, a shift's count in the low
six. -/
inductive ImmOp where
  | addi | andi | ori | xori | shli | shri | sari
  deriving DecidableEq, Repr

/-- The command. -/
def ImmOp.instr (f : ImmOp) (r c : Nat) (rd ra : BitVec 6) (imm : BitVec 14) : Instr :=
  match f with
  | .addi => .addi r c rd ra imm
  | .andi => .andi r c rd ra imm
  | .ori => .ori r c rd ra imm
  | .xori => .xori r c rd ra imm
  | .shli => .shli r c rd ra (imm.extractLsb' 0 6)
  | .shri => .shri r c rd ra (imm.extractLsb' 0 6)
  | .sari => .sari r c rd ra (imm.extractLsb' 0 6)

/-- What it writes: ADDI adds the sign-extended immediate, the logic operations take it zero-extended. -/
def ImmOp.value (f : ImmOp) (a : W64) (imm : BitVec 14) : W64 :=
  match f with
  | .addi => a + BitVec.ofInt 64 imm.toInt
  | .andi => a &&& BitVec.ofNat 64 imm.toNat
  | .ori => a ||| BitVec.ofNat 64 imm.toNat
  | .xori => a ^^^ BitVec.ofNat 64 imm.toNat
  | .shli => a <<< (imm.toNat % 64)
  | .shri => a >>> (imm.toNat % 64)
  | .sari => a.sshiftRight (imm.toNat % 64)

end Sys2Proof.Claims

open Sys2Proof Machine Claims

/-- Every three-register operation writes its result to rd, sets C where the table says so, and changes nothing else than pc,
the cycle count and the program's budget; pending loads land but for one of rd (10:R229, R232, R233, R254). -/
def Sys2Proof.Claims.IntegerResult : Prop :=
  ∀ (s : State) (r c : Nat) (f : IntOp) (rd ra rb : BitVec 6), issues s.dev r c (f.instr r c rd ra rb) →
    let k := found s.dev r c
    let a := (coreBank k).read k.deep ra
    let b := (coreBank k).read k.deep rb
    let cin := (coreBank k).c
    leaves (f.instr r c rd ra rb) s (written s.dev r c rd (f.value a b cin) (f.carry a b cin))

/-- Every operation of a register and an immediate, and MOVZ and MOVK, write their result to rd and leave C (10:R229, Table
10.4). -/
def Sys2Proof.Claims.ImmediateResult : Prop :=
  ∀ (s : State) (r c : Nat) (rd : BitVec 6),
    let k := found s.dev r c
    (∀ (f : ImmOp) (ra : BitVec 6) (imm : BitVec 14), issues s.dev r c (f.instr r c rd ra imm) →
      leaves (f.instr r c rd ra imm) s (written s.dev r c rd (f.value ((coreBank k).read k.deep ra) imm) none)) ∧
    (∀ (half : BitVec 2) (imm : BitVec 16), issues s.dev r c (.movz r c rd half imm) →
      leaves (.movz r c rd half imm) s (written s.dev r c rd (BitVec.ofNat 64 (imm.toNat * 2 ^ (16 * half.toNat))) none)) ∧
    (∀ (half : BitVec 2) (imm : BitVec 16), issues s.dev r c (.movk r c rd half imm) →
      ∃ v : W64, leaves (.movk r c rd half imm) s (written s.dev r c rd v none) ∧
        ∀ h : Nat, h < 4 → v.extractLsb' (16 * h) 16 =
          if h = half.toNat then imm else ((coreBank k).read k.deep rd).extractLsb' (16 * h) 16)

/-- Every integer operation, of three registers or of a register and an immediate, MOVZ and MOVK: the result, C, and nothing
else (10:R229, R232, R233, R254, Table 10.4). -/
def Obligations.ArithmeticResults : Prop := Claims.IntegerResult ∧ Claims.ImmediateResult

/-- A product lands in ph and pl three cycles after it issues, a multiply-accumulate in its accumulator four cycles after;
ACCSH and ACCCLR change theirs at once (10:R233, R238). -/
def Obligations.ProductsLandLater : Prop :=
  ∀ (s : State) (r c : Nat) (ra rb : BitVec 6),
    let k := found s.dev r c
    let a := (coreBank k).read k.deep ra
    let b := (coreBank k).read k.deep rb
    let u : BitVec 128 := BitVec.ofNat 128 (a.toNat * b.toNat)
    let z : BitVec 128 := BitVec.ofInt 128 (a.toInt * b.toInt)
    let pair := fun (p : BitVec 128) =>
      [(⟨.ph, BitVec.ofNat 128 (p.toNat / 2 ^ 64), false, k.cycle + 3⟩ : Pend),
        ⟨.pl, BitVec.ofNat 128 (p.toNat % 2 ^ 64), false, k.cycle + 3⟩]
    (issues s.dev r c (.mulu r c ra rb) → leaves (.mulu r c ra rb) s (promised s.dev r c (pair u))) ∧
    (issues s.dev r c (.muls r c ra rb) → leaves (.muls r c ra rb) s (promised s.dev r c (pair z))) ∧
    (∀ fn : BitVec 4, issues s.dev r c (.macc r c fn ra rb) →
      leaves (.macc r c fn ra rb) s (promised s.dev r c
        [⟨.accAdd (fn.extractLsb' 0 2).toNat,
          (if fn.getLsbD 2 then -(if fn.getLsbD 3 then z else u) else if fn.getLsbD 3 then z else u), false, k.cycle + 4⟩])) ∧
    (∀ acc : Nat, acc < 4 → ∀ n : BitVec 6, (n.toNat = acc ∨ n.toNat = 50 + 2 * acc ∨ n.toNat = 51 + 2 * acc) →
      (issues s.dev r c (.accsh r c n rb) →
        leaves (.accsh r c n rb) s (retired s.dev r c (settle k
          (fun x => { x with acc := x.acc.modify acc fun v => v >>> b.toNat }) [.accLo acc, .accHi acc]
          ((coreBank k).pc + 4) 1) 1)) ∧
      (issues s.dev r c (.accclr r c n) →
        leaves (.accclr r c n) s (retired s.dev r c (settle k
          (fun x => { x with acc := x.acc.modify acc fun _ => 0 }) [.accLo acc, .accHi acc]
          ((coreBank k).pc + 4) 1) 1)))

/-- NOP, RDBUD and RDCYC of a running program, and of Deep code without one, which reads free values (10:R238, R254, 11:R269;
log 20). -/
def Sys2Proof.Claims.NopAndCounters : Prop :=
  ∀ (s : State) (r c : Nat) (rd : BitVec 6),
    let k := found s.dev r c
    let p := (s.dev.core r c).program
    (issues s.dev r c (.lamadNop r c) → leaves (.lamadNop r c) s (jumped s.dev r c ((coreBank k).pc + 4))) ∧
    (issues s.dev r c (.rdbud r c rd) →
      leaves (.rdbud r c rd) s (written s.dev r c rd
        (BitVec.ofNat 64 (p.elim (Config.freeNat s.dev.draws) (·.budget))) none)) ∧
    (issues s.dev r c (.rdcyc r c rd) →
      leaves (.rdcyc r c rd) s (written s.dev r c rd
        (BitVec.ofNat 64 (p.elim (Config.freeNat s.dev.draws) (·.cycles))) none))

/-- A branch goes to its own address plus four times its displacement where its condition holds, and to the next instruction
otherwise; a jump always goes; no register changes (10:R237, R238). -/
def Sys2Proof.Claims.BranchTargets : Prop :=
  ∀ (s : State) (r c : Nat) (ra rb : BitVec 6),
    let k := found s.dev r c
    let a := (coreBank k).read k.deep ra
    let b := (coreBank k).read k.deep rb
    let pc := (coreBank k).pc
    (∀ disp : BitVec 14,
      let goes := fun (taken : Prop) [Decidable taken] =>
        jumped s.dev r c (if taken then pc + BitVec.ofInt 64 (4 * disp.toInt) else pc + 4)
      (issues s.dev r c (.beq r c ra rb disp) → leaves (.beq r c ra rb disp) s (goes (a = b))) ∧
      (issues s.dev r c (.bne r c ra rb disp) → leaves (.bne r c ra rb disp) s (goes (a ≠ b))) ∧
      (issues s.dev r c (.blt r c ra rb disp) → leaves (.blt r c ra rb disp) s (goes (a.toInt < b.toInt))) ∧
      (issues s.dev r c (.bge r c ra rb disp) → leaves (.bge r c ra rb disp) s (goes (b.toInt ≤ a.toInt))) ∧
      (issues s.dev r c (.bltu r c ra rb disp) → leaves (.bltu r c ra rb disp) s (goes (a.toNat < b.toNat))) ∧
      (issues s.dev r c (.bgeu r c ra rb disp) → leaves (.bgeu r c ra rb disp) s (goes (b.toNat ≤ a.toNat)))) ∧
    (∀ disp : BitVec 26, issues s.dev r c (.jmp r c disp) →
      leaves (.jmp r c disp) s (jumped s.dev r c (pc + BitVec.ofInt 64 (4 * disp.toInt)))) ∧
    (issues s.dev r c (.jr r c ra) → leaves (.jr r c ra) s (jumped s.dev r c a))

/-- Branches and jumps go where their displacement or register says; NOP, RDBUD and RDCYC (10:R237, R238, R254). -/
def Obligations.BranchesAndCounters : Prop := Claims.NopAndCounters ∧ Claims.BranchTargets

/-! ## Lamad: segments, memory, the window -/

namespace Sys2Proof.Claims

open Machine

/-- The value of a register as an instruction reads it. -/
def operand (d : Dev) (r c : Nat) (n : BitVec 6) : W64 := (coreBank (found d r c)).read (found d r c).deep n

/-- The segment of a selector. -/
def segment (d : Dev) (r c : Nat) (n : BitVec 3) : Seg := (coreBank (found d r c)).sel.getD n.toNat ⟨0, 0, 0, false, 0⟩

/-- The index of an access (10:R235): register plus signed immediate, unsigned in 64 bits. -/
def accessIndex (d : Dev) (r c : Nat) (ra : BitVec 6) (imm : BitVec 11) : Nat :=
  (operand d r c ra + BitVec.ofInt 64 imm.toInt).toNat

/-- An access of `n` bytes at an address is let through by the SRAM controller (11:R260). -/
def sideOk (d : Dev) (r c : Nat) (a n : Nat) : Prop :=
  ((d.core r c).deep = true ∨ (d.ridge r).lineByte ≤ a) ∧ a + n ≤ sramSize

/-- What a load at an address leaves: the value waits for its register through the next instruction; an earlier load of the same
register is discarded; a cache miss takes a free number of cycles (10:R232, 11:R262; log 14, log 20). -/
def loaded (d : Dev) (r c : Nat) (rd : BitVec 6) (v : W64) (a : Nat) : Dev :=
  let k := touched c (found d r c) false a
  let dst := ((coreBank k).phys rd).toList
  let after := settle k id dst ((coreBank k).pc + 4) (1 + Config.freeNat d.draws)
  retiredWith d r c { after with pend := after.pend ++ dst.map fun p => ⟨p, v.setWidth 128, true, 0⟩ } 1 (d.ridge r).sram
    (d.draws + 1)

/-- A selector takes a segment; pc moves on. -/
def selected (d : Dev) (r c : Nat) (n : BitVec 3) (g : Seg) : Dev :=
  let k := found d r c
  retired d r c (settle k (fun b => { b with sel := b.sel.set n.toNat g }) [] ((coreBank k).pc + 4) 1) 1

/-- The index of the instruction at the pc, as DETAIL carries it (10:R240). -/
def pcIndex (d : Dev) (r c : Nat) : Nat := (d.core r c).surface.pc.toNat / 4

/-- A program that traps enters Deep and ends: the status, and the code and the index of its instruction in DETAIL (10:R239,
R240). -/
def ended (d : Dev) (r c : Nat) (st : BitVec 16) (code : Nat) : Dev :=
  (d.visitDeep r c (d.core r c).surface.pc (0x100 + code)).endProgram r c
    ⟨st, BitVec.ofNat 32 (code + pcIndex d r c % 2 ^ 24 * 256), 0⟩

/-- A trap of Deep code: what is pending lands, g8 holds 0x100 plus the code, and pc the entry registered for it (10:R239; log
15). -/
def trapped (d : Dev) (r c code : Nat) : Dev :=
  d.modCore r c fun k =>
    let k := k.boundary
    { k with deepBank := { k.deepBank with
        g := k.deepBank.g.set 8 (BitVec.ofNat 64 (0x100 + code))
        pc := (assocGet (d.ridge r).world.entries (0x100 + code)).getD k.deepBank.pc } }

/-- An instruction that was fetched traps, in either world (10:R239). -/
def stops (d : Dev) (r c : Nat) (st : BitVec 16) (code : Nat) : Dev :=
  if (d.core r c).deep then trapped (d.codeFetch r c) r c code else ended (d.codeFetch r c) r c st code

/-- SDERIVE's conditions (10:R236). -/
def derives (g : Seg) (a n : Nat) (mode esize : BitVec 2) : Prop :=
  g.mode = 0 ∧ a * 2 ^ g.esize.toNat + n * 2 ^ esize.toNat ≤ g.limit * 2 ^ g.esize.toNat ∧
    ((mode = 0 ∧ n ≤ 2 ^ 24) ∨ ((mode = 1 ∨ mode = 2) ∧ 2 ≤ n ∧ n ≤ 2 ^ 20 ∧ ∃ e, n = 2 ^ e))

/-- A frame's register as the bank holds it. -/
def frameReg (b : Bank) (f i : Nat) : W64 := b.w.getD (f % 8 * 16 + i) 0

end Sys2Proof.Claims

/-- The element that an index reaches in each mode, and the two checks (10:R235). -/
def Sys2Proof.Claims.SegmentElement : Prop :=
  ∀ (g : Seg) (i : Nat) (store : Bool),
    let size := 2 ^ g.esize.toNat
    (store = true ∧ g.write = false → ∀ a, g.addr i store ≠ .ok a) ∧
    (store = false ∨ g.write = true →
      (g.mode = 0 → i < g.limit → g.addr i store = .ok (g.base + i * size)) ∧
      (g.mode = 1 → 0 < g.limit → g.addr i store = .ok (g.base + i % g.limit * size)) ∧
      (∀ e, g.mode = 2 → g.limit = 2 ^ e → i < g.limit →
        ∃ j, g.addr i store = .ok (g.base + j * size) ∧ j < g.limit ∧ ∀ n, n < e → j.testBit n = i.testBit (e - 1 - n))) ∧
    ((g.mode = 0 ∨ g.mode = 2) → g.limit ≤ i → g.addr i store = .error 0x10)

/-- LD and LDS read the element that the segment gives, little-endian, zero- and sign-extended; the register takes it after the
next instruction; SRAM is unchanged (10:R232, R235). -/
def Sys2Proof.Claims.LoadResult : Prop :=
  ∀ (s : State) (r c : Nat) (rd ra : BitVec 6) (sel : BitVec 3) (imm : BitVec 11) (a : Nat),
    let g := segment s.dev r c sel
    let n := 2 ^ g.esize.toNat
    let v := leNat (memBytes (s.dev.ridge r).sram a n)
    g.addr (accessIndex s.dev r c ra imm) false = .ok a → sideOk s.dev r c a n →
      (issues s.dev r c (.ld r c rd ra sel imm) →
        leaves (.ld r c rd ra sel imm) s (loaded s.dev r c rd (BitVec.ofNat 64 v) a)) ∧
      (issues s.dev r c (.lds r c rd ra sel imm) →
        leaves (.lds r c rd ra sel imm) s (loaded s.dev r c rd ((BitVec.ofNat (8 * n) v).signExtend 64) a))

/-- ST writes the low bytes of its register at the element that the segment gives, and no other byte of SRAM; no register
changes (10:R235). -/
def Sys2Proof.Claims.StoreResult : Prop :=
  ∀ (s : State) (r c : Nat) (rs ra : BitVec 6) (sel : BitVec 3) (imm : BitVec 11) (a : Nat),
    let k := found s.dev r c
    let g := segment s.dev r c sel
    let n := 2 ^ g.esize.toNat
    issues s.dev r c (.st r c rs ra sel imm) → memWf (s.dev.ridge r).sram = true →
      g.addr (accessIndex s.dev r c ra imm) true = .ok a → sideOk s.dev r c a n →
      ∃ m, leaves (.st r c rs ra sel imm) s (retiredWith s.dev r c
          (settle (touched c k true a) id [] ((coreBank k).pc + 4) 1) 1 m s.dev.draws) ∧
        (∀ i, i < n → memRead m (a + i) = (operand s.dev r c rs).extractLsb' (8 * i) 8) ∧
        (∀ x, x < a ∨ a + n ≤ x → memRead m x = memRead (s.dev.ridge r).sram x)

/-- LD, LDS and ST: what a load brings, when it lands, and what a store writes, no other byte of SRAM (10:R232, R235, R238). -/
def Obligations.LoadsAndStores : Prop := Claims.LoadResult ∧ Claims.StoreResult

/-- An access that fails its check traps with code 0x10, a store without write access with 0x11: a program ends, Deep code goes to
Keade's handler. One of a program below the waterline is fault injection first (10:R235, R239, 11:R260). -/
def Obligations.AccessTraps : Prop :=
  ∀ (s : State) (r c : Nat) (rd ra : BitVec 6) (sel : BitVec 3) (imm : BitVec 11),
    let d := s.dev
    let g := segment d r c sel
    let i := accessIndex d r c ra imm
    let n := 2 ^ g.esize.toNat
    let fails := fun (code : Nat) => stops d r c 0x0601 code
    let low := (d.ridge r).lineByte
    let below := ended ((d.codeFetch r c).injection r 0xFFFF) r c 0x0601 0x10
    let traps := fun (x : Instr) (store : Bool) =>
      (∀ e, g.addr i store = .error e → leaves x s (fails e)) ∧
      (∀ a, g.addr i store = .ok a → a < low → (d.core r c).deep = false → leaves x s below) ∧
      (∀ a, g.addr i store = .ok a → (low ≤ a ∨ (d.core r c).deep = true) → sramSize < a + n → leaves x s (fails 0x10))
    (issues d r c (.ld r c rd ra sel imm) → traps (.ld r c rd ra sel imm) false) ∧
    (issues d r c (.lds r c rd ra sel imm) → traps (.lds r c rd ra sel imm) false) ∧
    (issues d r c (.st r c rd ra sel imm) → traps (.st r c rd ra sel imm) true) ∧
    (∀ e store, g.addr i store = .error e → e = 0x10 ∨ (e = 0x11 ∧ store = true ∧ g.write = false))

/-- SLOAD copies an entry of the program's segment table, LIMIT 0 beyond its end; SDERIVE narrows a LINEAR segment where its
conditions hold and is a SEG trap of code 0x12 where one fails; SLIMIT reads LIMIT (10:R236). -/
def Sys2Proof.Claims.SegmentInstructions : Prop :=
  ∀ (s : State) (r c : Nat) (dst src : BitVec 3) (ra rb rd : BitVec 6) (mode esize : BitVec 2) (entry : BitVec 5),
    let g := segment s.dev r c src
    let a := (operand s.dev r c ra).toNat
    let n := (operand s.dev r c rb).toNat
    let table := (s.dev.core r c).program.elim [] (·.table)
    (issues s.dev r c (.sload r c dst entry) →
      leaves (.sload r c dst entry) s (selected s.dev r c dst (table.getD entry.toNat ⟨0, 0, 0, false, 0⟩))) ∧
    (issues s.dev r c (.sderive r c dst src ra rb mode esize) →
      (derives g a n mode esize → leaves (.sderive r c dst src ra rb mode esize) s
        (selected s.dev r c dst ⟨g.base + a * 2 ^ g.esize.toNat, n, esize, g.write, mode⟩)) ∧
      (¬derives g a n mode esize → leaves (.sderive r c dst src ra rb mode esize) s (stops s.dev r c 0x0601 0x12))) ∧
    (issues s.dev r c (.slimit r c rd src) →
      leaves (.slimit r c rd src) s (written s.dev r c rd (BitVec.ofNat 64 g.limit) none))

/-- The element that an index reaches in each segment mode, and SLOAD, SDERIVE and SLIMIT (10:R235, R236). -/
def Obligations.SegmentsAndSelectors : Prop := Claims.SegmentElement ∧ Claims.SegmentInstructions

/-- w0 to w15 are frame CWP, w16 to w31 frame CWP + 1. CALL and CALLR write the return address into register 15 of frame CWP + 1
and move the window up, RET jumps to w15 and moves it back; a RET without a caller frame traps with code 0x14 (10:R230, R231). -/
def Sys2Proof.Claims.CallAndReturn : Prop :=
  ∀ (s : State) (r c : Nat),
    let k := found s.dev r c
    let b := coreBank k
    let called := fun (target : W64) =>
      retired s.dev r c (settle k
        (fun b => { b with
          w := b.w.set ((b.cwp.toNat + 1) % 8 * 16 + 15) (b.pc + 4), cwp := b.cwp + 1, res := b.res + 1 })
        [.w ((b.cwp.toNat + 1) % 8 * 16 + 15)] target 1) 1
    (∀ n : BitVec 6, 16 ≤ n.toNat → n.toNat ≤ 47 →
      b.read k.deep n = frameReg b (b.cwp.toNat + (n.toNat - 16) / 16) (n.toNat % 16)) ∧
    (b.res ≠ 8 →
      (∀ disp : BitVec 26, issues s.dev r c (.call r c disp) →
        leaves (.call r c disp) s (called (b.pc + BitVec.ofInt 64 (4 * disp.toInt)))) ∧
      (∀ ra : BitVec 6, issues s.dev r c (.callr r c ra) →
        leaves (.callr r c ra) s (called (operand s.dev r c ra)))) ∧
    (issues s.dev r c (.ret r c) →
      (b.res ≠ 2 → leaves (.ret r c) s (retired s.dev r c (settle k
        (fun b => { b with cwp := b.cwp - 1, res := b.res - 1 }) [] (frameReg b b.cwp.toNat 15) 1) 1)) ∧
      (b.res = 2 → b.spilled = 0 → leaves (.ret r c) s (stops s.dev r c 0x0601 0x14)))

/-- CALL and CALLR with eight frames resident first spill the oldest, once what is pending on it has landed, at offset 128 ×
SPILLED of the world's spill area; beyond the area they trap with code 0x13. A RET with two resident and SPILLED > 0 fills the
frame below from offset 128 × (SPILLED − 1). Each takes 20 cycles more and charges 16 instructions more (10:R231, R234; log 21).
-/
def Sys2Proof.Claims.SpillAndFill : Prop :=
  ∀ (s : State) (r c : Nat),
    let d := s.dev
    let k := found d r c
    let b := coreBank k
    let m := (d.ridge r).sram
    let n := b.spilled.toNat
    let base := if k.deep then k.spillBase else k.program.elim 0 (·.spillBase)
    let room := if k.deep then k.spillLen else k.program.elim 0 (·.image.spill)
    let full := fun (x : Instr) (target : W64) => issues d r c x → b.res = 8 →
      (room < 128 * (n + 1) ∨ 1023 ≤ n → leaves x s (stops d r c 0x0601 0x13)) ∧
      (128 * (n + 1) ≤ room → n < 1023 → sideOk d r c (base + 128 * n) 128 → memWf m = true →
        let oldest := (b.cwp.toNat + 2) % 8
        let k := touched c (k.land fun e => match e.dst with
          | .w i => i / 16 == oldest
          | _ => false) true (base + 128 * n)
        ∃ m', leaves x s (retiredWith d r c (settle k
            (fun b => { b with w := b.w.set ((b.cwp.toNat + 1) % 8 * 16 + 15) (b.pc + 4), cwp := b.cwp + 1, res := 8
                               spilled := b.spilled + 1 })
            [.w ((b.cwp.toNat + 1) % 8 * 16 + 15)] target 21) 17 m' d.draws) ∧
          (∀ i j, i < 16 → j < 8 → memRead m' (base + 128 * n + 8 * i + j) =
            (frameReg (coreBank k) oldest i).extractLsb' (8 * j) 8) ∧
          (∀ x, x < base + 128 * n ∨ base + 128 * n + 128 ≤ x → memRead m' x = memRead m x))
    (∀ disp : BitVec 26, full (.call r c disp) (b.pc + BitVec.ofInt 64 (4 * disp.toInt))) ∧
    (∀ ra : BitVec 6, full (.callr r c ra) (operand d r c ra)) ∧
    (issues d r c (.ret r c) → b.res = 2 → b.spilled ≠ 0 → sideOk d r c (base + 128 * (n - 1)) 128 →
      b.w.length = 128 →
      leaves (.ret r c) s (retired d r c (settle (touched c k false (base + 128 * (n - 1))) (fun b => { b with
          w := (List.range 128).map fun x =>
            if x / 16 = (b.cwp.toNat + 7) % 8 then
              BitVec.ofNat 64 (leNat (memBytes m (base + 128 * (n - 1) + 8 * (x % 16)) 8))
            else b.w.getD x 0
          cwp := b.cwp - 1, spilled := b.spilled - 1 }) [] (frameReg b b.cwp.toNat 15) 21) 17))

/-- Calls, returns and the frames they take and give back, spilled and filled where the window file is full or empty (10:R230,
R231, R238). -/
def Obligations.CallsAndFrames : Prop := Claims.CallAndReturn ∧ Claims.SpillAndFill

/-! ## Lamad: requests of a program, crossings, privileged and custom instructions -/

namespace Sys2Proof.Claims

open Machine

/-- The ticket that a register names, of a program in the Surface world. -/
def ticketOf (d : Dev) (r c : Nat) (n : BitVec 6) : Option Ticket :=
  ((d.core r c).program.bind fun p => p.tickets[(operand d r c n).toNat]?).join

/-- A program in the Surface world that stands at a word. -/
def atWord (d : Dev) (r c : Nat) (p : Program) (w : BitVec 32) : Prop :=
  d.serves r = true ∧ (d.core r c).deep = false ∧ (d.core r c).program = some p ∧ p.paused = false ∧ p.ending = none ∧
    p.word (d.core r c).surface.pc = some w

/-- A core at a crossing (11:R262, R263): it adopts the mode of CACHE.MODE, and in FLUSH mode, or on leaving it, its caches are
written back and emptied; 40 cycles, and those of a flush, a free number (log 14). -/
def switched (k : Core) (flush : Bool) (draw : Nat) : Core :=
  { k with
    flush := flush
    icache := if k.flush || flush then { k.icache with lines := [] } else k.icache
    dcache := if k.flush || flush then { k.dcache with lines := [] } else k.dcache
    cycle := k.cycle + 40 + if k.flush || flush then Config.freeNat draw % 2361 else 0 }

/-- A Deep core of a ridge where Keade runs: it serves, is awake, and is not restarting. -/
def deepRuns (d : Dev) (r c : Nat) : Prop :=
  d.serves r = true ∧ (d.ridge r).power = 2 ∧ (d.ridge r).world.restarting = false ∧ c < 4 ∧ (d.core r c).deep = true

end Sys2Proof.Claims

/-- JSUB of a program that holds all eight tickets, and of code without a program, writes all ones to rd and submits nothing;
one that finds a ticket free copies its block, writes the ticket to rd and hands the request to the dispatcher, where an opcode
that a request may not use ends it at once with BAD_OPCODE (10:R249, R251, log 20). -/
def Sys2Proof.Claims.JsubSubmits : Prop :=
  ∀ (s : State) (r c : Nat) (rd ra : BitVec 6) (sel : BitVec 3), issues s.dev r c (.jsub r c rd ra sel) →
    let d := s.dev
    let ok := fun (q : Submit) =>
      (placed d r c (writtenCore (found d r c) rd q.value none) 1 (d.ridge r).sram d.draws).submit r c q
    (((d.core r c).deep = true ∨ ∃ p, (d.core r c).program = some p ∧ ∀ t ∈ p.tickets, t.isSome = true) →
      leaves (.jsub r c rd ra sel) s (written d r c rd (BitVec.allOnes 64) none)) ∧
    (∀ q x, d.jsubPlan r c ra sel = .ok q → q.desc = some x → leaves (.jsub r c rd ra sel) s ((ok q).takeDue r c) ∧
      (∀ p pj, (d.core r c).program = some p → (d.core r c).deep = false → d.job? p.job = some pj →
        (d.ridge r).cores.length = 4 → r < d.ridges.length →
        q.ticket < p.tickets.length ∧ p.tickets[q.ticket]? = some none ∧ q.value = BitVec.ofNat 64 q.ticket ∧
        (requestOp x.op = false →
          (((ok q).core r c).program.bind fun p => (p.tickets[q.ticket]?).join) =
            some ⟨d.nextJob, q.block, q.index, x.outAddr.toNat, some (0x0102, 4, 0, 0), true⟩))) ∧
    (∀ code, d.jsubPlan r c ra sel = .error code → (d.core r c).deep = false → code ≠ 0x110 →
      leaves (.jsub r c rd ra sel) s (ended (d.codeFetch r c) r c 0x0601 code))

/-- JWAIT and JPOLL: BAD_HANDLE 0x0001 for a ticket that names no request; of one that runs, JPOLL writes all ones and JWAIT
stalls without a charge; of one that has ended, both write STATUS and DETAIL to rd, the result fields into the request block,
and free the ticket (10:R249). -/
def Sys2Proof.Claims.TicketsAnswer : Prop :=
  ∀ (s : State) (r c : Nat) (rd ra : BitVec 6) (i : Instr) (poll : Bool),
    i = (if poll then Instr.jpoll r c rd ra else .jwait r c rd ra) → issues s.dev r c i → (s.dev.core r c).deep = false →
    let d := s.dev
    let k := found d r c
    (ticketOf d r c ra = none → leaves i s (written d r c rd (BitVec.ofNat 64 (0x0301 * 2 ^ 32 + 1)) none)) ∧
    (∀ t, ticketOf d r c ra = some t → (t.ended = none ∨ t.delivered = false) →
      (poll = true → leaves i s (written d r c rd (BitVec.allOnes 64) none)) ∧
      (poll = false → leaves i s ((d.modCore r c fun k => { k with
        cycle := k.cycle + 1, program := k.program.map fun p => { p with cycles := p.cycles + 1 } }).takeDue r c))) ∧
    (∀ t st de wr h a b, ticketOf d r c ra = some t → t.ended = some (st, de, wr, h) → t.delivered = true →
      t.block.esize = 3 → t.block.addr (t.index + 6) true = .ok a → t.block.addr (t.index + 7) true = .ok b →
      sideOk d r c a 8 → sideOk d r c b 8 →
      let m := memPut (memPut (d.ridge r).sram a (leBytes 8 (st.toNat + wr.toNat * 2 ^ 32))) b (leBytes 8 h.toNat)
      let after := settle (touched c (touched c k true a) true b)
        (fun b => writeReg b rd (BitVec.ofNat 64 (st.toNat * 2 ^ 32 + de.toNat)))
        ((coreBank k).phys rd).toList ((coreBank k).pc + 4) 1
      leaves i s (((placed d r c after 1 m d.draws).modCore r c fun k => { k with
        program := k.program.map fun p => { p with tickets := p.tickets.set (operand d r c ra).toNat none } }).takeDue r c))

/-- The requests of a program: JSUB, JWAIT and JPOLL (10:R249, R251). -/
def Obligations.ProgramRequests : Prop := Claims.JsubSubmits ∧ Claims.TicketsAnswer

/-- EXIT waits for what is pending, then ends the program with DONE, g2 bytes of OUT and g3 as DETAIL, or with code 0x17 when g2
is above OUT_LEN (10:R234, R253). -/
def Sys2Proof.Claims.ExitEndsProgram : Prop :=
  ∀ (s : State) (r c : Nat) (p : Program) (w : BitVec 32), atWord s.dev r c p w → 1 ≤ p.budget →
    Lamad.decode r c w = some (.exit r c) →
    r < s.dev.ridges.length → c < (s.dev.ridge r).cores.length →
    let d := s.dev.modCore r c fun k => { k.boundary with
      cycle := k.boundary.cycle + 1, program := k.boundary.program.map fun p => { p with cycles := p.cycles + 1 } }
    let pc := (s.dev.core r c).surface.pc
    let g2 := ((s.dev.core r c).boundary).surface.g.getD 2 0
    let g3 := ((s.dev.core r c).boundary).surface.g.getD 3 0
    (g2.toNat ≤ p.outLen → leaves (.exit r c) s
      ((d.visitDeep r c (pc + 4) 0).endProgram r c ⟨0x0000, g3.extractLsb' 0 32, g2.setWidth 32⟩)) ∧
    (p.outLen < g2.toNat → leaves (.exit r c) s (ended d r c 0x0601 0x17))

/-- What ends a program on the Surface side: DESCEND of another service than 0 (0x23), ASCEND and major 0x30 (0x21), any custom
instruction (0x22), a reserved encoding that Keade does not emulate (0x20), an instruction past the budget (0x30) (10:R239 to
R241, R244, R254). -/
def Sys2Proof.Claims.ProgramEnds : Prop :=
  ∀ (s : State) (r c : Nat) (p : Program) (w : BitVec 32), c < 4 → atWord s.dev r c p w →
    let d := s.dev
    let keade := (d.ridge r).power = 2 ∧ (d.ridge r).world.restarting = false
    let ends := fun (st : BitVec 16) (code : Nat) => ended d r c st code
    (1 ≤ p.budget →
    (∀ k, keade → Lamad.decode r c w = some (.descend r c k) → leaves (.descend r c k) s (ends 0x0602 0x23)) ∧
    (Lamad.decode r c w = some (.ascend r c) → leaves (.ascend r c) s (ends 0x0602 0x21)) ∧
    (∀ op, (w.extractLsb' 26 6) = 0x30 → leaves (.privilegedOp r c op) s (ends 0x0602 0x21)) ∧
    (∀ slot rd ra rb k, Lamad.decode r c w = some (.customX r c slot rd ra rb k) →
      leaves (.customX r c slot rd ra rb k) s (ends 0x0602 0x22)) ∧
    (keade → reservedWord r c w = true → leaves (.reservedOpcodeTrap r c none) s (ends 0x0602 0x20))) ∧
    (p.budget < (Lamad.decode r c w).elim 1 (d.core r c).surface.chargeOf →
      leaves (.budgetExhausted r c) s
        (d.endProgram r c ⟨0x0603, BitVec.ofNat 32 (0x30 + pcIndex d r c % 2 ^ 24 * 256), 0⟩))

/-- How a tenant program ends: EXIT, a refused crossing, a privileged, custom or reserved encoding, the budget (10:R239 to R241,
R244, R253, R254). -/
def Obligations.ProgramsEnd : Prop := Claims.ExitEndsProgram ∧ Claims.ProgramEnds

/-- A reserved encoding that Keade emulates: the core has entered Deep and come back, what the later stepping writes is written,
the program goes on at the next instruction and is charged one; of Deep code it goes to Keade's handler (10:R239, R241, R254).
-/
def Sys2Proof.Claims.ReservedEmulated : Prop :=
  ∀ (s : State) (r c : Nat) (p : Program) (w : BitVec 32) (ws : List (BitVec 6 × W64)),
    (atWord s.dev r c p w → 1 ≤ p.budget →
      (s.dev.ridge r).power = 2 → (s.dev.ridge r).world.restarting = false → reservedWord r c w = true →
      leaves (.reservedOpcodeTrap r c (some ws)) s
        ((s.dev.visitDeep r c (s.dev.core r c).surface.pc 0x120).modCore r c fun k =>
          let b := ws.foldl (fun b e => writeReg b e.1 e.2) k.surface
          { k with
            surface := { b with pc := b.pc + 4 }
            program := k.program.map fun p => { p with budget := p.budget - 1 } })) ∧
    (deepRuns s.dev r c → leaves (.reservedOpcodeTrap r c none) s (trapped s.dev r c 0x20))

/-- DESCEND of a Surface core without a program, and a Deep interrupt of any Surface core, enter Deep: pending writes land, the
resume address is saved, g1 to g7 are copied, g8 holds the cause, the caches are flushed in FLUSH mode, and Keade starts at the
entry registered for it. An interrupt waits while a write is pending (10:R234, 11:R262 to R264, R267; log 14, log 15). -/
def Sys2Proof.Claims.EntryIntoDeep : Prop :=
  ∀ (s : State) (r c : Nat), s.dev.serves r = true → (s.dev.ridge r).power = 2 →
    (s.dev.ridge r).world.restarting = false → c < 4 → (s.dev.core r c).deep = false →
    let d := s.dev
    let enters := fun (resume : W64) (cause : Nat) => { (d.modCore r c fun k =>
        let k := switched k.boundary d.cacheMode d.draws
        { k with
          deep := true, resume := some resume
          deepBank := { k.deepBank with
            g := k.deepBank.g.take 1 ++ (k.surface.g.drop 1).take 7 ++ [BitVec.ofNat 64 cause] ++ k.deepBank.g.drop 9
            pc := (assocGet (d.ridge r).world.entries cause).getD k.deepBank.pc } }) with
      draws := d.draws + 1 }
    (∀ service : BitVec 14, (d.core r c).program = none →
      leaves (.descend r c service) s (enters ((d.core r c).surface.pc + 4) service.toNat)) ∧
    (∀ source : W64, (d.core r c).due = [] → (d.core r c).landDue.pend = [] →
      leaves (.deepInterrupt r c source) s (enters (d.core r c).surface.pc (0x200 + source.toNat))) ∧
    (∀ source : W64, (d.core r c).landDue.pend ≠ [] → r < d.ridges.length → c < (d.ridge r).cores.length →
      leaves (.deepInterrupt r c source) s (d.modCore r c fun k => { k with due := k.due ++ [0x200 + source.toNat] }))

/-- ASCEND of a Deep core with a resume address: g1 and g2 are copied back, Surface resumes there, pending request-ended signals
are delivered, and a Deep interrupt that waited is taken; on core 0, or without an address, a Deep fault of cause 3 (11:R262,
R263, R265, R268, R270). -/
def Sys2Proof.Claims.AscendReturns : Prop :=
  ∀ (s : State) (r c : Nat), deepRuns s.dev r c →
    let d := s.dev
    (∀ a, (d.core r c).resume = some a → c ≠ 0 →
      leaves (.ascend r c) s (({ (d.modCore r c fun k =>
          let k := switched k.boundary d.cacheMode d.draws
          { k with
            deep := false, resume := none
            surface := { k.surface with
              g := k.surface.g.take 1 ++ (k.deepBank.g.drop 1).take 2 ++ k.surface.g.drop 3, pc := a }
            program := k.program.map fun p => { p with
              tickets := p.tickets.map (Option.map fun t => { t with delivered := t.delivered || t.ended.isSome }) } }) with
        draws := d.draws + 1 } : Dev).takeDue r c)) ∧
    ((c = 0 ∨ (d.core r c).resume = none) → leaves (.ascend r c) s (d.deepFault r 3))

/-- Entering Deep by DESCEND and by an interrupt, and returning by ASCEND (11:R264 to R268, R270). -/
def Obligations.CrossingsOfWorlds : Prop := Claims.EntryIntoDeep ∧ Claims.AscendReturns

/-- Deep code writes its selectors, the spill area of its frames, entries of a program's segment table, and Keade's entry points
with the instructions of major 0x30; pc moves on (10:R231, R236, 11:R264; log 15). -/
def Sys2Proof.Claims.PrivilegedEffects : Prop :=
  ∀ (s : State) (r c : Nat), deepRuns s.dev r c →
    let d := s.dev
    let k := found d r c
    let pc := (coreBank k).pc + 4
    (∀ sel base limit esize mode write,
      leaves (.privilegedOp r c (.setSelector sel base limit esize mode write)) s (selected d r c sel ⟨base, limit, esize, write, mode⟩)) ∧
    (∀ base len, leaves (.privilegedOp r c (.setSpill base len)) s
      (retired d r c (settle { k with spillBase := base, spillLen := len } id [] pc 1) 1)) ∧
    (∀ entry base limit esize mode write,
      leaves (.privilegedOp r c (.setTable entry base limit esize mode write)) s (jumped (d.modCore r c fun k => { k with
        program := k.program.map fun p => { p with
          table := p.table.set entry.toNat ⟨base, limit, esize, write, mode⟩ } }) r c pc)) ∧
    (∀ service entry,
      leaves (.privilegedOp r c (.setEntry service entry)) s (jumped (d.modRidge r fun y => { y with
        world := { y.world with entries := assocSet y.world.entries service.toNat entry } }) r c pc))

/-- A custom instruction of Deep code whose slot holds one micro-operation does what that instruction does with the fields put
in where its word says so, and pc moves on by 4; an empty slot traps to Keade's handler; a slot that the image does not list
leaves the core to Keade's software path (10:R239, R243, R244; log 15). -/
def Sys2Proof.Claims.CustomRunsSlot : Prop :=
  ∀ (s : State) (r c : Nat) (slot : BitVec 5) (rd ra rb : BitVec 6) (k : BitVec 3), deepRuns s.dev r c →
    let ops := s.dev.decode.getD slot.toNat []
    (ops = [] → leaves (.customX r c slot rd ra rb k) s (trapped s.dev r c 0x20)) ∧
    (ops ≠ [] → s.dev.slotListed slot.toNat ops = false → leaves (.customX r c slot rd ra rb k) s s.dev) ∧
    (∀ x y z : BitVec 6, ops = [BitVec.ofNat 64 (0x7 * 2 ^ 32) ||| (Lamad.encR 0x00 x y z 0x00).setWidth 64] →
      s.dev.slotListed slot.toNat ops = true → Lamad.namesReserved (.add r c rd ra rb) = false →
      let b := coreBank (found s.dev r c)
      let u := b.read true ra
      let v := b.read true rb
      leaves (.customX r c slot rd ra rb k) s
        (written s.dev r c rd (u + v) (some (decide (2 ^ 64 ≤ u.toNat + v.toNat)))))

/-- The privileged instructions of Deep code, a reserved encoding that Keade emulates, and a custom instruction (10:R236, R241,
R243, R244, 11:R264; log 15). -/
def Obligations.DeepInstructions : Prop := Claims.PrivilegedEffects ∧ Claims.ReservedEmulated ∧ Claims.CustomRunsSlot

/-! ## Operations on engines -/

namespace Sys2Proof.Claims

open Machine

/-- The parts of job `j` have run on engines of the other classes that it needs, one after another (01:R404; log 36). -/
def partsRun (d : Dev) (j : JobRec) : Dev :=
  d.runParts j.num (j.job.classes.drop 1) ((j.job.classes.drop 1).length + 1)

/-- Engine `b` of ridge `r` can do the work of job `j`, of opcode `op`, on the bytes `inp` and `aux` (01:R16, R25, R404, 12:R288):
it runs the job, whose keys, input and AUX stand in its operand RAM, and which has no result yet; the parts of other classes find
their engines; what the operation draws can be drawn. -/
structure EngineReady (d : Dev) (r b op : Nat) (j : JobRec) (inp aux : List Byte) : Prop where
  runs : ((d.ridge r).engine b).running = some j.num
  held : d.job? j.num = some j
  phase : j.job.phase = .engine
  ridge : j.job.ridge = r
  blk : j.job.blk = b
  opcode : j.job.desc.op = op
  input : j.job.inp.bytes? ≠ none
  second : j.job.aux.bytes? ≠ none
  ramKeys : ((d.ridge r).engine b).ram.keyA = j.job.keyA ∧ ((d.ridge r).engine b).ram.keyB = j.job.keyB
  ramBytes : ((d.ridge r).engine b).ram.inp = inp ∧ ((d.ridge r).engine b).ram.aux = aux
  fresh : ((d.ridge r).engine b).ram.out = none
  parts : (partsRun d j).partsEnded j.num (j.job.classes.drop 1) = true
  draws : (partsRun d j).drawable r j.job.desc.draws = true

/-- What the engine works on; the operation's free values are the next draw of the device. -/
def workOf (d : Dev) (j : JobRec) (inp aux : List Byte) : Work :=
  ⟨d, j.job.seam, j.job.desc, j.job.keyA, j.job.keyB, inp, aux, d.draws⟩

/-- `n` bytes of the next draw, from place `i` of its stream. -/
def drawn (d : Dev) (i n : Nat) : List Byte := (List.range n).map fun k => Config.freeByte d.draws (i + k)

/-- What the operation leaves on a device whose parts have run: one draw taken, one generate request of the instance that the
opcode draws from, the job's result and the draw that blinded its sequence in operand RAM until JOB_END, the permutations of its
samplers on the paired banks, and what it writes before its end (04:R100, 06:R144, 07:R163, R164, R178, 12:R285, R288). -/
def worked (d : Dev) (w : Work) (r : Nat) (j : JobRec) (res : Result) : Dev :=
  let d := { d with draws := d.draws + 1 }
  let d := match j.job.desc.draws with
    | .no => d
    | .internal => d.generate r false 1
    | .host => d.generate r true 1
  let blind := if j.job.desc.draws = .no then none else some w.k
  let d := d.modEngine r j.job.blk fun e => { e with ram := { e.ram with blind := blind, out := some res } }
  let d := d.modJob j.num fun y => { y with tail := { y.tail with draining := none } }
  (d.sampled r ((d.job? j.num).getD j).unit (w.tableBlocks + w.further)).stream j.num w res

/-- A refusal of stage 3 stands in operand RAM at once: no part runs, and nothing is drawn (05:R116, R117). -/
def turnedAway (d : Dev) (r : Nat) (j : JobRec) (res : Result) : Dev :=
  d.modEngine r j.job.blk fun e => { e with ram := { e.ram with blind := none, out := some res } }

/-- A result of status DONE: its output, DETAIL, time, and the key it makes. -/
def finished (out : List Byte) (detail ns : Nat) (key : Option NewKey) : Result :=
  ⟨⟨0x0000, BitVec.ofNat 32 detail, BitVec.ofNat 32 out.length⟩, out, ns, key⟩

/-- A result of another status, which writes nothing. -/
def fails (st : BitVec 16) (detail ns : Nat) : Result := ⟨⟨st, BitVec.ofNat 32 detail, 0⟩, [], ns, none⟩

/-- A verification's result: DONE, or SIG_INVALID. -/
def verdict (ok : Bool) (ns : Nat) : Result := if ok then finished [] 0 ns none else fails 0x0001 0 ns

/-- OUT_LEN is below what IN requires: BAD_LENGTH, DETAIL 0x0203, OUT_WRITTEN the length required (05:R128). -/
def short (need : Nat) : Result := ⟨⟨0x0103, 0x0203, BitVec.ofNat 32 need⟩, [], 0, none⟩

/-- The operation gives a result `res`, whose engine time is `ns`; a key of AS_BLOB leaves as a blob (05:R123). -/
def givesIn (i : Instr) (s : State) (r : Nat) (j : JobRec) (inp aux : List Byte) (res : Result) : Prop :=
  let w := workOf s.dev j inp aux
  let out := w.seal res
  leaves i s (if out.refusal j.job.desc then turnedAway s.dev r j out else worked (partsRun s.dev j) w r j out)

/-- The operation gives a result, whose engine time this statement leaves open. -/
def gives (i : Instr) (s : State) (r : Nat) (j : JobRec) (inp aux : List Byte) (res : Nat → Result) : Prop :=
  ∃ ns, givesIn i s r j inp aux (res ns)

/-- The validation phase refuses the first failing check, or the work follows (06:R150 to R153). -/
def checked (fs : List Flaw) (go : Nat → Result) (ns : Nat) : Result :=
  match firstFault fs with
  | some f => fails f.status (f.off % 2 ^ 15 + if f.aux then 2 ^ 15 else 0) ns
  | none => go ns

/-- An RSA private key: modulus, private exponent, bytes of the modulus. -/
def rsaSecret (k : KeyMat) : Nat × Nat × Nat :=
  let p := Config.rsaParts k.priv
  (p.1, p.2.2, byteLen p.1)

/-- An RSA public key, resident, or inline in AUX as exponent and modulus (05:R130): modulus, exponent, bytes of the
modulus. -/
def rsaOpen (a : Option KeyMat) (aux : List Byte) : Nat × Nat × Nat :=
  match a with
  | some k => let p := Config.rsaParts k.priv; (p.1, p.2.1, byteLen p.1)
  | none => (beNat (aux.drop 4), field aux 0 4, aux.length - 4)

/-- The public key bytes of an operation: of KEY_A, or AUX. -/
def publicOf (a : Option KeyMat) (aux : List Byte) : List Byte :=
  match a with
  | some k => k.pub
  | none => aux

/-- The ALG of an operation: of KEY_A, or of the inline key (05:R120). -/
def algOf (j : JobRec) : Nat :=
  match j.job.keyA with
  | some k => tAlg k.template
  | none => j.job.desc.inlineAlg

end Sys2Proof.Claims

/-- The RSA private operations with their key `k`: the signatures are k bytes; RSA_RAW_PRIVATE and RSA_DECRYPT_OAEP refuse an
integer that is not below n, zero, one or n − 1, and otherwise raise it to the private exponent modulo n (05:Table 5.7, R128,
06:R150). -/
def Sys2Proof.Claims.RsaPrivate : Prop :=
  ∀ (s : State) (r b : Nat) (j : JobRec) (inp aux : List Byte) (key : KeyMat), j.job.keyA = some key →
    let n := (rsaSecret key).1
    let d := (rsaSecret key).2.1
    let k := (rsaSecret key).2.2
    let x := j.job.desc
    let hash := x.p 0 4
    let sig := fun (kind : Byte) (salt : List Byte) =>
      slice (Config.sign 0x100 [] key.priv (variant x.param.toNat [kind]) inp salt) 0 k
    let refused := fun (v off : Nat) (go : Nat → Result) (ns : Nat) =>
      if n ≤ v then fails 0x0403 off ns else if v = 0 then fails 0x0401 off ns
      else if v = 1 ∨ v + 1 = n then fails 0x0402 off ns else go ns
    (EngineReady s.dev r b 0x0101 j inp aux →
      gives (.rsaSignPkcs1 r b) s r j inp aux fun ns => finished (sig 0 []) 0 ns none) ∧
    (EngineReady s.dev r b 0x0102 j inp aux →
      gives (.rsaSignPss r b) s r j inp aux fun ns => finished (sig 1 (drawn s.dev 0 (digestLen hash))) 0 ns none) ∧
    (EngineReady s.dev r b 0x0106 j inp aux →
      gives (.rsaRawPrivate r b) s r j inp aux
        (refused (beNat inp) 0 fun ns => finished (beBytes k (beNat inp ^ d % n)) 0 ns none)) ∧
    (EngineReady s.dev r b 0x0104 j inp aux →
      let l := field inp 0 2
      let c := beNat (slice inp (2 + l) k)
      if 256 < l ∨ inp.length ≠ 2 + l + k then givesIn (.rsaDecryptOaep r b) s r j inp aux (fails 0x0103 0x0202 0)
      else gives (.rsaDecryptOaep r b) s r j inp aux (refused c (2 + l) fun ns =>
        match Config.oaepDecode hash (slice inp 2 l) (beBytes k (c ^ d % n)) with
        | some m => finished (m.take (k - 2 * digestLen hash - 2)) 0 ns none
        | none => fails 0x0001 0 ns))

/-- The RSA public operations: an exponent not below an odd modulus, or an inline one that is even or below 3 (the model's
reading, log 39), is RANGE and a modulus short of its length ZERO_INPUT, both at bit 15 of DETAIL; then the signature is
verified, or the integer raised to the exponent (05:Table 5.7, 06:R150). -/
def Sys2Proof.Claims.RsaPublic : Prop :=
  ∀ (s : State) (r b : Nat) (j : JobRec) (inp aux : List Byte),
    let n := (rsaOpen j.job.keyA aux).1
    let e := (rsaOpen j.job.keyA aux).2.1
    let k := (rsaOpen j.job.keyA aux).2.2
    let x := j.job.desc
    let hash := x.p 0 4
    let wide := n ≤ e ∨ n % 2 = 0 ∨ (j.job.keyA = none ∧ (e % 2 = 0 ∨ e < 3))
    let thin := n < 2 ^ (8 * (k - 1))
    let refused := fun (go : Nat → Result) (ns : Nat) =>
      if wide then fails 0x0403 0x8000 ns else if thin then fails 0x0401 0x8000 ns else go ns
    (EngineReady s.dev r b 0x0103 j inp aux →
      gives (.rsaVerify r b) s r j inp aux (refused
        (verdict (Config.verify 0x100 [n, e] [] (variant x.param.toNat [if x.p 6 1 = 1 then 1 else 0])
          (inp.drop k) (slice inp 0 k))))) ∧
    (EngineReady s.dev r b 0x0105 j inp aux →
      let l := field inp 0 2
      let h := digestLen hash
      if 256 < l ∨ inp.length < 2 + l ∨ k < inp.length - 2 - l + 2 * h + 2 then
        givesIn (.rsaEncryptOaep r b) s r j inp aux (fails 0x0103 0x0202 0)
      else gives (.rsaEncryptOaep r b) s r j inp aux (refused fun ns =>
        let m := Config.oaepEncode hash (slice inp 2 l) (inp.drop (2 + l)) (drawn s.dev 0 h) k
        finished (beBytes k (beNat m ^ e % n)) 0 ns none)) ∧
    (EngineReady s.dev r b 0x0107 j inp aux →
      gives (.rsaRawPublic r b) s r j inp aux fun ns =>
        if n ≤ beNat inp then fails 0x0403 0 ns else if wide then fails 0x0403 0x8000 ns
        else if beNat inp = 0 then fails 0x0401 0 ns else if thin then fails 0x0401 0x8000 ns
        else finished (beBytes k (beNat inp ^ e % n)) 0 ns none)

/-- The seven RSA operations (05:Table 5.8, R127, 06:R146, R147). -/
def Obligations.RsaOperations : Prop := Claims.RsaPrivate ∧ Claims.RsaPublic

/-- The checks of a Weierstrass point in their order: the lone zero byte, coordinates not below p, the pair of zeros, a point
off the curve, and a point whose product with the cofactor of a loaded curve is the point at infinity (06:R150). -/
def Sys2Proof.Claims.PointChecks : Prop :=
  ∀ (w : Work) (a off : Nat) (aux : Bool) (bs : List Byte),
    let c := w.curve a
    let lp := w.d.lp w.s a
    let x := beNat (slice bs 1 lp)
    let y := beNat (slice bs (1 + lp) lp)
    let long := bs.length = 1 + 2 * lp
    (firstFault (w.pointFaults a bs off aux)).map (·.status) =
      if bs.length = 1 then some 0x0401
      else if c.p ≤ x ∨ (long ∧ c.p ≤ y) then some 0x0403
      else if long ∧ x = 0 ∧ y = 0 then some 0x0401
      else if c.decode lp bs = none then some 0x0404
      else if isLoadedCurve a = true ∧ 1 < c.h ∧ c.mul c.h (c.decode lp bs) = none then some 0x0406
      else none

/-- The operations on Weierstrass curves: signatures of 2 × Ln bytes, the verdict on one, the secret of the peer's point and
the cofactor, and the product of a point and a scalar; an inline, peer or multiplied point is checked first (05:Table 5.8,
R131, 06:R147, R150). -/
def Sys2Proof.Claims.CurveOperations : Prop :=
  ∀ (s : State) (r b : Nat) (j : JobRec) (inp aux : List Byte),
    let w := workOf s.dev j inp aux
    let x := j.job.desc
    let a := algOf j
    let nums := s.dev.params j.job.seam a
    let lp := s.dev.lp j.job.seam a
    let ln := s.dev.ln j.job.seam a
    (∀ key, j.job.keyA = some key → EngineReady s.dev r b 0x0201 j inp aux →
      gives (.ecdsaSign r b) s r j inp aux fun ns =>
        finished (slice (Config.sign a nums key.priv (variant x.param.toNat []) inp (drawn s.dev 0 32)) 0 (2 * ln)) 0 ns none) ∧
    (EngineReady s.dev r b 0x0202 j inp aux →
      gives (.ecdsaVerify r b) s r j inp aux
        (checked (if j.job.keyA.isSome then [] else w.pointFaults a aux 0 true)
          (verdict (Config.verify a nums (publicOf j.job.keyA aux) (variant x.param.toNat []) (inp.drop (2 * ln))
            (slice inp 0 (2 * ln)))))) ∧
    (∀ key, j.job.keyA = some key → EngineReady s.dev r b 0x0203 j inp aux →
      gives (.ecdh r b) s r j inp aux
        (checked (w.pointFaults a inp 0 false) fun ns =>
          let h := if isLoadedCurve a then nums.getD 6 1 else 1
          let z := match (CurveNums.of nums).mul (h * beNat key.priv) ((CurveNums.of nums).decode lp inp) with
            | some p => beBytes lp p.1
            | none => beBytes lp 0
          finished [] 0 ns (some (s.dev.keyOf j.job.seam x.keyB z)))) ∧
    (EngineReady s.dev r b 0x0204 j inp aux →
      let a := 0x200 + x.p 8 8
      let c := CurveNums.of (s.dev.params j.job.seam a)
      let lp := s.dev.lp j.job.seam a
      let ln := s.dev.ln j.job.seam a
      let k := beNat (slice inp 0 ln)
      let pt := inp.drop ln
      gives (.ecPointMul r b) s r j inp aux
        (checked ((if c.n ≤ k then [(⟨0x0403, 0, false⟩ : Flaw)] else []) ++ (if k = 0 then [⟨0x0401, 0, false⟩] else []) ++
            w.pointFaults a pt ln false) fun ns =>
          match c.mul k (c.decode lp pt) with
          | some p => finished ([4] ++ beBytes lp p.1 ++ beBytes lp p.2) 0 ns none
          | none => finished (drawn s.dev 0 (1 + 2 * lp)) 0 ns none))

/-- The point checks, and ECDSA, ECDH and the point multiplication (05:Table 5.9, R131, 06:R148). -/
def Obligations.WeierstrassCurves : Prop := Claims.PointChecks ∧ Claims.CurveOperations

/-- The operations on Edwards and Montgomery curves: a context that does not fit is BAD_LENGTH, a public key that is no point
NOT_ON_CURVE and one of small order SMALL_ORDER, and an all-zero secret SMALL_ORDER; a batch gives a bitmap and counts its
failures (05:Table 5.9, R132, 06:R150, R151). -/
def Obligations.EdwardsAndMontgomery : Prop :=
  ∀ (s : State) (r b : Nat) (j : JobRec) (inp aux : List Byte),
    let x := j.job.desc
    let a := algOf j
    let c := field inp 0 1
    let rest := inp.drop (1 + c)
    let fits := inp ≠ [] ∧ 1 + c ≤ inp.length
    let pre := x.p 4 1 = 1
    let vary := variant x.param.toNat (slice inp 1 c)
    let n := sigLen a
    let pub := publicOf j.job.keyA aux
    let flaws := fun (p : Option (Nat × Nat)) (go : Nat → Result) (ns : Nat) =>
      match p with
      | none => fails 0x0404 0x8000 ns
      | some q => if edSmall a q = true then fails 0x0406 0x8000 ns else go ns
    (∀ key, j.job.keyA = some key → EngineReady s.dev r b 0x0301 j inp aux →
      if ¬fits ∨ (pre ∧ rest.length ≠ 64) then givesIn (.eddsaSign r b) s r j inp aux (fails 0x0103 0x0202 0)
      else gives (.eddsaSign r b) s r j inp aux fun ns => finished (slice (Config.sign a [] key.priv vary rest []) 0 n) 0 ns none) ∧
    (EngineReady s.dev r b 0x0302 j inp aux →
      if ¬fits ∨ rest.length < n ∨ (pre ∧ rest.length ≠ n + 64) then
        givesIn (.eddsaVerify r b) s r j inp aux (fails 0x0103 0x0202 0)
      else gives (.eddsaVerify r b) s r j inp aux (flaws (edDecode a pub)
        (verdict (Config.verify a [] pub vary (rest.drop n) (slice rest 0 n))))) ∧
    (∀ key, j.job.keyA = some key → EngineReady s.dev r b 0x0304 j inp aux →
      let z := slice (Config.xdh a key.priv inp) 0 (if a = 0x303 then 32 else 56)
      gives (.xdh r b) s r j inp aux fun ns =>
        if ∀ v ∈ z, v = 0 then fails 0x0406 0 ns else finished [] 0 ns (some (s.dev.keyOf j.job.seam x.keyB z))) ∧
    (EngineReady s.dev r b 0x0303 j inp aux →
      let count := x.p 0 7
      let at' := fun (i off : Nat) => field inp (104 * i + off) 4
      let good := fun (i : Nat) =>
        (edDecode 0x301 (slice inp (104 * i) 32)).isSome &&
          Config.verify 0x301 [] (slice inp (104 * i) 32) (variant 0 []) (slice inp (at' i 96) (at' i 100))
            (slice inp (104 * i + 32) 64)
      if ∃ i < count, at' i 96 < 104 * count ∨ inp.length < at' i 96 + at' i 100 then
        givesIn (.eddsaBatchVerify r b) s r j inp aux (fails 0x0103 0x0202 0)
      else ∃ bits : Nat, (∀ i, bits.testBit i = (decide (i < count) && good i)) ∧
        gives (.eddsaBatchVerify r b) s r j inp aux fun ns =>
          let failed := (List.range count).countP fun i => !(good i)
          let r := finished (leBytes 8 bits) failed ns none
          if failed = 0 then r else { r with verdict := { r.verdict with status := 0x0001 } })

/-- The lattice and hash-based operations, with their times (a lattice figure grows by 26 cycles for each further block that its
samplers squeeze): an inline ML-KEM key with a coefficient of q or above is RANGE
with the offset of its 384-byte block; ML-DSA reports its iterations; a context that does not fit is BAD_LENGTH
(05:Table 5.10, 07:R164 to R169, R175). -/
def Obligations.LatticeAndHashBased : Prop :=
  ∀ (s : State) (r b : Nat) (j : JobRec) (inp aux : List Byte),
    let x := j.job.desc
    let a := algOf j
    let pub := publicOf j.job.keyA aux
    let c := field inp 0 1
    let rest := inp.drop (1 + c)
    let fits := inp ≠ [] ∧ 1 + c ≤ inp.length
    let digestOk := fun (n : Nat) => x.p 4 1 = 1 → n = digestLen (x.p 0 4)
    let vary := variant x.param.toNat (slice inp 1 c)
    let n := sigLen a
    let secret := fun (z out : List Byte) (ns : Nat) => finished out 0 ns (some (s.dev.keyOf j.job.seam x.keyB z))
    let rank := if a = 0x401 then 2 else if a = 0x402 then 3 else 4
    let more := engNs (26 * Config.furtherBlocks s.dev.draws)
    let high := fun (i : Nat) => ∃ m < 128, 3329 ≤ field aux (384 * i + 3 * m) 3 % 4096 ∨ 3329 ≤ field aux (384 * i + 3 * m) 3 / 4096
    (EngineReady s.dev r b 0x0401 j inp aux →
      (∀ i < rank, j.job.keyA = none → high i → (∀ h < i, ¬high h) →
        givesIn (.mlkemEncaps r b) s r j inp aux (fails 0x0403 (384 * i + 0x8000) (engNs (32 + 16 * rank)))) ∧
      ((j.job.keyA = none → ∀ i < rank, ¬high i) →
        let e := Config.kemEncaps a pub (drawn s.dev 0 32)
        givesIn (.mlkemEncaps r b) s r j inp aux (secret (slice e.2 0 32) (slice e.1 0 (ctLen a)) ((kemTimes a).2.1 + more)))) ∧
    (∀ key, j.job.keyA = some key → EngineReady s.dev r b 0x0402 j inp aux →
      givesIn (.mlkemDecaps r b) s r j inp aux (secret (slice (Config.kemDecaps a key.priv inp) 0 32) [] ((kemTimes a).2.2 + more))) ∧
    (∀ key, j.job.keyA = some key → EngineReady s.dev r b 0x0411 j inp aux →
      if fits ∧ digestOk rest.length then
        ∃ tries : Nat, 1 ≤ tries ∧ givesIn (.mldsaSign r b) s r j inp aux
          (finished (slice (Config.sign a [] key.priv vary rest (if x.p 5 1 = 1 then [] else drawn s.dev 0 32)) 0 n)
            (min tries 0xFFFF)
            ((dsaTimes a).2.1 + tries * (dsaTimes a).2.2.1 + engNs ((inp.length - 1 - 256 + 135) / 136 * 26) + more) none)
      else givesIn (.mldsaSign r b) s r j inp aux (fails 0x0103 0x0202 0)) ∧
    (EngineReady s.dev r b 0x0412 j inp aux →
      if fits ∧ n ≤ rest.length ∧ digestOk (rest.length - n) then
        givesIn (.mldsaVerify r b) s r j inp aux
          (verdict (Config.verify a [] pub vary (rest.drop n) (slice rest 0 n))
            ((dsaTimes a).2.2.2 + engNs ((inp.length - 1 - n - 256 + 135) / 136 * 26) + more))
      else givesIn (.mldsaVerify r b) s r j inp aux (fails 0x0103 0x0202 0)) ∧
    (∀ key, j.job.keyA = some key → EngineReady s.dev r b 0x0501 j inp aux →
      if fits ∧ digestOk rest.length then
        gives (.slhdsaSign r b) s r j inp aux fun ns =>
          finished (slice (Config.sign a [] key.priv vary rest
            (if x.p 5 1 = 1 then slice key.priv (2 * slhN a) (slhN a) else drawn s.dev 0 (slhN a))) 0 n) 0 ns none
      else givesIn (.slhdsaSign r b) s r j inp aux (fails 0x0103 0x0202 0)) ∧
    (EngineReady s.dev r b 0x0502 j inp aux →
      if fits ∧ n ≤ rest.length ∧ digestOk (rest.length - n) then
        gives (.slhdsaVerify r b) s r j inp aux (verdict (Config.verify a [] pub vary (rest.drop n) (slice rest 0 n)))
      else givesIn (.slhdsaVerify r b) s r j inp aux (fails 0x0103 0x0202 0))

/-- The AES operations, with their times in engine cycles of 0.625 ns (05:Table 5.11, R127, R128, 07:R172, Table 7.4): a
GCM job judges its lengths, then OUT_LEN, then a given IV that GEN_IV forbids; a tag that fails writes nothing. -/
def Obligations.AesOperations : Prop :=
  ∀ (s : State) (r b : Nat) (j : JobRec) (inp aux : List Byte) (key : KeyMat), j.job.keyA = some key →
    let x := j.job.desc
    let a := tAlg key.template
    let aad := field inp 0 4
    let blocks := fun (n : Nat) => (n + 15) / 16
    let iv := slice inp 4 12
    let body := inp.drop (16 + aad)
    let fits := fun (tag : Nat) => aad ≤ 65536 ∧ 16 + aad + tag ≤ inp.length ∧ body.length - tag ≤ 1048576
    let gen := x.p 0 1 = 1
    (EngineReady s.dev r b 0x0601 j inp aux →
      let need := (if gen then 12 else 0) + body.length + 16
      let own := if gen then drawn s.dev 0 12 else iv
      givesIn (.aesGcmEnc r b) s r j inp aux
        (if ¬fits 0 then fails 0x0103 0x0202 0
        else if x.outLen.toNat < need then short need
        else if gen ∧ ∃ v ∈ iv, v ≠ 0 then fails 0x0101 0x0401 0
        else finished ((if gen then own else []) ++ slice (Config.gcmEnc key.priv own (slice inp 16 aad) body) 0 (body.length + 16))
          0 ((96 + 2 * blocks aad + (5 + a) * blocks body.length + 16) * 5 / 8) none)) ∧
    (EngineReady s.dev r b 0x0602 j inp aux →
      let n := body.length - 16
      let first := 96 + 2 * (blocks aad + blocks n) + 16
      givesIn (.aesGcmDec r b) s r j inp aux
        (if ¬fits 16 then fails 0x0103 0x0202 0
        else if x.outLen.toNat < n then short n
        else match Config.gcmDec key.priv iv (slice inp 16 aad) body with
          | some t => finished (slice t 0 n) 0 ((first + (5 + a) * blocks n) * 5 / 8) none
          | none => fails 0x0001 0 (first * 5 / 8))) ∧
    (EngineReady s.dev r b 0x0603 j inp aux →
      let data := inp.drop 16
      givesIn (.aesXts r b) s r j inp aux
        (finished (slice (Config.xts (x.p 0 1 == 1) key.priv (slice inp 0 16) data) 0 data.length) 0
          ((48 + (if a = 5 then 6 else 8) * blocks data.length) * 5 / 8) none)) ∧
    (EngineReady s.dev r b 0x0604 j inp aux →
      givesIn (.aesCmac r b) s r j inp aux
        (finished (slice (Config.cmac key.priv inp) 0 16) 0
          ((32 + (8 + 2 * a) * max 1 (blocks inp.length) + 14) * 5 / 8) none))

/-- Hashes, MACs and key derivation functions; the SHA-2 ones with their times (05:Table 5.11, R127, 07:R173, R174): SHAKE and
KMAC write OUT_LEN bytes; the length prefix of IN must fit. -/
def Obligations.HashesAndKdfs : Prop :=
  ∀ (s : State) (r b : Nat) (j : JobRec) (inp aux : List Byte),
    let x := j.job.desc
    let h := x.p 0 4
    let o := x.outLen.toNat
    let t := x.keyB
    let len := tLen t
    let p := field inp 0 2
    let first := slice inp 2 p
    let after := inp.drop (2 + p)
    let block := if h = 1 then 64 else 128
    let cycles := if h = 1 then 72 else 88
    let pad := if h = 1 then 9 else 17
    let hashing := fun (n : Nat) => (n + pad + block - 1) / block * cycles
    let mac := fun (k n : Nat) => hashing n + 3 * cycles + if block < k then hashing k else 0
    let secret := fun (z : List Byte) (ns : Nat) => finished [] 0 ns (some (s.dev.keyOf j.job.seam t z))
    let timed := fun (i : Instr) (n : Nat) (res : Nat → Result) =>
      if 1 ≤ h ∧ h ≤ 3 then givesIn i s r j inp aux (res ((8 + n) * 5 / 8)) else gives i s r j inp aux res
    (EngineReady s.dev r b 0x0701 j inp aux →
      timed (.hash r b) (hashing inp.length) fun ns =>
        finished (if 7 ≤ h then slice (Config.shake h inp o) 0 o else digest h inp) 0 ns none) ∧
    (∀ key, j.job.keyA = some key →
      let k := key.priv
      let blocks := (len + digestLen h - 1) / digestLen h
      (EngineReady s.dev r b 0x0702 j inp aux →
        timed (.hmac r b) (mac k.length inp.length) fun ns => finished (slice (Config.hmac h k inp) 0 (digestLen h)) 0 ns none) ∧
      (EngineReady s.dev r b 0x0703 j inp aux →
        let c := field inp 0 1
        if inp = [] ∨ inp.length < 1 + c then givesIn (.kmac r b) s r j inp aux (fails 0x0103 0x0202 0)
        else gives (.kmac r b) s r j inp aux fun ns =>
          finished (slice (Config.kmac (x.p 0 1 == 1) k (inp.drop (1 + c)) o (slice inp 1 c)) 0 o) 0 ns none) ∧
      (EngineReady s.dev r b 0x0704 j inp aux →
        if inp.length < 2 + p then givesIn (.kdfCtr r b) s r j inp aux (fails 0x0103 0x0202 0)
        else if 3 < h then gives (.kdfCtr r b) s r j inp aux (secret (slice (Config.kmac (h == 10) k after len first) 0 len))
        else timed (.kdfCtr r b) (blocks * mac k.length (9 + first.length + after.length))
          (secret ((((List.range blocks).map fun i =>
            hmacOf h k (beBytes 4 (i + 1) ++ first ++ [0] ++ after ++ beBytes 4 (8 * len))).flatten).take len))) ∧
      (EngineReady s.dev r b 0x0705 j inp aux →
        let only := x.p 4 1 = 1
        if inp.length < 2 + p then givesIn (.hkdf r b) s r j inp aux (fails 0x0103 0x0202 0)
        else if only ∧ p ≠ 0 then givesIn (.hkdf r b) s r j inp aux (fails 0x0101 0x0401 0)
        else
          let salt := if first = [] then List.replicate (digestLen h) 0 else first
          let prk := if only then k else hmacOf h salt k
          ∃ out : Nat → List Byte, out 0 = [] ∧
            (∀ i, out (i + 1) = hmacOf h prk (out i ++ after ++ [BitVec.ofNat 8 (i + 1)])) ∧
            let by' := if only then k.length else digestLen h
            timed (.hkdf r b) ((if only then 0 else mac first.length k.length) + mac by' (after.length + 1) +
                (blocks - 1) * mac by' (digestLen h + after.length + 1))
              (secret ((((List.range blocks).map fun i => out (i + 1)).flatten).take len))))

/-- Random bytes and the keys that operations make: RANDOM_BYTES and KEY_GENERATE from the draw, KEY_DERIVE from KMAC256 of the
parent and the context under "UJ840KD" and the template; OUT is the public part (05:Table 5.12, R135, 06:R160). -/
def Sys2Proof.Claims.RandomAndKeys : Prop :=
  ∀ (s : State) (r b : Nat) (j : JobRec) (inp aux : List Byte),
    let x := j.job.desc
    let t := x.keyB
    let a := tAlg t
    let seedLen := s.dev.seedLen j.job.seam a (tLen t)
    let made := fun (i : Instr) (priv : List Byte) =>
      let k := s.dev.keyOf j.job.seam t priv
      gives i s r j inp aux fun ns => finished k.pub 0 ns (some k)
    (EngineReady s.dev r b 0x0901 j inp aux →
      gives (.randomBytes r b) s r j inp aux fun ns => finished (drawn s.dev 0 x.outLen.toNat) 0 ns none) ∧
    (EngineReady s.dev r b 0x0801 j inp aux →
      made (.keyGenerate r b) (if isRsa a then Config.keygen a x.param.toNat [] (drawn s.dev 0 1024)
        else s.dev.fromSeed j.job.seam a (drawn s.dev 0 seedLen))) ∧
    (∀ key, j.job.keyA = some key → EngineReady s.dev r b 0x0807 j inp aux →
      made (.keyDerive r b) (s.dev.fromSeed j.job.seam a
        (slice (Config.kmac true key.priv inp seedLen (ascii "UJ840KD" ++ leBytes 8 t.toNat)) 0 seedLen)))

/-- A seed becomes a private encoding: of a curve, one more than the seed modulo n − 1; of SLH-DSA, its four parts; of any
other ALG, the seed itself (05:R135). -/
def Sys2Proof.Claims.SeedsBecomeKeys : Prop :=
  ∀ (d : Dev) (s a len : Nat) (seed : List Byte),
    (isCurve a = true → d.fromSeed s a seed = beBytes (d.ln s a) (beNat seed % ((d.params s a).getD 5 0 - 1) + 1) ∧
      d.seedLen s a len = d.ln s a + 8) ∧
    (isSlh a = true → (d.fromSeed s a seed).length = 4 * slhN a ∧ d.seedLen s a len = 3 * slhN a) ∧
    (isCurve a = false → isSlh a = false → d.fromSeed s a seed = seed) ∧
    (isSymmetric a = true → d.seedLen s a len = len) ∧ (isKem a = true → d.seedLen s a len = 64) ∧
    (isMldsa a = true → d.seedLen s a len = 32)

/-- Random bytes and the keys that operations make from seeds (05:Table 5.12, R135, 06:R160). -/
def Obligations.RandomAndNewKeys : Prop := Claims.RandomAndKeys ∧ Claims.SeedsBecomeKeys

/-- The hybrid operations: both signatures over "UJHYBSG1", suite, context and the SHA-512 of the message; a verification
names the parts that failed; an exchange combines both secrets by HKDF (05:R137, R138). -/
def Obligations.HybridOperations : Prop :=
  ∀ (s : State) (r b : Nat) (j : JobRec) (inp aux : List Byte),
    let w := workOf s.dev j inp aux
    let x := j.job.desc
    let suite := x.p 0 4
    let c := field inp 0 1
    let ctx := slice inp 1 c
    let rest := inp.drop (1 + c)
    let fits := inp ≠ [] ∧ 1 + c ≤ inp.length
    let alg := (signSuite suite).1
    let dsa := (signSuite suite).2
    let signed := fun (m : List Byte) =>
      ascii "UJHYBSG1" ++ [BitVec.ofNat 8 suite, BitVec.ofNat 8 c] ++ ctx ++ digest 3 m
    let vary : List Byte := [if alg = 0x201 then 1 else if alg = 0x202 then 2 else 0, 0]
    let first := if alg = 0x201 then 64 else if alg = 0x202 then 96 else sigLen alg
    let nums := s.dev.params j.job.seam alg
    (∀ a k, j.job.keyA = some a → j.job.keyB = some k → EngineReady s.dev r b 0x0A01 j inp aux →
      if fits then gives (.hybridSign r b) s r j inp aux fun ns =>
        finished (slice (Config.sign dsa [] k.priv [0, 0] (signed rest) (drawn s.dev 32 32)) 0 (sigLen dsa) ++
          slice (Config.sign alg nums a.priv vary (signed rest) (drawn s.dev 0 32)) 0 first) 0 ns none
      else givesIn (.hybridSign r b) s r j inp aux (fails 0x0103 0x0202 0)) ∧
    (EngineReady s.dev r b 0x0A02 j inp aux →
      let m := rest.drop (sigLen dsa + first)
      let cut := aux.length - s.dev.pubLen j.job.seam dsa 0
      let keys := match j.job.keyA, j.job.keyB with
        | some a, some k => (a.pub, k.pub)
        | _, _ => (aux.take cut, aux.drop cut)
      let flaws := if isEd alg then edFaults alg keys.1
        else if j.job.keyA.isSome then [] else w.pointFaults alg keys.1 0 true
      let one := Config.verify alg nums keys.1 vary (signed m) (slice rest (sigLen dsa) first)
      let two := Config.verify dsa [] keys.2 [0, 0] (signed m) (slice rest 0 (sigLen dsa))
      if fits ∧ sigLen dsa + first ≤ rest.length then
        gives (.hybridVerify r b) s r j inp aux (checked flaws fun ns =>
          if one = true ∧ two = true then finished [] 0 ns none else fails 0x0001 (bit (!one) + 2 * bit (!two)) ns)
      else givesIn (.hybridVerify r b) s r j inp aux (fails 0x0103 0x0202 0)) ∧
    (∀ a k, (x.p 4 1 ≠ 0 → j.job.keyA = some a ∧ j.job.keyB = some k) → EngineReady s.dev r b 0x0A03 j inp aux →
      let curve := (kemSuite suite).1
      let kem := (kemSuite suite).2
      let t : W64 := BitVec.ofNat 64 (field aux 0 8)
      let send := x.p 4 1 = 0
      let cut := inp.length - if send then s.dev.pubLen j.job.seam kem 0 else ctLen kem
      let peer := inp.take cut
      let other := inp.drop cut
      let both := fun (z1 z2 eph ct : List Byte) =>
        hkdf 2 true [] (z1 ++ z2) (ascii "UJHYBKM1" ++ [BitVec.ofNat 8 suite] ++ eph ++ ct) 32
      let zero := fun (z : List Byte) => isX curve = true ∧ ∀ v ∈ z, v = 0
      let key := fun (z out : List Byte) (ns : Nat) => finished out 0 ns (some (s.dev.keyOf j.job.seam t z))
      gives (.hybridKem r b) s r j inp aux
        (checked (if isX curve then [] else w.pointFaults curve peer 0 false) fun ns =>
          if send then
            let d1 := s.dev.fromSeed j.job.seam curve (drawn s.dev 0 (s.dev.seedLen j.job.seam curve 0))
            let eph := s.dev.publicPart j.job.seam curve d1
            let e := Config.kemEncaps kem other (drawn s.dev 128 32)
            let z1 := w.agree curve d1 peer
            match kemBadBlock kem other with
            | some off => fails 0x0403 (peer.length + off) ns
            | none =>
              if zero z1 then fails 0x0406 0 ns
              else key (both z1 (slice e.2 0 32) eph (slice e.1 0 (ctLen kem))) (eph ++ slice e.1 0 (ctLen kem)) ns
          else
            let z1 := w.agree curve a.priv peer
            if zero z1 then fails 0x0406 0 ns
            else key (both z1 (slice (Config.kemDecaps kem k.priv other) 0 32) peer other) [] ns))

/-- The primitives of tenant programs: modular exponentiation to a key object, and of 2; the number-theoretic transform with its
time and the product of transformed polynomials, modulo the wired prime; samples (10:Table 10.9, 07:R162, R180). -/
def Sys2Proof.Claims.Primitives : Prop :=
  ∀ (s : State) (r b : Nat) (j : JobRec) (inp aux : List Byte),
    let x := j.job.desc
    let q := if x.p 1 1 = 0 then 3329 else 8380417
    let word := fun (at' i : Nat) => field inp (at' + 4 * i) 4 % q
    let poly := fun (f : Nat → Nat) => (List.range 256).flatMap fun i => leBytes 4 (f i)
    (∀ key, j.job.keyA = some key → EngineReady s.dev r b 0x0F10 j inp aux →
      let k := inp.length / 2
      let p := beNat (slice inp 0 k)
      let y := beNat (slice inp k k)
      gives (.modexp r b) s r j inp aux fun ns =>
        if p ≤ y then fails 0x0403 (k % 0x8000) ns else if y = 0 then fails 0x0401 (k % 0x8000) ns
        else if y = 1 ∨ y + 1 = p then fails 0x0402 (k % 0x8000) ns
        else finished [] 0 ns (some (s.dev.keyOf j.job.seam x.keyB (beBytes k (y ^ beNat key.priv % p))))) ∧
    (∀ key, j.job.keyA = some key → EngineReady s.dev r b 0x0F11 j inp aux →
      let p := beNat inp
      gives (.modexpG2 r b) s r j inp aux fun ns =>
        if p % 2 = 0 then fails 0x0403 0 ns else if p < 2 ^ (8 * (inp.length - 1)) then fails 0x0401 0 ns
        else finished (beBytes inp.length (2 ^ beNat key.priv % p)) 0 ns none) ∧
    (EngineReady s.dev r b 0x0F12 j inp aux →
      let c := (List.range 256).map (word 0)
      let out := if x.p 0 1 = 0 then nttForward q (nttRoot q).1 (nttRoot q).2 c else nttInverse q (nttRoot q).1 (nttRoot q).2 c
      givesIn (.ntt r b) s r j inp aux (finished (out.flatMap (leBytes 4)) 0 (if q = 3329 then 35 else 40) none)) ∧
    (EngineReady s.dev r b 0x0F13 j inp aux →
      gives (.polyMul r b) s r j inp aux fun ns =>
        finished (poly fun i =>
          if q = 3329 then
            let m := i / 2 * 2
            if i % 2 = 0 then (word 0 m * word 1024 m +
              word 0 (m + 1) * word 1024 (m + 1) % q * (17 ^ (2 * bitrev 7 (i / 2) + 1) % q)) % q
            else (word 0 m * word 1024 (m + 1) + word 0 (m + 1) * word 1024 m) % q
          else word 0 i * word 1024 i % q) 0 ns none) ∧
    (EngineReady s.dev r b 0x0F14 j inp aux →
      gives (.sample r b) s r j inp aux fun ns => finished (poly fun i => (Config.sampler (x.p 0 4) inp).getD i 0) 0 ns none)

/-- Each transform of the primitive NTT undoes the other on coefficients below the prime (07:R162). -/
def Sys2Proof.Claims.NttInverts : Prop :=
  ∀ (c : List Nat), c.length = 256 →
    ((∀ v ∈ c, v < 3329) → nttInverse 3329 17 7 (nttForward 3329 17 7 c) = c) ∧
    ((∀ v ∈ c, v < 8380417) → nttInverse 8380417 1753 8 (nttForward 8380417 1753 8 c) = c)

/-- The arithmetic primitives, and that the forward and inverse NTT undo each other (07:R162, 10:Table 10.9). -/
def Obligations.PrimitivesAndNtt : Prop := Claims.Primitives ∧ Claims.NttInverts

/-- What an engine's result leaves as: a key of AS_BLOB leaves as a blob behind the public part and makes no object; an output
above OUT_LEN is BAD_LENGTH with DETAIL 0x0203 and the length required; any other result stands (05:R123, R128, 08:R202). -/
def Obligations.EngineSealsOutput : Prop :=
  ∀ (w : Work) (res : Result),
    let keyed := ∃ k, res.key = some k ∧ tBlob k.template = true
    (¬keyed → w.x.outLen.toNat < res.out.length → w.seal res = short res.out.length) ∧
    (¬keyed → res.out.length ≤ w.x.outLen.toNat → w.seal res = res) ∧
    (∀ k bk bkid epoch next wrapped, res.key = some k → tBlob k.template = true →
      w.d.blobKey w.s = some (bk, bkid, epoch, next, wrapped) →
      let nonce := w.random 65536 12
      let body := if isRsa (tAlg k.template) then k.priv else k.priv ++ k.pub
      let head := ascii "UJKB" ++ [1, 0, 0, 0] ++ slice bkid 0 8 ++ leBytes 2 epoch.toNat ++ leBytes 2 w.x.op ++
        leBytes 4 body.length ++ leBytes 8 (tHeld k.template).toNat ++ [if w.x.op = 0x0802 then 0 else 1, 0, 0, 0] ++ nonce
      let blob := head ++ slice (Config.gcmEnc (bwk bk bkid epoch) nonce head body) 0 (body.length + 16)
      let out := res.out ++ blob
      blob.length = body.length + 64 ∧
      (out.length ≤ w.x.outLen.toNat → w.seal res =
        ⟨{ res.verdict with written := BitVec.ofNat 32 out.length }, out, res.ns, none⟩) ∧
      (w.x.outLen.toNat < out.length → w.seal res = short out.length))

/-! ## The journey of a descriptor -/

/-- The ring registers of a seam's portal page: a page that does not answer discards the write and counts it; one that answers
wakes its home ridge; a takeover holds the write, a FROZEN seam takes it into its snapshot; an index that breaks the rule is
event 40, and one that meets it moves the tail or the head, after which the ring is read where it may be. The write is stamped
with its cycle (01:R18, 04:R87, R96, 17:R370). -/
def Obligations.IndexWrites : Prop :=
  ∀ (s : State) (l : Lk) (m q size : Nat) (val : W64), (s.dev.link l).up = true → q < 4 →
    let d := s.dev.stampPortal
    let x := d.seam m
    let e := x.entry
    let v : BitVec 32 := val.setWidth 32
    let answers := m < 8192 ∧ d.boot.step = 10 ∧ d.live ≠ .zeroized ∧ e.state ≠ .free ∧ e.binds l = true ∧ d.pins.inVigil = false
    let whole := size = 4 ∨ size = 8
    let home := d.modRidge (d.homeOf m) fun y => if y.power = 0 ∧ y.inService = true then { y with power := 1 } else y
    let dropped := fun (d : Dev) => d.modLink l fun y => { y with portalDrops := satInc y.portalDrops }
    let sq := leaves (.sqTailWrite l m q size val) s
    let cq := leaves (.cqHeadWrite l m size val) s
    let inval := leaves (.prefetchInvalWrite l m size val) s
    let held := fun (w : Nat) => home.modRun m fun y => { y with heldPortal := y.heldPortal ++ [(w, v)] }
    let rule := fun (k : Queue) => (k.state = .running ∨ k.state = .faulted) ∧
      (k.tail - k.head).toNat ≤ (v - k.head).toNat ∧ (v - k.head).toNat ≤ 2 ^ k.log2
    let bad := fun (d : Dev) (code : Nat) => d.pkgEvent 40 code (some m)
    (¬answers → sq (dropped d) ∧ cq (dropped d) ∧ inval (dropped d)) ∧
    (answers → (¬whole → sq d ∧ cq d) ∧ (size ≠ 8 → inval d)) ∧
    (answers → x.run.takeover = true → (whole → sq (held q) ∧ cq (held 4)) ∧ (size = 8 → inval (held 5))) ∧
    (answers → x.run.takeover = false → e.state = .frozen → e.saved = true →
      (whole → sq (dropped home) ∧ cq (dropped home)) ∧ (size = 8 → inval (dropped home))) ∧
    (answers → x.run.takeover = false → e.state ≠ .frozen ∨ e.saved = false → size = 8 →
      inval ((List.range 4).foldl (fun d q => if val.getLsbD q then
        (d.modQueue m q fun k => { k with prefetch := [], reading := false }).fetch m q else d) home)) ∧
    (answers → x.run.takeover = false → e.state ≠ .frozen → whole →
      let k := x.queue q
      (k.state = .none → sq (bad home q)) ∧
      (rule k → sq ((home.modQueue m q fun k => k.moveTail v d.clock).fetch m q)) ∧
      (k.state ≠ .none → ¬rule k → sq (bad (home.modQueue m q fun k => { k with tailDrops := satInc k.tailDrops }) q)) ∧
      (x.run.cq = none → cq (bad home 4)) ∧
      (∀ c, x.run.cq = some c →
        ((v - c.head).toNat ≤ (c.write - c.head).toNat →
          cq ((home.modRun m fun y => { y with cq := some { c with head := v } }).fetchSeam m)) ∧
        ((c.write - c.head).toNat < (v - c.head).toNat → cq (bad home 4)))) ∧
    (answers → x.run.takeover = false → e.state = .frozen → e.saved = false → whole → ∀ n, x.run.snapshot = some n →
      let k := n.queues.getD q Queue.blank
      let put := fun (f : Queue → Queue) => home.modRun m fun y => { y with snapshot := some { n with queues := n.queues.modify q f } }
      (k.state = .none → sq (bad home q)) ∧
      (rule k → sq (put fun k => k.moveTail v d.clock)) ∧
      (k.state ≠ .none → ¬rule k → sq (bad (put fun k => { k with tailDrops := satInc k.tailDrops }) q)) ∧
      (∀ c, n.cq = some c → (v - c.head).toNat ≤ (c.write - c.head).toNat →
        cq (home.modRun m fun y => { y with snapshot := some { n with cq := some { c with head := v } } })))

/-- A ring read brings as many whole descriptors as it returned, as the ring holds, and as leave no more than eight prefetched;
each is checked as it enters, and needs no mirror copy where it is refused, a NOP, a FENCE, or its seam is unmirrored; the copy
of another crosses the spine; the mirror's acknowledgement of a descriptor marks it, that of a chain's element dispatches it,
and that of a grant moves the reported head (04:R91, R95, R106, 01:R19, R27, 14:R321). -/
def Obligations.DescriptorsEnter : Prop :=
  ∀ (s : State) (m q : Nat),
    let d := s.dev
    let k := (d.seam m).queue q
    (∀ bytes : List Byte, k.reading = true →
      let n := min (min (bytes.length / 64) (8 - k.prefetch.length)) ((k.tail - k.head).toNat - k.prefetch.length)
      ∃ fs : List Fetched, fs.length = n ∧
        (∀ i, i < n →
          let b := (bytes.drop (64 * i)).take 64
          let x := Desc.ofBytes b
          let at' := k.head + BitVec.ofNat 32 (k.prefetch.length + i)
          let bad := d.fetchChecks m false b 0
          fs[i]? = some ⟨at', x, bad, bad.isSome || x.op == 0 || x.op == 1 || d.homeOf m = d.mirrorOf m, k.arrivalOf at' d.clock⟩) ∧
        let copied := fs.foldl (fun d f => if f.mirrored then d else d.spineSend (d.homeOf m) (d.mirrorOf m)) d
        let t := (copied.modQueue m q fun k => { k with reading := false, prefetch := k.prefetch ++ fs }).fetch m q
        leaves (.descriptorFetch m q bytes) s t ∧ leaves (.dmaReadCompletion (.ring m q) (.data bytes)) s t) ∧
    (∀ i : BitVec 32, (∃ f ∈ k.prefetch, f.index = i ∧ f.mirrored = false) → leaves (.mirrorDescriptorAck m q i) s
      (d.modQueue m q fun k => { k with
        prefetch := k.prefetch.map fun f => if f.index = i then { f with mirrored := true } else f })) ∧
    (∀ (i : BitVec 32) (before : List JobRec) (j : JobRec) (after : List JobRec), (∀ f ∈ k.prefetch, f.index = i → f.mirrored = true) →
      let awaits := fun (j : JobRec) => j.job.seam = m ∧ j.job.queue = q ∧ j.job.index = i ∧ j.job.phase = .chainReady ∧ j.tail.prog = none
      d.jobs = before ++ j :: after → awaits j → (∀ y ∈ before, ¬awaits y) →
      leaves (.mirrorDescriptorAck m q i) s (d.dispatchElement j.num)) ∧
    leaves (.mirrorGrantAck m q) s
      (d.modQueue m q fun k => if k.reported = k.head then k else { k with reported := k.reported + 1 })

/-- Dispatcher `r`'s next grant falls on queue `q` of seam `m`, whose head is `f`: the seam alone is homed there and it is its
turn, with credit; the queue alone is ready and it is its turn, with credit; no job waits for an engine, and no read has failed
(04:R97, R98, 16:R357). -/
structure Sys2Proof.Claims.Turn (d : Machine.Dev) (r m q : Nat) (f : Machine.Fetched) : Prop where
  runs : d.fetching = true ∧ d.serves r = true ∧ (d.ridge r).power = 2
  jobs : ∀ j ∈ d.jobs, j.job.phase ≠ .needsEngine ∧ j.tail.waitFrom = none ∧ (∀ st, j.job.inp ≠ .failed st ∧ j.job.aux ≠ .failed st)
  alone : d.homeOf m = r ∧ d.homedOn r = [m]
  seam : d.seamReady m = true ∧ (d.ridge r).arb.cur.toNat = m
  credit : 0 < (d.seam m).run.credit ∧ (d.seam m).run.credit ≤ (d.seam m).entry.weight.toNat ∧ 0 < (d.seam m).run.bleft
  queue : q < 4 ∧ (d.seam m).run.cur = q ∧ d.queueReady m q = some f ∧ f.index = ((d.seam m).queue q).head
  others : ∀ k < 4, k ≠ q → d.queueReady m k = none
  share : 0 < ((d.seam m).queue q).credit ∧ 0 < ((d.seam m).queue q).bleft

/-- A dispatcher's decision: jobs and parts that wait for an engine come first, the queues passed over are counted and the first
asks for a sleeping ridge, then the round grants. A queue whose turn it is is granted, and seam and queue pay one credit: a NOP
or a FENCE is retired, another descriptor whose classes have free engines is dispatched. The circular order gives the next one
after the current (04:R94, R97, R98, R105, 01:R24, R404, R405, 05:R139, 16:R357). -/
def Obligations.Grants : Prop :=
  ∀ (s : State) (r m q : Nat),
    let d := s.dev
    (d.working = true → d.serves r = true → (d.ridge r).power = 2 →
      let w := d.placeWaiting r
      let passed := w.skipped r
      let c := w.modArb r fun a => { a with skips := satInc a.skips passed.length }
      let asked := match passed with
        | e :: _ => c.requestWake r (c.classes e.1 e.2.desc)
        | [] => c
      leaves (.grantDecision r) s (if w.fetching then asked.decideGrant r else w).endFailed) ∧
    (¬(d.working = true ∧ d.serves r = true ∧ (d.ridge r).power = 2) → leaves (.grantDecision r) s d.endFailed) ∧
    (∀ f, Turn d r m q f →
      let paid := (d.modArb r fun a => { a with eligible := 1 }).modRun m fun x => { x with
        credit := x.credit - 1, bleft := x.bleft - 1
        queues := x.queues.modify q fun k => { k with credit := k.credit - 1, bleft := k.bleft - 1 } }
      let t := (paid.grant r m q).endFailed
      (f.bad = none → f.desc.op = 0 → leaves (.nop m q) s t ∧ leaves (.grantDecision r) s t) ∧
      (f.bad = none → f.desc.op = 1 → leaves (.fence m q) s t ∧ leaves (.grantDecision r) s t) ∧
      (d.retires m f = true ∨ (d.engineFor m f = true ∧ d.drillsWait = false) → leaves (.grantDecision r) s t)) ∧
    (∀ f rest, ((d.seam m).queue q).prefetch = f :: rest →
      let c := (d.modQueue m q fun k => { k with
        prefetch := rest, head := k.head + 1
        reported := if d.homeOf m = d.mirrorOf m then k.reported + 1 else k.reported }).modArb r
          fun a => { a with grants := a.grants + 1 }
      let retired := fun (v : Verdict) => ((c.modArb r fun a => { a with retired := a.retired + 1 }).retire m q f v).fetchSeam m
      (∀ v, f.bad = some v → d.grant r m q = retired v) ∧
      (f.bad = none → f.desc.op ≤ 1 → d.grant r m q = retired ⟨0x0000, 0, 0⟩) ∧
      (∀ v, f.bad = none → 1 < f.desc.op → c.stage2 m f.desc 0 none = .error v → d.grant r m q = retired v) ∧
      (∀ p, f.bad = none → 1 < f.desc.op → c.stage2 m f.desc 0 none = .ok p →
        d.grant r m q = if isDeep f.desc.op = true ∧ (d.ridge (d.homeOf m)).world.restarting = true then retired ⟨0x0706, 0, 0⟩
          else (c.dispatch m q f p).fetchSeam m)) ∧
    (∀ (cur n : Nat) (ns : List Nat) (p : Nat → Bool), ns.Pairwise (· < ·) → nextAfter cur ns p = some n →
      n ∈ ns ∧ p n = true ∧ ∀ x ∈ ns, p x = true → (cur < x → cur < n ∧ n ≤ x) ∧ (x ≤ cur → cur < n ∨ n ≤ x))

/-- The answers to a job's reads: data arrives at the length asked for, crosses the spine to the job's ridge and stands in its
engine's operand RAM; the template of HYBRID_KEM is judged when AUX arrives (log 42); a chain's next element is checked and
mirrored; an answer without data, or none in time, is counted on its link and ends the job with its status and buffer; an answer
to nothing is an unexpected completion, event 36; a ring read that fails faults its queue; the oldest unacknowledged write
leaves its link (01:R26, R27, 03:R60, 04:R106, R108, R109, 14:R329, R331). -/
def Obligations.ReadsAndWrites : Prop :=
  ∀ (s : State),
    let d := s.dev
    let counted := fun (l : Option Lk) (a : ReadAnswer) =>
      match l, a with
      | none, _ => d
      | some l, .poisoned => (d.modLink l fun x => { x with poisoned := satInc x.poisoned }).raise (some (lkRidge l)) 36 0
          (BitVec.ofNat 32 (lkBit l + 12 * 256 + 65536))
      | some l, _ => d.modLink l fun x => { x with readFaults := satInc x.readFaults }
    let hop := fun (j : JobRec) => match d.dmaLink j.job.seam with
      | some l => d.spineSend (lkRidge l) j.job.ridge
      | none => d
    let brought := fun (d : Dev) (j : JobRec) (inp aux : List Byte) =>
      if j.job.phase = .engine then
        let put := fun (o : OpRam) => { o with inp := inp, aux := aux }
        d.modEngine j.job.ridge j.job.blk fun e => { e with
          ram := if e.running = some j.num then put e.ram else e.ram
          slotRam := if e.slot = some j.num then put e.slotRam else e.slotRam
          buffer := if e.running ≠ some j.num then e.buffer
            else if j.job.desc.opcode = 0x0602 ∧ classOf j.job.blk = .aes then inp.drop (16 + field inp 0 4) else [] }
      else d
    let late := fun (d : Dev) (l : Option Lk) => match l with
      | none => d
      | some l => d.modLink l fun x => { x with cplTimeouts := satInc x.cplTimeouts }
    (∀ n j, d.job? n = some j →
      let l := d.dmaLink j.job.seam
      let ends := fun (d : Dev) (st : BitVec 16) (code : BitVec 32) => (d.rollback j).finish n ⟨st, code, j.tail.written⟩ true
      let limit := d.reach (j.tail.granted + d.cplTimeout.toNat * 50000)
      (∀ bytes, j.job.inp = .waiting →
        let inp := slice bytes 0 j.job.desc.inLen.toNat
        leaves (.dmaReadCompletion (.jobIn n) (.data bytes)) s
          (brought ((hop j).modJob n fun y => { y with job := { y.job with inp := .got inp } }) j inp (j.job.aux.bytes?.getD []))) ∧
      (∀ bytes, j.job.aux = .waiting →
        let aux := slice bytes 0 j.job.desc.auxLen.toNat
        let t := brought ((hop j).modJob n fun y => { y with job := { y.job with aux := .got aux } }) j (j.job.inp.bytes?.getD []) aux
        let judged := t.stage2Late j.job.seam j.job.desc (BitVec.ofNat 64 (field aux 0 8)) j.job.keyA j.job.keyB 0
        (j.job.desc.op ≠ 0x0A03 → leaves (.dmaReadCompletion (.jobAux n) (.data bytes)) s t) ∧
        (∀ v, j.job.desc.op = 0x0A03 → judged = .error v → ∀ k, t.job? n = some k →
          leaves (.dmaReadCompletion (.jobAux n) (.data bytes)) s ((t.rollback k).finish n ⟨v.status, v.detail, j.tail.written⟩ true)) ∧
        (∀ creates room, j.job.desc.op = 0x0A03 → judged = .ok (creates, room) →
          leaves (.dmaReadCompletion (.jobAux n) (.data bytes)) s (t.reserve n j.job.seam creates room))) ∧
      (∀ bytes, j.job.phase = .chainRead →
        let b := slice bytes 0 64
        let x := Desc.ofBytes b
        let m := j.job.seam
        let reached := d.modJob n fun y => { y with job := { y.job with desc := x, phase := .chainReady, keyA := none, keyB := none } }
        leaves (.dmaReadCompletion (.chain n) (.data bytes)) s (d.element n b) ∧
        leaves (.chainElementFetch n (.data bytes)) s (d.element n b) ∧
        (∀ v, d.elementChecks m b j.job.elem = some v → d.element n b = d.finish n (j.unrun v) true) ∧
        (d.elementChecks m b j.job.elem = none → x.chain = true → 63 ≤ j.job.elem →
          d.element n b = d.finish n ⟨0x0104, 0, j.tail.written⟩ true) ∧
        (d.elementChecks m b j.job.elem = none → x.chain = false ∨ j.job.elem < 63 →
          (x.op = 0 → d.element n b = reached.elementEnd n ⟨0x0000, 0, 0⟩) ∧
          (x.op ≠ 0 → d.homeOf m = d.mirrorOf m → d.element n b = reached.dispatchElement n) ∧
          (x.op ≠ 0 → d.homeOf m ≠ d.mirrorOf m → d.element n b = reached.spineSend (d.homeOf m) (d.mirrorOf m)))) ∧
      (∀ a, (∀ b, a ≠ .data b) →
        (j.job.inp = .waiting → leaves (.dmaReadCompletion (.jobIn n) a) s (ends (counted l a) 0x0201 0x21)) ∧
        (j.job.aux = .waiting → leaves (.dmaReadCompletion (.jobAux n) a) s (ends (counted l a) 0x0201 0x23)) ∧
        (j.job.phase = .chainRead → leaves (.chainElementFetch n a) s (ends (counted l a) 0x0201 0x24))) ∧
      (j.job.inp = .waiting → leaves (.dmaReadTimeout (.jobIn n)) s (ends (late limit l) 0x0202 0x21)) ∧
      (j.job.aux = .waiting → leaves (.dmaReadTimeout (.jobAux n)) s (ends (late limit l) 0x0202 0x23)) ∧
      (j.job.phase = .chainRead → leaves (.dmaReadTimeout (.chain n)) s (ends (late d l) 0x0202 0x24))) ∧
    (∀ m q, ((d.seam m).queue q).reading = true →
      (∀ a, (∀ b, a ≠ .data b) →
        leaves (.dmaReadCompletion (.ring m q) a) s ((counted (d.dmaLink m) a).queueFault m q)) ∧
      leaves (.dmaReadTimeout (.ring m q)) s ((late d (d.dmaLink m)).queueFault m q)) ∧
    (∀ t a l, d.outstanding t = false → d.readLink t = some l →
      leaves (.dmaReadCompletion t a) s (d.raise (some (lkRidge l)) 36 0 (BitVec.ofNat 32 (lkBit l + 16 * 256 + 65536)))) ∧
    (∀ l w rest, (d.link l).unacked = w :: rest → (∀ c, w.kind ≠ .mqCompletion c) →
      leaves (.writeDllAck l) s (d.modLink l fun x => { x with unacked := rest })) ∧
    (∀ l w rest c, (d.link l).unacked = w :: rest → w.kind = .mqCompletion c →
      leaves (.writeDllAck l) s ((d.modLink l fun x => { x with unacked := rest }).modMq
        fun y => { y with sent := y.sent.eraseP fun m => m.index.toNat == c }))

/-- The parts of a job on engines of other classes: a part that finds an idle engine of its ridge in an ungated cluster runs
there and leaves it wiped; one that finds none waits, since the moment it began to (01:R404; log 36). -/
def Sys2Proof.Claims.PartsInTurn : Prop :=
  ∀ (d : Dev) (j : JobRec) (c : EClass), d.job? j.num = some j → (∀ y ∈ d.jobs, y.num = j.num → y = j) → j.job.parts = [] →
    (j.job.classes.drop 1)[j.tail.partsDone.length]? = some c →
    (d.pickEngine j.job.ridge c = none → partsRun d j = d.modJob j.num fun y => { y with tail := { y.tail with
      waitFrom := some (y.tail.waitFrom.getD d.clock) } }) ∧
    (∀ b, d.pickEngine j.job.ridge c = some b → ((d.ridge j.job.ridge).engine b).running = none →
      ((d.ridge j.job.ridge).engine b).slot = none → (d.ridge j.job.ridge).gated.getLsbD (clusterOf b) = false → b ≠ j.job.blk →
      j.job.ridge < d.ridges.length → b < (d.ridge j.job.ridge).engines.length →
      (j.job.classes.drop 1).length = j.tail.partsDone.length + 1 →
      let t := partsRun d j
      ((t.ridge j.job.ridge).engine b).running = none ∧ ((t.ridge j.job.ridge).engine b).ram = OpRam.zero ∧
      ∃ k, t.job? j.num = some k ∧ k.tail.partsDone = j.tail.partsDone ++ [b] ∧ k.job.parts = [] ∧ k.tail.waitFrom = none ∧
        j.tail.ns ≤ k.tail.ns)

/-- The end of an engine's work, with what samplers delayed it: a wipe that fails removes the engine with cause 1; a key is
prepared, what is not yet written of the output is, and the element ends; a failed result check raises the fault-injection
source, and runs the job once more before it removes the engine; an engine that leaves service is wiped and gives its jobs to
others (01:R29, R30, R404, R405, 06:R145, R154, 07:R163, R168, R177, 08:R194). -/
def Sys2Proof.Claims.EngineEnds : Prop :=
  ∀ (s : State) (r b : Nat),
    let d := s.dev
    let e := (d.ridge r).engine b
    (∀ j out, e.running = some j.num → d.job? j.num = some j → e.ram.out = some out → j.job.phase = .engine →
      j.job.ridge = r → j.job.blk = b →
      let n := j.num
      let m := j.job.seam
      let res := { out with ns := out.ns + engNs (26 * e.perms) }
      let t := d.reach (j.tail.started + res.ns)
      let ended := fun (d : Dev) => d.modJob n fun y => { y with
        job := { y.job with result := some res }, tail := { y.tail with ns := y.tail.ns + res.ns } }
      let rest := res.out.drop j.tail.streamed
      let u := t.injection r (BitVec.ofNat 16 b)
      (∀ wiped, leaves (.jobEnd r b true wiped) s ((if wiped then t else t.removeEngine r b 1).endWork n res)) ∧
      (∀ k, res.key = some k → t.endWork n res = (ended t).prepare n k) ∧
      (res.key = none → rest = [] → t.endWork n res = ((ended t).rollback j).elementEnd n res.verdict) ∧
      (res.key = none → rest ≠ [] → j.tail.prog = none → j.tail.discarded = false → (d.seam m).entry.state ≠ .faulted →
        (∀ l, d.jobLink m j.tail.link = some l →
          ((d.link l).pasidEn = true → t.endWork n res =
            ((((((ended t).spineSend r (lkRidge l)).send l ⟨.output n, some (d.seam m).entry.pasid,
                j.job.desc.outAddr + BitVec.ofNat 64 j.tail.streamed, rest⟩).modJob n
              fun y => { y with tail := { y.tail with link := some (y.tail.link.getD l) } }).rollback j).elementEnd n res.verdict)) ∧
          ((d.link l).pasidEn = false → t.endWork n res = ((ended t).rollback j).finish n ⟨0x0204, 0x22, 0⟩ true)) ∧
        (d.jobLink m j.tail.link = none → t.endWork n res = ((ended t).rollback j).finish n ⟨0x0203, 0x22, 0⟩ true)) ∧
      (∀ wiped, u.job? n = none → leaves (.jobEnd r b false wiped) s u) ∧
      (∀ wiped k, u.job? n = some k → k.tail.reran = true →
        leaves (.jobEnd r b false wiped) s ((u.removeEngine r b 3).abortJob n 0x0702 false)) ∧
      (∀ wiped k, u.job? n = some k → k.tail.reran = false →
        leaves (.jobEnd r b false wiped) s (((u.ridgeEvent r 18 b).modEngine r k.job.blk fun e => { e with
          ram := { e.ram with blind := none, out := none } }).modJob n fun y => { y with tail := { y.tail with
            reran := true, started := u.clock, partsDone := [], streamed := 0, ns := y.tail.ns + res.ns } }))) ∧
    (∀ cause, d.serves r = true → e.inService = true → 1 ≤ cause → cause ≤ 4 → b < 30 →
      let bare := d.modRidge r fun x => (pairedCores b).foldl (fun x c => x.modEng c fun e => { e with bank := none })
        (x.modEng b fun e => { e with
          inService := false, slot := none, readback := cause == 1
          ram := .zero, slotRam := .zero, buffer := [], bank := none, perms := 0 })
      let gone := bare.ridgeEvent r 16 (b + cause * 256)
      (e.slot = none → d.removeEngine r b cause = gone) ∧
      (e.running = none → leaves (.engineFaultRemoval r b cause) s (d.removeEngine r b cause)) ∧
      (∀ j, e.slot = none → e.running = some j.num → gone.job? j.num = some j → j.job.blk = b → j.job.phase = .engine →
        leaves (.engineFaultRemoval r b cause) s
          ((((((gone.modEngine r b fun e => { e with running := none, perms := 0 }).modJob j.num fun y => { y with
              job := { y.job with parts := y.job.parts.filter (· != b) } }).releaseAll j).modJob j.num
            fun y => { y with job := { y.job with result := none, parts := [] } })).rePlace j.num)))

/-- Parts of a job, and the end of an engine's work (01:R29, R30, R404, R405, 06:R145, R154, 07:R163, R168, R177, 08:R194). -/
def Obligations.EnginesEnd : Prop := Claims.PartsInTurn ∧ Claims.EngineEnds

/-- The two-phase commit of a new key: the mirror's copy of the prepared entry stands, and the reservation ends; with GEN
unchanged, the seam not FAULTED and a bound link up, the home ridge commits and sends the public part, else both copies go and
the job ends with WRITE_FAULT; once the mirror's copy is committed, the completion carries the handle (08:R194). -/
def Obligations.KeyCommits : Prop :=
  ∀ (s : State) (j : JobRec) (i : Nat) (res : Result), s.dev.job? j.num = some j → j.tail.slot = some i →
    j.job.result = some res →
    let d := s.dev
    let n := j.num
    let m := j.job.seam
    let home := d.homeOf m
    let mine := Entry.isKey m i
    let copied := ((d.ridge home).store.filter mine).foldl (fun d e => d.addEntry ((d.holders m).filter (· != home)) e)
      (d.modJob n fun y => { y with tail := { y.tail with room := 0 } })
    let rest := res.out.drop j.tail.streamed
    let may := j.tail.discarded = false ∧ (d.seam m).entry.state ≠ .faulted ∧ d.linkUpFor m = true
    let commit := fun (e : Entry) => if mine e = true then { e with state := .committed } else e
    let both := (d.modRidges fun x => { x with store := x.store.map commit })
    let use := ((both.keyEntry m i).map (·.use)).getD 0
    let h := both.handle m false i use
    (j.job.phase = .prepared → ¬may →
      leaves (.mirrorPreparedAck n) s ((copied.rollback j).finish n ⟨0x0203, 0x22, 0⟩ true)) ∧
    (j.job.phase = .prepared → may → rest = [] →
      leaves (.mirrorPreparedAck n) s ((copied.modRidge home fun x => { x with store := x.store.map commit }).modJob n
        fun y => { y with job := { y.job with phase := .committed } })) ∧
    (j.job.phase = .prepared → may → j.tail.prog = none →
      ∀ l, d.jobLink m j.tail.link = some l → (d.link l).pasidEn = true → rest ≠ [] →
      leaves (.mirrorPreparedAck n) s
        ((((((copied.modRidge home fun x => { x with store := x.store.map commit }).modJob n
            fun y => { y with job := { y.job with phase := .committed } }).spineSend j.job.ridge (lkRidge l)).send l
          ⟨.output n, some (d.seam m).entry.pasid, j.job.desc.outAddr + BitVec.ofNat 64 j.tail.streamed, rest⟩).modJob n
            fun y => { y with tail := { y.tail with link := some (y.tail.link.getD l) } }))) ∧
    (j.job.phase = .committed →
      leaves (.mirrorCommitAck n) s ((both.modJob n fun y => { y with tail := { y.tail with
        slot := none, created := y.tail.created ++ [i], handle := h, prev := some h } }).elementEnd n res.verdict))

/-! ## Deep services and tenant programs -/

namespace Sys2Proof.Claims

open Machine

/-- Keade of ridge `r` runs Deep service `j`, of opcode `op`, on the bytes `inp` and `aux`, and what it draws can be drawn
(05:R400). -/
structure ServiceReady (d : Dev) (r op : Nat) (j : JobRec) (inp aux : List Byte) : Prop where
  held : d.job? j.num = some j
  phase : j.job.phase = .deepRun
  ridge : j.job.ridge = r
  opcode : j.job.desc.op = op
  runs : d.keadeRuns r = true
  input : j.job.inp.bytes? = some inp
  second : j.job.aux.bytes? = some aux
  draws : d.drawable r j.job.desc.draws = true

/-- The device once the service has drawn: one draw taken, one generate request of the instance that it draws from. -/
def drew (d : Dev) (r : Nat) (dr : Draws) : Dev :=
  let d := { d with draws := d.draws + 1 }
  match dr with
  | .no => d
  | .internal => d.generate r false 1
  | .host => d.generate r true 1

/-- What the service works on. -/
def serviceOf (s : State) (r : Nat) (dr : Draws) (j : JobRec) (inp aux : List Byte) : Work :=
  ⟨drew s.dev r dr, j.job.seam, j.job.desc, j.job.keyA, j.job.keyB, inp, aux, s.dev.draws⟩

/-- The service changes the device by `change`, and ends with a result whose time this statement leaves open: Keade forgets
it and its claims end, then its output and completion follow; a refusal of its input makes no generate request (05:R117, R400). -/
def answers (i : Instr) (s : State) (r : Nat) (j : JobRec) (inp aux : List Byte) (change : Dev → Dev)
    (res : Nat → Result) : Prop :=
  ∃ ns,
    let dr := if (res ns).turnedDown = true then .no else j.job.desc.draws
    let res := (serviceOf s r dr j inp aux).seal (res ns)
    leaves i s (((((change (drew s.dev r dr)).reach (j.tail.started + res.ns)).freeService r j.num).modJob j.num fun y =>
      { y with tail := { y.tail with draining := none } }).endWork j.num res)

end Sys2Proof.Claims

/-- Keade takes up Deep services in grant order, four at once, and claims of the blocks asked for the idle engines that it may
take: in service, ungated, not under test, claimed by no other; of the cores in Surface without a program so many as leave one
unborrowed (05:R400, 11:R258, R275). -/
def Obligations.ServicesStart : Prop :=
  ∀ (s : State) (r : Nat) (blocks : BitVec 33) (n : Nat) (rest : List Nat),
    let d := s.dev
    let y := d.ridge r
    let w := y.world
    let idle := fun (b : Nat) => b < 33 ∧ blocks.getLsbD b = true ∧ w.claim.getLsbD b = false ∧ (y.engine b).inService = true ∧
      (y.engine b).testing = false ∧ y.gateOn.getLsbD b = false ∧ (y.engine b).running = none ∧ (y.engine b).slot = none ∧
      (30 ≤ b → y.coreFree (b - 29) = true)
    let kept := fun (c : Nat) => (d.core r (c + 1)).borrowed = false
    w.waiting = n :: rest → d.keadeRuns r = true → w.deepUp = true → w.running.length < 4 →
    ∃ (bs : List Nat) (m : BitVec 33),
      (∀ b ∈ bs, idle b) ∧ (∀ b, b < 30 → idle b → b ∈ bs) ∧ bs.Nodup ∧
      ((∃ c < 3, kept c) → ∃ c < 3, kept c ∧ c + 30 ∉ bs) ∧
      (∀ b, 30 ≤ b → idle b → b ∉ bs → ∀ c < 3, kept c → c + 30 ∉ bs → ∀ e < 3, kept e → e + 30 ∉ bs → e = c) ∧
      (∀ b, m.getLsbD b = true ↔ b ∈ bs) ∧
      leaves (.deepServiceStart r blocks) s
        ((bs.foldl (fun d b => d.claim r b)
          (d.modWorld r fun w => { w with waiting := rest, running := w.running ++ [(n, m)] })).modJob n fun y =>
            { y with job := { y.job with phase := .deepRun }, tail := { y.tail with started := d.clock } })

/-- CURVE_LOAD: a block of another length or form is refused, then the first failing check of Table 6.4 names itself; a curve
that the seam has, or that has a name, answers its ALG; another takes the lowest free slot of sixteen, and its sealed entry the
room that stage 2 reserved (05:R131, 06:R148, 08:R184, R187). -/
def Obligations.CurvesLoad : Prop :=
  ∀ (s : State) (r : Nat) (j : JobRec) (inp aux : List Byte), ServiceReady s.dev r 0x0210 j inp aux →
    let c := Curve.ofBytes inp
    let m := j.job.seam
    let d := drew s.dev r .internal
    let cs := s.dev.curves m
    let ends := answers (.curveLoad r j.num) s r j inp aux
    let alg := fun (a ns : Nat) => finished (leBytes 2 a) 0 ns none
    let formed := 8 ≤ c.len ∧ c.len ≤ 80 ∧ inp.length = 4 + 6 * c.len
    let fields := field inp 2 2 = 0 ∧ 1 ≤ c.cofactor ∧ c.cofactor ≤ 8
    let unnamed := ∀ i < 7, namedCurve (0x201 + i) ≠ c.nums
    let fresh := ∀ e ∈ cs, e.2.nums ≠ c.nums
    let entry := fun (i : Nat) => d.keadeEntry 2 (some m) (i + 1) j.job.desc.opcode (.curve c)
    (¬formed → ends id fun _ => fails 0x0103 0x0202 0) ∧
    (formed → ¬fields → ends id fun _ => fails 0x0101 0x0401 0) ∧
    (∀ code, formed → fields → c.reject = some code → ends id fun ns => fails 0x0405 code ns) ∧
    (∀ i x, formed → fields → c.reject = none → cs.find? (fun e => e.2.nums == c.nums) = some (i, x) →
      ends id (alg (0x2C0 + i))) ∧
    (∀ i, formed → fields → c.reject = none → fresh → i < 7 → namedCurve (0x201 + i) = c.nums →
      (∀ k < i, namedCurve (0x201 + k) ≠ c.nums) → ends id (alg (0x201 + i))) ∧
    (formed → fields → c.reject = none → fresh → unnamed → (∀ i < 16, ∃ e ∈ cs, e.1 = i) →
      ends id fun ns => fails 0x0303 0x0303 ns) ∧
    (∀ i, formed → fields → c.reject = none → fresh → unnamed → i < 16 → (∀ e ∈ cs, e.1 ≠ i) →
      (∀ k < i, ∃ e ∈ cs, e.1 = k) →
      ends (fun d => ((d.modJob j.num fun y => { y with tail := { y.tail with room := 0 } }).drawNonce (some m)).addEntry
        (d.holders m) (entry i)) (alg (0x2C0 + i)))

/-- Wrapped keys: an export wraps the template and the private encoding under KEY_B, or under a key that an envelope's secret
gives; an import that does not authenticate is 0x0106, whose ALG is not KEY_B's 0x0102, whose merged template is invalid 0x0104,
and another makes the key of the merged template (05:R133, R134, R399). -/
def Obligations.WrappedKeys : Prop :=
  ∀ (s : State) (r : Nat) (j : JobRec) (inp aux : List Byte) (a : KeyMat), j.job.keyA = some a →
    let x := j.job.desc
    let m := j.job.seam
    let envelope := x.p 0 1 = 1
    let key := fun (z ct : List Byte) => hkdf 2 true [] z (ascii "UJWRAP1" ++ ct) 32
    (∀ b, j.job.keyB = some b → ServiceReady s.dev r 0x0803 j inp aux →
      let p := leBytes 8 (tHeld a.template).toNat ++ a.priv
      let n := 8 * ((p.length + 7) / 8) + 8
      let e := Config.kemEncaps (tAlg b.template) b.pub (drawn s.dev 0 32)
      let ct := slice e.1 0 (ctLen (tAlg b.template))
      answers (.keyExportWrapped r j.num) s r j inp aux id fun ns =>
        finished (if x.p 0 1 = 0 then slice (Config.kwp b.priv p) 0 n
          else ct ++ slice (Config.kwp (key (slice e.2 0 32) ct) p) 0 n) 0 ns none) ∧
    (ServiceReady s.dev r 0x0802 j inp aux →
      let n := ctLen (tAlg a.template)
      let ct := slice inp 0 n
      let z := slice (Config.kemDecaps (tAlg a.template) a.priv ct) 0 32
      let opened := if envelope then Config.kwpOpen (key z ct) (inp.drop n) else Config.kwpOpen a.priv inp
      let ends := answers (.keyImportWrapped r j.num) s r j inp aux id
      (opened = none → ends fun ns => fails 0x0302 0x0106 ns) ∧
      (∀ p, opened = some p →
        let inner : W64 := BitVec.ofNat 64 (field p 0 8)
        let t := mergeTemplate inner x.keyB
        let priv := p.drop 8
        (p.length < 8 ∨ tAlg inner ≠ tAlg x.keyB → ends fun ns => fails 0x0302 0x0102 ns) ∧
        (8 ≤ p.length → tAlg inner = tAlg x.keyB → templateOk t false = false → ends fun ns => fails 0x0302 0x0104 ns) ∧
        (8 ≤ p.length → tAlg inner = tAlg x.keyB → templateOk t false = true → s.dev.encodingOk m t priv = false →
          ends fun ns => fails 0x0302 0x0102 ns) ∧
        (8 ≤ p.length → tAlg inner = tAlg x.keyB → templateOk t false = true → s.dev.encodingOk m t priv = true →
          let k := s.dev.keyOf m t priv
          ends fun ns => finished k.pub 0 ns (some k)))) ∧
    (∀ inner outer : W64,
      let t := mergeTemplate inner outer
      tAlg t = tAlg outer ∧ tUsage t = Nat.land (tUsage inner) (tUsage outer) ∧ tLen t = tLen outer ∧
      tSingle t = tSingle outer ∧ tBlob t = tBlob outer ∧
      tExportable t = (tExportable inner && tExportable outer) ∧ tNever t = (tNever inner || tNever outer))

/-- The other Deep services: KEY_DESTROY of a key that left at its grant, and of a curve, refused while a key uses it;
attestation records of forms 0 and 1; a blob that opens enters the key cache under the next load number, and its handle is the
job's (05:R124, R131, R136, 08:R203, R206, R210). -/
def Obligations.OtherServices : Prop :=
  ∀ (s : State) (r : Nat) (j : JobRec) (inp aux : List Byte),
    let x := j.job.desc
    let m := j.job.seam
    let slot := x.param.toNat - 0x2C0
    (ServiceReady s.dev r 0x0804 j inp aux →
      let ends := answers (.keyDestroy r j.num) s r j inp aux
      (x.param = 0 → ends id fun ns => finished [] 0 ns none) ∧
      (x.param ≠ 0 → s.dev.curve m slot = none → ends id fun ns => fails 0x0302 0x0102 ns) ∧
      (x.param ≠ 0 → s.dev.curve m slot ≠ none → s.dev.curveUsed m x.param.toNat = true →
        ends id fun ns => fails 0x0302 0x0107 ns) ∧
      (x.param ≠ 0 → s.dev.curve m slot ≠ none → s.dev.curveUsed m x.param.toNat = false →
        ends (fun d => d.modRidges fun y => { y with store := y.store.filter fun e =>
            !(e.kind == 2 && e.owner == some m && e.index == slot + 1) })
          fun ns => finished [] 0 ns none)) ∧
    (ServiceReady s.dev r 0x0805 j inp aux →
      let w := serviceOf s r .internal j inp aux
      (∀ k, x.p 0 2 = 0 → j.job.keyA = some k →
        answers (.keyAttestProvenance r j.num) s r j inp aux id fun ns =>
          finished (w.d.record 0 s.dev.draws (w.d.commonItems inp ++ w.d.keyItems m k)) 0 ns none) ∧
      (x.p 0 2 = 1 →
        answers (.keyAttestIdentity false r j.num) s r j inp aux id fun ns =>
          finished (w.d.record 1 s.dev.draws (w.d.commonItems inp)) 0 ns none)) ∧
    (ServiceReady s.dev r 0x0806 j inp aux →
      let d := drew s.dev r .no
      let ends := answers (.keyLoadBlob r j.num) s r j inp aux
      let body := field inp 20 4
      let t : W64 := BitVec.ofNat 64 (field inp 24 8)
      let a := tAlg t
      (inp.length ≠ 64 + body → ends id fun _ => fails 0x0103 0x0202 0) ∧
      (inp.length = 64 + body → d.openBlob m inp = none → ends id fun ns => fails 0x0302 0x0106 ns) ∧
      (inp.length = 64 + body → d.openBlob m inp ≠ none → isLoadedCurve a = true → d.curve m (a - 0x2C0) = none →
        ends id fun ns => fails 0x0302 0x0102 ns) ∧
      (∀ text bk bkid epoch next wrapped, inp.length = 64 + body → d.openBlob m inp = some text →
        ¬(isLoadedCurve a = true ∧ d.curve m (a - 0x2C0) = none) →
        d.blobKey m = some (bk, bkid, epoch, next, wrapped) →
        let n := if isRsa a then text.length else text.length - d.pubLen m a 0
        let priv := text.take n
        let pub := if isRsa a then d.publicPart m a priv else text.drop n
        let k : KeyMat := ⟨t, BitVec.ofNat 16 (field inp 18 2), (field inp 32 1) % 2 == 1, true, d.clock, priv, pub⟩
        (d.loadCache m next k = none → ends id fun ns => fails 0x0303 0x0302 ns) ∧
        (∀ e, d.loadCache m next k = some e →
          ends (fun _ => (e.nextLoad m).modJob j.num fun y =>
              { y with tail := { y.tail with handle := e.handle m true next 0 } })
            fun ns => finished [] 0 ns none)))

/-- RUN_PROGRAM: an image of the cache starts on its digest alone; of another a form, a signer, a signature or a segment that
fails ends the job with the check's code, and it enters the cache, or has its place in the job area. A staging window that is
too small ends the job, as does a segment that does not fit and a job area below the waterline; else the program starts in a
fresh job area, with its budget, its inputs in g1 to g3, its table and the entry point (10:R240, R246 to R248, R254, 11:R260).
-/
def Obligations.ProgramsStart : Prop :=
  ∀ (s : State) (r c : Nat) (j : JobRec) (image inp : List Byte), 1 ≤ c → c < 4 →
    s.dev.programJob r c = some (j, image, inp) →
    let d := s.dev.purgePrograms j.job.seam
    let m := j.job.seam
    let x := j.job.desc
    let run := leaves (.runProgram r c) s
    let ends := fun (d : Dev) (st : BitVec 16) (code : BitVec 32) => run (d.finish j.num ⟨st, code, 0⟩ false)
    let own := (Container.ofBytes image).image
    let hit := d.hitImage r m own.digest
    let starts := fun (d : Dev) (i : Image) (place : Option Nat) =>
      (d.stage r m i.staging = none → ends d 0x0103 4) ∧
      (∀ e base, d.stage r m i.staging = some (e, base) →
        let out := x.outLen.toNat
        let kept := if place = none then image.length else 0
        let n := inp.length + out + i.spill + kept
        ((e.ridge r).alloc n = none → run e) ∧
        (∀ a, (e.ridge r).alloc n = some a →
          let spill := a + inp.length + out
          let at' := place.getD (spill + i.spill)
          let data := at' + (96 + 16 * i.segs.length + 4 * i.code.length)
          let segs := placeSegs i.segs fun g => g.place a inp.length (a + inp.length) out base data
          (a < (e.ridge r).lineByte → ends (e.injection r 0xFFFF) 0x0601 0x10) ∧
          ((e.ridge r).lineByte ≤ a → segs = none → ends e 0x0601 5) ∧
          (∀ table, (e.ridge r).lineByte ≤ a → segs = some table →
            let p : Program :=
              { job := j.num, image := i, budget := (if x.param = 0 then 16 else x.param.toNat) * 65536, cycles := 0, inBase := a
                inLen := inp.length, outBase := a + inp.length, outLen := out, spillBase := spill, imageBase := at'
                imageLen := kept, stageBase := base, table := table, tickets := List.replicate 8 none
                paused := (e.ridge r).world.restarting, ending := none }
            let bank : Bank := { Bank.reset with
              g := [0, BitVec.ofNat 64 c, BitVec.ofNat 64 inp.length, BitVec.ofNat 64 out] ++ List.replicate 12 0
              sel := (List.range 8).map fun k => table.getD k ⟨0, 0, 0, false, 0⟩, pc := BitVec.ofNat 64 (i.entry * 4) }
            run (((e.modRidge r fun y =>
                let fresh := memPut (memZero y.sram a n) a inp
                { y with sram := if kept = 0 then fresh else memPut fresh at' image }).modCore r c fun k => { k with
                  surface := bank, pend := [], resume := none, program := some p }).modJob j.num
              fun y => { y with tail := { y.tail with started := e.clock } }))))
    (headerOk image = false → d.imageFault m image = some 1) ∧
    (hit = none → (d.ridge r).world.restarting = true → ends d 0x0706 0) ∧
    (hit = none → (d.ridge r).world.restarting = false → ∀ code, d.imageFault m image = some code →
      ends d (if code < 4 then 0x0604 else 0x0601) (BitVec.ofNat 32 code)) ∧
    (hit = none → (d.ridge r).world.restarting = false → d.imageFault m image = none →
      starts (d.cacheImage r m own image).1 own (d.cacheImage r m own image).2) ∧
    (∀ i a, hit = some (i, a) → starts (d.touchImage r m i.digest) i (some a))

/-! ## The management queue -/

namespace Sys2Proof.Claims

open Machine

/-- Keade can carry out MQ command `n`, of opcode `op`, with descriptor `x`: it has started and does not wait, its reads have
returned, and the mode and the seam's state accept it (04:R114, 03:R403). -/
structure CommandReady (d : Dev) (n op : Nat) (x : Desc) (inp aux : List Byte) : Prop where
  up : d.mqUp = true
  held : ∃ c, d.mqCmd n = some c ∧ c.started = true ∧ c.waiting = false ∧ c.desc = x ∧
    c.inp.bytes? = some inp ∧ c.aux.bytes? = some aux
  opcode : x.op = op
  accepted : d.modeRefusal x = none

/-- The command completes with a status and DETAIL, and no output. -/
def ends (d : Dev) (n : Nat) (st : BitVec 16) (detail : BitVec 32) : Dev := d.mqComplete n ⟨st, detail, 0⟩

/-- The event of a seam command that was carried out, and its completion (15:Table 15.2, event 52). -/
def seamEnds (d : Dev) (n code m : Nat) : Dev := ends (d.pkgEvent 52 code (some m)) n 0x0000 0

end Sys2Proof.Claims

namespace Sys2Proof.Claims

open Machine

/-- What a BAR0 register write finds: it is stamped with its spine cycle, one later than that of the write before it where that is
the running one (01:R18; that two commands are never of one cycle is the model's choice, log 18). -/
def stamped (d : Dev) : Dev :=
  let same := d.stamps.write = some (d.clock / 5)
  { d with
    clock := if same then 5 * (d.clock / 5 + 1) else d.clock
    stamps := { d.stamps with write := some (if same then d.clock / 5 + 1 else d.clock / 5) } }

end Sys2Proof.Claims

/-- The MQ's registers: an index that breaks its rule, or a tail of a disabled MQ, is event 40; ENABLE rising takes LINK and
sizes of 4 to 12, returns the indices to 0, writes held completions and reads the ring; while ENABLE is set only VECTOR changes;
a started command completes where a fetch check or the mode refuses it (what the mode says of a token is said once it has been
read), and else has its reads issued (04:R112 to R114, R401, Table 4.8). -/
def Obligations.MqRegisters : Prop :=
  ∀ (s : State) (l : Lk) (val : W64),
    let d := stamped s.dev
    let q := d.mq
    let up := (d.link l).up = true
    let v : BitVec 32 := val.setWidth 32
    let n := (v - q.head).toNat
    let rule := q.state ≠ 0 ∧ n ≤ 2 ^ q.sqLog2.toNat ∧ (q.tail - q.head).toNat ≤ n
    let wake := fun (d : Dev) => if d.boot.step = 10 then
      d.modRidge d.boss fun x => if x.power = 0 ∧ x.inService = true then { x with power := 1 } else x else d
    let sq : BitVec 4 := val.extractLsb' 0 4
    let cq : BitVec 4 := val.extractLsb' 4 4
    let sized := 4 ≤ sq.toNat ∧ sq.toNat ≤ 12 ∧ 4 ≤ cq.toNat ∧ cq.toNat ≤ 12
    let vector : BitVec 6 := val.extractLsb' 16 6
    let set := if sized then d.modMq fun q => { q with vector := vector, link := val.getLsbD 8, sqLog2 := sq, cqLog2 := cq }
      else (d.modMq fun q => { q with vector := vector, link := val.getLsbD 8 }).ignoredWrite l 0x20010
    (up → rule → leaves (.mqSqTailWrite l val) s (wake (d.modMq fun q => { q with tail := v })).mqFetch) ∧
    (up → ¬rule → leaves (.mqSqTailWrite l val) s (d.pkgEvent 40 8)) ∧
    (up → (v - q.cqHead).toNat ≤ (q.write - q.cqHead).toNat →
      leaves (.mqCqHeadWrite l val) s ((d.modMq fun q => { q with cqHead := v }).mqDrain q.held.length)) ∧
    (up → (q.write - q.cqHead).toNat < (v - q.cqHead).toNat → leaves (.mqCqHeadWrite l val) s (d.pkgEvent 40 12)) ∧
    (up → val.getLsbD 9 = true → q.enable = false → leaves (.mqEnable l val) s
      (((set.modMq fun q => { q with
        enable := true, state := 1, stalled := false, tail := 0, cqHead := 0, head := 0, next := 0, write := 0, reading := false }).mqDrain
          q.held.length).mqFetch)) ∧
    (up → val.getLsbD 9 = true → q.enable = true → leaves (.mqEnable l val) s (d.modMq fun q => { q with vector := vector })) ∧
    (up → val.getLsbD 9 = false → q.enable = false → leaves (.mqDisable l val) s
      (set.modMq fun q => { q with enable := false, state := 0, reading := false })) ∧
    (up → val.getLsbD 9 = false → q.enable = true → leaves (.mqDisable l val) s
      (d.modMq fun q => { q with vector := vector, enable := false, state := 0, reading := false })) ∧
    (let d := s.dev
      ∀ n c, d.mqCmd n = some c → d.mqUp = true → c.started = false →
      c.mayStart (q.cmds.takeWhile fun x => !(x.named n)) = true →
      let x := c.desc
      let reads := fun (used : Bool) (len : BitVec 32) => used = true ∧ len ≠ 0
      let carries := (d.link (lkOf q.link)).carries = true
      let e := (d.modCmd n fun c => { c with started := true }).modMq fun q =>
        { q with head := if q.enable then q.newHead else q.head }
      (∀ v, c.bad = some v → leaves (.mqCommandStart n) s (e.mqComplete n v).mqFetch) ∧
      let token := x.op = 0x8021 ∧ x.p 0 1 = 0
      let accepted := e.modeRefusal x = none ∨ token
      (∀ v, c.bad = none → ¬token → e.modeRefusal x = some v → leaves (.mqCommandStart n) s (e.mqComplete n v).mqFetch) ∧
      (c.bad = none → accepted → (carries ∨ ¬(reads x.usesIn x.inLen ∨ reads x.usesAux x.auxLen)) →
        leaves (.mqCommandStart n) s (e.modCmd n fun c => { c with
          inp := if reads x.usesIn x.inLen then .waiting else .none
          aux := if reads x.usesAux x.auxLen then .waiting else .none }).mqFetch) ∧
      (c.bad = none → accepted → ¬carries → reads x.usesIn x.inLen →
        leaves (.mqCommandStart n) s (ends e n 0x0201 0x21).mqFetch))

/-- The life of a seam: a create block whose fields pass makes the entry, with the next EPOCH and a drawn blob key; a destroyed
seam is erased once its jobs have drained; a reset completes once its writes have; shares change where nonzero; a bind that
unmasks the interrupt sends one message (03:R64 to R72, 08:R201). -/
def Obligations.SeamLifecycle : Prop :=
  ∀ (s : State) (n : Nat) (x : Desc) (inp b : List Byte),
    let d := s.dev
    let m := x.p 0 13
    let y := d.seam m
    let e := y.entry
    (CommandReady d n 0x8001 x inp b → d.drawable d.boss .internal = true →
      (∀ v, blockFault (d.createChecks m b) = some v → leaves (.seamCreate n) s (d.mqComplete n v)) ∧
      (blockFault (d.createChecks m b) = none →
        let hm := d.ridgesFor m (field b 1 1) (field b 2 1) (granulesOf 46)
        let entry : SeamEntry :=
          { e with
            state := .active, links := BitVec.ofNat 2 (field b 0 1), pref := (field b 0 1).testBit 2, saved := false
            pasidValid := field b 16 4 != 0, pasid := BitVec.ofNat 20 (field b 16 4), home := .of (BitVec.ofNat 3 hm.1)
            mirror := .of (BitVec.ofNat 3 hm.2), epoch := .of (e.epoch.val + 1), weight := BitVec.ofNat 8 (field b 3 1)
            burst := BitVec.ofNat 7 (field b 4 1), slotQuota := BitVec.ofNat 11 (field b 6 2)
            keyQuota := BitVec.ofNat 24 (field b 8 4), progQuota := BitVec.ofNat 16 (field b 12 2)
            irqAddr := BitVec.ofNat 64 (field b 24 8), irqData := BitVec.ofNat 32 (field b 32 4), irqMask := field b 36 1 == 1
            migFloor := 0, migAllow := false, ownerDigest := .of (BitVec.ofNat 384 (field b 48 48)) }
        let t := d.modSeam m fun _ => ⟨entry, { SeamRun.blank with discards := y.run.discards }⟩
        leaves (.seamCreate n) s (seamEnds ((t.makeBlobKey m).noteUnmirrored m) n 1 m))) ∧
    (CommandReady d n 0x8002 x inp b → leaves (.seamDestroy n) s
      (((d.cutSeam m).cmdWaits n).modRun m fun z => { z with destroying := some n })) ∧
    (∀ k c, (d.seam k).run.destroying = some c → (d.seam k).run.inflight = 0 →
      leaves (.seamDestroyDrained k) s (seamEnds (d.freeSeam k) c 2 k) ∧
      ((d.freeSeam k).seam k).entry.state = .free ∧
      ((d.freeSeam k).seam k).entry.epoch = .of ((d.seam k).entry.epoch.val + 1)) ∧
    (CommandReady d n 0x8003 x inp b →
      ((∃ j ∈ d.seamJobs m, j.job.gen = e.gen + 1) → leaves (.seamReset n) s (ends d n 0x0802 6)) ∧
      ((∀ j ∈ d.seamJobs m, j.job.gen ≠ e.gen + 1) → leaves (.seamReset n) s
        (((d.cutSeam m).cmdWaits n).modRun m fun z => { z with resetting := some n }))) ∧
    (∀ k c, (d.seam k).run.resetting = some c → leaves (.seamResetDrained k) s
      (seamEnds (d.modRun k fun z => { z with resetting := none }) c 3 k)) ∧
    (CommandReady d n 0x8004 x inp b →
      (∀ v, blockFault (shareChecks b) = some v → leaves (.seamSetShare n) s (d.mqComplete n v)) ∧
      (blockFault (shareChecks b) = none →
        let t := d.modEntry m fun e => { e with
          weight := if field b 0 1 = 0 then e.weight else BitVec.ofNat 8 (field b 0 1)
          burst := if field b 1 1 = 0 then e.burst else BitVec.ofNat 7 (field b 1 1)
          slotQuota := if field b 2 2 = 0 then e.slotQuota else BitVec.ofNat 11 (field b 2 2)
          keyQuota := if field b 4 4 = 0 then e.keyQuota else BitVec.ofNat 24 (field b 4 4)
          progQuota := if field b 8 2 = 0 then e.progQuota else BitVec.ofNat 16 (field b 8 2) }
        let capped := t.modSeam m fun z => { z with run := { z.run with credit := min z.run.credit z.entry.weight.toNat } }
        leaves (.seamSetShare n) s (ends (capped.fitPrograms m) n 0x0000 0))) ∧
    (CommandReady d n 0x8005 x inp b →
      (e.state = .active → y.run.anyQueue = true → leaves (.seamBindPasid n) s (ends d n 0x0802 5)) ∧
      (∀ v, (e.state ≠ .active ∨ y.run.anyQueue = false) → blockFault (d.bindChecks m b false) = some v →
        leaves (.seamBindPasid n) s (d.mqComplete n v)) ∧
      ((e.state ≠ .active ∨ y.run.anyQueue = false) → blockFault (d.bindChecks m b false) = none →
        let t := d.modEntry m fun e => { e with
          pasidValid := true, pasid := BitVec.ofNat 20 (field b 0 4), links := BitVec.ofNat 2 (field b 4 1)
          pref := (field b 4 1).testBit 2, irqAddr := BitVec.ofNat 64 (field b 8 8), irqData := BitVec.ofNat 32 (field b 16 4)
          irqMask := field b 20 1 == 1 }
        leaves (.seamBindPasid n) s
          (seamEnds (if e.irqMask = true ∧ field b 20 1 ≠ 1 then t.unmaskIrq m else t) n 8 m)))

/-- Freezing a seam drops what it prefetched and, with the drop option, aborts its jobs; once none is in flight, nor a
completion held, its queues are snapshotted and it is FROZEN; a thaw returns them; a save needs its order, permission, and a
destination that suffices; a restore opens the package and installs the seam FROZEN (03:R75 to R80). -/
def Obligations.SeamFreezing : Prop :=
  ∀ (s : State) (n : Nat) (x : Desc) (inp b : List Byte),
    let d := s.dev
    let m := x.p 0 13
    let e := (d.seam m).entry
    (CommandReady d n 0x8006 x inp b →
      let t := (d.modRun m fun z => { z with
        queues := z.queues.map fun (q : Queue) => { q with prefetch := [], reading := false }, freezing := some n }).cmdWaits n
      leaves (.seamFreeze n) s (if x.keyB.getLsbD 0 then t.abortJobs (t.seamNotEnded m) 0x0705 false else t)) ∧
    (∀ k c, (d.seam k).run.freezing = some c → (d.seam k).run.inflight = 0 → (d.seam k).run.heldWrites = [] →
      ((d.seam k).entry.state = .active → leaves (.seamFreezeDrained k) s (seamEnds ((d.modRun k fun z => { z with
          freezing := none
          snapshot := some ⟨z.queues.map fun (q : Queue) => { q with prefetch := [], reading := false }, z.cq⟩
          queues := List.replicate 4 Queue.blank, cq := none }).modEntry k fun e => { e with state := .frozen }) c 4 k)) ∧
      ((d.seam k).entry.state ≠ .active → leaves (.seamFreezeDrained k) s
        (ends (d.modRun k fun z => { z with freezing := none }) c 0x0802 1))) ∧
    (CommandReady d n 0x8009 x inp b → ∀ k, (d.seam m).run.snapshot = some k →
      leaves (.seamThaw n) s (seamEnds (((d.modRun m fun z => { z with
        queues := k.queues, cq := k.cq, snapshot := none }).modEntry m fun e => { e with state := .active }).fetchSeam m) n 5 m)) ∧
    (CommandReady d n 0x8007 x inp b → d.drawable d.boss .internal = true →
      let body := packBody ⟨Config.dikChain, [], [], [d.section' m false]⟩
      let order := d.authorised x.orderNum 0x21 m (sha384 b) = true
      (¬order → leaves (.seamSave n) s (ends d n 0x0801 0)) ∧
      (order → e.migAllow = false → leaves (.seamSave n) s (ends d n 0x0302 8)) ∧
      (order → e.migAllow = true → acceptFrom b e.migFloor.toNat = none → leaves (.seamSave n) s (ends d n 0x0302 7)) ∧
      (∀ t, order → e.migAllow = true → acceptFrom b e.migFloor.toNat = some t →
        let same := e.saved = false ∨ (d.seam m).run.savedTo = some t.serial
        (¬same → leaves (.seamSave n) s (ends d n 0x0802 0x0D)) ∧
        (same → x.outLen.toNat < body.length + 5173 →
          leaves (.seamSave n) s (d.mqComplete n ⟨0x0103, 0x0C, BitVec.ofNat 32 (body.length + 5173)⟩)) ∧
        (same → body.length + 5173 ≤ x.outLen.toNat →
          let g := d.generate d.boss false 1
          let u := (({ g with draws := g.draws + 5 }.modEntry m fun e => { e with saved := true }).modRun m fun r =>
            { r with savedTo := some t.serial }).consumeOrder x.orderNum
          leaves (.seamSave n) s ((u.pkgEvent 52 6 (some m)).mqComplete n ⟨0x0000, 0, 0⟩ (g.package 1 g.draws t body))))) ∧
    (CommandReady d n 0x8008 x inp b →
      (∀ v, blockFault (d.bindChecks m b true) = some v → leaves (.seamRestore n) s (d.mqComplete n v)) ∧
      (∀ v, blockFault (d.bindChecks m b true) = none → d.openPackage 1 inp = .error v →
        leaves (.seamRestore n) s (d.mqComplete n v)) ∧
      (∀ id body p, blockFault (d.bindChecks m b true) = none → d.openPackage 1 inp = .ok (id, body) → body.seams = [p] →
        let hm := d.ridgesFor m (field b 5 1) (field b 6 1) p.granules
        (d.canHold hm.1 hm.2 p = false → leaves (.seamRestore n) s (ends d n 0x0303 0x0B)) ∧
        (d.canHold hm.1 hm.2 p = true → leaves (.seamRestore n) s (seamEnds ((d.installSeam m hm.1 hm.2 p
          (({ p.entry with state := .frozen, saved := false } : SeamEntry).bind b) p.snapshot).eraseReceive id) n 7 m))))

/-- The range: a freeze stops fetching on every seam and reaches FREEZE when no job is left; a release returns to SERVICE; an
export and an import need their orders and a package that suffices; a receive key is drawn, stored where its sealed entry has
room, and attested, and the identity record is written (02:R40, R41, 03:R81, R82, R403, 08:R184, R208, R209). -/
def Obligations.RangeCommands : Prop :=
  ∀ (s : State) (n : Nat) (x : Desc) (inp b : List Byte),
    let d := s.dev
    let num := x.keyA.toNat % 2 ^ 32
    let order := fun (d : Dev) (x : Desc) => d.authorised (x.keyA.toNat % 2 ^ 32) 0x0B 0 [x.keyB.setWidth 8] = true
    let idle := fun (z : SeamRun) => { z with queues := z.queues.map fun (q : Queue) => { q with prefetch := [], reading := false } }
    (CommandReady d n 0x8050 x inp b → x.keyB.getLsbD 0 = false →
      (¬order d x → leaves (.rangeFreeze n) s (ends d n 0x0801 0)) ∧
      (order d x →
        let t := ((d.modSeams fun _ (y : Seam) => { y with run := idle y.run }).cmdWaits n).modMq fun q => { q with freeze := some n }
        leaves (.rangeFreeze n) s (if x.keyB.getLsbD 1 then t.abortJobs t.notEnded 0x0705 false else t))) ∧
    (∀ c k, d.mq.freeze = some k → d.mqCmd k = some c → d.jobs = [] → (∀ e ∈ d.seams, e.2.run.heldWrites = []) →
      let t := d.modMq fun q => { q with freeze := none }
      (order t c.desc → t.live = .service → leaves .rangeFreezeDrained s
        (ends (((t.consumeOrder c.desc.orderNum).changeMode .freeze).pkgEvent 53 1) k 0x0000 0)) ∧
      (¬(order t c.desc ∧ t.live = .service) → leaves .rangeFreezeDrained s (ends t k 0x0801 0).fetchAll)) ∧
    (CommandReady d n 0x8050 x inp b → x.keyB.getLsbD 0 = true →
      (¬order d x → leaves (.rangeRelease n) s (ends d n 0x0801 0)) ∧
      (order d x → leaves (.rangeRelease n) s
        (ends (((d.consumeOrder num).changeMode .service).pkgEvent 53 2) n 0x0000 0).fetchAll)) ∧
    (CommandReady d n 0x8051 x inp b → d.drawable d.boss .internal = true →
      let ok := d.authorised num 0x0C 0 (sha384 b) = true
      let dest := (acceptFrom b d.version.toNat).bind fun t => if t.csDigest = d.csDigest then some t else none
      let body := packBody d.rangeBody
      (¬ok → leaves (.rangeExport n) s (ends d n 0x0801 0)) ∧
      (ok → dest = none → leaves (.rangeExport n) s (ends d n 0x0302 7)) ∧
      (∀ t, ok → dest = some t → x.outLen.toNat < body.length + 5173 →
        leaves (.rangeExport n) s (d.mqComplete n ⟨0x0103, 0x0C, BitVec.ofNat 32 (body.length + 5173)⟩)) ∧
      (∀ t, ok → dest = some t → body.length + 5173 ≤ x.outLen.toNat →
        let g := d.generate d.boss false 1
        leaves (.rangeExport n) s
          ((((({ g with draws := g.draws + 5 } : Dev).consumeOrder num).setExported).pkgEvent 53 3).mqComplete n ⟨0x0000, 0, 0⟩
            (g.package 2 g.draws t body)))) ∧
    (CommandReady d n 0x8052 x inp b →
      let ok := d.authorised num 0x0D 0 (sha384 inp) = true
      (¬ok → leaves (.rangeImport n) s (ends d n 0x0801 0)) ∧
      (ok → d.usedSeams ≠ [] → leaves (.rangeImport n) s (ends d n 0x0802 1)) ∧
      (∀ v, d.usedSeams = [] → ok → d.openPackage 2 inp = .error v → leaves (.rangeImport n) s (d.mqComplete n v)) ∧
      (∀ id body, d.usedSeams = [] → ok → d.openPackage 2 inp = .ok (id, body) →
        (d.importSeams body.seams = none → leaves (.rangeImport n) s (ends d n 0x0303 0x0B)) ∧
        (∀ e, d.importSeams body.seams = some e → leaves (.rangeImport n) s
          (ends ((({ (e.writePers body.pers).eraseReceive id with decode := body.decode } : Dev).consumeOrder num).pkgEvent 53 4)
            n 0x0000 0)))) ∧
    (CommandReady d n 0x0805 x inp b → d.drawable d.boss .internal = true →
      let g := d.generate d.boss false 1
      let k := g.draws
      (x.p 0 2 = 1 → ∀ r, leaves (.keyAttestIdentity true r n) s
        ((({ g with draws := k + 1 } : Dev).cmdDone n x
          (({ g with draws := k + 1 } : Dev).record 1 k (({ g with draws := k + 1 } : Dev).commonItems inp))))) ∧
      (x.p 0 2 = 2 → (∀ r ∈ d.deviceHolders, d.granulesUsed r + granulesOf 1793 ≤ 655360) →
        ∃ t : Dev, leaves (.keyAttestMigration n) s t ∧ t.draws = d.draws + 4 ∧
        ∃ (items : List Byte) (u : Dev), t = u.cmdDone n x (u.record 2 k items) ∧
          u.receiveKeys.length ≤ max 64 d.receiveKeys.length ∧
          (∀ r, (r = 0 ∨ r = 1) → d.serves r = true → ∃ e ∈ (u.ridge r).store, e.kind = 6 ∧ e.owner = none ∧
            ∃ dk ek p pt, e.payload = .receive ((List.range 16).map (Config.freeByte k)) dk ek p pt)))

/-- The queues of a seam: a create block whose fields pass makes a RUNNING queue, and the seam's CQ with its first one; a
shutdown makes the tail final and completes once every entry, job and held write is gone, the CQ with the last queue; the
entries that were never granted complete with ABORT_QUEUE; a FAULTED queue restarts (04:R84, R85, R110, R111). -/
def Obligations.QueueCommands : Prop :=
  ∀ (s : State) (n : Nat) (x : Desc) (inp b : List Byte),
    let d := s.dev
    let m := x.p 0 13
    let q := x.keyB.toNat % 4
    let y := d.seam m
    let k := y.queue q
    (CommandReady d n 0x8010 x inp b →
      let create := leaves (.queueCreate n) s
      (y.entry.state ≠ .active → create (ends d n 0x0802 1)) ∧
      (y.entry.state = .active → y.entry.pasidValid = false → create (ends d n 0x0802 0x13)) ∧
      (y.entry.state = .active → y.entry.pasidValid = true → k.state ≠ .none → create (ends d n 0x0802 0x10)) ∧
      (y.entry.state = .active → y.entry.pasidValid = true → k.state = .none → 16384 ≤ d.queueCount →
        create (ends d n 0x0802 0x14)) ∧
      (y.entry.state = .active → y.entry.pasidValid = true → k.state = .none → d.queueCount < 16384 →
        (∀ v, blockFault (queueChecks b y.run.cq.isSome) = some v → create (d.mqComplete n v)) ∧
        (blockFault (queueChecks b y.run.cq.isSome) = none →
          create (ends (d.modRun m fun z => { z with
            queues := z.queues.set q { Queue.blank with
              state := .running, base := BitVec.ofNat 64 (field b 0 8), log2 := field b 16 1, weight := field b 18 1
              burst := field b 19 1 }
            cq := some (z.cq.getD ⟨BitVec.ofNat 64 (field b 8 8), field b 17 1, 0, 0, 0⟩) }) n 0x0000 0)))) ∧
    (CommandReady d n 0x8011 x inp b →
      let live := y.entry.state = .active ∨ y.entry.state = .faulted
      let runs := k.state = .running ∨ k.state = .faulted
      (¬live → leaves (.queueShutdown n) s (ends d n 0x0802 1)) ∧
      (live → ¬runs → leaves (.queueShutdown n) s (ends d n 0x0802 0x11)) ∧
      (live → runs → leaves (.queueShutdown n) s
        ((d.modQueue m q fun k => { k with state := .shutting, prefetch := [], reading := false, shutCmd := some n }).cmdWaits n))) ∧
    (∀ g i c, let k := (d.seam g).queue i
      k.shutCmd = some c → k.state = .shutting → k.head = k.tail → d.queueJobs g i = [] → (d.seam g).run.heldWrites = [] →
      let t := d.modQueue g i fun _ => Queue.blank
      leaves (.queueShutdownDrained g i) s
        (ends (if (t.seam g).run.anyQueue then t else t.modRun g fun z => { z with cq := none }) c 0x0000 0)) ∧
    (CommandReady d n 0x8012 x inp b →
      (y.entry.state ≠ .active → leaves (.queueRestart n) s (ends d n 0x0802 1)) ∧
      (y.entry.state = .active → k.state ≠ .faulted → leaves (.queueRestart n) s (ends d n 0x0802 0x11)) ∧
      (y.entry.state = .active → k.state = .faulted → leaves (.queueRestart n) s
        (ends ((d.modQueue m q fun k => { k with state := .running, prefetch := [], reading := false }).fetch m q) n 0x0000 0))) ∧
    (∀ g i bytes, let z := d.seam g
      let k := z.queue i
      let next := d.modQueue g i fun k => { k with head := k.head + 1, reported := k.head + 1 }
      let y := Desc.ofBytes bytes
      k.state = .shutting → k.head ≠ k.tail →
      (z.entry.state = .faulted → leaves (.abortQueueWrite g i (.data bytes)) s (next.discard g)) ∧
      (z.entry.state ≠ .faulted → z.run.creditFree = false → leaves (.abortQueueWrite g i (.data bytes)) s d) ∧
      (z.entry.state ≠ .faulted → z.run.creditFree = true →
        let c : Compl :=
          { tag := y.tag, status := 0x0701, gen := z.entry.gen, replayed := false, chained := y.chain, queue := i
            sqHead := k.head + 1, written := 0, detail := 0, ns := 0, handle := 0 }
        let put := (next.modRun g fun z => { z with cq := z.cq.map fun c => { c with held := c.held + 1 } }).putCompletion g c
          true none false
        (put.2 = .written → leaves (.abortQueueWrite g i (.data bytes)) s
          (put.1.captureWhole g y.opcode (k.arrivalOf k.head d.clock))) ∧
        (put.2 ≠ .written → leaves (.abortQueueWrite g i (.data bytes)) s put.1)))

/-- Orders: an opened order is PENDING with a nonce, a deadline of a day and its receipt; a token that fails is refused with its
detail, and logged; one that counts below the quorum reports the count; at the quorum, stamped with its cycle, an authorising
order arms for an hour, and another's action is carried out, each superseding those it conflicts with; a renewal draws a nonce;
a cancel and a lapse end it (09:R216 to R226). -/
def Obligations.Orders : Prop :=
  ∀ (s : State) (n : Nat) (x : Desc) (inp b : List Byte),
    let d := s.dev
    let num := x.keyA.toNat % 2 ^ 32
    let second := 1000000000
    (CommandReady d n 0x8020 x inp b → d.drawable d.boss .internal = true →
      let kind := x.p 0 8
      let m := if kindSeam kind then x.keyB.toNat % 8192 else 0
      (∀ c, d.openFault kind m b = some c → leaves (.orderOpen n) s (d.mqComplete n (orderRefusal c))) ∧
      (d.openFault kind m b = none →
        let g := d.generate d.boss false 1
        let e : Dev := { g with draws := g.draws + 1 }
        let o : Order :=
          { num := d.quorum.nextOrder, kind := kind, seam := m, body := b, state := .pending, counted := [], needed := 0
            nonce := (List.range 32).map (Config.freeByte g.draws), nonceExpiry := d.clock + 600 * second, oldNonces := []
            deadline := d.clock + 86400 * second, result := 0 }
        let o := { o with needed := (e.needs o).total }
        leaves (.orderOpen n) s (((e.modQuorum fun q => { q with
          nextOrder := d.quorum.nextOrder + 1, orders := q.orders ++ [o] }).setOrder d.quorum.nextOrder .pending).cmdDone n x
            o.receipt))) ∧
    (CommandReady d n 0x8021 x inp b → x.p 0 1 = 0 →
      let token := leaves (.orderToken n) s
      let said := d.tokenEvent num inp true
      (d.order num = none → token (ends said n 0x0802 0x24)) ∧
      (∀ o, d.order num = some o →
        (o.state = .superseded → token (ends said n 0x0803 0x24)) ∧
        (o.state ≠ .superseded → o.state ≠ .pending → token (ends said n 0x0802 0x24)) ∧
        (∀ c, o.state = .pending → d.tokenFault o inp = some c → token (said.mqComplete n (orderRefusal c))) ∧
        (o.state = .pending → d.tokenFault o inp = none →
          let o := { o with counted := o.counted ++ [(field inp 0 1, field inp 1 1)] }
          let counted := (d.tokenEvent num inp false).modOrder num fun _ => o
          let t : Dev := { counted with stamps := { counted.stamps with order := some (counted.clock / 5) } }
          let count := o.counted.length % 64 + o.needed % 64 * 256
          ((d.needs o).met o = false → token (ends counted n 0x0000 (BitVec.ofNat 32 count))) ∧
          ((d.needs o).met o = true → (o.kind = 1 → d.drawable d.boss .internal = true) → t.mayExecute o = false →
            token (ends ((t.modOrder o.num fun y => { y with result := 0x0802 }).setOrder o.num .refused) n 0x0802
              (BitVec.ofNat 32 (count + 2 ^ 16)))) ∧
          ((d.needs o).met o = true → t.mayExecute o = true → o.kind ∈ [7, 0x0A, 0x0B, 0x0C, 0x0D, 0x21] →
            token (ends (((t.modOrder o.num fun y => { y with deadline := t.clock + 3600 * second }).setOrder o.num .armed).supersede o)
              n 0x0000 (BitVec.ofNat 32 (count + 2 ^ 16 + 2 ^ 17)))) ∧
          ((d.needs o).met o = true → (o.kind = 1 → d.drawable d.boss .internal = true) → t.mayExecute o = true →
            o.kind ∉ [7, 0x0A, 0x0B, 0x0C, 0x0D, 0x21] →
            (∀ v, t.actionFault o = some v →
              token (((t.modOrder o.num fun y => { y with result := v.status }).setOrder o.num .refused).mqComplete n v)) ∧
            (t.actionFault o = none →
              token (ends (((t.setOrder o.num .done).supersede o).act o n) n 0x0000 (BitVec.ofNat 32 (count + 2 ^ 16)))))))) ∧
    (CommandReady d n 0x8021 x inp b → x.p 0 1 = 1 → d.drawable d.boss .internal = true →
      ∀ o, d.order num = some o → o.state = .pending →
        let g := d.generate d.boss false 1
        let e : Dev := { g with draws := g.draws + 1 }
        let r : Order := { o with
          nonce := (List.range 32).map (Config.freeByte g.draws), nonceExpiry := d.clock + 600 * second
          oldNonces := o.nonce :: o.oldNonces }
        leaves (.orderRenew n) s ((e.modOrder num fun _ => r).cmdDone n x r.receipt
          (o.counted.length % 64 + o.needed % 64 * 256))) ∧
    (CommandReady d n 0x8022 x inp b →
      (∀ o, d.order num = some o → (o.state = .pending ∨ o.state = .armed) →
        leaves (.orderCancel n) s (ends (d.setOrder num .cancelled) n 0x0000 0)) ∧
      ((∀ o, d.order num = some o → o.state ≠ .pending ∧ o.state ≠ .armed) → leaves (.orderCancel n) s (ends d n 0x0802 0x24))) ∧
    (∀ i o, d.order i = some o →
      (o.state = .pending → leaves (.orderPendingLapse i) s ((d.reach o.deadline).setOrder i .lapsed) ∧
        leaves (.nonceExpiry i) s (d.reach o.nonceExpiry)) ∧
      (o.state = .armed → leaves (.orderArmedLapse i) s ((d.reach o.deadline).setOrder i .lapsed)))

/-- MARK, SELFTEST, FW_STAGE and FW_ACTIVATE: the barrier goes to every in-service ridge, and its last acknowledgement makes the
record; an engine under test is wiped and returns, or leaves, by its result; a staged image goes into the slot that is not
active; an activation needs its order and a countersigned image, and restarts the ridges from the highest down (02:R51 to R53,
14:R333, 15:R345). -/
def Obligations.MarksTestsAndFirmware : Prop :=
  ∀ (s : State) (n : Nat) (x : Desc) (inp b : List Byte),
    let d := s.dev
    (CommandReady d n 0x8030 x inp b → d.mq.barrier = none → ∃ mask : BitVec 8,
      (∀ r, r < 8 → (mask.getLsbD r = true ↔ d.serves r = true)) ∧
      leaves (.mark n) s ((d.cmdWaits n).modMq fun q => { q with barrier := some (mask, n) })) ∧
    (∀ r left c, d.serves r = true → r < 8 → d.mq.barrier = some (left, c) → left.getLsbD r = true →
      let e := d.flushEvents (some r)
      let rest := left &&& ~~~(1#8 <<< r)
      (rest ≠ 0 → leaves (.markBarrierAck r) s (e.modMq fun q => { q with barrier := some (rest, c) })) ∧
      (∀ m, rest = 0 →
        let t := (e.flushEvents none).modMq fun q => { q with barrier := none }
        t.mqCmd c = some m →
        leaves (.markBarrierAck r) s (ends (t.markRecord (m.desc.keyA.setWidth 32)) c 0x0000 t.log.next))) ∧
    (CommandReady d n 0x8031 x inp b →
      let k := x.p 0 6
      let r := x.p 8 3
      (d.serves r = false ∨ 30 ≤ k → leaves (.selftest n) s (ends d n 0x0101 0x35)) ∧
      (d.serves r = true → k < 30 → leaves (.selftest n) s
        (((d.modEngine r k fun e => { e with testing := true }).cmdWaits n).modMq fun q =>
          { q with selftest := q.selftest ++ [(n, r, k)] }))) ∧
    (∀ r k pass c, d.mq.selftest = [(c, r, k)] → ((d.ridge r).engine k).running = none → ((d.ridge r).engine k).slot = none →
      d.mqUp = true →
      let t := d.modMq fun q => { q with selftest := [] }
      let detail := BitVec.ofNat 32 (k + r * 256 + if pass then 0 else 65536)
      let u := if pass then t.modEngine r k fun e => { e with
          inService := e.inService || e.readback, readback := false
          ram := .zero, slotRam := .zero, buffer := [], bank := none, perms := 0 }
        else t.removeEngine r k 2
      leaves (.selftestEngineFree r k pass) s
        (ends ((u.modEngine r k fun e => { e with testing := false }).pkgEvent 51 detail.toNat) c 0x0000 detail)) ∧
    (CommandReady d n 0x8040 x inp b → x.p 0 1 = 0 →
      let needs := d.live = .service ∨ d.live = .freeze ∨ d.live = .locked ∨
        (d.live = .commission ∧ ((d.fw.slot d.fw.active).map (·.counter)).getD false = true)
      (∀ v, d.stageImage b = .error v → leaves (.fwStageImage n) s (d.mqComplete n v)) ∧
      (∀ i, d.stageImage b = .ok i → d.boot.romHold = true → needs → i.counter = false →
        leaves (.fwStageImage n) s (ends d n 0x0802 0x32)) ∧
      (∀ i, d.stageImage b = .ok i → (d.boot.romHold = true → needs → i.counter = true) →
        let slot := d.fw.other
        let t := ends (((d.setSlot slot (some i)).modFw fun f => { f with staged := true }).pkgEvent 49 (slot * 2)) n 0x0000 0
        leaves (.fwStageImage n) s
          (if d.boot.romHold then t.modBoot fun y => { y with romHold := false, slot := slot } else t))) ∧
    (CommandReady d n 0x8040 x inp b → x.p 0 1 = 1 →
      let slot := x.keyB.toNat % 2
      let g := SigBlock.at' b 0
      let formed := field b 1 1 = 0 ∧ (g.typ = 1 ∨ g.typ = 2) ∧ b.length = 4 + g.len
      let sized := g.len = (if g.typ = 1 then 96 else 3309)
      (¬formed → leaves (.fwStageCountersign n) s (ends d n 0x0101 0x30)) ∧
      (formed → ¬sized → leaves (.fwStageCountersign n) s (ends d n 0x0103 0x34)) ∧
      (formed → sized → (d.csKey = none ∨ d.fw.slot slot = none) →
        leaves (.fwStageCountersign n) s (ends d n 0x0802 0x37)) ∧
      (∀ k i, formed → sized → d.csKey = some k → d.fw.slot slot = some i →
        (g.verifies k i.part = false → leaves (.fwStageCountersign n) s (ends d n 0x0302 0x32)) ∧
        (g.verifies k i.part = true → leaves (.fwStageCountersign n) s
          (ends (d.setSlot slot (some { i with counter := true })) n 0x0000 0)))) ∧
    (CommandReady d n 0x8041 x inp b →
      let num := x.keyA.toNat % 2 ^ 32
      (d.staged = none → leaves (.fwActivate n) s (ends d n 0x0801 0)) ∧
      (∀ i, d.staged = some i →
        let order := d.authorised num 0x0A 0 ([BitVec.ofNat 8 d.fw.other, 0, 0, 0] ++ leBytes 48 i.meas.toNat) = true
        (¬order → leaves (.fwActivate n) s (ends d n 0x0801 0)) ∧
        (order → i.counter = false → leaves (.fwActivate n) s (ends d n 0x0802 0x36)) ∧
        (order → i.counter = true → d.mq.activate = none → leaves (.fwActivate n) s
          ((d.cmdWaits n).modMq fun q => { q with activate := some ⟨n, num, 8, 0, false⟩ })))) ∧
    (∀ a i r, d.mq.activate = some a → d.staged = some i → d.nextActivated a = some r → d.keadeRuns r = true →
      let g : Dev := { d with draws := d.draws + 1 }
      let u := (g.stopDeep r (some a.cmd)).modWorld r fun w => { w with expected := i.meas, restarts := satInc w.restarts }
      let t := (u.remeasure r 6 i.meas true).modMq fun q => { q with activate := some { a with last := r, moved := true } }
      (∀ k, d.nextActivated a = some k → d.serves k = true ∧ k < a.last ∧ ∀ y, d.serves y = true → y < a.last → y ≤ k) ∧
      leaves (.fwActivateRidge r true) s
        (if t.nextActivated { a with last := r, moved := true } = none then t.activateEnd { a with last := r, moved := true } else t))

/-! ## Links -/

/-- A link that leaves L0: it is down, the loss is counted and event 35; a dual-homed seam's unacknowledged writes go again on
the other link in order, a seam bound to it alone is FAULTED and its completions count as discarded, the MQ bound to it is in
state 2 and holds what it sent; PERST resets its function beside; a link that rises takes DMA up again (02:R46, 03:R73 to R75,
04:R113, 14:R329, R402). -/
def Sys2Proof.Claims.LinksAreLostAndRise : Prop :=
  ∀ (s : State) (l : Lk),
    let d := s.dev
    let x := d.link l
    let o := lkOther l
    let down := fun (cause : Nat) => (d.modLink l fun x => { x with
        up := false, pm := 2, width := 0, speed := 0, losses := satInc x.losses, unacked := [] }).raise
      (some (lkRidge o)) 35 0 (BitVec.ofNat 32 (lkBit l + 4 * cause))
    let perst := fun (d : Dev) (v : Bool) => d.modPins fun p =>
      if l = .a then { p with perstA := v } else { p with perstB := v }
    let reset := fun (d : Dev) => d.modLink l fun x => { x with
      bme := false, pasidEn := false, msixEn := false, fmask := false, seamSel := 0, qrmSel := 0, arbSel := 0
      msix := List.replicate 64 ⟨0, 0, true⟩, pba := 0 }
    let bound := fun (m : Nat) => (d.seam m).entry.binds l = true
    let lost := fun (f : Dev → Dev) =>
      leaves (.linkLost l false) s (f (down 0)) ∧ leaves (.linkLost l true) s (f (down 1)) ∧
      leaves (.perstAssert l) s (perst (reset (f (down 2))) true)
    let quiet := ∀ j ∈ d.jobs, j.job.failedRead = none
    let elsewhere := lkOf d.mq.link = o
    (x.up = false →
      leaves (.linkLost l false) s d ∧ leaves (.linkLost l true) s d ∧ leaves (.perstAssert l) s (perst (reset d) true)) ∧
    leaves (.perstDeassert l) s (perst d false) ∧
    (x.up = true → quiet →
      ((∀ m, ¬bound m) → elsewhere → lost id) ∧
      ((∀ m, ¬bound m) → ¬elsewhere → (∀ c ∈ d.mq.cmds, c.inp ≠ .waiting ∧ c.aux ≠ .waiting) →
        lost fun d => (d.mqFault 2).modMq fun q => { q with held := q.sent ++ q.held, sent := [], reading := false }) ∧
      ((∀ m, bound m → (d.seam m).entry.links = 3) → elsewhere → (d.link o).up = true → (d.link o).bme = true → (d.link o).pasidEn = true →
        let mine := x.unacked.filter fun w => match d.writeSeam l w with
          | some m => (d.seam m).entry.links == 3 && (d.seam m).entry.state != .faulted
          | none => false
        lost fun d => d.modLink o fun y => { y with
          unacked := y.unacked ++ mine, reissued := satInc y.reissued mine.length
          pm := if mine ≠ [] ∧ y.pm = 1 then 0 else y.pm }) ∧
      (∀ m, elsewhere → (∀ k, bound k ↔ k = m) → (d.seam m).entry.links ≠ 3 → (d.seam m).entry.state = .active →
        d.usedSeams.filter (· == m) = [m] → (∀ j ∈ d.jobs, j.job.seam ≠ m) → (∀ q, ((d.seam m).queue q).reading = false) →
        let n := (x.unacked.filter fun w => w.kind == .completion m).length
        lost fun d => ((d.modRun m fun y => { y with discards := satInc y.discards n }).modEntry m
          fun e => { e with state := .faulted }).pkgEvent 38 0 (some m))) ∧
    (∀ width speed : Nat,
      let may := 4 ≤ d.boot.step ∧ d.pins.mainPower = true ∧ d.pins.inVigil = false ∧ (d.ridge (lkRidge l)).lost = false ∧
        (if l = .a then d.pins.perstA = false else d.pins.perstB = false) ∧ x.up = false ∧
        width ∈ [1, 2, 4, 8] ∧ 1 ≤ speed ∧ speed ≤ 5
      let rise := (d.modLink l fun x => { x with up := true, width := width, speed := speed, pm := 0 }).raise
        (some (lkRidge l)) 35 0 (BitVec.ofNat 32 (lkBit l + 2))
      (¬may → leaves (.linkUp l width speed) s d) ∧
      (may → leaves (.linkUp l width speed) s (((rise.unmask l).linkServes l).govern.mqResume)) ∧
      (may → x.bme = false → x.msixEn = false → d.mq.held = [] → d.mq.enable = false →
        leaves (.linkUp l width speed) s rise.govern)) ∧
    (∀ m k, d.dmaLink m = some k → (d.seam m).entry.state ≠ .faulted → (d.link k).pasidEn = true →
      ((d.releaseHeld m).link k).unacked = (d.link k).unacked ++ (d.seam m).run.heldWrites ∧
        ((d.releaseHeld m).seam m).run.heldWrites = [])

/-- Bus Master Enable, the configuration write, L1: a cleared Bus Master Enable moves the writes of dual-homed seams to the
other link and leaves the rest; a set one lets bound seams send what was held and read ahead; unmasking sends a pending vector;
L1 needs nothing outstanding (03:R59, 14:R330, 16:R359, 17:R381). -/
def Sys2Proof.Claims.LinkSettings : Prop :=
  ∀ (s : State) (l : Lk),
    let d := s.dev
    let x := d.link l
    let o := lkOther l
    (x.bme = false → leaves (.bmeCleared l) s d) ∧
    (x.bme = true → (∀ j ∈ d.jobs, j.job.failedRead = none) → (d.link o).up = true → (d.link o).bme = true → (d.link o).pasidEn = true →
      (∀ m, (d.seam m).entry.links = 3 → (d.seam m).entry.state ≠ .free ∧ (d.seam m).entry.state ≠ .faulted) →
      let dual := fun (w : HostWrite) => match d.writeSeam l w with
        | some m => (d.seam m).entry.links == 3
        | none => false
      let mine := x.unacked.filter dual
      leaves (.bmeCleared l) s
        ((((d.modLink l fun x => { x with bme := false, unacked := x.unacked.filter fun w => !dual w }).raise
          (some (lkRidge l)) 35 0 (BitVec.ofNat 32 (lkBit l + 12))).modLink o fun y => { y with
            unacked := y.unacked ++ mine, reissued := satInc y.reissued mine.length
            pm := if mine ≠ [] ∧ y.pm = 1 then 0 else y.pm }))) ∧
    (x.up = false → leaves (.bmeSet l) s d ∧ (∀ p m k, leaves (.configurationWrite l p m k) s d) ∧ leaves (.linkEntersL1 l) s d) ∧
    (x.up = true →
      let c := d.modLink l fun x => { x with bme := true }
      leaves (.bmeSet l) s (((c.usedSeams.filter fun m => (c.seam m).entry.binds l).foldl
        (fun d m => (d.releaseHeld m).fetchSeam m) c).mqResume) ∧
      (x.pm = 0 → x.unacked = [] → leaves (.linkEntersL1 l) s (d.modLink l fun x => { x with pm := 1 }).govern) ∧
      (x.pm ≠ 0 ∨ x.unacked ≠ [] → leaves (.linkEntersL1 l) s d)) ∧
    (∀ pasid msix masked : Bool, x.up = true →
      let set := d.modLink l fun x => { x with pasidEn := pasid, msixEn := msix, fmask := masked }
      let entry := fun (v : Nat) => x.msix.getD v ⟨0, 0, true⟩
      let goes := fun (v : Nat) => x.pba.getLsbD v = true ∧ (entry v).masked = false
      (msix = false ∨ masked = true ∨ (∀ v, v < 64 → ¬goes v) → leaves (.configurationWrite l pasid msix masked) s set) ∧
      (∀ v, v < 64 → msix = true → masked = false → (∀ w, w < 64 → (goes w ↔ w = v)) →
        leaves (.configurationWrite l pasid msix masked) s (set.modLink l fun x => { x with
          pba := x.pba &&& ~~~(1#64 <<< v), pm := if x.pm = 1 then 0 else x.pm
          unacked := x.unacked ++ [⟨.msix, none, (entry v).addr, leBytes 4 (entry v).data.toNat⟩] })))

/-- Links that are lost and rise, and what the host sets in their functions (02:R46, 03:R59, R73 to R75, 04:R113, 14:R329, R330,
R402). -/
def Obligations.LinksComeAndGo : Prop := Claims.LinksAreLostAndRise ∧ Claims.LinkSettings

/-! ## Ridges that are lost, and the spine -/

/-- A ridge that a fatal error, spine silence or the thermal trip takes, serving or held out of service, leaves it with event
34, wiped and fenced, its keys gone and its neighbours' ports to it down; a homed seam waits for its mirror's takeover, or is
FAULTED without one; the takeover makes the mirror home and reads what was not recorded again; a copy that is done names the new
mirror; a spine transfer that fails is resent once, and loses its destination the second time (01:R19, R21, 14:R323, R326,
R328). -/
def Obligations.RidgesAreLost : Prop :=
  ∀ (s : State) (r : Nat),
    let d := s.dev
    let lost := fun (f : Nat → Dev) =>
      leaves (.ridgeLost r) s (f 1) ∧ leaves (.spineSilence r) s (f 2) ∧ leaves (.thermalTrip r) s (f 3)
    let stands := d.serves r = true ∨ (d.populated r = true ∧ (d.ridge r).power = 3 ∧ (d.ridge r).lost = false)
    (¬stands → lost fun _ => d) ∧
    (stands → (∀ m, (d.seam m).entry.state ≠ .free → d.homeOf m ≠ r ∧ d.mirrorOf m ≠ r) →
      (∀ m x, (m, x) ∈ d.seams → d.seam m = x) → (∀ j ∈ d.jobs, j.job.ridge ≠ r) → (∀ t ∈ d.mq.selftest, t.2.1 ≠ r) →
      d.mq.barrier = none → (r = 0 → d.linkA.up = false) → (r = 1 → d.linkB.up = false) → r < d.ridges.length →
      let out := (d.fence r).modRidges fun x => { x with rng := { x.rng with askedBy := x.rng.askedBy.filter (· != r) } }
      let out := if r < 2 then (out.modPower fun p => { p with unmirrored := true }).modLog fun g => g.alone (1 - r) else out
      lost fun cause => out.pkgEvent 34 (r + 256 * cause)) ∧
    (r < d.ridges.length →
      let x := (d.fence r).ridge r
      x.inService = false ∧ x.lost = true ∧ x.power = 3 ∧ x.sram = [] ∧ x.cache = [] ∧ x.kdu = none ∧ x.spine.key = none ∧
      x.rng.pool = [] ∧ x.rng.buf = [] ∧
      x.rng.int.state = 0 ∧ x.rng.host.state = 0 ∧ x.engines = List.replicate 33 Engine.reset ∧
      x.cores = List.replicate 4 Core.reset ∧ x.store = (d.ridge r).store ∧ x.world.deepUp = false ∧
      (∀ n, n < d.fuses.ridges → n < d.ridges.length → n < 8 → r < 8 → n ≠ r → (d.fence r).ridge n = { d.ridge n with
        spine := { (d.ridge n).spine with
          up := (d.ridge n).spine.up &&& (if hops n r = 1 then ~~~(BitVec.ofNat 3 (n ^^^ r)) else BitVec.allOnes 3) } })) ∧
    (∀ m, (∀ j ∈ d.jobs, j.job.seam ≠ m) →
      (d.mirrorOf m ≠ d.homeOf m → d.serves (d.mirrorOf m) = true →
        d.homeGone m = d.modRun m fun x => { x with takeover := true, remirror := none }) ∧
      (d.mirrorOf m = d.homeOf m ∨ d.serves (d.mirrorOf m) = false → d.homeGone m = d.seamFault m 0) ∧
      ((d.seam m).run.takeover = false → leaves (.ridgeTakeoverDone m) s d) ∧
      ((d.seam m).run.takeover = true → (d.seam m).run.queues.length = 4 → (d.seam m).run.heldPortal = [] →
        let home := d.modEntry m fun e => { e with home := .of e.mirror.val }
        leaves (.ridgeTakeoverDone m) s (((home.modRun m fun x => { x with
          takeover := false
          queues := x.queues.map fun (k : Queue) => { k with
            reported := k.head, reading := false, prefetch := k.prefetch.takeWhile fun f => f.mirrored } }).unmirror m).fetchSeam m))) ∧
    (∀ m, (d.unmirror m).mirrorOf m = d.homeOf m ∧
      (∀ n, ((d.unmirror m).seam m).run.remirror = some n → d.serves n = true ∧ n ≠ d.homeOf m)) ∧
    (∀ m,
      let target := match (d.seam m).run.remirror with
        | some n => some n
        | none => if (d.seam m).entry.state ≠ .free ∧ d.homeOf m = d.mirrorOf m ∧ d.serves (d.homeOf m) = true then
            d.mirrorFor m (d.homeOf m) else none
      (target = none → leaves (.remirrorCopyDone m) s d) ∧
      (∀ n, target = some n →
        let ends := d.modRun m fun x => { x with remirror := none }
        let mine := (d.ridge (d.homeOf m)).store.filter fun e => e.owner == some m
        (d.serves n = false → leaves (.remirrorCopyDone m) s (ends.unmirror m)) ∧
        (d.serves n = true → leaves (.remirrorCopyDone m) s
          ((((ends.modRidge n fun x => { x with store := (x.store.filter fun e => e.owner != some m) ++ mine }).checkFull n
            (d.granulesUsed n)).modEntry m fun e => { e with mirror := .of (BitVec.ofNat 3 n) }).ridgeEvent (d.homeOf m) 39 1
              (some m))))) ∧
    (∀ dst latency, let travels := d.trained = true ∧ d.keyed = true ∧ d.populated r = true ∧ d.populated dst = true ∧ r ≠ dst ∧
        (d.ridge r).lost = false ∧ (d.ridge dst).lost = false
      let sent := d.modRidge r fun x => { x with spine := { x.spine with seqs := x.spine.seqs.modify dst (· + 1) } }
      let port := fun (d : Dev) (r : Nat) (f : SpinePort → SpinePort) => d.modRidge r fun x => { x with spine := f x.spine }
      let receives := fun (authentic : Bool) => leaves (.spineTransferReceive r dst authentic latency) s
      let again := (d.ridge dst).spine.retry.contains r
      let failed := (port sent dst fun p => { p with authFails := satInc p.authFails }).tamper [⟨64 + 72 * dst + 9, 0⟩]
      (¬travels → receives true d ∧ receives false d) ∧
      (travels → hops r dst ≠ 1 → receives true (port sent dst fun p => { p with retry := p.retry.filter (· != r) })) ∧
      (∀ k, k < 3 → travels → r ^^^ dst = 2 ^ k →
        let v := BitVec.ofNat 16 (min latency 65535)
        receives true (port sent dst fun p => { p with
          retry := p.retry.filter (· != r)
          latMax := p.latMax.modify k fun m => if m.toNat < v.toNat then v else m
          lats := p.lats.modify k fun l => (v :: l).take 65536 })) ∧
      (travels → sent.classOfId (64 + 72 * dst + 9) ≠ 0 → receives false failed) ∧
      (travels → sent.classOfId (64 + 72 * dst + 9) = 0 →
        (again = true → receives false ((port failed dst fun p => { p with retry := p.retry.filter (· != r) }).loseRidge dst 4)) ∧
        (again = false → receives false
          (port (port failed dst fun p => { p with retry := p.retry ++ [r] }) r fun p => { p with resends := satInc p.resends }))))

/-! ## Supplies and power-up -/

namespace Sys2Proof.Claims

open Machine

/-- Some latched or held tamper event has at least class `n`. -/
abbrev latched (d : Dev) (n : Nat) : Prop := ∃ c ∈ d.vigil.log.map (·.cls) ++ d.pins.held.map (·.2), n ≤ c.toNat

/-- A state of the device in VIGIL, everything volatile reset (02:R48). -/
def dark (t : Dev) : Prop :=
  t.pins.inVigil = true ∧ t.mode = .of 7 ∧ t.live = .vigil ∧ t.jobs = [] ∧ t.mq = MQ.reset ∧ t.boot.step = 0 ∧
    t.unsealed = false ∧ t.access.dynAddr = none ∧ t.linkA.up = false ∧ t.linkB.up = false ∧
    (∀ x ∈ t.ridges, x.inService = false ∧ x.cores = List.replicate 4 Core.reset ∧ x.cache = [] ∧ x.sram = [] ∧
      x.kdu = none ∧ x.spine = SpinePort.reset ∧ x.engines = List.replicate 33 Engine.reset) ∧
    ∀ e ∈ t.power.pers, e.2.value = e.2.best.value ∧ e.2.waits = false

end Sys2Proof.Claims

/-- The supply pins: POR_N resets everything but the Vigil domain, MRAM and the fuses; PFW_N from step 5 is the power cut, which
flushes what pends and leaves the device in VIGIL until the feed has recovered; main power lost leaves it in VIGIL; the shipment
fuse turns FACTORY into BLANK for good (02:R37, R48, 12:R294, 16:R362 to R364, 18:R389). -/
def Obligations.SuppliesComeAndGo : Prop :=
  ∀ (s : State),
    let d := s.dev
    let low := d.modPins fun p => { p with pfwLow := true }
    leaves .pfwDeassert s (d.modPins fun p => { p with pfwLow := false }) ∧
    (d.pins.mainPower = false ∨ d.pins.cut = true ∨ d.pins.inVigil = true ∨ (d.boot.step < 5 ∧ d.boot.romHold = false) →
      leaves .pfwAssert s low) ∧
    (d.pins.mainPower = true → d.pins.cut = false → d.pins.inVigil = false → 5 ≤ d.boot.step ∨ d.boot.romHold = true →
      ∃ t, leaves .pfwAssert s t ∧ dark t ∧ t.pins.cut = true ∧ t.pins.mainPower = true ∧ t.power.pfw = true) ∧
    (∀ k, (assocGet d.power.pers k).isSome = true → (d.pers k).waits = true →
      let p := d.persFlush.pers k
      let written : PersCopy := ⟨(d.pers k).value, (d.pers k).best.seq + 1⟩
      p.value = (d.pers k).value ∧ p.waits = false ∧ p.copy0 = (if d.reaches 0 = true then written else (d.pers k).copy0) ∧
        p.copy1 = (if d.reaches 1 = true then written else (d.pers k).copy1)) ∧
    (d.pins.mainPower = false → leaves .porAssert s d ∧ leaves .mainPowerLost s d) ∧
    (d.pins.mainPower = true → d.pins.inVigil = true →
      leaves .porAssert s (d.modPins fun p => { p with porLow := true }) ∧
      leaves .mainPowerLost s ((d.modPower fun p => { p with pfw := false }).modPins fun p =>
        { p with mainPower := false, cut := false, porLow := false })) ∧
    (d.pins.mainPower = true → d.pins.inVigil = false →
      (∃ t, leaves .porAssert s t ∧ t.jobs = [] ∧ t.mq = MQ.reset ∧ t.linkA = Link.reset ∧ t.linkB = Link.reset ∧
        t.boot.step = 0 ∧ t.ridges = d.ridges.map (fun x => { Ridge.reset with store := x.store }) ∧
        t.vigil = { d.vigil with held := d.mode.val, merged := 0 } ∧ t.fuses = d.fuses ∧ t.fw = d.fw ∧ t.modeCopy = d.modeCopy ∧
        t.quorum.orders = d.quorum.orders ∧ t.log.recs = d.log.recs ∧ t.log.site = d.log.site ∧ t.log.mirror = d.log.mirror ∧
        t.log.mirrored = d.log.mirrored ∧ t.log.next = d.log.next ∧
        t.decode = d.decode ∧ t.clock = d.clock ∧ t.pins.porLow = true ∧
        (∀ k, (t.seam k).entry = (d.seam k).entry ∧ (t.seam k).run.keyCount = (d.seam k).run.keyCount ∧
          (t.seam k).run.snapshot = (d.seam k).run.snapshot)) ∧
      (∃ t, leaves .mainPowerLost s t ∧ dark t ∧ t.pins.mainPower = false ∧ t.pins.cut = false ∧
        (d.pins.porLow = true ∨ d.pins.pfwLow = true → t.vigil.vsalt = d.vigil.vsalt ∧ t.vigil.current = d.vigil.current ∧
          t.vigil.log = d.vigil.log ∧ t.tamp.latch = d.tamp.latch ∧ t.tamp.live = d.tamp.live ∧
          ∀ i, (t.ridge i).store = (d.ridge i).store))) ∧
    (d.pins.cut = true → d.pins.inVigil = true → d.pins.mainPower = true → d.pins.pfwLow = false →
      leaves .feedRecoveryTimeout s (d.modPins fun p => { p with cut := false })) ∧
    (d.live ≠ .factory ∨ d.pins.mainPower = false → leaves .shipmentFuseBlown s d) ∧
    (d.live = .factory → d.pins.mainPower = true →
      ∃ t, leaves .shipmentFuseBlown s t ∧ t.live = .blank ∧ t.fuses = { d.fuses with shipped := true } ∧
        ∀ r, d.populated r = true → r < d.ridges.length →
          (t.ridge r).rng.src0.tpsel = false ∧ (t.ridge r).rng.src1.tpsel = false)

/-- The power-up: with PFW_N low it stops at step 4 in the mode of 02:Table 2.6; without a valid image ridge 0 holds in its boot
ROM; with one, the ridges start, the sources run, the spine key is drawn, and the store is unsealed or scrubbed; at step 10 the
MQ and the portals are enabled, Keade takes Deep services, and a scrubbed device is BLANK (02:R36, R43 to R45, R49, 12:R289). -/
def Obligations.PowerUpRuns : Prop :=
  ∀ (s : State) (f : BootFacts),
    let d := s.dev
    (d.pins.cut = true → leaves (.powerUp f) s d) ∧
    (∀ rec, d.pins.cut = false → d.boot.step = 0 → d.boot.romHold = false → d.pins.pfwLow = true → f.vholdOk = true →
      d.vigil.current = some rec → d.modeCopy = some rec →
      ∃ t, leaves (.powerUp f) s t ∧ t.boot.step = 4 ∧ t.pins.inVigil = false ∧ t.pins.mainPower = true ∧
        t.vigil.proposed = none ∧ t.modeCopy = t.vigil.current ∧ (t.vigil.current.map (·.mode)) = some t.live ∧
        t.lastMode.latched = decide (∃ c ∈ d.vigil.log.map (·.cls) ++ d.pins.held.map (·.2), c ≠ 0) ∧
        t.lastMode.cause = (if d.pins.inVigil = true then 1 else 2) ∧
        (latched d 2 → t.vigil.vsalt = none ∧
          (rec.mode ∈ [.commission, .service, .freeze, .locked, .zeroized] → t.live = .zeroized ∧ t.boot.scrub = true)) ∧
        (rec.mode = .factory → t.live = .factory) ∧ (rec.mode = .blank → t.live = .blank) ∧
        (¬latched d 2 →
          (rec.mode = .commission → t.live = .blank ∧ t.vigil.vsalt = none) ∧
          (rec.mode = .service → if latched d 1 then t.live = .locked ∧ t.prior.val = 3 else t.live = .service) ∧
          (rec.mode = .freeze → if latched d 1 then t.live = .locked ∧ t.prior.val = 4 else t.live = .freeze) ∧
          (rec.mode = .locked → t.live = .locked ∧ t.prior.val = rec.prior) ∧
          (rec.mode = .zeroized → t.live = .zeroized ∧ t.boot.scrub = true ∧ t.pins.firedamp = true))) ∧
    (d.pins.cut = false → d.boot.step = 4 → d.boot.romHold = false → d.pins.pfwLow = false → d.pins.mainPower = true →
      let e := (d.bootRidges f).bootSources f
      (f.imageOk = (false, false) → leaves (.powerUp f) s (d.modBoot fun b => { b with romHold := true })) ∧
      (∀ n, d.bootSlot f = some n → (e.ridge e.boss).rng.int.state ≠ 0 →
        ∃ t, leaves (.powerUp f) s t ∧ t.boot.step = 9 ∧ t.vigil.log = []) ∧
      ((e.ridge e.boss).rng.int.state ≠ 0 → ∀ r, d.populated r = true → r < d.ridges.length → (e.ridge r).lost = false →
        (e.bootKey.ridge r).spine.key = some e.draws) ∧
      (∀ n, d.bootSlot f = some n → (e.ridge e.boss).rng.int.state = 0 → e.boot.step = 7 → leaves (.powerUp f) s e) ∧
      (∀ r, d.populated r = true → r < d.ridges.length → f.measDiffers = [] → f.katFails = [] →
        let x := (d.bootRidge f r).ridge r
        x.inService = true ∧ x.power = 2 ∧ x.world.meas = f.measured ∧ x.world.expected = f.measured ∧ x.world.line = .of 128 ∧
          x.engines = List.replicate 33 { Engine.reset with inService := true } ∧
          x.cores.map (·.deep) = (d.ridge r).cores.mapIdx fun c _ => c == 0)) ∧
    (∀ elapsed,
      let done := ((d.modBoot fun b => { b with step := 10, elapsed := BitVec.ofNat 16 elapsed }).modRidges fun x =>
        if x.inService = true ∧ x.lost = false then { x with world := { x.world with deepUp := true } } else x).pkgEvent 33
          (elapsed % 65536)
      (d.boot.step ≠ 9 → leaves (.powerUpComplete elapsed) s d) ∧
      (d.boot.step = 9 → d.boot.scrub = false → leaves (.powerUpComplete elapsed) s done.govern.mqFetch) ∧
      (d.boot.step = 9 → d.boot.scrub = true → ∃ t, leaves (.powerUpComplete elapsed) s t ∧ t.live = .blank ∧
        t.boot.step = 10 ∧ t.boot.scrub = false ∧ t.pins.zeroOut = false ∧ t.pins.firedamp = false ∧
        t.vigil.current.map (·.mode) = some .blank))

/-! ## Tamper -/

namespace Sys2Proof.Claims

open Machine

/-- One event of a source is recorded: LIVE, LATCH, the supply it tells of, the event with DETAIL, LAST; only the thermal
sources and the fault-injection detectors report a reading (13:R296, R314, R316). -/
def recorded (d : Dev) (h : TamperHit) : Dev :=
  let cls := d.classOfId h.id
  (((d.markSource h.id).markSupply h.id false).raise (if h.id < 32 then none else some ((h.id - 64) / 72)) h.id cls
    (BitVec.ofNat 32 ((if h.id ≥ 64 ∧ (h.id - 64) % 72 ∈ [3, 4, 7] then h.reading.toNat else 0) + cls.toNat * 65536 +
      d.live.bits.toNat * 2 ^ 24))).modTamp fun t =>
      { t with lastId := BitVec.ofNat 10 h.id, lastClass := cls }

/-- No job and no management command is under way. -/
def idle (d : Dev) : Prop := d.jobs = [] ∧ d.mq.cmds = []

/-- The condition of a source clears: its LIVE bit drops, and a cell or the crystal is whole again (13:R296, R312). -/
def cleared (d : Dev) (id : Nat) : Dev :=
  let d := if id < 32 then d.modTamp fun t => { t with live := t.live &&& ~~~(1#32 <<< id) }
    else d.modRidge ((id - 64) / 72) fun x => { x with live := x.live &&& ~~~(1#16 <<< ((id - 64) % 72)) }
  d.modVigil fun v => { v with
    cellA := if id = 16 then true else v.cellA, cellB := if id = 17 then true else v.cellB
    xtalOk := if id = 20 then true else v.xtalOk }

end Sys2Proof.Claims

/-- Tamper events with main power present: each armed source of the variant that is neither fused off nor in its condition
already is recorded, in ascending ID, stamped with its spine cycle; before step 3 they are held, later the highest class acts
once: L and Z move the mode as 02:Table 2.4 gives, cut the jobs but spare the commands that execute an order in the same cycle,
and Z drives TAMPER_OUT_N and wipes every ridge (01:R18, 02:R37, R38, 13:R296, R298, R299, R304, R305, R307, R312). -/
def Obligations.TamperResponses : Prop :=
  ∀ (s : State) (hits : List TamperHit) (orders : List Nat),
    let d := s.dev
    let hs := d.raising hits
    let armed := fun (i : Nat) => i < 64 ∨
      (((i - 64) % 72 = 7 → 7 ≤ d.boot.step) ∧ ((i - 64) % 72 = 8 → 4 ≤ d.boot.step) ∧ ((i - 64) % 72 = 9 → 6 ≤ d.boot.step))
    let seen := hs.foldl recorded (if hs = [] then d else d.stampTamper)
    let out := fun (e : Dev) => e.modPins fun p => { p with tamperOut := some (e.clock + e.tamp.outMs.val.toNat * 1000000) }
    let watching := d.pins.inVigil = false ∧ d.pins.mainPower = true
    (hs.Pairwise (fun a b => a.id < b.id)) ∧
    (∀ i, i < 640 → ((∃ h ∈ hs, h.id = i) ↔
      (∃ h ∈ hits, h.id = i) ∧ d.isSource i = true ∧ armed i ∧ d.fusedOff i = false ∧ d.isLive i = false)) ∧
    (d.stampTamper.stamps.tamper = some (d.stampTamper.clock / 5) ∧ d.clock ≤ d.stampTamper.clock ∧
      ∀ c, d.stamps.classWrite = some c ∨ d.stamps.order = some c ∨ d.stamps.tamper = some c → c ≤ d.clock / 5 →
        c < d.stampTamper.clock / 5) ∧
    (¬watching → leaves (.tamperEvent ⟨hits, orders⟩) s d) ∧
    (watching → d.boot.step < 3 → leaves (.tamperEvent ⟨hits, orders⟩) s
      (seen.modPins fun p => { p with held := p.held ++ hs.map fun h => (h.id, d.classOfId h.id) })) ∧
    (watching → 3 ≤ d.boot.step → ∀ cls : BitVec 2, (∀ h ∈ hs, (d.classOfId h.id).toNat ≤ cls.toNat) →
      (cls = 0 ∨ ∃ h ∈ hs, d.classOfId h.id = cls) → leaves (.tamperEvent ⟨hits, orders⟩) s (seen.respond cls orders)) ∧
    (∀ e : Dev, e.respond 0 orders = e ∧
      (e.live ∈ [.locked, .zeroized, .vigil] → e.respond 1 orders = e) ∧
      (e.jobs = [] → (∀ c ∈ e.mq.cmds, c.waiting = false ∧ (c.started = true → c.index.toNat ∈ orders ∧ c.bad = none ∧
          c.desc.opcode.toNat ∈ [0x8007, 0x8021, 0x8041, 0x8050, 0x8051, 0x8052])) →
        ∀ hold, (e.cut 0x0702 hold orders).mq.cmds = e.mq.cmds) ∧
      (let o := if e.tamp.outOnL.val = 1 then out e else e;
        (e.live = .service → e.respond 1 orders = (o.changeMode .locked 3).cut 0x0702 true orders) ∧
        (e.live = .freeze → e.respond 1 orders = (o.changeMode .locked 4 o.exported).cut 0x0702 true orders) ∧
        (e.live = .commission → e.respond 1 orders = (o.discardCommission.changeMode .blank).cut 0x0702 true orders) ∧
        (e.live = .factory ∨ e.live = .blank → e.respond 1 orders = o.cut 0x0702 true orders)) ∧
      (idle e → (e.live = .service → (e.respond 1 orders).live = .locked ∧ (e.respond 1 orders).prior.val = 3) ∧
        (e.live = .freeze → (e.respond 1 orders).live = .locked ∧ (e.respond 1 orders).prior.val = 4) ∧
        (e.live = .commission → (e.respond 1 orders).live = .blank ∧ (e.respond 1 orders).vigil.vsalt = none) ∧
        (e.live = .factory ∨ e.live = .blank → (e.respond 1 orders).live = e.live)) ∧
      ∀ cls : BitVec 2, 2 ≤ cls.toNat → e.live ≠ .vigil →
        let z := e.respond cls orders
        (idle e → z.pins.tamperOut = (out e).pins.tamperOut ∧
          (e.live = .factory ∨ e.live = .blank → z.live = e.live) ∧
          (e.live ∈ [.commission, .service, .freeze, .locked, .zeroized] → z.live = .zeroized ∧ z.pins.firedamp = true) ∧
          (e.live ∈ [.commission, .service, .freeze, .locked] → z.vigil.vsalt = none ∧ z.pins.zeroOut = true)) ∧
        z.unsealed = false ∧
        ∀ r, z.populated r = true → r < z.ridges.length →
          (z.ridge r).cache = [] ∧ (z.ridge r).kdu = none ∧ (z.ridge r).spine.key = none ∧
            (∀ u ∈ (z.ridge r).engines, u.ram = .zero ∧ u.slotRam = .zero ∧ u.buffer = []) ∧
            (z.ridge r).rng.int.state = 0 ∧ (z.ridge r).rng.host.state = 0 ∧
            ∀ a, a < (z.ridge r).lineByte → memRead (z.ridge r).sram a = 0) ∧
    (∀ id, (d.isSource id = false → leaves (.tamperConditionCleared id) s d) ∧
      (d.isSource id = true → leaves (.tamperConditionCleared id) s (cleared d id))) ∧
    (d.pins.tamperOut = none → leaves .tamperOutExpiry s d) ∧
    (∀ t, d.pins.tamperOut = some t →
      leaves .tamperOutExpiry s ((d.modPins fun p => { p with tamperOut := none }).reach t)) ∧
    (¬watching → ∀ pass, leaves (.vholdCheck pass) s d) ∧
    (watching → leaves (.vholdCheck true) s ((cleared d 19).modVigil fun v => { v with vholdOk := true }) ∧
      leaves (.vholdCheck false) s ((d.modVigil fun v => { v with vholdOk := false }).tamper [⟨19, 0⟩]))

/-- The Vigil domain in VIGIL: an event is recorded in its log, a repeat counts, a full log gives up its oldest class N record; L
and Z move the stored mode, and Z erases VSALT; the loss of the last cell erases the record too; a window of SAMPLED mode sees
what is present and drops the rest (13:R299, R310 to R313). -/
def Obligations.VigilWatches : Prop :=
  ∀ (s : State),
    let d := s.dev
    let v := d.vigil
    let stored := (v.current.map (·.mode)).getD .blank
    let supplied := d.pins.mainPower = true ∨ v.cellA = true ∨ v.cellB = true
    (∀ x : VRec,
      (∀ y, v.log.getLast? = some y → y.id = x.id →
        v.record x = { v with log := v.log.dropLast ++ [{ y with count := satInc y.count }] }) ∧
      ((∀ y, v.log.getLast? = some y → y.id ≠ x.id) →
        (v.log.length < 32 → v.record x = { v with log := v.log ++ [x] }) ∧
        (32 ≤ v.log.length → (∀ y ∈ v.log, y.cls ≠ 0) → v.record x = { v with lost := satInc v.lost }) ∧
        (∀ pre y post, 32 ≤ v.log.length → v.log = pre ++ y :: post → y.cls = 0 → (∀ z ∈ pre, z.cls ≠ 0) →
          v.record x = { v with log := pre ++ post ++ [x] }))) ∧
    (∀ id, ¬supplied ∨ d.pins.inVigil = false → leaves (.vigilTamperEvent id) s d) ∧
    (∀ id, supplied → d.pins.inVigil = true → d.watched id = true → d.isLive id = false →
      (id = 18 → d.pins.mainPower = true) → (d.pins.mainPower = true ∨ (id = 16 → v.cellB = true) ∧ (id = 17 → v.cellA = true)) →
      let cls := if (id = 16 ∨ id = 17) ∧ d.tamp.vigilMode.val = 1 then 0 else d.classOfId id
      ∃ t, leaves (.vigilTamperEvent id) s t ∧ t.vigil.log = (v.record ⟨id, cls, d.clock, 0, stored⟩).log ∧
        t.tamp.lastId = BitVec.ofNat 10 id ∧ t.tamp.lastClass = cls ∧
        (cls.toNat < 2 → t.vigil.vsalt = v.vsalt ∧ t.pins.zeroOut = d.pins.zeroOut) ∧
        (2 ≤ cls.toNat → t.vigil.vsalt = none ∧
          t.pins.tamperOut = some (d.clock + d.tamp.outMs.val.toNat * 1000000) ∧
          (stored ∈ [.commission, .service, .freeze, .locked, .zeroized] → t.pins.zeroOut = true)) ∧
        ∀ rec, v.current = some rec → t.vigil.current.map (·.mode) = some (
          if cls = 1 then (if rec.mode = .service ∨ rec.mode = .freeze then .locked else rec.mode)
          else if 2 ≤ cls.toNat ∧ rec.mode ∈ [.commission, .service, .freeze, .locked] then .zeroized else rec.mode)) ∧
    (d.pins.mainPower = true ∨ d.isLive 18 = true → leaves .bothCellsLost s d) ∧
    (d.pins.mainPower = false → d.isLive 18 = false → d.pins.inVigil = true →
      ∃ t, leaves .bothCellsLost s t ∧ (supplied → leaves (.vigilTamperEvent 18) s t) ∧ t.vigil.vsalt = none ∧ t.vigil.current = none ∧
        t.pins.zeroOut = true ∧ t.vigil.cellA = false ∧ t.vigil.cellB = false ∧ t.isLive 18 = true ∧
        t.vigil.log = (v.record ⟨18, d.classOfId 18, d.clock, 0, stored⟩).log) ∧
    (∀ present, d.pins.mainPower = true ∨ ¬supplied → leaves (.vigilSampleWindow present) s d) ∧
    (∀ present, d.pins.mainPower = false → supplied → d.pins.inVigil = true → d.tamp.vigilMode.val = 1 → 0 < d.ridges.length →
      ∃ t, leaves (.vigilSampleWindow present) s t ∧
        (∀ id ∈ List.range 22 ++ [67, 68], id ≠ 18 → id ∉ present → t.isLive id = false) ∧
        (∀ id ∈ present, id ≠ 18 → d.watched id = true → t.isLive id = true))

/-! ## Registers -/

namespace Sys2Proof.Claims

open Machine

/-- A write of a link that takes no effect: event 41 with the offset and the link (00:R9, 17:R370). -/
def ignored (d : Dev) (l : Lk) (off : Nat) : Dev :=
  d.raise (some (lkRidge l)) 41 0 (BitVec.ofNat 32 (off + lkBit l * 2 ^ 20))

/-- A persistent register takes a value: reads return it at once; on both mirrors it is committed where the last commit is 1 ms
past, else it pends, and a pending value that is replaced counts (16:R366). -/
def persisted (d : Dev) (k : Nat) (v : W64) : Dev :=
  let p := d.pers k
  let free := ∀ t, p.last = some t → t + 1000000 ≤ d.clock
  let c : PersCopy := ⟨v, p.best.seq + 1⟩
  d.modPower fun x => if free
    then { x with
      pers := assocSet x.pers k
        ⟨v, if d.reaches 0 = true then c else p.copy0, if d.reaches 1 = true then c else p.copy1, false, some d.clock⟩ }
    else { x with
      pers := assocSet x.pers k { p with value := v, waits := true }
      coalesced := if p.waits then satInc x.coalesced else x.coalesced }

end Sys2Proof.Claims

/-- A write of a class register judges each field on its own: a fused-off source's ignores it; 3 and values below the floor are
refused; a raise stands at once; a lowering needs the armed CLASS_LOWER that names it, and consumes it; two links with two values
are both refused; the field and its shadow change, and no other field. The write is stamped with its cycle (01:R18, 09:R227,
13:R301 to R303). -/
def Obligations.ClassWrites : Prop :=
  ∀ (s : State) (perRidge : Bool) (a b : Option W64),
    let d := s.dev
    let off := if perRidge then 0x80008 else 0x80000
    let first := if perRidge then 64 else 0
    let a' := if d.linkA.up then a else none
    let b' := if d.linkB.up then b else none
    let c := if a' = none ∧ b' = none then d else stamped d
    let base := if a' = none ∧ b' = none then d else { c with stamps := { c.stamps with classWrite := some (c.clock / 5) } }
    let t := (List.range (if perRidge then 10 else 22)).foldl (fun d k => d.classField (first + k) (2 * k) a' b') base
    let same := t.tamp.classPkg = d.tamp.classPkg ∧ t.tamp.classRidge = d.tamp.classRidge
    (d.boot.step = 10 → same → leaves (.tampClassWrite perRidge a b) s t) ∧
    (d.boot.step = 10 → perRidge = false → t.tamp.classPkg ≠ d.tamp.classPkg →
      leaves (.tampClassWrite perRidge a b) s (persisted t 1024 t.tamp.classPkg.val)) ∧
    (d.boot.step = 10 → perRidge = true → t.tamp.classRidge ≠ d.tamp.classRidge →
      leaves (.tampClassWrite perRidge a b) s (persisted t 1025 (t.tamp.classRidge.val.setWidth 64))) ∧
    (d.boot.step ≠ 10 → leaves (.tampClassWrite perRidge a b) s
      (let e := if a'.isSome then ignored c .a off else c; if b'.isSome then ignored e .b off else e)) ∧
    (∀ (e : Dev) (k : Nat), k < (if perRidge then 10 else 22) →
      let id := first + k
      let get := fun (v : W64) => v.extractLsb' (2 * k) 2
      let one := fun (v : W64) (f : Dev) => e.classField id (2 * k) (some v) none = f ∧
        e.classField id (2 * k) none (some v) = f ∧ e.classField id (2 * k) (some v) (some v) = f
      let refused := fun (v : W64) => e.pkgEvent 42 (id + (get v).toNat * 1024)
      let now := e.classOfId id
      let floor := if id ∈ [18, 21, 69, 70, 72] then 1 else 0
      e.classField id (2 * k) none none = e ∧
      (e.fusedOff id = true → ∀ v w, e.classField id (2 * k) (some v) (some w) = e ∧ one v e) ∧
      (e.fusedOff id = false → ∀ v : W64,
        ((get v).toNat = 3 ∨ (get v).toNat < floor → one v (refused v)) ∧
        ((get v).toNat ≠ 3 → floor ≤ (get v).toNat →
          (get v = now → one v e) ∧
          (now.toNat < (get v).toNat → (e.live = .zeroized → one v (refused v)) ∧
            (e.live ≠ .zeroized → one v (e.setClass id (get v)))) ∧
          ((get v).toNat < now.toNat →
            ((∀ o ∈ e.quorum.orders, ¬(o.state = .armed ∧ o.kind = 7 ∧ field o.body 0 2 = id ∧ field o.body 2 1 = (get v).toNat)) →
              one v (refused v)) ∧
            (∀ pre o post, e.quorum.orders = pre ++ o :: post →
              (o.state = .armed ∧ o.kind = 7 ∧ field o.body 0 2 = id ∧ field o.body 2 1 = (get v).toNat) →
              (∀ p ∈ pre, p.num ≠ o.num ∧
                ¬(p.state = .armed ∧ p.kind = 7 ∧ field p.body 0 2 = id ∧ field p.body 2 1 = (get v).toNat)) →
              let executes : Dev := { e with stamps := { e.stamps with order := some (e.clock / 5) } }
              one v (((executes.setOrder o.num .done).supersede o).setClass id (get v)))))) ∧
      (e.fusedOff id = false → ∀ v w : W64, get v ≠ get w → e.classField id (2 * k) (some v) (some w) =
        (e.modQuorum fun q => { q with conflicts := satInc q.conflicts }).pkgEvent 43
          (id + (get v).toNat * 1024 + (get w).toNat * 4096)) ∧
      (e.fusedOff id = false → ∀ c : BitVec 2, (e.setClass id c).classOfId id = c ∧
        (e.setClass id c).tamp.classPkg.inv = (if perRidge then e.tamp.classPkg.inv else ~~~(e.setClass id c).tamp.classPkg.val) ∧
        (e.setClass id c).tamp.classRidge.inv = (if perRidge then ~~~(e.setClass id c).tamp.classRidge.val else e.tamp.classRidge.inv) ∧
        ∀ j, j < (if perRidge then 10 else 22) → j ≠ k → (e.setClass id c).classOfId (first + j) = e.classOfId (first + j)))

/-- TAMP.CTRL and the registers that only COMMISSION changes, the completion timeout and the latency latches: each field changes
in the modes the rules name, a change refused and a write without effect are event 41, and persistent values are kept under the
commit rule (11:R263, 12:R290, 13:R317, 16:R366, 17:R375, R378, R380). -/
def Obligations.ConfigurationWrites : Prop :=
  ∀ (s : State) (l : Lk) (v : W64),
    let d := s.dev
    let c := stamped d
    let x := d.tamp
    let up := (d.link l).up = true
    let ctrl := leaves (.tampCtrlWrite l v) s
    let packed := fun (t : Tamp) => t.vigilMode.val.toNat + t.outOnL.val.toNat * 2 + t.outMs.val.toNat * 256 + t.tinPol.val.toNat * 65536
    let judged := fun (t : Tamp) =>
      let e := if t = x then c else persisted (c.modTamp fun _ => t) 1026 (BitVec.ofNat 64 (packed t))
      if t = x ∨ packed t ≠ (v &&& 0xFFFF03).toNat then ignored e l 0x80018 else e
    let commission : Tamp := { x with
      vigilMode := .of (v.extractLsb' 0 1), outOnL := .of (v.extractLsb' 1 1), tinPol := .of (v.extractLsb' 16 8)
      outMs := if v.extractLsb' 8 8 = 0 then x.outMs else .of (v.extractLsb' 8 8) }
    let service : Tamp := { x with
      vigilMode := if v.getLsbD 0 then x.vigilMode else .of 0, outOnL := if v.getLsbD 1 then .of 1 else x.outOnL }
    (¬up → ctrl d ∧ leaves (.cacheModeWrite l v) s d ∧ leaves (.neighbourWrite l v) s d ∧ leaves (.cplTimeoutWrite l v) s d) ∧
    (up → d.boot.step ≠ 10 → ctrl (ignored c l 0x80018) ∧ leaves (.cacheModeWrite l v) s (ignored c l 0xD0008) ∧
      leaves (.neighbourWrite l v) s (ignored c l 0x70000)) ∧
    (up → d.boot.step = 10 →
      (d.live = .commission → ctrl (judged commission)) ∧
      (d.live = .service → ctrl (judged service)) ∧
      (d.live ≠ .commission → d.live ≠ .service → ctrl (ignored c l 0x80018)) ∧
      (d.live = .commission → 0 < d.fuses.ridges →
        leaves (.cacheModeWrite l v) s (persisted { c with cacheMode := v.getLsbD 0 } 1027 (v &&& 1))) ∧
      (d.live = .commission → leaves (.neighbourWrite l v) s (persisted { c with neighbour := v.getLsbD 0 } 1028 (v &&& 1))) ∧
      (d.live ≠ .commission → (0 < d.fuses.ridges → leaves (.cacheModeWrite l v) s (ignored c l 0xD0008)) ∧
        leaves (.neighbourWrite l v) s (ignored c l 0x70000))) ∧
    (up → let u := v.extractLsb' 0 10
      (1 ≤ u.toNat ∧ u.toNat ≤ 1000 → leaves (.cplTimeoutWrite l v) s { c with cplTimeout := u }) ∧
      (u.toNat = 0 ∨ 1000 < u.toNat → leaves (.cplTimeoutWrite l v) s (ignored c l 0x10000))) ∧
    (∀ r, r < 8 → d.populated r = true →
      (d.boot.step = 10 → leaves (.spineClrLat r) s (c.modRidge r fun y => { y with
        spine := { y.spine with latMax := List.replicate 3 0 } })) ∧
      (d.boot.step < 4 → leaves (.spineClrLat r) s d) ∧
      (4 ≤ d.boot.step → d.boot.step ≠ 10 → leaves (.spineClrLat r) s (ignored c .a (0xE1018 + 0x1000 * r)))) ∧
    (∀ word, word < 1024 →
      (d.boot.step = 10 → leaves (.persWordWrite word v) s (persisted c word v)) ∧
      (d.boot.step < 4 → leaves (.persWordWrite word v) s d) ∧
      (4 ≤ d.boot.step → d.boot.step ≠ 10 → leaves (.persWordWrite word v) s (ignored c .a (0xC0000 + 8 * word)))) ∧
    (∀ slot, let p := d.pers (persCode slot)
      let t := d.reach ((p.last.getD 0) + 1000000)
      (p.waits = false → leaves (.persPendingCommit slot) s d) ∧
      let c : PersCopy := ⟨p.value, p.best.seq + 1⟩
      (p.waits = true → leaves (.persPendingCommit slot) s (t.modPower fun x => { x with
        pers := assocSet x.pers (persCode slot)
          ⟨p.value, if d.reaches 0 = true then c else p.copy0, if d.reaches 1 = true then c else p.copy1, false, some t.clock⟩ })))

/-- Any host write by its address: eight bytes at a register's offset do what its own command does; whole words go in ascending
address, all of the command's cycle; of two links that write one register in a cycle A's stands first, and their writes of a
class register are judged together; read-only and reserved offsets, other sizes and early writes take no effect, the latter two
logged; a portal page hands its ring registers on (01:R18, 03:Table 3.1, 09:R227, 15:R346, 16:Table 16.5, 17:R370, R371, R373,
R375). -/
def Obligations.WritesByAddress : Prop :=
  ∀ (s : State) (l : Lk) (w : BitVec 512),
    let d := s.dev
    let c := stamped d
    let v : W64 := w.extractLsb' 0 64
    let writes := fun (off size : Nat) => .registerWrite l off size ⟨w, none⟩
    let at8 := fun (off : Nat) => exec (writes off 8) s
    let makes := fun (off : Nat) (t : Dev) => leaves (writes off 8) s t
    let page := fun (m o : Nat) => 0x100000 + 0x1000 * m + o
    let word := fun (e : Dev) (off : Nat) (v : W64) =>
      e.writeBoth off (if l = .a then some v else none) (if l = .b then some v else none)
    ((d.link l).up = false → ∀ off size, leaves (writes off size) s d) ∧
    at8 0x10000 = exec (.cplTimeoutWrite l v) s ∧ at8 0x60000 = exec (.pwrEnvelopeWrite l v) s ∧
    at8 0x70000 = exec (.neighbourWrite l v) s ∧ at8 0x80018 = exec (.tampCtrlWrite l v) s ∧
    at8 0xD0008 = exec (.cacheModeWrite l v) s ∧ at8 0x20010 = exec (if v.getLsbD 9 then .mqEnable l v else .mqDisable l v) s ∧
    at8 0x20018 = exec (.mqSqTailWrite l v) s ∧ at8 0x20020 = exec (.mqCqHeadWrite l v) s ∧
    (∀ perRidge : Bool, at8 (if perRidge then 0x80008 else 0x80000) =
      exec (.tampClassWrite perRidge (if l = .a then some v else none) (if l = .b then some v else none)) s) ∧
    (∀ m, m < 8192 → (∀ q, q < 4 → at8 (page m (8 * q)) = exec (.sqTailWrite l m q 8 v) s) ∧
      at8 (page m 0x40) = exec (.cqHeadWrite l m 8 v) s ∧ at8 (page m 0xC0) = exec (.prefetchInvalWrite l m 8 v) s) ∧
    ((d.link l).up = true → d.boot.step = 10 →
      makes 0x30008 (c.modLink l fun x => { x with qrmSel := v.setWidth 32 }) ∧
      makes 0x40000 (c.modLink l fun x => { x with seamSel := v.setWidth 13 }) ∧
      makes 0x50000 (c.modLink l fun x => { x with arbSel := v.setWidth 15 }) ∧
      makes 0x60018 (c.modPower fun p => { p with sleepUs := v.setWidth 16 }) ∧
      makes 0x80028 (c.modTamp fun t => { t with latch := t.latch &&& ~~~(v.setWidth 32) }) ∧
      makes 0x90000 (c.modLog fun g => { g with cursor := v.setWidth 32 }) ∧
      (∀ id, d.idExists id = true → id < 640 → makes (0xB0000 + 8 * id) (c.modLog fun g => { g with
        routes := g.routes.set id ⟨v.extractLsb' 0 6, v.getLsbD 7, v.getLsbD 8, v.getLsbD 9⟩ })) ∧
      (∀ off, off % 8 = 0 → off ≤ 0x70 ∨ (0x30010 ≤ off ∧ off ≤ 0x30030) ∨ off = 0x80010 ∨ off = 0xC2000 ∨ off = 0xE0000 →
        makes off c) ∧
      (∀ off, off % 8 = 0 → (0x70 < off ∧ off < 0x10000) ∨ (0xC2000 < off ∧ off < 0xD0000) → makes off (ignored c l off)) ∧
      (∀ off size, off < 0x100000 → size ≠ 4 → off % 8 ≠ 0 ∨ size % 8 ≠ 0 ∨ size = 0 ∨ 64 < size →
        leaves (writes off size) s (ignored c l off)) ∧
      (∀ off, off < 0x100000 → off < 0xF0000 ∨ off % 4 ≠ 0 → leaves (writes off 4) s (ignored c l off)) ∧
      (∀ off, 0xF0000 ≤ off → off < 0x100000 → off % 4 = 0 →
        leaves (writes off 4) s (c.msixWord l (off % 0x10000) (w.extractLsb' 0 32))) ∧
      (∀ off, off % 8 = 0 → off + 8 < 0x100000 → makes off (word c off v) ∧
        leaves (writes off 16) s (word (word c off v) (off + 8) (w.extractLsb' 64 64)))) ∧
    (∀ (off : Nat) (o : BitVec 512), off % 8 = 0 → off < 0x100000 → d.linkA.up = true → d.linkB.up = true →
      let b : W64 := o.extractLsb' 0 64
      exec (.registerWrite .b off 8 ⟨o, some w⟩) s = exec (.registerWrite .a off 8 ⟨w, some o⟩) s ∧
      (d.boot.step = 10 → off = 0x80000 ∨ off = 0x80008 →
        exec (.registerWrite .a off 8 ⟨w, some o⟩) s = exec (.tampClassWrite (off == 0x80008) (some v) (some b)) s) ∧
      (d.boot.step ≠ 10 ∨ off ∉ [0x80000, 0x80008] →
        leaves (.registerWrite .a off 8 ⟨w, some o⟩) s ((c.writeBar0 .a off v).writeBar0 .b off b))) ∧
    ((d.link l).up = true → d.boot.step ≠ 10 → ∀ off, off % 8 = 0 → off < 0x100000 →
      off / 0x10000 ∉ [1, 2, 9, 0xB] → off ≠ 0x60000 → makes off (ignored c l off))

/-! ## Power, sleep and wake -/

/-- The ceilings and the host's gating requests: a value from 6 W to the variant's maximum stands, is event 54 where it differs,
and the governor acts; another is event 41; a request on a block is obeyed, or deferred and logged while Deep claims it
(11:R276, 16:R358, R361). -/
def Obligations.CeilingsAndGates : Prop :=
  ∀ (s : State) (v : W64),
    let d := s.dev
    let c := stamped d
    let w := v.toNat % 128
    let top := if d.fuses.ridges ≤ 2 then 14 else if d.fuses.ridges ≤ 4 then 29 else 56
    let fits := 6 ≤ w ∧ w ≤ top
    let ceiling := fun (d : Dev) => min d.power.envelope d.power.bmcCap
    let logged := fun (e : Dev) => (e.pkgEvent 54 (ceiling e)).govern (decide (ceiling d < ceiling e))
    (∀ l,
      ((d.link l).up = false → leaves (.pwrEnvelopeWrite l v) s d) ∧
      ((d.link l).up = true → ¬fits → leaves (.pwrEnvelopeWrite l v) s (ignored c l 0x60000)) ∧
      ((d.link l).up = true → fits →
        let e := persisted (c.modPower fun p => { p with envelope := w }) 1029 (BitVec.ofNat 64 w)
        leaves (.pwrEnvelopeWrite l v) s (if w = d.power.envelope then e else logged e))) ∧
    (let answers := d.pins.mainPower = true ∧ d.pins.inVigil = false ∧ 2 ≤ d.boot.step ∧ d.access.instruction ≠ 3;
      (¬answers → leaves (.bmcCapWrite v) s d) ∧
      (answers → ¬fits → leaves (.bmcCapWrite v) s (d.pkgEvent 41 0x60008)) ∧
      (answers → fits → leaves (.bmcCapWrite v) s
        (if w = d.power.bmcCap then d else logged (d.modPower fun p => { p with bmcCap := w })))) ∧
    (∀ l, 5 ≤ d.boot.step → ((d.readBar0 l 0x60010).getLsbD 24 = decide (1000 * ceiling d < d.charge))) ∧
    (d.charge ≤ 1000 * min d.power.envelope d.power.bmcCap →
      ∀ r, r < d.fuses.ridges → r < d.ridges.length →
        (d.govern.ridge r).throttled = (d.ridge r).throttled ∧ ((d.govern true).ridge r).throttled = 0) ∧
    (∀ r, r < 8 → d.populated r = true →
      let x := d.ridge r
      let new := v.extractLsb' 0 33
      let asked := c.modRidge r fun x => { x with gateReq := new }
      let bit := fun (b : Nat) => 1#33 <<< b
      (d.boot.step < 4 → leaves (.pwrGateWrite r v) s d) ∧
      (4 ≤ d.boot.step → d.boot.step ≠ 10 → leaves (.pwrGateWrite r v) s (ignored c .a (0x60100 + 8 * r))) ∧
      (d.boot.step = 10 → new = x.gateReq → leaves (.pwrGateWrite r v) s asked) ∧
      (∀ b, b < 33 → d.boot.step = 10 → new = x.gateReq ^^^ bit b →
        (new.getLsbD b = false → leaves (.pwrGateWrite r v) s (asked.modRidge r fun x => { x with
          gateOn := x.gateOn &&& ~~~bit b
          world := { x.world with
            deferPending := x.world.deferPending &&& ~~~bit b, deferValue := x.world.deferValue &&& ~~~bit b } })) ∧
        (new.getLsbD b = true → x.world.claim.getLsbD b = false →
          leaves (.pwrGateWrite r v) s (asked.modRidge r fun x => { x with gateOn := x.gateOn ||| bit b })) ∧
        (new.getLsbD b = true → x.world.claim.getLsbD b = true →
          leaves (.pwrGateWrite r v) s ((asked.modRidge r fun x => { x with
            world := { x.world with
              deferPending := x.world.deferPending ||| bit b, deferValue := x.world.deferValue &&& ~~~bit b
              deferTotal := satInc x.world.deferTotal } }).ridgeEvent r 51
                (b + if x.world.deferPending.getLsbD b then 64 else 0)))))

/-- Clusters and ridges at rest: an idle cluster is gated, a given one wakes and its jobs start; a ridge sleeps when nothing of
16:R356 holds it awake; each cause of R357 wakes it, a dispatcher's only under the admission rule; a PLL that does not lock is
tried once more, then the ridge is lost (16:R354 to R357, R360). -/
def Obligations.SleepAndWake : Prop :=
  ∀ (s : State) (r : Nat),
    let d := s.dev
    let x := d.ridge r
    let here := d.serves r = true
    let power := fun (p : BitVec 2) => d.modRidge r fun x => { x with power := p }
    (∀ c, let busy := ∃ b ∈ clusterBlocks c, (x.engine b).running ≠ none ∨ (x.engine b).slot ≠ none ∨ (x.engine b).testing = true
      let gates := here ∧ x.power = 2 ∧ c < 7 ∧ x.waking.getLsbD c = false ∧ ¬busy;
      (gates → leaves (.clusterIdleGate r c) s (d.modRidge r fun x => { x with gated := x.gated ||| (1#7 <<< c) })) ∧
      (¬gates → leaves (.clusterIdleGate r c) s d) ∧
      (x.waking.getLsbD c = false ∨ 7 ≤ c → leaves (.clusterWakeDone r c) s d) ∧
      (x.waking.getLsbD c = true → c < 7 → leaves (.clusterWakeDone r c) s
        ((clusterBlocks c).foldl (fun d b => d.promote r b) (d.modRidge r fun x => { x with
          gated := x.gated &&& ~~~(1#7 <<< c), waking := x.waking &&& ~~~(1#7 <<< c) })))) ∧
    (∀ b, ((x.engine b).running ≠ none ∨ (x.engine b).slot = none → d.promote r b = d) ∧
      (∀ n, (x.engine b).running = none → (x.engine b).slot = some n → d.promote r b =
        let set := fun (b : Nat) (f : Engine → Engine) (x : Ridge) => { x with engines := x.engines.modify b f }
        (d.modRidge r fun x => (pairedCores b).foldl (fun x k => set k (fun e => { e with bank := some n }) x)
          (set b (fun e => { e with
            running := some n, slot := none, ram := e.slotRam, slotRam := .zero, perms := 0
            buffer := ((d.job? n).map fun j => j.job.buffered b).getD [] }) x)).modJob n fun j =>
              if j.job.blk = b ∧ j.job.ridge = r then { j with tail := { j.tail with started := d.clock } } else j)) ∧
    (let quiet := (∀ e ∈ x.engines, e.running = none ∧ e.slot = none ∧ e.testing = false) ∧ x.waking = 0 ∧
        (∀ k ∈ x.cores, k.program = none ∧ k.borrowed = false) ∧ x.world.waiting = [] ∧ x.world.running = [] ∧
        x.world.restarting = false ∧ (r = d.boss → d.mq.cmds = [] ∧ d.mq.reading = false) ∧
        (∀ m ∈ d.homedOn r, ∀ q ∈ (d.seam m).run.queues, q.prefetch = [] ∧ q.reading = false ∧ q.tail = q.head) ∧
        (∀ j ∈ d.jobs, j.job.ridge ≠ r ∧ j.job.seam ∉ d.homedOn r) ∧
        (r = 0 → d.linkA.unacked = []) ∧ (r = 1 → d.linkB.unacked = [])
      let sleeps := here ∧ x.power = 2 ∧ d.boot.step = 10 ∧ d.power.sleepUs ≠ 0 ∧ quiet;
      (sleeps → leaves (.ridgeSleep r) s (power 0).govern) ∧ (¬sleeps → leaves (.ridgeSleep r) s d)) ∧
    (¬(here ∧ x.power = 0) → ∀ why, leaves (.ridgeWakeRequest r why) s d) ∧
    (here → x.power = 0 →
      leaves (.ridgeWakeRequest r .portalWrite) s (power 1) ∧ leaves (.ridgeWakeRequest r .deepInterrupt) s (power 1) ∧
      leaves (.ridgeWakeRequest r .classZ) s (power 1) ∧
      ∀ asker,
        let waking := ∃ k, d.serves k = true ∧ (d.ridge k).power = 1 ∧ (d.ridge k).wakeFor = some asker
        let fits := d.charge + 1600 ≤ 1000 * min d.power.envelope d.power.bmcCap
        (waking → leaves (.ridgeWakeRequest r (.dispatcher asker)) s d) ∧
        (¬waking → fits → leaves (.ridgeWakeRequest r (.dispatcher asker)) s
          (d.modRidge r fun x => { x with power := 1, wakeFor := some asker })) ∧
        (¬waking → ¬fits → leaves (.ridgeWakeRequest r (.dispatcher asker)) s (d.ridgeEvent r 69 asker))) ∧
    (let wakes := here ∧ x.power = 1
      let tries := fun (second : Bool) (core : Bool) => (d.modRidge r fun x => { x with pllFails := x.pllFails + 1 }).ridgeEvent r 68
        ((if core then 1 else 0) + if second then 2 else 0);
      (¬wakes → leaves (.ridgeWakeDone r) s d ∧ ∀ core, leaves (.pllLockTimeout r core) s d) ∧
      (wakes → leaves (.ridgeWakeDone r) s (d.modRidge r fun x => { x with power := 2, wakeFor := none, pllFails := 0 }).govern ∧
        ∀ core, (x.pllFails = 0 → leaves (.pllLockTimeout r core) s (tries false core)) ∧
          (x.pllFails ≠ 0 → leaves (.pllLockTimeout r core) s ((tries true core).loseRidge r 1))))

/-! ## Monitors, capture units, events -/

/-- The oldest event of a ridge or of the always-on domain reaches the writer from step 5: it counts in the newest record or
makes a new one, on both copies while the log is mirrored, sets its pending bit, and the bit's rise sends its vector; dropped
events are reported as event 47 once the queue has a place for it; clearing pending bits clears those alone (15:R339 to R342,
R346 to R348). -/
def Obligations.EventsReachTheLog : Prop :=
  ∀ (s : State) (src : Option Nat),
    let d := s.dev
    let q := match src with
      | none => d.log.aon
      | some r => (d.ridge r).events
    let silent := d.boot.step < 5 ∨ q.q = [] ∨ ∃ r, src = some r ∧ (d.ridge r).lost = true
    (silent → leaves (.eventToWriter src) s d) ∧
    (∀ e rest, ¬silent → q.q = e :: rest →
      let hard := (rest.filter fun x => x.cls != 0).length
      let left : EventQ := if q.drops = 0 ∨ 64 ≤ (rest.filter fun x => x.cls == 0).length + max hard 16 then ⟨rest, q.drops⟩
        else ⟨rest ++ [⟨47, 0, BitVec.ofNat 32 (min q.drops 0xFFFF), none, src, d.clock⟩], 0⟩
      let told := q.drops - left.drops
      let popped := match src with
        | none => d.modLog fun g => { g with aon := left, lost := satInc g.lost told }
        | some r => (d.modRidge r fun y => { y with events := left }).modLog fun g => { g with lost := satInc g.lost told }
      let both := fun (g : LogBlock) (rs : List LogRec) => { g with recs := rs, mirror := if g.mirrored = true then rs else g.mirror }
      let us := fun (first : Nat) => (e.time - first) / 1000
      let fresh : LogRec := ⟨d.log.next, e.time, e.id, e.cls, 0, e.detail, 0, e.seam,
        (match e.ridge with | some r => BitVec.ofNat 8 r | none => 0xFF), false⟩
      let merges := fun (x : LogRec) => x.id = e.id ∧ x.detail = e.detail ∧ x.seam = e.seam ∧ x.rep ≠ 0xFFFF ∧ x.sealed = false
      let pending := fun (d : Dev) => d.modLog fun g => { g with
        pendBits := g.pendBits ||| (1#640 <<< e.id), hard := if e.cls ≠ 0 then g.hard ||| (1#640 <<< e.id) else g.hard }
      let route := d.log.routes.getD e.id (Route.reset e.id)
      let signals := fun (d' : Dev) =>
        if d.log.pendBits.getLsbD e.id = false ∧ route.msi = true then (pending d').vector (lkOf route.link) route.vector.toNat
        else pending d'
      let newRec := signals (popped.modLog fun g => { both g ((fresh :: g.recs).take 65536) with next := g.next + 1 })
      (d.log.recs = [] → leaves (.eventToWriter src) s newRec) ∧
      (∀ x xs, d.log.recs = x :: xs →
        (¬merges x → leaves (.eventToWriter src) s newRec) ∧
        (merges x → leaves (.eventToWriter src) s (signals (popped.modLog fun g => both g ({ x with
            rep := x.rep + 1
            lastDelta := BitVec.ofNat 32 (min (us x.time) (2 ^ 32 - 1)) } :: xs)))))) ∧
    (∀ w (mask : W64), 10 ≤ w → leaves (.evtPendingClear w mask) s d) ∧
    (∀ w (mask : W64), w < 10 → ∃ p h : BitVec 640,
      leaves (.evtPendingClear w mask) s (d.modLog fun g => { g with pendBits := p, hard := h }) ∧
      ∀ i, i < 640 → let cut := i / 64 = w ∧ mask.getLsbD (i % 64) = true
        (p.getLsbD i = true ↔ d.log.pendBits.getLsbD i = true ∧ ¬cut) ∧ (h.getLsbD i = true ↔ d.log.hard.getLsbD i = true ∧ ¬cut))

/-- Level monitors and capture units: a sample is the latest reading and moves the latches it passes; a threshold raises its event
once, and again only after a reading inside it by 2 °C or 10 mV; CLR resets the latches; a changed configuration and CLEAR reset a
capture unit, SNAP takes a copy as it rises (15:R350, R352, R353). -/
def Obligations.MonitorsAndCapture : Prop :=
  ∀ (s : State) (r : Nat),
    let d := s.dev
    let c := stamped d
    (∀ (core sram : BitVec 11) (temp : BitVec 12),
      let runs := d.populated r = true ∧ d.pins.mainPower = true ∧ d.pins.inVigil = false ∧ 7 ≤ d.boot.step
      let x := (d.ridge r).levels
      let low := fun (old new : BitVec 11) => if new.toNat < old.toNat then new else old
      let high := fun (old new : BitVec 11) => if old.toNat < new.toNat then new else old
      let y : Levels := { x with
        core := core, sram := sram, now := temp
        coreMin := low x.coreMin core, sramMin := low x.sramMin sram
        coreMax := high x.coreMax core, sramMax := high x.sramMax sram
        tMin := if temp.toInt < x.tMin.toInt then temp else x.tMin
        tMax := if x.tMax.toInt < temp.toInt then temp else x.tMax }
      let passed := [decide (y.tHigh.toInt < temp.toInt), decide (temp.toInt < y.tLow.toInt),
        decide (y.vHigh.toNat < core.toNat), decide (core.toNat < y.vLow.toNat)]
      let inside := [decide (temp.toInt + 8 ≤ y.tHigh.toInt), decide (y.tLow.toInt + 8 ≤ temp.toInt),
        decide (core.toNat + 10 ≤ y.vHigh.toNat), decide (y.vLow.toNat + 10 ≤ core.toNat)]
      let mark := fun (d : Dev) (f : BitVec 4 → BitVec 4) =>
        d.modRidge r fun z => { z with levels := { z.levels with raised := f z.levels.raised } }
      let judge := fun (d : Dev) (i : Nat) =>
        if passed.getD i false = true ∧ x.raised.getLsbD i = false then
          (mark d (· ||| (1#4 <<< i))).ridgeEvent r (if i = 0 ∨ i = 2 then 64 else 65)
            ((if i < 2 then temp.toNat else core.toNat) * 65536 + if i < 2 then 0 else 1)
        else if inside.getD i false = true then mark d (· &&& ~~~(1#4 <<< i)) else d
      (¬runs → leaves (.levelMonitorSample r core sram temp) s d) ∧
      (runs → r < d.ridges.length → leaves (.levelMonitorSample r core sram temp) s
        (judge (judge (judge (judge (d.modRidge r fun z => { z with levels := y }) 0) 1) 2) 3))) ∧
    (r < 8 → d.populated r = true →
      (d.boot.step = 10 → leaves (.levelClrLatch r) s (c.modRidge r fun z => { z with levels := { z.levels with
        coreMin := 0x7FF, sramMin := 0x7FF, coreMax := 0, sramMax := 0, tMin := 0x7FF, tMax := 0x800 } })) ∧
      (d.boot.step < 4 → leaves (.levelClrLatch r) s d) ∧
      (4 ≤ d.boot.step → d.boot.step ≠ 10 → leaves (.levelClrLatch r) s (ignored c .a (0xA8028 + 0x40 * r)))) ∧
    (∀ (u : Nat) (v : W64), u < 64 →
      let p := d.perfUnit u
      let unit := fun (p : PerfUnit) => { c with perf := assocSet c.perf u p }
      let set : PerfUnit := { p with
        seam := v.extractLsb' 0 13, all := v.getLsbD 13, group := v.extractLsb' 16 8, measure := v.extractLsb' 24 2 }
      let blank := fun (p : PerfUnit) => { p with now := Capture.blank, copy := Capture.blank }
      let clears := set ≠ p ∨ v.getLsbD 33 = true
      let q := if clears then blank set else set
      (d.boot.step = 10 →
        leaves (.perfCfgWrite u v) s (unit { q with
          snap := v.getLsbD 32, copy := if v.getLsbD 32 = true ∧ p.snap = false then q.now else q.copy }) ∧
        leaves (.perfSnap u) s (unit { p with snap := true, copy := if p.snap = false then p.now else p.copy }) ∧
        leaves (.perfClear u) s (unit (blank p))) ∧
      (d.boot.step < 4 → leaves (.perfCfgWrite u v) s d ∧ leaves (.perfSnap u) s d ∧ leaves (.perfClear u) s d) ∧
      (4 ≤ d.boot.step → d.boot.step ≠ 10 → let e := ignored c .a (0xA0000 + 0x100 * u)
        leaves (.perfCfgWrite u v) s e ∧ leaves (.perfSnap u) s e ∧ leaves (.perfClear u) s e))

/-! ## Entropy -/

/-- A window of raw bits: 41 equal in a row, or 795 of the first one's value, fail it; a failure stops its source, or latches it
after three restarts; a window that passes starts a source under test, and of a running one becomes a block for the first
consumer that waits, the personalisation string with it where the instance is not instantiated; with TPSEL the test pattern
takes the place of the latch's bits, and its blocks are counted (12:R281 to R286, R294). -/
def Sys2Proof.Claims.EntropyWindows : Prop :=
  ∀ (s : State) (r n : Nat) (latch : BitVec 1024),
    let d := s.dev
    let x := if n = 0 then (d.ridge r).rng.src0 else (d.ridge r).rng.src1
    let w := if x.tpsel = true then Config.testWindow x.patterns else latch
    let runs := d.populated r = true ∧ (d.ridge r).lost = false ∧ n < 2 ∧ d.pins.mainPower = true ∧ d.pins.inVigil = false ∧
      (x.state = 1 ∨ x.state = 2 ∨ x.state = 3)
    let src := fun (d : Dev) (f : Source → Source) => d.modRidge r fun y => { y with
      rng := if n = 0 then { y.rng with src0 := f y.rng.src0 } else { y.rng with src1 := f y.rng.src1 } }
    let bits := (List.range 1024).map w.getLsbD
    let all := List.replicate x.runLen x.lastBit ++ bits
    let rct := ∃ pre post b, all = pre ++ List.replicate 41 b ++ post ∧ post.length < 1024
    let apt := 795 ≤ bits.countP (· == w.getLsbD 0)
    let more := fun (d : Dev) (on : Prop) [Decidable on] (off : Nat) (f : Source → Source) =>
      if on then (src d f).ridgeEvent r off n else d
    let countA := fun (x : Source) => { x with aptFails := satInc x.aptFails }
    let countR := fun (x : Source) => { x with rctFails := satInc x.rctFails }
    let stops := fun (d : Dev) => if x.restarts = 3
      then (src d fun x => { x with state := 5, failedAt := d.clock }).ridgeEvent r 60 n
      else src d fun x => { x with state := 4, failedAt := d.clock }
    let block := BitVec.ofNat 384 (leNat (slice (Config.hash 2 (leBytes 128 w.toNat)) 0 48))
    let person := fun (host : Byte) => BitVec.ofNat 384
      (leNat (leBytes 8 d.fuses.serial0.toNat ++ leBytes 8 d.fuses.serial1.toNat ++ [BitVec.ofNat 8 r, host]))
    let seeded := fun (g : Drbg) (host : Byte) =>
      (⟨1, 0, if g.state = 0 then Config.drbgNext 0 (block ^^^ person host) else Config.drbgNext g.seed block⟩ : Drbg)
    let fed := fun (y : Rng) =>
      if y.int.state ≠ 1 then { y with int := seeded y.int 0 }
      else if y.askedBy ≠ [] ∧ y.pool = [] then { y with pool := [block] }
      else if y.host.state ≠ 1 then { y with host := seeded y.host 1 }
      else if y.pool.length < 4 then { y with pool := y.pool ++ [block] } else y
    (¬runs → leaves (.entropyWindow r n latch) s d) ∧
    (runs → r < d.ridges.length → ∃ run pre, all = pre ++ List.replicate run (w.getLsbD 1023) ∧
      pre.getLast? ≠ some (w.getLsbD 1023) ∧
      let e := src d fun x => { x with lastBit := w.getLsbD 1023, runLen := run }
      (x.state ≠ 3 → rct ∨ apt → leaves (.entropyWindow r n latch) s (stops (more e True 58 countA))) ∧
      (x.state ≠ 3 → ¬(rct ∨ apt) →
        leaves (.entropyWindow r n latch) s (src e fun x => { x with state := 3, cleanSince := d.clock })) ∧
      (x.state = 3 → rct → apt → leaves (.entropyWindow r n latch) s (stops (more (more e True 56 countR) True 57 countA))) ∧
      (x.state = 3 → rct → ¬apt → leaves (.entropyWindow r n latch) s (stops (more e True 56 countR))) ∧
      (x.state = 3 → ¬rct → apt → leaves (.entropyWindow r n latch) s (stops (more e True 57 countA))) ∧
      (x.state = 3 → ¬(rct ∨ apt) → leaves (.entropyWindow r n latch) s
        (let e := if x.tpsel = true then src e fun x => { x with patterns := x.patterns + 1 } else e;
          ((e.modRidge r fun y => { y with rng := fed y.rng }).drained r (e.ridge r).rng).refillBuf r)))

/-- The timers of a source, REARM, neighbour seeds, the wait for a reseed and RNG_DATA: a restart counts and calibrates with a
free trim, a minute of clean running and REARM clear the count; the first neighbour that can give is asked, and its oldest block
seeds the internal instance of the asker; a job that waited 5 ms ends with ENTROPY_FAIL; a read takes one word (12:R283, R287 to
R291). -/
def Sys2Proof.Claims.EntropyPath : Prop :=
  ∀ (s : State) (r n : Nat),
    let d := s.dev
    let x := if n = 0 then (d.ridge r).rng.src0 else (d.ridge r).rng.src1
    let src := fun (d : Dev) (f : Source → Source) => d.modRidge r fun y => { y with
      rng := if n = 0 then { y.rng with src0 := f y.rng.src0 } else { y.rng with src1 := f y.rng.src1 } }
    let here := d.serves r = true ∧ n < 2
    let calibrated := fun (d : Dev) (restarts : BitVec 2) => src { d with draws := d.draws + 1 } fun x => { x with
      state := 2, dac := BitVec.ofNat 8 (Config.freeNat d.draws), runLen := 0, restarts := restarts }
    (¬(here ∧ x.state = 4) → leaves (.sourceRestartTimer r n) s d) ∧
    (here → x.state = 4 → r < d.ridges.length → leaves (.sourceRestartTimer r n) s
      ((calibrated (d.reach (x.failedAt + 10000000)) (x.restarts + 1)).ridgeEvent r 59 (n + 2 * (x.restarts + 1).toNat))) ∧
    (¬(here ∧ x.state = 3) → leaves (.sourceCleanTimer r n) s d) ∧
    (here → x.state = 3 → leaves (.sourceCleanTimer r n) s
      (src (d.reach (x.cleanSince + 60000000000)) fun x => { x with restarts := 0 })) ∧
    (r < 8 → n < 2 → d.populated r = true →
      let c := stamped d
      (d.boot.step = 10 → here → x.state = 5 → leaves (.srcRearm r n) s ((calibrated c 0).ridgeEvent r 61 n)) ∧
      (d.boot.step = 10 → ¬here ∨ x.state ≠ 5 → leaves (.srcRearm r n) s c) ∧
      (d.boot.step < 4 → leaves (.srcRearm r n) s d) ∧
      (4 ≤ d.boot.step → d.boot.step ≠ 10 → leaves (.srcRearm r n) s (ignored c .a (0x71000 + 0x1000 * r + 8 * n)))) ∧
    (let y := (d.ridge r).rng
      let seeks := d.serves r = true ∧ d.neighbour = true ∧ y.int.state ≠ 1 ∧ y.src0.state ≠ 3 ∧ y.src1.state ≠ 3 ∧ y.pool = []
      let asked := ∃ g, g < d.fuses.ridges ∧ r ∈ (d.ridge g).rng.askedBy
      let can := fun (g : Nat) => hops r g = 1 ∧ d.serves g = true ∧ (d.ridge g).rng.int.state = 1 ∧
        ((d.ridge g).rng.pool ≠ [] ∨ (d.ridge g).rng.src0.state = 3 ∨ (d.ridge g).rng.src1.state = 3) ∧
        (d.keyed = true ∨ r = 0 ∨ g = 0)
      (¬seeks ∨ asked ∨ (∀ g, ¬can g) → leaves (.neighbourSeedRequest r) s d) ∧
      (∀ g, seeks → ¬asked → can g → (∀ k, k < g → ¬can k) → leaves (.neighbourSeedRequest r) s
        (d.modRidge g fun z => { z with rng := { z.rng with askedBy := z.rng.askedBy ++ [r] } }))) ∧
    (∀ g, let z := (d.ridge g).rng
      (d.serves r = false ∨ d.serves g = false ∨ r ∉ z.askedBy ∨ z.pool = [] → leaves (.neighbourSeedBlock r g) s d) ∧
      (∀ b rest, d.serves r = true → d.serves g = true → r ∈ z.askedBy → z.pool = b :: rest →
        let person := BitVec.ofNat 384
          (leNat (leBytes 8 d.fuses.serial0.toNat ++ leBytes 8 d.fuses.serial1.toNat ++ [BitVec.ofNat 8 r, 0]))
        let crossed := if d.keyed = true then d.spineSend g r else d
        let given := crossed.modRidge g fun z => { z with rng := { z.rng with
          pool := rest, askedBy := z.rng.askedBy.filter (· != r), nbGiven := satInc z.rng.nbGiven } }
        leaves (.neighbourSeedBlock r g) s
          ((((given.modRidge r fun z => { z with rng := { z.rng with
            int := ⟨1, 0, if z.rng.int.state = 0 then Config.drbgNext 0 (b ^^^ person) else Config.drbgNext z.rng.int.seed b⟩
            nbTaken := satInc z.rng.nbTaken } }).drained r (given.ridge r).rng).ridgeEvent
              r 62 g).ridgeEvent g 62 (r + 256)))) ∧
    (∀ num j t, d.job? num = some j → j.tail.draining = some t →
      let e := (d.reach (t + 5000000)).modJob num fun y => { y with tail := { y.tail with ns := y.tail.ns + 5000000 } }
      leaves (.entropyWaitTimeout num) s ((e.rollback j).finish num ⟨0x0501, 0, j.tail.written⟩ true)) ∧
    (∀ (l : Lk) (m size : Nat), (d.link l).up = true →
      let h := d.homeOf m
      let e := (d.seam m).entry
      let answers := m < 8192 ∧ d.live ≠ .zeroized ∧ e.state ≠ .free ∧ e.binds l = true ∧ d.pins.inVigil = false
      let reads := fun (d : Dev) (v : Nat) =>
        leaves (.rngDataRead l m size) s (d.modAccess fun a => { a with rngRead := BitVec.ofNat 64 v })
      (size ≠ 8 → reads d 0) ∧
      (size = 8 → d.boot.step ≠ 10 → reads d (2 ^ 33)) ∧
      (size = 8 → d.boot.step = 10 → ¬answers → reads d 0) ∧
      (size = 8 → d.boot.step = 10 → answers → d.live ≠ .service ∨ (d.ridge h).rng.buf = [] → reads d (2 ^ 33)) ∧
      (∀ w rest, size = 8 → d.boot.step = 10 → answers → d.live = .service → (d.ridge h).rng.buf = w :: rest →
        reads ((d.modRidge h fun y => { y with rng := { y.rng with buf := rest } }).refillBuf h) (w.toNat + 2 ^ 32)))

/-- Health tests, conditioned blocks, source timers, neighbour seeds, waits for a reseed, RNG_DATA (12:R281 to R291). -/
def Obligations.EntropyAndSeeds : Prop := Claims.EntropyWindows ∧ Claims.EntropyPath

/-! ## I3C and the test access port -/

/-- The I3C target from step 2 with main power, unless EXTEST holds its pins: a register is written or read, one of SETDASA and
ENTDAA gives a target without an address one, RSTDAA takes it, SETMWL and SETMRL set the limits, and the GET commands answer free
values (17:R383, 18:R393; log 11). -/
def Sys2Proof.Claims.I3cTarget : Prop :=
  ∀ (s : State),
    let d := s.dev
    let answers := d.pins.mainPower = true ∧ d.pins.inVigil = false ∧ 2 ≤ d.boot.step ∧ d.access.instruction ≠ 3
    let makes := fun (i : Instr) (f : Access → Access) =>
      (answers → leaves i s (d.modAccess f)) ∧ (¬answers → leaves i s d)
    let selects := fun (o : BitVec 16) (d : Dev) => d.modAccess fun a => { a with selected := o }
    (∀ addr, let gives := fun (a : Access) => { a with dynAddr := some (a.dynAddr.getD addr) }
      makes (.setdasa addr) gives ∧ makes (.entdaa addr) gives) ∧
    makes .rstdaa (fun a => { a with dynAddr := none }) ∧
    (∀ n, makes (.setmwl n) (fun a => { a with maxWrite := n }) ∧ makes (.setmrl n) (fun a => { a with maxRead := n })) ∧
    (∃ pid bcr dcr : List Byte, makes .getpid (fun a => { a with answer := pid }) ∧
      makes .getbcr (fun a => { a with answer := bcr }) ∧ makes .getdcr (fun a => { a with answer := dcr })) ∧
    (answers → ∃ bytes, leaves .getstatus s
      { d with draws := d.draws + 1, access := { d.access with answer := bytes } }) ∧ (¬answers → leaves .getstatus s d) ∧
    (¬answers → ∀ o data, leaves (.i3cRegisterWrite o data) s d) ∧
    (answers → ∀ (o : BitVec 16),
      let sel := selects o d
      leaves (.i3cRegisterWrite o none) s (sel.modAccess fun a => { a with answer := leBytes 8 (d.readI3c o.toNat).toNat }) ∧
      (o.toNat % 8 = 0 → o.toNat < 0x1000 → 0x200 ≤ o.toNat → d.readI3c o.toNat = 0) ∧
      d.readI3c 0x1200 = BitVec.ofNat 64 d.power.bmcCap ∧
      ∀ v : W64,
        (o = 0 → leaves (.i3cRegisterWrite o (some v)) s (sel.modLog fun g => { g with i3cCursor := v.setWidth 32 })) ∧
        (o = 0x1200 → leaves (.i3cRegisterWrite o (some v)) s (sel.setCap v) ∧ leaves (.bmcCapWrite v) s (d.setCap v)) ∧
        (∀ w, w < 10 → o.toNat = 0x1100 + 8 * w → leaves (.i3cRegisterWrite o (some v)) s (sel.modLog fun g => g.clearPending w v) ∧
          leaves (.evtPendingClear w v) s (d.modLog fun g => g.clearPending w v)) ∧
        (o ≠ 0 → o ≠ 0x1200 → ¬(0x1100 ≤ o.toNat ∧ o.toNat ≤ 0x1148 ∧ o.toNat % 8 = 0) →
          leaves (.i3cRegisterWrite o (some v)) s sel))

/-- The test access port with main power: an instruction is loaded as 18:Table 18.5 decodes it, BYPASS where the mode does not
allow it; IDCODE, also after TRST_N, puts the identification code where TDO shifts it out; EXTEST outside FACTORY and BLANK needs
the permit and is event 41; the permit ends at its time, and EXTEST with it (09:R225, 18:R395 to R397, Table 18.5). -/
def Sys2Proof.Claims.TestAccessPort : Prop :=
  ∀ (s : State),
    let d := s.dev
    let loads := fun (code : BitVec 8) (out : BitVec 32) => d.modAccess fun a => { a with instruction := code, scanOut := out }
    let id : BitVec 32 := BitVec.ofNat 32 (d.fuses.stepping.toNat % 16 * 2 ^ 28 + 0x0840 * 2 ^ 12 + 0x1D3 * 2 + 1)
    let free := d.live = .factory ∨ d.live = .blank
    let open' := ∃ t, d.quorum.permitEnd = some t ∧ d.clock < t
    let allowed := (d.live = .commission ∨ d.live = .service ∨ d.live = .freeze) ∧ open'
    (d.pins.mainPower = false → leaves .bypass s d ∧ leaves .idcode s d ∧ leaves .samplePreload s d ∧ leaves .extest s d ∧
      leaves .trstAssert s d ∧ ∀ code, leaves (.askunePrivate code) s d) ∧
    (d.pins.mainPower = true →
      leaves .bypass s (loads 0xFF 0) ∧ leaves .idcode s (loads 1 id) ∧ leaves .trstAssert s (loads 1 id) ∧
      leaves .samplePreload s (loads 2 0) ∧
      (free → leaves .extest s (loads 3 0)) ∧
      (¬free → allowed → leaves .extest s ((loads 3 0).pkgEvent 41 0x30028)) ∧
      (¬free → ¬allowed → leaves .extest s (loads 0xFF 0)) ∧
      ∀ code : BitVec 8, (code.toNat < 0x80 ∨ code = 0xFF → leaves (.askunePrivate code) s d) ∧
        (0x80 ≤ code.toNat → code ≠ 0xFF → leaves (.askunePrivate code) s
          (if d.live = .factory then loads code 0 else loads 0xFF 0))) ∧
    (d.quorum.permitEnd = none → leaves .extestPermitExpiry s d) ∧
    (∀ t, d.quorum.permitEnd = some t →
      let ended := (d.modQuorum fun q => { q with permitEnd := none }).reach t
      leaves .extestPermitExpiry s (if d.access.instruction = 3 ∧ ¬free
        then ended.modAccess fun a => { a with instruction := 0xFF, scanOut := 0 } else ended))

/-- The I3C target and the test access port (09:R225, 17:R383, 18:R393 to R397). -/
def Obligations.SidebandAndScan : Prop := Claims.I3cTarget ∧ Claims.TestAccessPort

/-! ## The Deep side of a ridge -/

/-- A Deep fault stops the Deep side: cores restart, entry points and claims go, jobs of the side end with ABORT_DEEP_RESTART,
Deep SRAM is zero; the third within 10 s takes the ridge out of service; a good measurement brings it back, and a core that was
in Deep for a program ascends with its registers unchanged; another measurement loses the ridge (11:R270 to R274, R279). -/
def Sys2Proof.Claims.DeepFaults : Prop :=
  ∀ (s : State) (r : Nat),
    let d := s.dev
    let x := d.ridge r
    let runs := d.serves r = true ∧ x.power = 2 ∧ x.world.restarting = false
    let faulted := fun (cause : Nat) (recent : List Nat) => ((d.modRidge r fun y => { y with world := { y.world with
      restarts := satInc y.world.restarts, lastCause := BitVec.ofNat 3 cause, faults := recent } }).ridgeEvent r 48 cause).stopDeep r none
    let recent := d.clock :: x.world.faults.filter fun t => decide (d.clock < t + 10000000000)
    (runs → recent.length < 3 → leaves (.deepWatchdogExpiry r) s (faulted 1 recent) ∧
      ∀ cause, 1 ≤ cause → cause ≤ 5 → leaves (.deepRestart r cause) s (faulted cause recent)) ∧
    (runs → 3 ≤ recent.length → leaves (.deepWatchdogExpiry r) s ((faulted 1 recent).loseRidge r 5) ∧
      ∀ cause, 1 ≤ cause → cause ≤ 5 → leaves (.deepRestart r cause) s ((faulted cause recent).loseRidge r 5)) ∧
    (¬runs → leaves (.deepWatchdogExpiry r) s d ∧ ∀ cause, leaves (.deepRestart r cause) s d) ∧
    (∀ cause, cause = 0 ∨ 5 < cause → leaves (.deepRestart r cause) s d) ∧
    (d.deepJobs r = [] → x.world.claim = 0 → (r = d.boss → d.mq.cmds = []) → r < d.ridges.length →
      let y := (d.stopDeep r none).ridge r
      y.world.deepUp = false ∧ y.world.restarting = true ∧ y.world.entries = [] ∧ y.world.waiting = [] ∧ y.world.running = [] ∧
      (∀ a, memRead y.sram a = if a < x.world.line.val.toNat * 65536 then 0 else memRead x.sram a) ∧
      (∀ c k, x.cores[c]? = some k →
        let wiped := fun (m : Cache) => if c = 0 ∨ k.flush = true then m.flushed else m.clearDeep
        y.cores[c]? = some { k with
          deepBank := Bank.reset, spillBase := 0, spillLen := 0, borrowed := false, due := []
          pend := if k.deep then [] else k.pend, icache := wiped k.icache, dcache := wiped k.dcache
          program := k.program.map fun p => { p with paused := true } })) ∧
    (∀ (meas : BitVec 384) (signed : Bool),
      let logged := d.modRidge r fun y => { y with world := { y.world with
        meas := meas
        mlog := (⟨y.world.mlogNext, y.world.lastCause.setWidth 8, if meas = y.world.expected then 0 else 1, d.clock, meas⟩ ::
          y.world.mlog).take 64
        mlogNext := y.world.mlogNext + 1 } }
      (d.serves r = false ∨ x.world.restarting = false → leaves (.deepRestartComplete r meas signed) s d) ∧
      (d.serves r = true → x.world.restarting = true → r < d.ridges.length →
        (meas = x.world.expected → signed = true → (∀ c ∈ [1, 2, 3], (d.core r c).deep = false ∨ (d.core r c).resume = none) →
          leaves (.deepRestartComplete r meas signed) s (logged.modRidge r fun y => { y with
            world := { y.world with deepUp := true, restarting := false }
            cores := y.cores.map fun k => { k with program := k.program.map fun p => { p with
              paused := false
              tickets := p.tickets.map (Option.map fun t => { t with delivered := t.delivered || t.ended.isSome }) } } })) ∧
        (meas = x.world.expected → signed = true → x.cores.length = 4 → ∃ t, leaves (.deepRestartComplete r meas signed) s t ∧
          (t.ridge r).world.deepUp = true ∧ (t.ridge r).world.restarting = false ∧
          ∀ c ∈ [1, 2, 3], ∀ a, let k := d.core r c
            k.deep = true → k.resume = some a → k.pend = [] → k.surface.g.length = 16 → k.deepBank.g.length = 16 →
              (t.core r c).deep = false ∧ (t.core r c).resume = none ∧ (t.core r c).surface = { k.surface with pc := a }) ∧
        (meas = x.world.expected → signed = false → leaves (.deepRestartComplete r meas signed) s (logged.loseRidge r 5)) ∧
        (meas ≠ x.world.expected → leaves (.deepRestartComplete r meas signed) s ((logged.ridgeEvent r 49 0).loseRidge r 5))))

/-- A claim that ends gives a core back and applies the request that it deferred, the host's gating or the governor's
throttling; one of more than 100 ms is logged; the waterline moves by one zeroed granule within 96 to 192, upwards over a
granule that holds nothing of the Surface world, downwards over one in which no Deep code spills (11:R258, R259, R261, R275,
R276). -/
def Sys2Proof.Claims.ClaimsAndLine : Prop :=
  ∀ (s : State) (r : Nat),
    let d := s.dev
    let x := d.ridge r
    (∀ b, b < 33 →
      let bit := 1#33 <<< b
      let free := d.modRidge r fun y => { y with
        world := { y.world with
          claim := y.world.claim &&& ~~~bit, claimed := assocDel y.world.claimed b
          deferPending := y.world.deferPending &&& ~~~bit, deferValue := y.world.deferValue &&& ~~~bit }
        cores := if b < 30 then y.cores else y.cores.modify (b - 29) fun k => { k with borrowed := false } }
      let held := x.world.claim.getLsbD b = true
      let defers := x.world.deferPending.getLsbD b = true
      (¬held → leaves (.deepClaimRelease r b) s d) ∧
      (held → ¬defers → leaves (.deepClaimRelease r b) s free) ∧
      (held → defers → x.world.deferValue.getLsbD b = false → leaves (.deepClaimRelease r b) s
        (free.modRidge r fun y => { y with gateOn := if y.gateReq.getLsbD b then y.gateOn ||| bit else y.gateOn &&& ~~~bit })) ∧
      (held → defers → x.world.deferValue.getLsbD b = true → r < d.ridges.length → leaves (.deepClaimRelease r b) s
        ((free.modRidge r fun y => { y with throttled := y.throttled ||| bit }).ridgeEvent r 66
          ((x.throttled ||| bit).toNat % 2 ^ 32))) ∧
      (assocGet x.world.claimed b = none → leaves (.deepClaimOvertime r b) s d) ∧
      (∀ t, assocGet x.world.claimed b = some t → leaves (.deepClaimOvertime r b) s ((d.reach (t + 100000000)).ridgeEvent r 53 b))) ∧
    (let line := x.world.line.val.toNat
      let moves := fun (g next : Nat) => (d.modRidge r fun y => { y with
        sram := y.sram.filter fun c => !(decide (g * 65536 ≤ c.1) && decide (c.1 < (g + 1) * 65536))
        world := { y.world with line := .of (BitVec.ofNat 9 next) } }).ridgeEvent r 50 next
      let ok := d.serves r = true ∧ x.power = 2 ∧ x.world.restarting = false ∧ x.world.deepUp = true
      let within := fun (a : Nat × Nat) (g : Nat) => 0 < a.2 ∧ a.1 < (g + 1) * 65536 ∧ g * 65536 < a.1 + a.2
      let holds := ∃ a ∈ x.areas, within a line
      let spills := ∃ k ∈ x.cores, within (k.spillBase, k.spillLen) (line - 1)
      (ok → ¬holds → 95 ≤ line → line < 192 → leaves (.waterlineMove r true) s (moves line (line + 1))) ∧
      (ok → ¬spills → 97 ≤ line → line ≤ 193 → leaves (.waterlineMove r false) s (moves (line - 1) (line - 1))) ∧
      (¬ok ∨ holds ∨ line < 95 ∨ 192 ≤ line → leaves (.waterlineMove r true) s d) ∧
      (¬ok ∨ spills ∨ line < 97 ∨ 193 < line → leaves (.waterlineMove r false) s d))

/-- Deep faults and restarts, claims, deferred requests and the waterline (11:R258, R259, R261, R270 to R276, R279). -/
def Obligations.DeepRestarts : Prop := Claims.DeepFaults ∧ Claims.ClaimsAndLine

/-! ## The whole block -/

/-- A step takes the command in front of the queue and answers what `exec` answers on the rest; an empty queue lets 5 ns pass on
the package clock (log 17); and every command answers a next state that leaves the queue as it stood (log 19). -/
def Obligations.StepRunsFront : Prop :=
  (∀ (s : State) (c : Instr) (rest : List Instr), s.pending = c :: rest → step s = exec c { s with pending := rest }) ∧
    (∀ s : State, s.pending = [] → step s = .next { s with dev := { s.dev with clock := s.dev.clock + 5 } }) ∧
    ∀ (c : Instr) (s : State), ∃ d, leaves c s d

/-- What the spec's tables give for reset (04:Table 4.8, 11:Table 11.5, 12:Table 12.6, 13:Table 13.5, 15:Tables 15.5, 15.6 and
15.8, 16:Table 16.5, 17:Tables 17.3 and 17.6). -/
def Obligations.ResetValues : Prop :=
  State.reset.pending = [] ∧
    let d := State.reset.dev
    d.boot.step = 0 ∧ d.boot.romHold = false ∧ d.jobs = [] ∧ d.cplTimeout = 200 ∧
    (∀ l, (d.link l).up = false ∧ (d.link l).portalDrops = 0 ∧ (d.link l).losses = 0 ∧ (d.link l).seamSel = 0) ∧
    d.mq.sqLog2 = 4 ∧ d.mq.cqLog2 = 4 ∧ d.mq.enable = false ∧ d.mq.state = 0 ∧ d.mq.head = 0 ∧
    d.tamp.classPkg.val = 0x910_5555_AAAA ∧ d.tamp.classRidge.val = 0x56915 ∧ d.tamp.outMs.val = 10 ∧ d.tamp.vigilMode.val = 0 ∧
    d.tamp.outOnL.val = 0 ∧ d.tamp.tinPol.val = 0 ∧ d.log.cursor = 0 ∧ d.log.lost = 0 ∧ d.log.pendBits = 0 ∧
    (∀ id, id < 640 → ∃ t, d.log.routes[id]? = some t ∧ t.msi = false ∧ t.vector = 0 ∧
      (t.alert = true ↔ id < 22 ∨ (64 ≤ id ∧ (id - 64) % 72 < 10))) ∧
    d.power.sleepUs = 1000 ∧ d.power.bmcCap = 56 ∧ d.power.coalesced = 0 ∧ d.neighbour = true ∧ d.cacheMode = false ∧
    (∀ r, r < 8 → let x := d.ridge r
      x.world.line.val = 384 ∧ x.world.deepUp = false ∧ x.world.restarts = 0 ∧ x.world.claim = 0 ∧ x.world.deferTotal = 0 ∧
      (∀ c, c < 4 → (d.core r c).deep = true) ∧ x.rng.int.state = 0 ∧ x.rng.host.state = 0 ∧ x.rng.src0.state = 0 ∧
      x.levels.coreMin = 0x7FF ∧ x.levels.coreMax = 0 ∧ x.levels.tMin.toInt = 0x7FF ∧ x.levels.tMax.toInt = -0x800 ∧
      x.spine.up = 0 ∧ x.spine.authFails = 0 ∧ x.gateReq = 0 ∧ x.latch = 0)

/-- Every well-formed Lamad instruction that has an encoding is read back from it with every operand, on every ridge and core; and
whatever word a core reads as an instruction, that instruction's own encoding reads as it too (10:R237, R238, Tables 10.3 and
10.4). -/
def Obligations.LamadDecodeEncode : Prop :=
  (∀ (i : Instr) (w : BitVec 32) (r c : Nat), i.wf = true → i.site = some (r, c) → Lamad.encode i = some w →
    Lamad.decode r c w = some i) ∧
  (∀ (r c : Nat) (w : BitVec 32) (i : Instr), Lamad.decode r c w = some i →
    i.site = some (r, c) ∧ ∃ v, Lamad.encode i = some v ∧ Lamad.decode r c v = some i)

/-- The state after reset is one that every step keeps. -/
def Obligations.KeptAtReset : Prop := Kept State.reset.dev

/-- Every step answers a next state, and keeps the ridge records' shape, the canonical form of every ridge's SRAM and the
agreement of every register with its shadow (13:R303; log 10 for the form of the SRAM). -/
def Obligations.KeptByStep : Prop :=
  ∀ s : State, Kept s.dev → ∃ t, step s = .next t ∧ Kept t.dev
end

