-- ==== Sys2Proof/Laws/State.lean ====
section
/-! SUPPORT. What each update of the device does to each of its fields: one lemma a field, true by unfolding. -/

namespace Sys2Proof.Machine

-- one proof at a time: many proofs at once ask for too many threads
set_option Elab.async false

@[simp] theorem State.upd_next (s : State) (f : Dev → Dev) :
    s.upd f = .next { s with dev := f s.dev } := rfl

@[simp] theorem Dev.modRidge_fuses (d : Dev) (r : Nat) (f : Ridge → Ridge) : (d.modRidge r f).fuses = d.fuses := rfl
@[simp] theorem Dev.modRidge_vigil (d : Dev) (r : Nat) (f : Ridge → Ridge) : (d.modRidge r f).vigil = d.vigil := rfl
@[simp] theorem Dev.modRidge_mode (d : Dev) (r : Nat) (f : Ridge → Ridge) : (d.modRidge r f).mode = d.mode := rfl
@[simp] theorem Dev.modRidge_prior (d : Dev) (r : Nat) (f : Ridge → Ridge) : (d.modRidge r f).prior = d.prior := rfl
@[simp] theorem Dev.modRidge_exported (d : Dev) (r : Nat) (f : Ridge → Ridge) : (d.modRidge r f).exported = d.exported := rfl
@[simp] theorem Dev.modRidge_modeCopy (d : Dev) (r : Nat) (f : Ridge → Ridge) : (d.modRidge r f).modeCopy = d.modeCopy := rfl
@[simp] theorem Dev.modRidge_lastMode (d : Dev) (r : Nat) (f : Ridge → Ridge) : (d.modRidge r f).lastMode = d.lastMode := rfl
@[simp] theorem Dev.modRidge_boot (d : Dev) (r : Nat) (f : Ridge → Ridge) : (d.modRidge r f).boot = d.boot := rfl
@[simp] theorem Dev.modRidge_fw (d : Dev) (r : Nat) (f : Ridge → Ridge) : (d.modRidge r f).fw = d.fw := rfl
@[simp] theorem Dev.modRidge_pins (d : Dev) (r : Nat) (f : Ridge → Ridge) : (d.modRidge r f).pins = d.pins := rfl
@[simp] theorem Dev.modRidge_tamp (d : Dev) (r : Nat) (f : Ridge → Ridge) : (d.modRidge r f).tamp = d.tamp := rfl
@[simp] theorem Dev.modRidge_linkA (d : Dev) (r : Nat) (f : Ridge → Ridge) : (d.modRidge r f).linkA = d.linkA := rfl
@[simp] theorem Dev.modRidge_linkB (d : Dev) (r : Nat) (f : Ridge → Ridge) : (d.modRidge r f).linkB = d.linkB := rfl
@[simp] theorem Dev.modRidge_cplTimeout (d : Dev) (r : Nat) (f : Ridge → Ridge) : (d.modRidge r f).cplTimeout = d.cplTimeout := rfl
@[simp] theorem Dev.modRidge_mq (d : Dev) (r : Nat) (f : Ridge → Ridge) : (d.modRidge r f).mq = d.mq := rfl
@[simp] theorem Dev.modRidge_quorum (d : Dev) (r : Nat) (f : Ridge → Ridge) : (d.modRidge r f).quorum = d.quorum := rfl
@[simp] theorem Dev.modRidge_seams (d : Dev) (r : Nat) (f : Ridge → Ridge) : (d.modRidge r f).seams = d.seams := rfl
@[simp] theorem Dev.modRidge_ridges (d : Dev) (r : Nat) (f : Ridge → Ridge) : (d.modRidge r f).ridges = d.ridges.modify r f := rfl
@[simp] theorem Dev.modRidge_jobs (d : Dev) (r : Nat) (f : Ridge → Ridge) : (d.modRidge r f).jobs = d.jobs := rfl
@[simp] theorem Dev.modRidge_log (d : Dev) (r : Nat) (f : Ridge → Ridge) : (d.modRidge r f).log = d.log := rfl
@[simp] theorem Dev.modRidge_power (d : Dev) (r : Nat) (f : Ridge → Ridge) : (d.modRidge r f).power = d.power := rfl
@[simp] theorem Dev.modRidge_perf (d : Dev) (r : Nat) (f : Ridge → Ridge) : (d.modRidge r f).perf = d.perf := rfl
@[simp] theorem Dev.modRidge_access (d : Dev) (r : Nat) (f : Ridge → Ridge) : (d.modRidge r f).access = d.access := rfl
@[simp] theorem Dev.modRidge_unsealed (d : Dev) (r : Nat) (f : Ridge → Ridge) : (d.modRidge r f).unsealed = d.unsealed := rfl
@[simp] theorem Dev.modRidge_trained (d : Dev) (r : Nat) (f : Ridge → Ridge) : (d.modRidge r f).trained = d.trained := rfl
@[simp] theorem Dev.modRidge_cacheMode (d : Dev) (r : Nat) (f : Ridge → Ridge) : (d.modRidge r f).cacheMode = d.cacheMode := rfl
@[simp] theorem Dev.modRidge_neighbour (d : Dev) (r : Nat) (f : Ridge → Ridge) : (d.modRidge r f).neighbour = d.neighbour := rfl
@[simp] theorem Dev.modRidge_decode (d : Dev) (r : Nat) (f : Ridge → Ridge) : (d.modRidge r f).decode = d.decode := rfl
@[simp] theorem Dev.modRidge_uses (d : Dev) (r : Nat) (f : Ridge → Ridge) : (d.modRidge r f).uses = d.uses := rfl
@[simp] theorem Dev.modRidge_clock (d : Dev) (r : Nat) (f : Ridge → Ridge) : (d.modRidge r f).clock = d.clock := rfl
@[simp] theorem Dev.modRidge_stamps (d : Dev) (r : Nat) (f : Ridge → Ridge) : (d.modRidge r f).stamps = d.stamps := rfl
@[simp] theorem Dev.modRidge_draws (d : Dev) (r : Nat) (f : Ridge → Ridge) : (d.modRidge r f).draws = d.draws := rfl
@[simp] theorem Dev.modRidge_nextJob (d : Dev) (r : Nat) (f : Ridge → Ridge) : (d.modRidge r f).nextJob = d.nextJob := rfl

@[simp] theorem Dev.modRidges_fuses (d : Dev) (f : Ridge → Ridge) : (d.modRidges f).fuses = d.fuses := rfl
@[simp] theorem Dev.modRidges_vigil (d : Dev) (f : Ridge → Ridge) : (d.modRidges f).vigil = d.vigil := rfl
@[simp] theorem Dev.modRidges_mode (d : Dev) (f : Ridge → Ridge) : (d.modRidges f).mode = d.mode := rfl
@[simp] theorem Dev.modRidges_prior (d : Dev) (f : Ridge → Ridge) : (d.modRidges f).prior = d.prior := rfl
@[simp] theorem Dev.modRidges_exported (d : Dev) (f : Ridge → Ridge) : (d.modRidges f).exported = d.exported := rfl
@[simp] theorem Dev.modRidges_modeCopy (d : Dev) (f : Ridge → Ridge) : (d.modRidges f).modeCopy = d.modeCopy := rfl
@[simp] theorem Dev.modRidges_lastMode (d : Dev) (f : Ridge → Ridge) : (d.modRidges f).lastMode = d.lastMode := rfl
@[simp] theorem Dev.modRidges_boot (d : Dev) (f : Ridge → Ridge) : (d.modRidges f).boot = d.boot := rfl
@[simp] theorem Dev.modRidges_fw (d : Dev) (f : Ridge → Ridge) : (d.modRidges f).fw = d.fw := rfl
@[simp] theorem Dev.modRidges_pins (d : Dev) (f : Ridge → Ridge) : (d.modRidges f).pins = d.pins := rfl
@[simp] theorem Dev.modRidges_tamp (d : Dev) (f : Ridge → Ridge) : (d.modRidges f).tamp = d.tamp := rfl
@[simp] theorem Dev.modRidges_linkA (d : Dev) (f : Ridge → Ridge) : (d.modRidges f).linkA = d.linkA := rfl
@[simp] theorem Dev.modRidges_linkB (d : Dev) (f : Ridge → Ridge) : (d.modRidges f).linkB = d.linkB := rfl
@[simp] theorem Dev.modRidges_cplTimeout (d : Dev) (f : Ridge → Ridge) : (d.modRidges f).cplTimeout = d.cplTimeout := rfl
@[simp] theorem Dev.modRidges_mq (d : Dev) (f : Ridge → Ridge) : (d.modRidges f).mq = d.mq := rfl
@[simp] theorem Dev.modRidges_quorum (d : Dev) (f : Ridge → Ridge) : (d.modRidges f).quorum = d.quorum := rfl
@[simp] theorem Dev.modRidges_seams (d : Dev) (f : Ridge → Ridge) : (d.modRidges f).seams = d.seams := rfl
@[simp] theorem Dev.modRidges_ridges (d : Dev) (f : Ridge → Ridge) : (d.modRidges f).ridges = d.ridges.mapIdx fun i x => if i < d.fuses.ridges then f x else x := rfl
@[simp] theorem Dev.modRidges_jobs (d : Dev) (f : Ridge → Ridge) : (d.modRidges f).jobs = d.jobs := rfl
@[simp] theorem Dev.modRidges_log (d : Dev) (f : Ridge → Ridge) : (d.modRidges f).log = d.log := rfl
@[simp] theorem Dev.modRidges_power (d : Dev) (f : Ridge → Ridge) : (d.modRidges f).power = d.power := rfl
@[simp] theorem Dev.modRidges_perf (d : Dev) (f : Ridge → Ridge) : (d.modRidges f).perf = d.perf := rfl
@[simp] theorem Dev.modRidges_access (d : Dev) (f : Ridge → Ridge) : (d.modRidges f).access = d.access := rfl
@[simp] theorem Dev.modRidges_unsealed (d : Dev) (f : Ridge → Ridge) : (d.modRidges f).unsealed = d.unsealed := rfl
@[simp] theorem Dev.modRidges_trained (d : Dev) (f : Ridge → Ridge) : (d.modRidges f).trained = d.trained := rfl
@[simp] theorem Dev.modRidges_cacheMode (d : Dev) (f : Ridge → Ridge) : (d.modRidges f).cacheMode = d.cacheMode := rfl
@[simp] theorem Dev.modRidges_neighbour (d : Dev) (f : Ridge → Ridge) : (d.modRidges f).neighbour = d.neighbour := rfl
@[simp] theorem Dev.modRidges_decode (d : Dev) (f : Ridge → Ridge) : (d.modRidges f).decode = d.decode := rfl
@[simp] theorem Dev.modRidges_uses (d : Dev) (f : Ridge → Ridge) : (d.modRidges f).uses = d.uses := rfl
@[simp] theorem Dev.modRidges_clock (d : Dev) (f : Ridge → Ridge) : (d.modRidges f).clock = d.clock := rfl
@[simp] theorem Dev.modRidges_stamps (d : Dev) (f : Ridge → Ridge) : (d.modRidges f).stamps = d.stamps := rfl
@[simp] theorem Dev.modRidges_draws (d : Dev) (f : Ridge → Ridge) : (d.modRidges f).draws = d.draws := rfl
@[simp] theorem Dev.modRidges_nextJob (d : Dev) (f : Ridge → Ridge) : (d.modRidges f).nextJob = d.nextJob := rfl

@[simp] theorem Dev.modSeam_fuses (d : Dev) (n : Nat) (f : Seam → Seam) : (d.modSeam n f).fuses = d.fuses := rfl
@[simp] theorem Dev.modSeam_vigil (d : Dev) (n : Nat) (f : Seam → Seam) : (d.modSeam n f).vigil = d.vigil := rfl
@[simp] theorem Dev.modSeam_mode (d : Dev) (n : Nat) (f : Seam → Seam) : (d.modSeam n f).mode = d.mode := rfl
@[simp] theorem Dev.modSeam_prior (d : Dev) (n : Nat) (f : Seam → Seam) : (d.modSeam n f).prior = d.prior := rfl
@[simp] theorem Dev.modSeam_exported (d : Dev) (n : Nat) (f : Seam → Seam) : (d.modSeam n f).exported = d.exported := rfl
@[simp] theorem Dev.modSeam_modeCopy (d : Dev) (n : Nat) (f : Seam → Seam) : (d.modSeam n f).modeCopy = d.modeCopy := rfl
@[simp] theorem Dev.modSeam_lastMode (d : Dev) (n : Nat) (f : Seam → Seam) : (d.modSeam n f).lastMode = d.lastMode := rfl
@[simp] theorem Dev.modSeam_boot (d : Dev) (n : Nat) (f : Seam → Seam) : (d.modSeam n f).boot = d.boot := rfl
@[simp] theorem Dev.modSeam_fw (d : Dev) (n : Nat) (f : Seam → Seam) : (d.modSeam n f).fw = d.fw := rfl
@[simp] theorem Dev.modSeam_pins (d : Dev) (n : Nat) (f : Seam → Seam) : (d.modSeam n f).pins = d.pins := rfl
@[simp] theorem Dev.modSeam_tamp (d : Dev) (n : Nat) (f : Seam → Seam) : (d.modSeam n f).tamp = d.tamp := rfl
@[simp] theorem Dev.modSeam_linkA (d : Dev) (n : Nat) (f : Seam → Seam) : (d.modSeam n f).linkA = d.linkA := rfl
@[simp] theorem Dev.modSeam_linkB (d : Dev) (n : Nat) (f : Seam → Seam) : (d.modSeam n f).linkB = d.linkB := rfl
@[simp] theorem Dev.modSeam_cplTimeout (d : Dev) (n : Nat) (f : Seam → Seam) : (d.modSeam n f).cplTimeout = d.cplTimeout := rfl
@[simp] theorem Dev.modSeam_mq (d : Dev) (n : Nat) (f : Seam → Seam) : (d.modSeam n f).mq = d.mq := rfl
@[simp] theorem Dev.modSeam_quorum (d : Dev) (n : Nat) (f : Seam → Seam) : (d.modSeam n f).quorum = d.quorum := rfl
@[simp] theorem Dev.modSeam_seams (d : Dev) (n : Nat) (f : Seam → Seam) : (d.modSeam n f).seams = assocSet d.seams n (f (d.seam n)) := rfl
@[simp] theorem Dev.modSeam_ridges (d : Dev) (n : Nat) (f : Seam → Seam) : (d.modSeam n f).ridges = d.ridges := rfl
@[simp] theorem Dev.modSeam_jobs (d : Dev) (n : Nat) (f : Seam → Seam) : (d.modSeam n f).jobs = d.jobs := rfl
@[simp] theorem Dev.modSeam_log (d : Dev) (n : Nat) (f : Seam → Seam) : (d.modSeam n f).log = d.log := rfl
@[simp] theorem Dev.modSeam_power (d : Dev) (n : Nat) (f : Seam → Seam) : (d.modSeam n f).power = d.power := rfl
@[simp] theorem Dev.modSeam_perf (d : Dev) (n : Nat) (f : Seam → Seam) : (d.modSeam n f).perf = d.perf := rfl
@[simp] theorem Dev.modSeam_access (d : Dev) (n : Nat) (f : Seam → Seam) : (d.modSeam n f).access = d.access := rfl
@[simp] theorem Dev.modSeam_unsealed (d : Dev) (n : Nat) (f : Seam → Seam) : (d.modSeam n f).unsealed = d.unsealed := rfl
@[simp] theorem Dev.modSeam_trained (d : Dev) (n : Nat) (f : Seam → Seam) : (d.modSeam n f).trained = d.trained := rfl
@[simp] theorem Dev.modSeam_cacheMode (d : Dev) (n : Nat) (f : Seam → Seam) : (d.modSeam n f).cacheMode = d.cacheMode := rfl
@[simp] theorem Dev.modSeam_neighbour (d : Dev) (n : Nat) (f : Seam → Seam) : (d.modSeam n f).neighbour = d.neighbour := rfl
@[simp] theorem Dev.modSeam_decode (d : Dev) (n : Nat) (f : Seam → Seam) : (d.modSeam n f).decode = d.decode := rfl
@[simp] theorem Dev.modSeam_uses (d : Dev) (n : Nat) (f : Seam → Seam) : (d.modSeam n f).uses = d.uses := rfl
@[simp] theorem Dev.modSeam_clock (d : Dev) (n : Nat) (f : Seam → Seam) : (d.modSeam n f).clock = d.clock := rfl
@[simp] theorem Dev.modSeam_stamps (d : Dev) (n : Nat) (f : Seam → Seam) : (d.modSeam n f).stamps = d.stamps := rfl
@[simp] theorem Dev.modSeam_draws (d : Dev) (n : Nat) (f : Seam → Seam) : (d.modSeam n f).draws = d.draws := rfl
@[simp] theorem Dev.modSeam_nextJob (d : Dev) (n : Nat) (f : Seam → Seam) : (d.modSeam n f).nextJob = d.nextJob := rfl

@[simp] theorem Dev.modSeams_fuses (d : Dev) (f : Nat → Seam → Seam) : (d.modSeams f).fuses = d.fuses := rfl
@[simp] theorem Dev.modSeams_vigil (d : Dev) (f : Nat → Seam → Seam) : (d.modSeams f).vigil = d.vigil := rfl
@[simp] theorem Dev.modSeams_mode (d : Dev) (f : Nat → Seam → Seam) : (d.modSeams f).mode = d.mode := rfl
@[simp] theorem Dev.modSeams_prior (d : Dev) (f : Nat → Seam → Seam) : (d.modSeams f).prior = d.prior := rfl
@[simp] theorem Dev.modSeams_exported (d : Dev) (f : Nat → Seam → Seam) : (d.modSeams f).exported = d.exported := rfl
@[simp] theorem Dev.modSeams_modeCopy (d : Dev) (f : Nat → Seam → Seam) : (d.modSeams f).modeCopy = d.modeCopy := rfl
@[simp] theorem Dev.modSeams_lastMode (d : Dev) (f : Nat → Seam → Seam) : (d.modSeams f).lastMode = d.lastMode := rfl
@[simp] theorem Dev.modSeams_boot (d : Dev) (f : Nat → Seam → Seam) : (d.modSeams f).boot = d.boot := rfl
@[simp] theorem Dev.modSeams_fw (d : Dev) (f : Nat → Seam → Seam) : (d.modSeams f).fw = d.fw := rfl
@[simp] theorem Dev.modSeams_pins (d : Dev) (f : Nat → Seam → Seam) : (d.modSeams f).pins = d.pins := rfl
@[simp] theorem Dev.modSeams_tamp (d : Dev) (f : Nat → Seam → Seam) : (d.modSeams f).tamp = d.tamp := rfl
@[simp] theorem Dev.modSeams_linkA (d : Dev) (f : Nat → Seam → Seam) : (d.modSeams f).linkA = d.linkA := rfl
@[simp] theorem Dev.modSeams_linkB (d : Dev) (f : Nat → Seam → Seam) : (d.modSeams f).linkB = d.linkB := rfl
@[simp] theorem Dev.modSeams_cplTimeout (d : Dev) (f : Nat → Seam → Seam) : (d.modSeams f).cplTimeout = d.cplTimeout := rfl
@[simp] theorem Dev.modSeams_mq (d : Dev) (f : Nat → Seam → Seam) : (d.modSeams f).mq = d.mq := rfl
@[simp] theorem Dev.modSeams_quorum (d : Dev) (f : Nat → Seam → Seam) : (d.modSeams f).quorum = d.quorum := rfl
@[simp] theorem Dev.modSeams_seams (d : Dev) (f : Nat → Seam → Seam) : (d.modSeams f).seams = d.seams.map fun e => (e.1, f e.1 e.2) := rfl
@[simp] theorem Dev.modSeams_ridges (d : Dev) (f : Nat → Seam → Seam) : (d.modSeams f).ridges = d.ridges := rfl
@[simp] theorem Dev.modSeams_jobs (d : Dev) (f : Nat → Seam → Seam) : (d.modSeams f).jobs = d.jobs := rfl
@[simp] theorem Dev.modSeams_log (d : Dev) (f : Nat → Seam → Seam) : (d.modSeams f).log = d.log := rfl
@[simp] theorem Dev.modSeams_power (d : Dev) (f : Nat → Seam → Seam) : (d.modSeams f).power = d.power := rfl
@[simp] theorem Dev.modSeams_perf (d : Dev) (f : Nat → Seam → Seam) : (d.modSeams f).perf = d.perf := rfl
@[simp] theorem Dev.modSeams_access (d : Dev) (f : Nat → Seam → Seam) : (d.modSeams f).access = d.access := rfl
@[simp] theorem Dev.modSeams_unsealed (d : Dev) (f : Nat → Seam → Seam) : (d.modSeams f).unsealed = d.unsealed := rfl
@[simp] theorem Dev.modSeams_trained (d : Dev) (f : Nat → Seam → Seam) : (d.modSeams f).trained = d.trained := rfl
@[simp] theorem Dev.modSeams_cacheMode (d : Dev) (f : Nat → Seam → Seam) : (d.modSeams f).cacheMode = d.cacheMode := rfl
@[simp] theorem Dev.modSeams_neighbour (d : Dev) (f : Nat → Seam → Seam) : (d.modSeams f).neighbour = d.neighbour := rfl
@[simp] theorem Dev.modSeams_decode (d : Dev) (f : Nat → Seam → Seam) : (d.modSeams f).decode = d.decode := rfl
@[simp] theorem Dev.modSeams_uses (d : Dev) (f : Nat → Seam → Seam) : (d.modSeams f).uses = d.uses := rfl
@[simp] theorem Dev.modSeams_clock (d : Dev) (f : Nat → Seam → Seam) : (d.modSeams f).clock = d.clock := rfl
@[simp] theorem Dev.modSeams_stamps (d : Dev) (f : Nat → Seam → Seam) : (d.modSeams f).stamps = d.stamps := rfl
@[simp] theorem Dev.modSeams_draws (d : Dev) (f : Nat → Seam → Seam) : (d.modSeams f).draws = d.draws := rfl
@[simp] theorem Dev.modSeams_nextJob (d : Dev) (f : Nat → Seam → Seam) : (d.modSeams f).nextJob = d.nextJob := rfl

@[simp] theorem Dev.modRun_fuses (d : Dev) (n : Nat) (f : SeamRun → SeamRun) : (d.modRun n f).fuses = d.fuses := rfl
@[simp] theorem Dev.modRun_vigil (d : Dev) (n : Nat) (f : SeamRun → SeamRun) : (d.modRun n f).vigil = d.vigil := rfl
@[simp] theorem Dev.modRun_mode (d : Dev) (n : Nat) (f : SeamRun → SeamRun) : (d.modRun n f).mode = d.mode := rfl
@[simp] theorem Dev.modRun_prior (d : Dev) (n : Nat) (f : SeamRun → SeamRun) : (d.modRun n f).prior = d.prior := rfl
@[simp] theorem Dev.modRun_exported (d : Dev) (n : Nat) (f : SeamRun → SeamRun) : (d.modRun n f).exported = d.exported := rfl
@[simp] theorem Dev.modRun_modeCopy (d : Dev) (n : Nat) (f : SeamRun → SeamRun) : (d.modRun n f).modeCopy = d.modeCopy := rfl
@[simp] theorem Dev.modRun_lastMode (d : Dev) (n : Nat) (f : SeamRun → SeamRun) : (d.modRun n f).lastMode = d.lastMode := rfl
@[simp] theorem Dev.modRun_boot (d : Dev) (n : Nat) (f : SeamRun → SeamRun) : (d.modRun n f).boot = d.boot := rfl
@[simp] theorem Dev.modRun_fw (d : Dev) (n : Nat) (f : SeamRun → SeamRun) : (d.modRun n f).fw = d.fw := rfl
@[simp] theorem Dev.modRun_pins (d : Dev) (n : Nat) (f : SeamRun → SeamRun) : (d.modRun n f).pins = d.pins := rfl
@[simp] theorem Dev.modRun_tamp (d : Dev) (n : Nat) (f : SeamRun → SeamRun) : (d.modRun n f).tamp = d.tamp := rfl
@[simp] theorem Dev.modRun_linkA (d : Dev) (n : Nat) (f : SeamRun → SeamRun) : (d.modRun n f).linkA = d.linkA := rfl
@[simp] theorem Dev.modRun_linkB (d : Dev) (n : Nat) (f : SeamRun → SeamRun) : (d.modRun n f).linkB = d.linkB := rfl
@[simp] theorem Dev.modRun_cplTimeout (d : Dev) (n : Nat) (f : SeamRun → SeamRun) : (d.modRun n f).cplTimeout = d.cplTimeout := rfl
@[simp] theorem Dev.modRun_mq (d : Dev) (n : Nat) (f : SeamRun → SeamRun) : (d.modRun n f).mq = d.mq := rfl
@[simp] theorem Dev.modRun_quorum (d : Dev) (n : Nat) (f : SeamRun → SeamRun) : (d.modRun n f).quorum = d.quorum := rfl
@[simp] theorem Dev.modRun_ridges (d : Dev) (n : Nat) (f : SeamRun → SeamRun) : (d.modRun n f).ridges = d.ridges := rfl
@[simp] theorem Dev.modRun_jobs (d : Dev) (n : Nat) (f : SeamRun → SeamRun) : (d.modRun n f).jobs = d.jobs := rfl
@[simp] theorem Dev.modRun_log (d : Dev) (n : Nat) (f : SeamRun → SeamRun) : (d.modRun n f).log = d.log := rfl
@[simp] theorem Dev.modRun_power (d : Dev) (n : Nat) (f : SeamRun → SeamRun) : (d.modRun n f).power = d.power := rfl
@[simp] theorem Dev.modRun_perf (d : Dev) (n : Nat) (f : SeamRun → SeamRun) : (d.modRun n f).perf = d.perf := rfl
@[simp] theorem Dev.modRun_access (d : Dev) (n : Nat) (f : SeamRun → SeamRun) : (d.modRun n f).access = d.access := rfl
@[simp] theorem Dev.modRun_unsealed (d : Dev) (n : Nat) (f : SeamRun → SeamRun) : (d.modRun n f).unsealed = d.unsealed := rfl
@[simp] theorem Dev.modRun_trained (d : Dev) (n : Nat) (f : SeamRun → SeamRun) : (d.modRun n f).trained = d.trained := rfl
@[simp] theorem Dev.modRun_cacheMode (d : Dev) (n : Nat) (f : SeamRun → SeamRun) : (d.modRun n f).cacheMode = d.cacheMode := rfl
@[simp] theorem Dev.modRun_neighbour (d : Dev) (n : Nat) (f : SeamRun → SeamRun) : (d.modRun n f).neighbour = d.neighbour := rfl
@[simp] theorem Dev.modRun_decode (d : Dev) (n : Nat) (f : SeamRun → SeamRun) : (d.modRun n f).decode = d.decode := rfl
@[simp] theorem Dev.modRun_uses (d : Dev) (n : Nat) (f : SeamRun → SeamRun) : (d.modRun n f).uses = d.uses := rfl
@[simp] theorem Dev.modRun_clock (d : Dev) (n : Nat) (f : SeamRun → SeamRun) : (d.modRun n f).clock = d.clock := rfl
@[simp] theorem Dev.modRun_stamps (d : Dev) (n : Nat) (f : SeamRun → SeamRun) : (d.modRun n f).stamps = d.stamps := rfl
@[simp] theorem Dev.modRun_draws (d : Dev) (n : Nat) (f : SeamRun → SeamRun) : (d.modRun n f).draws = d.draws := rfl
@[simp] theorem Dev.modRun_nextJob (d : Dev) (n : Nat) (f : SeamRun → SeamRun) : (d.modRun n f).nextJob = d.nextJob := rfl

@[simp] theorem Dev.modEntry_fuses (d : Dev) (n : Nat) (f : SeamEntry → SeamEntry) : (d.modEntry n f).fuses = d.fuses := rfl
@[simp] theorem Dev.modEntry_vigil (d : Dev) (n : Nat) (f : SeamEntry → SeamEntry) : (d.modEntry n f).vigil = d.vigil := rfl
@[simp] theorem Dev.modEntry_mode (d : Dev) (n : Nat) (f : SeamEntry → SeamEntry) : (d.modEntry n f).mode = d.mode := rfl
@[simp] theorem Dev.modEntry_prior (d : Dev) (n : Nat) (f : SeamEntry → SeamEntry) : (d.modEntry n f).prior = d.prior := rfl
@[simp] theorem Dev.modEntry_exported (d : Dev) (n : Nat) (f : SeamEntry → SeamEntry) : (d.modEntry n f).exported = d.exported := rfl
@[simp] theorem Dev.modEntry_modeCopy (d : Dev) (n : Nat) (f : SeamEntry → SeamEntry) : (d.modEntry n f).modeCopy = d.modeCopy := rfl
@[simp] theorem Dev.modEntry_lastMode (d : Dev) (n : Nat) (f : SeamEntry → SeamEntry) : (d.modEntry n f).lastMode = d.lastMode := rfl
@[simp] theorem Dev.modEntry_boot (d : Dev) (n : Nat) (f : SeamEntry → SeamEntry) : (d.modEntry n f).boot = d.boot := rfl
@[simp] theorem Dev.modEntry_fw (d : Dev) (n : Nat) (f : SeamEntry → SeamEntry) : (d.modEntry n f).fw = d.fw := rfl
@[simp] theorem Dev.modEntry_pins (d : Dev) (n : Nat) (f : SeamEntry → SeamEntry) : (d.modEntry n f).pins = d.pins := rfl
@[simp] theorem Dev.modEntry_tamp (d : Dev) (n : Nat) (f : SeamEntry → SeamEntry) : (d.modEntry n f).tamp = d.tamp := rfl
@[simp] theorem Dev.modEntry_linkA (d : Dev) (n : Nat) (f : SeamEntry → SeamEntry) : (d.modEntry n f).linkA = d.linkA := rfl
@[simp] theorem Dev.modEntry_linkB (d : Dev) (n : Nat) (f : SeamEntry → SeamEntry) : (d.modEntry n f).linkB = d.linkB := rfl
@[simp] theorem Dev.modEntry_cplTimeout (d : Dev) (n : Nat) (f : SeamEntry → SeamEntry) : (d.modEntry n f).cplTimeout = d.cplTimeout := rfl
@[simp] theorem Dev.modEntry_mq (d : Dev) (n : Nat) (f : SeamEntry → SeamEntry) : (d.modEntry n f).mq = d.mq := rfl
@[simp] theorem Dev.modEntry_quorum (d : Dev) (n : Nat) (f : SeamEntry → SeamEntry) : (d.modEntry n f).quorum = d.quorum := rfl
@[simp] theorem Dev.modEntry_ridges (d : Dev) (n : Nat) (f : SeamEntry → SeamEntry) : (d.modEntry n f).ridges = d.ridges := rfl
@[simp] theorem Dev.modEntry_jobs (d : Dev) (n : Nat) (f : SeamEntry → SeamEntry) : (d.modEntry n f).jobs = d.jobs := rfl
@[simp] theorem Dev.modEntry_log (d : Dev) (n : Nat) (f : SeamEntry → SeamEntry) : (d.modEntry n f).log = d.log := rfl
@[simp] theorem Dev.modEntry_power (d : Dev) (n : Nat) (f : SeamEntry → SeamEntry) : (d.modEntry n f).power = d.power := rfl
@[simp] theorem Dev.modEntry_perf (d : Dev) (n : Nat) (f : SeamEntry → SeamEntry) : (d.modEntry n f).perf = d.perf := rfl
@[simp] theorem Dev.modEntry_access (d : Dev) (n : Nat) (f : SeamEntry → SeamEntry) : (d.modEntry n f).access = d.access := rfl
@[simp] theorem Dev.modEntry_unsealed (d : Dev) (n : Nat) (f : SeamEntry → SeamEntry) : (d.modEntry n f).unsealed = d.unsealed := rfl
@[simp] theorem Dev.modEntry_trained (d : Dev) (n : Nat) (f : SeamEntry → SeamEntry) : (d.modEntry n f).trained = d.trained := rfl
@[simp] theorem Dev.modEntry_cacheMode (d : Dev) (n : Nat) (f : SeamEntry → SeamEntry) : (d.modEntry n f).cacheMode = d.cacheMode := rfl
@[simp] theorem Dev.modEntry_neighbour (d : Dev) (n : Nat) (f : SeamEntry → SeamEntry) : (d.modEntry n f).neighbour = d.neighbour := rfl
@[simp] theorem Dev.modEntry_decode (d : Dev) (n : Nat) (f : SeamEntry → SeamEntry) : (d.modEntry n f).decode = d.decode := rfl
@[simp] theorem Dev.modEntry_uses (d : Dev) (n : Nat) (f : SeamEntry → SeamEntry) : (d.modEntry n f).uses = d.uses := rfl
@[simp] theorem Dev.modEntry_clock (d : Dev) (n : Nat) (f : SeamEntry → SeamEntry) : (d.modEntry n f).clock = d.clock := rfl
@[simp] theorem Dev.modEntry_stamps (d : Dev) (n : Nat) (f : SeamEntry → SeamEntry) : (d.modEntry n f).stamps = d.stamps := rfl
@[simp] theorem Dev.modEntry_draws (d : Dev) (n : Nat) (f : SeamEntry → SeamEntry) : (d.modEntry n f).draws = d.draws := rfl
@[simp] theorem Dev.modEntry_nextJob (d : Dev) (n : Nat) (f : SeamEntry → SeamEntry) : (d.modEntry n f).nextJob = d.nextJob := rfl

@[simp] theorem Dev.modQueue_fuses (d : Dev) (n q : Nat) (f : Queue → Queue) : (d.modQueue n q f).fuses = d.fuses := rfl
@[simp] theorem Dev.modQueue_vigil (d : Dev) (n q : Nat) (f : Queue → Queue) : (d.modQueue n q f).vigil = d.vigil := rfl
@[simp] theorem Dev.modQueue_mode (d : Dev) (n q : Nat) (f : Queue → Queue) : (d.modQueue n q f).mode = d.mode := rfl
@[simp] theorem Dev.modQueue_prior (d : Dev) (n q : Nat) (f : Queue → Queue) : (d.modQueue n q f).prior = d.prior := rfl
@[simp] theorem Dev.modQueue_exported (d : Dev) (n q : Nat) (f : Queue → Queue) : (d.modQueue n q f).exported = d.exported := rfl
@[simp] theorem Dev.modQueue_modeCopy (d : Dev) (n q : Nat) (f : Queue → Queue) : (d.modQueue n q f).modeCopy = d.modeCopy := rfl
@[simp] theorem Dev.modQueue_lastMode (d : Dev) (n q : Nat) (f : Queue → Queue) : (d.modQueue n q f).lastMode = d.lastMode := rfl
@[simp] theorem Dev.modQueue_boot (d : Dev) (n q : Nat) (f : Queue → Queue) : (d.modQueue n q f).boot = d.boot := rfl
@[simp] theorem Dev.modQueue_fw (d : Dev) (n q : Nat) (f : Queue → Queue) : (d.modQueue n q f).fw = d.fw := rfl
@[simp] theorem Dev.modQueue_pins (d : Dev) (n q : Nat) (f : Queue → Queue) : (d.modQueue n q f).pins = d.pins := rfl
@[simp] theorem Dev.modQueue_tamp (d : Dev) (n q : Nat) (f : Queue → Queue) : (d.modQueue n q f).tamp = d.tamp := rfl
@[simp] theorem Dev.modQueue_linkA (d : Dev) (n q : Nat) (f : Queue → Queue) : (d.modQueue n q f).linkA = d.linkA := rfl
@[simp] theorem Dev.modQueue_linkB (d : Dev) (n q : Nat) (f : Queue → Queue) : (d.modQueue n q f).linkB = d.linkB := rfl
@[simp] theorem Dev.modQueue_cplTimeout (d : Dev) (n q : Nat) (f : Queue → Queue) : (d.modQueue n q f).cplTimeout = d.cplTimeout := rfl
@[simp] theorem Dev.modQueue_mq (d : Dev) (n q : Nat) (f : Queue → Queue) : (d.modQueue n q f).mq = d.mq := rfl
@[simp] theorem Dev.modQueue_quorum (d : Dev) (n q : Nat) (f : Queue → Queue) : (d.modQueue n q f).quorum = d.quorum := rfl
@[simp] theorem Dev.modQueue_ridges (d : Dev) (n q : Nat) (f : Queue → Queue) : (d.modQueue n q f).ridges = d.ridges := rfl
@[simp] theorem Dev.modQueue_jobs (d : Dev) (n q : Nat) (f : Queue → Queue) : (d.modQueue n q f).jobs = d.jobs := rfl
@[simp] theorem Dev.modQueue_log (d : Dev) (n q : Nat) (f : Queue → Queue) : (d.modQueue n q f).log = d.log := rfl
@[simp] theorem Dev.modQueue_power (d : Dev) (n q : Nat) (f : Queue → Queue) : (d.modQueue n q f).power = d.power := rfl
@[simp] theorem Dev.modQueue_perf (d : Dev) (n q : Nat) (f : Queue → Queue) : (d.modQueue n q f).perf = d.perf := rfl
@[simp] theorem Dev.modQueue_access (d : Dev) (n q : Nat) (f : Queue → Queue) : (d.modQueue n q f).access = d.access := rfl
@[simp] theorem Dev.modQueue_unsealed (d : Dev) (n q : Nat) (f : Queue → Queue) : (d.modQueue n q f).unsealed = d.unsealed := rfl
@[simp] theorem Dev.modQueue_trained (d : Dev) (n q : Nat) (f : Queue → Queue) : (d.modQueue n q f).trained = d.trained := rfl
@[simp] theorem Dev.modQueue_cacheMode (d : Dev) (n q : Nat) (f : Queue → Queue) : (d.modQueue n q f).cacheMode = d.cacheMode := rfl
@[simp] theorem Dev.modQueue_neighbour (d : Dev) (n q : Nat) (f : Queue → Queue) : (d.modQueue n q f).neighbour = d.neighbour := rfl
@[simp] theorem Dev.modQueue_decode (d : Dev) (n q : Nat) (f : Queue → Queue) : (d.modQueue n q f).decode = d.decode := rfl
@[simp] theorem Dev.modQueue_uses (d : Dev) (n q : Nat) (f : Queue → Queue) : (d.modQueue n q f).uses = d.uses := rfl
@[simp] theorem Dev.modQueue_clock (d : Dev) (n q : Nat) (f : Queue → Queue) : (d.modQueue n q f).clock = d.clock := rfl
@[simp] theorem Dev.modQueue_stamps (d : Dev) (n q : Nat) (f : Queue → Queue) : (d.modQueue n q f).stamps = d.stamps := rfl
@[simp] theorem Dev.modQueue_draws (d : Dev) (n q : Nat) (f : Queue → Queue) : (d.modQueue n q f).draws = d.draws := rfl
@[simp] theorem Dev.modQueue_nextJob (d : Dev) (n q : Nat) (f : Queue → Queue) : (d.modQueue n q f).nextJob = d.nextJob := rfl

@[simp] theorem Dev.modJob_fuses (d : Dev) (n : Nat) (f : JobRec → JobRec) : (d.modJob n f).fuses = d.fuses := rfl
@[simp] theorem Dev.modJob_vigil (d : Dev) (n : Nat) (f : JobRec → JobRec) : (d.modJob n f).vigil = d.vigil := rfl
@[simp] theorem Dev.modJob_mode (d : Dev) (n : Nat) (f : JobRec → JobRec) : (d.modJob n f).mode = d.mode := rfl
@[simp] theorem Dev.modJob_prior (d : Dev) (n : Nat) (f : JobRec → JobRec) : (d.modJob n f).prior = d.prior := rfl
@[simp] theorem Dev.modJob_exported (d : Dev) (n : Nat) (f : JobRec → JobRec) : (d.modJob n f).exported = d.exported := rfl
@[simp] theorem Dev.modJob_modeCopy (d : Dev) (n : Nat) (f : JobRec → JobRec) : (d.modJob n f).modeCopy = d.modeCopy := rfl
@[simp] theorem Dev.modJob_lastMode (d : Dev) (n : Nat) (f : JobRec → JobRec) : (d.modJob n f).lastMode = d.lastMode := rfl
@[simp] theorem Dev.modJob_boot (d : Dev) (n : Nat) (f : JobRec → JobRec) : (d.modJob n f).boot = d.boot := rfl
@[simp] theorem Dev.modJob_fw (d : Dev) (n : Nat) (f : JobRec → JobRec) : (d.modJob n f).fw = d.fw := rfl
@[simp] theorem Dev.modJob_pins (d : Dev) (n : Nat) (f : JobRec → JobRec) : (d.modJob n f).pins = d.pins := rfl
@[simp] theorem Dev.modJob_tamp (d : Dev) (n : Nat) (f : JobRec → JobRec) : (d.modJob n f).tamp = d.tamp := rfl
@[simp] theorem Dev.modJob_linkA (d : Dev) (n : Nat) (f : JobRec → JobRec) : (d.modJob n f).linkA = d.linkA := rfl
@[simp] theorem Dev.modJob_linkB (d : Dev) (n : Nat) (f : JobRec → JobRec) : (d.modJob n f).linkB = d.linkB := rfl
@[simp] theorem Dev.modJob_cplTimeout (d : Dev) (n : Nat) (f : JobRec → JobRec) : (d.modJob n f).cplTimeout = d.cplTimeout := rfl
@[simp] theorem Dev.modJob_mq (d : Dev) (n : Nat) (f : JobRec → JobRec) : (d.modJob n f).mq = d.mq := rfl
@[simp] theorem Dev.modJob_quorum (d : Dev) (n : Nat) (f : JobRec → JobRec) : (d.modJob n f).quorum = d.quorum := rfl
@[simp] theorem Dev.modJob_seams (d : Dev) (n : Nat) (f : JobRec → JobRec) : (d.modJob n f).seams = d.seams := rfl
@[simp] theorem Dev.modJob_ridges (d : Dev) (n : Nat) (f : JobRec → JobRec) : (d.modJob n f).ridges = d.ridges := rfl
@[simp] theorem Dev.modJob_jobs (d : Dev) (n : Nat) (f : JobRec → JobRec) : (d.modJob n f).jobs = d.jobs.map fun j => if j.num = n then f j else j := rfl
@[simp] theorem Dev.modJob_log (d : Dev) (n : Nat) (f : JobRec → JobRec) : (d.modJob n f).log = d.log := rfl
@[simp] theorem Dev.modJob_power (d : Dev) (n : Nat) (f : JobRec → JobRec) : (d.modJob n f).power = d.power := rfl
@[simp] theorem Dev.modJob_perf (d : Dev) (n : Nat) (f : JobRec → JobRec) : (d.modJob n f).perf = d.perf := rfl
@[simp] theorem Dev.modJob_access (d : Dev) (n : Nat) (f : JobRec → JobRec) : (d.modJob n f).access = d.access := rfl
@[simp] theorem Dev.modJob_unsealed (d : Dev) (n : Nat) (f : JobRec → JobRec) : (d.modJob n f).unsealed = d.unsealed := rfl
@[simp] theorem Dev.modJob_trained (d : Dev) (n : Nat) (f : JobRec → JobRec) : (d.modJob n f).trained = d.trained := rfl
@[simp] theorem Dev.modJob_cacheMode (d : Dev) (n : Nat) (f : JobRec → JobRec) : (d.modJob n f).cacheMode = d.cacheMode := rfl
@[simp] theorem Dev.modJob_neighbour (d : Dev) (n : Nat) (f : JobRec → JobRec) : (d.modJob n f).neighbour = d.neighbour := rfl
@[simp] theorem Dev.modJob_decode (d : Dev) (n : Nat) (f : JobRec → JobRec) : (d.modJob n f).decode = d.decode := rfl
@[simp] theorem Dev.modJob_uses (d : Dev) (n : Nat) (f : JobRec → JobRec) : (d.modJob n f).uses = d.uses := rfl
@[simp] theorem Dev.modJob_clock (d : Dev) (n : Nat) (f : JobRec → JobRec) : (d.modJob n f).clock = d.clock := rfl
@[simp] theorem Dev.modJob_stamps (d : Dev) (n : Nat) (f : JobRec → JobRec) : (d.modJob n f).stamps = d.stamps := rfl
@[simp] theorem Dev.modJob_draws (d : Dev) (n : Nat) (f : JobRec → JobRec) : (d.modJob n f).draws = d.draws := rfl
@[simp] theorem Dev.modJob_nextJob (d : Dev) (n : Nat) (f : JobRec → JobRec) : (d.modJob n f).nextJob = d.nextJob := rfl

@[simp] theorem Dev.reach_fuses (d : Dev) (t : Nat) : (d.reach t).fuses = d.fuses := rfl
@[simp] theorem Dev.reach_vigil (d : Dev) (t : Nat) : (d.reach t).vigil = d.vigil := rfl
@[simp] theorem Dev.reach_mode (d : Dev) (t : Nat) : (d.reach t).mode = d.mode := rfl
@[simp] theorem Dev.reach_prior (d : Dev) (t : Nat) : (d.reach t).prior = d.prior := rfl
@[simp] theorem Dev.reach_exported (d : Dev) (t : Nat) : (d.reach t).exported = d.exported := rfl
@[simp] theorem Dev.reach_modeCopy (d : Dev) (t : Nat) : (d.reach t).modeCopy = d.modeCopy := rfl
@[simp] theorem Dev.reach_lastMode (d : Dev) (t : Nat) : (d.reach t).lastMode = d.lastMode := rfl
@[simp] theorem Dev.reach_boot (d : Dev) (t : Nat) : (d.reach t).boot = d.boot := rfl
@[simp] theorem Dev.reach_fw (d : Dev) (t : Nat) : (d.reach t).fw = d.fw := rfl
@[simp] theorem Dev.reach_pins (d : Dev) (t : Nat) : (d.reach t).pins = d.pins := rfl
@[simp] theorem Dev.reach_tamp (d : Dev) (t : Nat) : (d.reach t).tamp = d.tamp := rfl
@[simp] theorem Dev.reach_linkA (d : Dev) (t : Nat) : (d.reach t).linkA = d.linkA := rfl
@[simp] theorem Dev.reach_linkB (d : Dev) (t : Nat) : (d.reach t).linkB = d.linkB := rfl
@[simp] theorem Dev.reach_cplTimeout (d : Dev) (t : Nat) : (d.reach t).cplTimeout = d.cplTimeout := rfl
@[simp] theorem Dev.reach_mq (d : Dev) (t : Nat) : (d.reach t).mq = d.mq := rfl
@[simp] theorem Dev.reach_quorum (d : Dev) (t : Nat) : (d.reach t).quorum = d.quorum := rfl
@[simp] theorem Dev.reach_seams (d : Dev) (t : Nat) : (d.reach t).seams = d.seams := rfl
@[simp] theorem Dev.reach_ridges (d : Dev) (t : Nat) : (d.reach t).ridges = d.ridges := rfl
@[simp] theorem Dev.reach_jobs (d : Dev) (t : Nat) : (d.reach t).jobs = d.jobs := rfl
@[simp] theorem Dev.reach_log (d : Dev) (t : Nat) : (d.reach t).log = d.log := rfl
@[simp] theorem Dev.reach_power (d : Dev) (t : Nat) : (d.reach t).power = d.power := rfl
@[simp] theorem Dev.reach_perf (d : Dev) (t : Nat) : (d.reach t).perf = d.perf := rfl
@[simp] theorem Dev.reach_access (d : Dev) (t : Nat) : (d.reach t).access = d.access := rfl
@[simp] theorem Dev.reach_unsealed (d : Dev) (t : Nat) : (d.reach t).unsealed = d.unsealed := rfl
@[simp] theorem Dev.reach_trained (d : Dev) (t : Nat) : (d.reach t).trained = d.trained := rfl
@[simp] theorem Dev.reach_cacheMode (d : Dev) (t : Nat) : (d.reach t).cacheMode = d.cacheMode := rfl
@[simp] theorem Dev.reach_neighbour (d : Dev) (t : Nat) : (d.reach t).neighbour = d.neighbour := rfl
@[simp] theorem Dev.reach_decode (d : Dev) (t : Nat) : (d.reach t).decode = d.decode := rfl
@[simp] theorem Dev.reach_uses (d : Dev) (t : Nat) : (d.reach t).uses = d.uses := rfl
@[simp] theorem Dev.reach_clock (d : Dev) (t : Nat) : (d.reach t).clock = max d.clock t := rfl
@[simp] theorem Dev.reach_stamps (d : Dev) (t : Nat) : (d.reach t).stamps = d.stamps := rfl
@[simp] theorem Dev.reach_draws (d : Dev) (t : Nat) : (d.reach t).draws = d.draws := rfl
@[simp] theorem Dev.reach_nextJob (d : Dev) (t : Nat) : (d.reach t).nextJob = d.nextJob := rfl

@[simp] theorem Dev.modQuorum_fuses (d : Dev) (f : Quorum → Quorum) : (d.modQuorum f).fuses = d.fuses := rfl
@[simp] theorem Dev.modQuorum_vigil (d : Dev) (f : Quorum → Quorum) : (d.modQuorum f).vigil = d.vigil := rfl
@[simp] theorem Dev.modQuorum_mode (d : Dev) (f : Quorum → Quorum) : (d.modQuorum f).mode = d.mode := rfl
@[simp] theorem Dev.modQuorum_prior (d : Dev) (f : Quorum → Quorum) : (d.modQuorum f).prior = d.prior := rfl
@[simp] theorem Dev.modQuorum_exported (d : Dev) (f : Quorum → Quorum) : (d.modQuorum f).exported = d.exported := rfl
@[simp] theorem Dev.modQuorum_modeCopy (d : Dev) (f : Quorum → Quorum) : (d.modQuorum f).modeCopy = d.modeCopy := rfl
@[simp] theorem Dev.modQuorum_lastMode (d : Dev) (f : Quorum → Quorum) : (d.modQuorum f).lastMode = d.lastMode := rfl
@[simp] theorem Dev.modQuorum_boot (d : Dev) (f : Quorum → Quorum) : (d.modQuorum f).boot = d.boot := rfl
@[simp] theorem Dev.modQuorum_fw (d : Dev) (f : Quorum → Quorum) : (d.modQuorum f).fw = d.fw := rfl
@[simp] theorem Dev.modQuorum_pins (d : Dev) (f : Quorum → Quorum) : (d.modQuorum f).pins = d.pins := rfl
@[simp] theorem Dev.modQuorum_tamp (d : Dev) (f : Quorum → Quorum) : (d.modQuorum f).tamp = d.tamp := rfl
@[simp] theorem Dev.modQuorum_linkA (d : Dev) (f : Quorum → Quorum) : (d.modQuorum f).linkA = d.linkA := rfl
@[simp] theorem Dev.modQuorum_linkB (d : Dev) (f : Quorum → Quorum) : (d.modQuorum f).linkB = d.linkB := rfl
@[simp] theorem Dev.modQuorum_cplTimeout (d : Dev) (f : Quorum → Quorum) : (d.modQuorum f).cplTimeout = d.cplTimeout := rfl
@[simp] theorem Dev.modQuorum_mq (d : Dev) (f : Quorum → Quorum) : (d.modQuorum f).mq = d.mq := rfl
@[simp] theorem Dev.modQuorum_quorum (d : Dev) (f : Quorum → Quorum) : (d.modQuorum f).quorum = f d.quorum := rfl
@[simp] theorem Dev.modQuorum_seams (d : Dev) (f : Quorum → Quorum) : (d.modQuorum f).seams = d.seams := rfl
@[simp] theorem Dev.modQuorum_ridges (d : Dev) (f : Quorum → Quorum) : (d.modQuorum f).ridges = d.ridges := rfl
@[simp] theorem Dev.modQuorum_jobs (d : Dev) (f : Quorum → Quorum) : (d.modQuorum f).jobs = d.jobs := rfl
@[simp] theorem Dev.modQuorum_log (d : Dev) (f : Quorum → Quorum) : (d.modQuorum f).log = d.log := rfl
@[simp] theorem Dev.modQuorum_power (d : Dev) (f : Quorum → Quorum) : (d.modQuorum f).power = d.power := rfl
@[simp] theorem Dev.modQuorum_perf (d : Dev) (f : Quorum → Quorum) : (d.modQuorum f).perf = d.perf := rfl
@[simp] theorem Dev.modQuorum_access (d : Dev) (f : Quorum → Quorum) : (d.modQuorum f).access = d.access := rfl
@[simp] theorem Dev.modQuorum_unsealed (d : Dev) (f : Quorum → Quorum) : (d.modQuorum f).unsealed = d.unsealed := rfl
@[simp] theorem Dev.modQuorum_trained (d : Dev) (f : Quorum → Quorum) : (d.modQuorum f).trained = d.trained := rfl
@[simp] theorem Dev.modQuorum_cacheMode (d : Dev) (f : Quorum → Quorum) : (d.modQuorum f).cacheMode = d.cacheMode := rfl
@[simp] theorem Dev.modQuorum_neighbour (d : Dev) (f : Quorum → Quorum) : (d.modQuorum f).neighbour = d.neighbour := rfl
@[simp] theorem Dev.modQuorum_decode (d : Dev) (f : Quorum → Quorum) : (d.modQuorum f).decode = d.decode := rfl
@[simp] theorem Dev.modQuorum_uses (d : Dev) (f : Quorum → Quorum) : (d.modQuorum f).uses = d.uses := rfl
@[simp] theorem Dev.modQuorum_clock (d : Dev) (f : Quorum → Quorum) : (d.modQuorum f).clock = d.clock := rfl
@[simp] theorem Dev.modQuorum_stamps (d : Dev) (f : Quorum → Quorum) : (d.modQuorum f).stamps = d.stamps := rfl
@[simp] theorem Dev.modQuorum_draws (d : Dev) (f : Quorum → Quorum) : (d.modQuorum f).draws = d.draws := rfl
@[simp] theorem Dev.modQuorum_nextJob (d : Dev) (f : Quorum → Quorum) : (d.modQuorum f).nextJob = d.nextJob := rfl

@[simp] theorem Dev.modMq_fuses (d : Dev) (f : MQ → MQ) : (d.modMq f).fuses = d.fuses := rfl
@[simp] theorem Dev.modMq_vigil (d : Dev) (f : MQ → MQ) : (d.modMq f).vigil = d.vigil := rfl
@[simp] theorem Dev.modMq_mode (d : Dev) (f : MQ → MQ) : (d.modMq f).mode = d.mode := rfl
@[simp] theorem Dev.modMq_prior (d : Dev) (f : MQ → MQ) : (d.modMq f).prior = d.prior := rfl
@[simp] theorem Dev.modMq_exported (d : Dev) (f : MQ → MQ) : (d.modMq f).exported = d.exported := rfl
@[simp] theorem Dev.modMq_modeCopy (d : Dev) (f : MQ → MQ) : (d.modMq f).modeCopy = d.modeCopy := rfl
@[simp] theorem Dev.modMq_lastMode (d : Dev) (f : MQ → MQ) : (d.modMq f).lastMode = d.lastMode := rfl
@[simp] theorem Dev.modMq_boot (d : Dev) (f : MQ → MQ) : (d.modMq f).boot = d.boot := rfl
@[simp] theorem Dev.modMq_fw (d : Dev) (f : MQ → MQ) : (d.modMq f).fw = d.fw := rfl
@[simp] theorem Dev.modMq_pins (d : Dev) (f : MQ → MQ) : (d.modMq f).pins = d.pins := rfl
@[simp] theorem Dev.modMq_tamp (d : Dev) (f : MQ → MQ) : (d.modMq f).tamp = d.tamp := rfl
@[simp] theorem Dev.modMq_linkA (d : Dev) (f : MQ → MQ) : (d.modMq f).linkA = d.linkA := rfl
@[simp] theorem Dev.modMq_linkB (d : Dev) (f : MQ → MQ) : (d.modMq f).linkB = d.linkB := rfl
@[simp] theorem Dev.modMq_cplTimeout (d : Dev) (f : MQ → MQ) : (d.modMq f).cplTimeout = d.cplTimeout := rfl
@[simp] theorem Dev.modMq_mq (d : Dev) (f : MQ → MQ) : (d.modMq f).mq = f d.mq := rfl
@[simp] theorem Dev.modMq_quorum (d : Dev) (f : MQ → MQ) : (d.modMq f).quorum = d.quorum := rfl
@[simp] theorem Dev.modMq_seams (d : Dev) (f : MQ → MQ) : (d.modMq f).seams = d.seams := rfl
@[simp] theorem Dev.modMq_ridges (d : Dev) (f : MQ → MQ) : (d.modMq f).ridges = d.ridges := rfl
@[simp] theorem Dev.modMq_jobs (d : Dev) (f : MQ → MQ) : (d.modMq f).jobs = d.jobs := rfl
@[simp] theorem Dev.modMq_log (d : Dev) (f : MQ → MQ) : (d.modMq f).log = d.log := rfl
@[simp] theorem Dev.modMq_power (d : Dev) (f : MQ → MQ) : (d.modMq f).power = d.power := rfl
@[simp] theorem Dev.modMq_perf (d : Dev) (f : MQ → MQ) : (d.modMq f).perf = d.perf := rfl
@[simp] theorem Dev.modMq_access (d : Dev) (f : MQ → MQ) : (d.modMq f).access = d.access := rfl
@[simp] theorem Dev.modMq_unsealed (d : Dev) (f : MQ → MQ) : (d.modMq f).unsealed = d.unsealed := rfl
@[simp] theorem Dev.modMq_trained (d : Dev) (f : MQ → MQ) : (d.modMq f).trained = d.trained := rfl
@[simp] theorem Dev.modMq_cacheMode (d : Dev) (f : MQ → MQ) : (d.modMq f).cacheMode = d.cacheMode := rfl
@[simp] theorem Dev.modMq_neighbour (d : Dev) (f : MQ → MQ) : (d.modMq f).neighbour = d.neighbour := rfl
@[simp] theorem Dev.modMq_decode (d : Dev) (f : MQ → MQ) : (d.modMq f).decode = d.decode := rfl
@[simp] theorem Dev.modMq_uses (d : Dev) (f : MQ → MQ) : (d.modMq f).uses = d.uses := rfl
@[simp] theorem Dev.modMq_clock (d : Dev) (f : MQ → MQ) : (d.modMq f).clock = d.clock := rfl
@[simp] theorem Dev.modMq_stamps (d : Dev) (f : MQ → MQ) : (d.modMq f).stamps = d.stamps := rfl
@[simp] theorem Dev.modMq_draws (d : Dev) (f : MQ → MQ) : (d.modMq f).draws = d.draws := rfl
@[simp] theorem Dev.modMq_nextJob (d : Dev) (f : MQ → MQ) : (d.modMq f).nextJob = d.nextJob := rfl

@[simp] theorem Dev.modTamp_fuses (d : Dev) (f : Tamp → Tamp) : (d.modTamp f).fuses = d.fuses := rfl
@[simp] theorem Dev.modTamp_vigil (d : Dev) (f : Tamp → Tamp) : (d.modTamp f).vigil = d.vigil := rfl
@[simp] theorem Dev.modTamp_mode (d : Dev) (f : Tamp → Tamp) : (d.modTamp f).mode = d.mode := rfl
@[simp] theorem Dev.modTamp_prior (d : Dev) (f : Tamp → Tamp) : (d.modTamp f).prior = d.prior := rfl
@[simp] theorem Dev.modTamp_exported (d : Dev) (f : Tamp → Tamp) : (d.modTamp f).exported = d.exported := rfl
@[simp] theorem Dev.modTamp_modeCopy (d : Dev) (f : Tamp → Tamp) : (d.modTamp f).modeCopy = d.modeCopy := rfl
@[simp] theorem Dev.modTamp_lastMode (d : Dev) (f : Tamp → Tamp) : (d.modTamp f).lastMode = d.lastMode := rfl
@[simp] theorem Dev.modTamp_boot (d : Dev) (f : Tamp → Tamp) : (d.modTamp f).boot = d.boot := rfl
@[simp] theorem Dev.modTamp_fw (d : Dev) (f : Tamp → Tamp) : (d.modTamp f).fw = d.fw := rfl
@[simp] theorem Dev.modTamp_pins (d : Dev) (f : Tamp → Tamp) : (d.modTamp f).pins = d.pins := rfl
@[simp] theorem Dev.modTamp_tamp (d : Dev) (f : Tamp → Tamp) : (d.modTamp f).tamp = f d.tamp := rfl
@[simp] theorem Dev.modTamp_linkA (d : Dev) (f : Tamp → Tamp) : (d.modTamp f).linkA = d.linkA := rfl
@[simp] theorem Dev.modTamp_linkB (d : Dev) (f : Tamp → Tamp) : (d.modTamp f).linkB = d.linkB := rfl
@[simp] theorem Dev.modTamp_cplTimeout (d : Dev) (f : Tamp → Tamp) : (d.modTamp f).cplTimeout = d.cplTimeout := rfl
@[simp] theorem Dev.modTamp_mq (d : Dev) (f : Tamp → Tamp) : (d.modTamp f).mq = d.mq := rfl
@[simp] theorem Dev.modTamp_quorum (d : Dev) (f : Tamp → Tamp) : (d.modTamp f).quorum = d.quorum := rfl
@[simp] theorem Dev.modTamp_seams (d : Dev) (f : Tamp → Tamp) : (d.modTamp f).seams = d.seams := rfl
@[simp] theorem Dev.modTamp_ridges (d : Dev) (f : Tamp → Tamp) : (d.modTamp f).ridges = d.ridges := rfl
@[simp] theorem Dev.modTamp_jobs (d : Dev) (f : Tamp → Tamp) : (d.modTamp f).jobs = d.jobs := rfl
@[simp] theorem Dev.modTamp_log (d : Dev) (f : Tamp → Tamp) : (d.modTamp f).log = d.log := rfl
@[simp] theorem Dev.modTamp_power (d : Dev) (f : Tamp → Tamp) : (d.modTamp f).power = d.power := rfl
@[simp] theorem Dev.modTamp_perf (d : Dev) (f : Tamp → Tamp) : (d.modTamp f).perf = d.perf := rfl
@[simp] theorem Dev.modTamp_access (d : Dev) (f : Tamp → Tamp) : (d.modTamp f).access = d.access := rfl
@[simp] theorem Dev.modTamp_unsealed (d : Dev) (f : Tamp → Tamp) : (d.modTamp f).unsealed = d.unsealed := rfl
@[simp] theorem Dev.modTamp_trained (d : Dev) (f : Tamp → Tamp) : (d.modTamp f).trained = d.trained := rfl
@[simp] theorem Dev.modTamp_cacheMode (d : Dev) (f : Tamp → Tamp) : (d.modTamp f).cacheMode = d.cacheMode := rfl
@[simp] theorem Dev.modTamp_neighbour (d : Dev) (f : Tamp → Tamp) : (d.modTamp f).neighbour = d.neighbour := rfl
@[simp] theorem Dev.modTamp_decode (d : Dev) (f : Tamp → Tamp) : (d.modTamp f).decode = d.decode := rfl
@[simp] theorem Dev.modTamp_uses (d : Dev) (f : Tamp → Tamp) : (d.modTamp f).uses = d.uses := rfl
@[simp] theorem Dev.modTamp_clock (d : Dev) (f : Tamp → Tamp) : (d.modTamp f).clock = d.clock := rfl
@[simp] theorem Dev.modTamp_stamps (d : Dev) (f : Tamp → Tamp) : (d.modTamp f).stamps = d.stamps := rfl
@[simp] theorem Dev.modTamp_draws (d : Dev) (f : Tamp → Tamp) : (d.modTamp f).draws = d.draws := rfl
@[simp] theorem Dev.modTamp_nextJob (d : Dev) (f : Tamp → Tamp) : (d.modTamp f).nextJob = d.nextJob := rfl

@[simp] theorem Dev.modPins_fuses (d : Dev) (f : Pins → Pins) : (d.modPins f).fuses = d.fuses := rfl
@[simp] theorem Dev.modPins_vigil (d : Dev) (f : Pins → Pins) : (d.modPins f).vigil = d.vigil := rfl
@[simp] theorem Dev.modPins_mode (d : Dev) (f : Pins → Pins) : (d.modPins f).mode = d.mode := rfl
@[simp] theorem Dev.modPins_prior (d : Dev) (f : Pins → Pins) : (d.modPins f).prior = d.prior := rfl
@[simp] theorem Dev.modPins_exported (d : Dev) (f : Pins → Pins) : (d.modPins f).exported = d.exported := rfl
@[simp] theorem Dev.modPins_modeCopy (d : Dev) (f : Pins → Pins) : (d.modPins f).modeCopy = d.modeCopy := rfl
@[simp] theorem Dev.modPins_lastMode (d : Dev) (f : Pins → Pins) : (d.modPins f).lastMode = d.lastMode := rfl
@[simp] theorem Dev.modPins_boot (d : Dev) (f : Pins → Pins) : (d.modPins f).boot = d.boot := rfl
@[simp] theorem Dev.modPins_fw (d : Dev) (f : Pins → Pins) : (d.modPins f).fw = d.fw := rfl
@[simp] theorem Dev.modPins_pins (d : Dev) (f : Pins → Pins) : (d.modPins f).pins = f d.pins := rfl
@[simp] theorem Dev.modPins_tamp (d : Dev) (f : Pins → Pins) : (d.modPins f).tamp = d.tamp := rfl
@[simp] theorem Dev.modPins_linkA (d : Dev) (f : Pins → Pins) : (d.modPins f).linkA = d.linkA := rfl
@[simp] theorem Dev.modPins_linkB (d : Dev) (f : Pins → Pins) : (d.modPins f).linkB = d.linkB := rfl
@[simp] theorem Dev.modPins_cplTimeout (d : Dev) (f : Pins → Pins) : (d.modPins f).cplTimeout = d.cplTimeout := rfl
@[simp] theorem Dev.modPins_mq (d : Dev) (f : Pins → Pins) : (d.modPins f).mq = d.mq := rfl
@[simp] theorem Dev.modPins_quorum (d : Dev) (f : Pins → Pins) : (d.modPins f).quorum = d.quorum := rfl
@[simp] theorem Dev.modPins_seams (d : Dev) (f : Pins → Pins) : (d.modPins f).seams = d.seams := rfl
@[simp] theorem Dev.modPins_ridges (d : Dev) (f : Pins → Pins) : (d.modPins f).ridges = d.ridges := rfl
@[simp] theorem Dev.modPins_jobs (d : Dev) (f : Pins → Pins) : (d.modPins f).jobs = d.jobs := rfl
@[simp] theorem Dev.modPins_log (d : Dev) (f : Pins → Pins) : (d.modPins f).log = d.log := rfl
@[simp] theorem Dev.modPins_power (d : Dev) (f : Pins → Pins) : (d.modPins f).power = d.power := rfl
@[simp] theorem Dev.modPins_perf (d : Dev) (f : Pins → Pins) : (d.modPins f).perf = d.perf := rfl
@[simp] theorem Dev.modPins_access (d : Dev) (f : Pins → Pins) : (d.modPins f).access = d.access := rfl
@[simp] theorem Dev.modPins_unsealed (d : Dev) (f : Pins → Pins) : (d.modPins f).unsealed = d.unsealed := rfl
@[simp] theorem Dev.modPins_trained (d : Dev) (f : Pins → Pins) : (d.modPins f).trained = d.trained := rfl
@[simp] theorem Dev.modPins_cacheMode (d : Dev) (f : Pins → Pins) : (d.modPins f).cacheMode = d.cacheMode := rfl
@[simp] theorem Dev.modPins_neighbour (d : Dev) (f : Pins → Pins) : (d.modPins f).neighbour = d.neighbour := rfl
@[simp] theorem Dev.modPins_decode (d : Dev) (f : Pins → Pins) : (d.modPins f).decode = d.decode := rfl
@[simp] theorem Dev.modPins_uses (d : Dev) (f : Pins → Pins) : (d.modPins f).uses = d.uses := rfl
@[simp] theorem Dev.modPins_clock (d : Dev) (f : Pins → Pins) : (d.modPins f).clock = d.clock := rfl
@[simp] theorem Dev.modPins_stamps (d : Dev) (f : Pins → Pins) : (d.modPins f).stamps = d.stamps := rfl
@[simp] theorem Dev.modPins_draws (d : Dev) (f : Pins → Pins) : (d.modPins f).draws = d.draws := rfl
@[simp] theorem Dev.modPins_nextJob (d : Dev) (f : Pins → Pins) : (d.modPins f).nextJob = d.nextJob := rfl

@[simp] theorem Dev.modVigil_fuses (d : Dev) (f : Vigil → Vigil) : (d.modVigil f).fuses = d.fuses := rfl
@[simp] theorem Dev.modVigil_vigil (d : Dev) (f : Vigil → Vigil) : (d.modVigil f).vigil = f d.vigil := rfl
@[simp] theorem Dev.modVigil_mode (d : Dev) (f : Vigil → Vigil) : (d.modVigil f).mode = d.mode := rfl
@[simp] theorem Dev.modVigil_prior (d : Dev) (f : Vigil → Vigil) : (d.modVigil f).prior = d.prior := rfl
@[simp] theorem Dev.modVigil_exported (d : Dev) (f : Vigil → Vigil) : (d.modVigil f).exported = d.exported := rfl
@[simp] theorem Dev.modVigil_modeCopy (d : Dev) (f : Vigil → Vigil) : (d.modVigil f).modeCopy = d.modeCopy := rfl
@[simp] theorem Dev.modVigil_lastMode (d : Dev) (f : Vigil → Vigil) : (d.modVigil f).lastMode = d.lastMode := rfl
@[simp] theorem Dev.modVigil_boot (d : Dev) (f : Vigil → Vigil) : (d.modVigil f).boot = d.boot := rfl
@[simp] theorem Dev.modVigil_fw (d : Dev) (f : Vigil → Vigil) : (d.modVigil f).fw = d.fw := rfl
@[simp] theorem Dev.modVigil_pins (d : Dev) (f : Vigil → Vigil) : (d.modVigil f).pins = d.pins := rfl
@[simp] theorem Dev.modVigil_tamp (d : Dev) (f : Vigil → Vigil) : (d.modVigil f).tamp = d.tamp := rfl
@[simp] theorem Dev.modVigil_linkA (d : Dev) (f : Vigil → Vigil) : (d.modVigil f).linkA = d.linkA := rfl
@[simp] theorem Dev.modVigil_linkB (d : Dev) (f : Vigil → Vigil) : (d.modVigil f).linkB = d.linkB := rfl
@[simp] theorem Dev.modVigil_cplTimeout (d : Dev) (f : Vigil → Vigil) : (d.modVigil f).cplTimeout = d.cplTimeout := rfl
@[simp] theorem Dev.modVigil_mq (d : Dev) (f : Vigil → Vigil) : (d.modVigil f).mq = d.mq := rfl
@[simp] theorem Dev.modVigil_quorum (d : Dev) (f : Vigil → Vigil) : (d.modVigil f).quorum = d.quorum := rfl
@[simp] theorem Dev.modVigil_seams (d : Dev) (f : Vigil → Vigil) : (d.modVigil f).seams = d.seams := rfl
@[simp] theorem Dev.modVigil_ridges (d : Dev) (f : Vigil → Vigil) : (d.modVigil f).ridges = d.ridges := rfl
@[simp] theorem Dev.modVigil_jobs (d : Dev) (f : Vigil → Vigil) : (d.modVigil f).jobs = d.jobs := rfl
@[simp] theorem Dev.modVigil_log (d : Dev) (f : Vigil → Vigil) : (d.modVigil f).log = d.log := rfl
@[simp] theorem Dev.modVigil_power (d : Dev) (f : Vigil → Vigil) : (d.modVigil f).power = d.power := rfl
@[simp] theorem Dev.modVigil_perf (d : Dev) (f : Vigil → Vigil) : (d.modVigil f).perf = d.perf := rfl
@[simp] theorem Dev.modVigil_access (d : Dev) (f : Vigil → Vigil) : (d.modVigil f).access = d.access := rfl
@[simp] theorem Dev.modVigil_unsealed (d : Dev) (f : Vigil → Vigil) : (d.modVigil f).unsealed = d.unsealed := rfl
@[simp] theorem Dev.modVigil_trained (d : Dev) (f : Vigil → Vigil) : (d.modVigil f).trained = d.trained := rfl
@[simp] theorem Dev.modVigil_cacheMode (d : Dev) (f : Vigil → Vigil) : (d.modVigil f).cacheMode = d.cacheMode := rfl
@[simp] theorem Dev.modVigil_neighbour (d : Dev) (f : Vigil → Vigil) : (d.modVigil f).neighbour = d.neighbour := rfl
@[simp] theorem Dev.modVigil_decode (d : Dev) (f : Vigil → Vigil) : (d.modVigil f).decode = d.decode := rfl
@[simp] theorem Dev.modVigil_uses (d : Dev) (f : Vigil → Vigil) : (d.modVigil f).uses = d.uses := rfl
@[simp] theorem Dev.modVigil_clock (d : Dev) (f : Vigil → Vigil) : (d.modVigil f).clock = d.clock := rfl
@[simp] theorem Dev.modVigil_stamps (d : Dev) (f : Vigil → Vigil) : (d.modVigil f).stamps = d.stamps := rfl
@[simp] theorem Dev.modVigil_draws (d : Dev) (f : Vigil → Vigil) : (d.modVigil f).draws = d.draws := rfl
@[simp] theorem Dev.modVigil_nextJob (d : Dev) (f : Vigil → Vigil) : (d.modVigil f).nextJob = d.nextJob := rfl

@[simp] theorem Dev.modPower_fuses (d : Dev) (f : Power → Power) : (d.modPower f).fuses = d.fuses := rfl
@[simp] theorem Dev.modPower_vigil (d : Dev) (f : Power → Power) : (d.modPower f).vigil = d.vigil := rfl
@[simp] theorem Dev.modPower_mode (d : Dev) (f : Power → Power) : (d.modPower f).mode = d.mode := rfl
@[simp] theorem Dev.modPower_prior (d : Dev) (f : Power → Power) : (d.modPower f).prior = d.prior := rfl
@[simp] theorem Dev.modPower_exported (d : Dev) (f : Power → Power) : (d.modPower f).exported = d.exported := rfl
@[simp] theorem Dev.modPower_modeCopy (d : Dev) (f : Power → Power) : (d.modPower f).modeCopy = d.modeCopy := rfl
@[simp] theorem Dev.modPower_lastMode (d : Dev) (f : Power → Power) : (d.modPower f).lastMode = d.lastMode := rfl
@[simp] theorem Dev.modPower_boot (d : Dev) (f : Power → Power) : (d.modPower f).boot = d.boot := rfl
@[simp] theorem Dev.modPower_fw (d : Dev) (f : Power → Power) : (d.modPower f).fw = d.fw := rfl
@[simp] theorem Dev.modPower_pins (d : Dev) (f : Power → Power) : (d.modPower f).pins = d.pins := rfl
@[simp] theorem Dev.modPower_tamp (d : Dev) (f : Power → Power) : (d.modPower f).tamp = d.tamp := rfl
@[simp] theorem Dev.modPower_linkA (d : Dev) (f : Power → Power) : (d.modPower f).linkA = d.linkA := rfl
@[simp] theorem Dev.modPower_linkB (d : Dev) (f : Power → Power) : (d.modPower f).linkB = d.linkB := rfl
@[simp] theorem Dev.modPower_cplTimeout (d : Dev) (f : Power → Power) : (d.modPower f).cplTimeout = d.cplTimeout := rfl
@[simp] theorem Dev.modPower_mq (d : Dev) (f : Power → Power) : (d.modPower f).mq = d.mq := rfl
@[simp] theorem Dev.modPower_quorum (d : Dev) (f : Power → Power) : (d.modPower f).quorum = d.quorum := rfl
@[simp] theorem Dev.modPower_seams (d : Dev) (f : Power → Power) : (d.modPower f).seams = d.seams := rfl
@[simp] theorem Dev.modPower_ridges (d : Dev) (f : Power → Power) : (d.modPower f).ridges = d.ridges := rfl
@[simp] theorem Dev.modPower_jobs (d : Dev) (f : Power → Power) : (d.modPower f).jobs = d.jobs := rfl
@[simp] theorem Dev.modPower_log (d : Dev) (f : Power → Power) : (d.modPower f).log = d.log := rfl
@[simp] theorem Dev.modPower_power (d : Dev) (f : Power → Power) : (d.modPower f).power = f d.power := rfl
@[simp] theorem Dev.modPower_perf (d : Dev) (f : Power → Power) : (d.modPower f).perf = d.perf := rfl
@[simp] theorem Dev.modPower_access (d : Dev) (f : Power → Power) : (d.modPower f).access = d.access := rfl
@[simp] theorem Dev.modPower_unsealed (d : Dev) (f : Power → Power) : (d.modPower f).unsealed = d.unsealed := rfl
@[simp] theorem Dev.modPower_trained (d : Dev) (f : Power → Power) : (d.modPower f).trained = d.trained := rfl
@[simp] theorem Dev.modPower_cacheMode (d : Dev) (f : Power → Power) : (d.modPower f).cacheMode = d.cacheMode := rfl
@[simp] theorem Dev.modPower_neighbour (d : Dev) (f : Power → Power) : (d.modPower f).neighbour = d.neighbour := rfl
@[simp] theorem Dev.modPower_decode (d : Dev) (f : Power → Power) : (d.modPower f).decode = d.decode := rfl
@[simp] theorem Dev.modPower_uses (d : Dev) (f : Power → Power) : (d.modPower f).uses = d.uses := rfl
@[simp] theorem Dev.modPower_clock (d : Dev) (f : Power → Power) : (d.modPower f).clock = d.clock := rfl
@[simp] theorem Dev.modPower_stamps (d : Dev) (f : Power → Power) : (d.modPower f).stamps = d.stamps := rfl
@[simp] theorem Dev.modPower_draws (d : Dev) (f : Power → Power) : (d.modPower f).draws = d.draws := rfl
@[simp] theorem Dev.modPower_nextJob (d : Dev) (f : Power → Power) : (d.modPower f).nextJob = d.nextJob := rfl

@[simp] theorem Dev.modBoot_fuses (d : Dev) (f : Boot → Boot) : (d.modBoot f).fuses = d.fuses := rfl
@[simp] theorem Dev.modBoot_vigil (d : Dev) (f : Boot → Boot) : (d.modBoot f).vigil = d.vigil := rfl
@[simp] theorem Dev.modBoot_mode (d : Dev) (f : Boot → Boot) : (d.modBoot f).mode = d.mode := rfl
@[simp] theorem Dev.modBoot_prior (d : Dev) (f : Boot → Boot) : (d.modBoot f).prior = d.prior := rfl
@[simp] theorem Dev.modBoot_exported (d : Dev) (f : Boot → Boot) : (d.modBoot f).exported = d.exported := rfl
@[simp] theorem Dev.modBoot_modeCopy (d : Dev) (f : Boot → Boot) : (d.modBoot f).modeCopy = d.modeCopy := rfl
@[simp] theorem Dev.modBoot_lastMode (d : Dev) (f : Boot → Boot) : (d.modBoot f).lastMode = d.lastMode := rfl
@[simp] theorem Dev.modBoot_boot (d : Dev) (f : Boot → Boot) : (d.modBoot f).boot = f d.boot := rfl
@[simp] theorem Dev.modBoot_fw (d : Dev) (f : Boot → Boot) : (d.modBoot f).fw = d.fw := rfl
@[simp] theorem Dev.modBoot_pins (d : Dev) (f : Boot → Boot) : (d.modBoot f).pins = d.pins := rfl
@[simp] theorem Dev.modBoot_tamp (d : Dev) (f : Boot → Boot) : (d.modBoot f).tamp = d.tamp := rfl
@[simp] theorem Dev.modBoot_linkA (d : Dev) (f : Boot → Boot) : (d.modBoot f).linkA = d.linkA := rfl
@[simp] theorem Dev.modBoot_linkB (d : Dev) (f : Boot → Boot) : (d.modBoot f).linkB = d.linkB := rfl
@[simp] theorem Dev.modBoot_cplTimeout (d : Dev) (f : Boot → Boot) : (d.modBoot f).cplTimeout = d.cplTimeout := rfl
@[simp] theorem Dev.modBoot_mq (d : Dev) (f : Boot → Boot) : (d.modBoot f).mq = d.mq := rfl
@[simp] theorem Dev.modBoot_quorum (d : Dev) (f : Boot → Boot) : (d.modBoot f).quorum = d.quorum := rfl
@[simp] theorem Dev.modBoot_seams (d : Dev) (f : Boot → Boot) : (d.modBoot f).seams = d.seams := rfl
@[simp] theorem Dev.modBoot_ridges (d : Dev) (f : Boot → Boot) : (d.modBoot f).ridges = d.ridges := rfl
@[simp] theorem Dev.modBoot_jobs (d : Dev) (f : Boot → Boot) : (d.modBoot f).jobs = d.jobs := rfl
@[simp] theorem Dev.modBoot_log (d : Dev) (f : Boot → Boot) : (d.modBoot f).log = d.log := rfl
@[simp] theorem Dev.modBoot_power (d : Dev) (f : Boot → Boot) : (d.modBoot f).power = d.power := rfl
@[simp] theorem Dev.modBoot_perf (d : Dev) (f : Boot → Boot) : (d.modBoot f).perf = d.perf := rfl
@[simp] theorem Dev.modBoot_access (d : Dev) (f : Boot → Boot) : (d.modBoot f).access = d.access := rfl
@[simp] theorem Dev.modBoot_unsealed (d : Dev) (f : Boot → Boot) : (d.modBoot f).unsealed = d.unsealed := rfl
@[simp] theorem Dev.modBoot_trained (d : Dev) (f : Boot → Boot) : (d.modBoot f).trained = d.trained := rfl
@[simp] theorem Dev.modBoot_cacheMode (d : Dev) (f : Boot → Boot) : (d.modBoot f).cacheMode = d.cacheMode := rfl
@[simp] theorem Dev.modBoot_neighbour (d : Dev) (f : Boot → Boot) : (d.modBoot f).neighbour = d.neighbour := rfl
@[simp] theorem Dev.modBoot_decode (d : Dev) (f : Boot → Boot) : (d.modBoot f).decode = d.decode := rfl
@[simp] theorem Dev.modBoot_uses (d : Dev) (f : Boot → Boot) : (d.modBoot f).uses = d.uses := rfl
@[simp] theorem Dev.modBoot_clock (d : Dev) (f : Boot → Boot) : (d.modBoot f).clock = d.clock := rfl
@[simp] theorem Dev.modBoot_stamps (d : Dev) (f : Boot → Boot) : (d.modBoot f).stamps = d.stamps := rfl
@[simp] theorem Dev.modBoot_draws (d : Dev) (f : Boot → Boot) : (d.modBoot f).draws = d.draws := rfl
@[simp] theorem Dev.modBoot_nextJob (d : Dev) (f : Boot → Boot) : (d.modBoot f).nextJob = d.nextJob := rfl

@[simp] theorem Dev.modFw_fuses (d : Dev) (f : Firmware → Firmware) : (d.modFw f).fuses = d.fuses := rfl
@[simp] theorem Dev.modFw_vigil (d : Dev) (f : Firmware → Firmware) : (d.modFw f).vigil = d.vigil := rfl
@[simp] theorem Dev.modFw_mode (d : Dev) (f : Firmware → Firmware) : (d.modFw f).mode = d.mode := rfl
@[simp] theorem Dev.modFw_prior (d : Dev) (f : Firmware → Firmware) : (d.modFw f).prior = d.prior := rfl
@[simp] theorem Dev.modFw_exported (d : Dev) (f : Firmware → Firmware) : (d.modFw f).exported = d.exported := rfl
@[simp] theorem Dev.modFw_modeCopy (d : Dev) (f : Firmware → Firmware) : (d.modFw f).modeCopy = d.modeCopy := rfl
@[simp] theorem Dev.modFw_lastMode (d : Dev) (f : Firmware → Firmware) : (d.modFw f).lastMode = d.lastMode := rfl
@[simp] theorem Dev.modFw_boot (d : Dev) (f : Firmware → Firmware) : (d.modFw f).boot = d.boot := rfl
@[simp] theorem Dev.modFw_fw (d : Dev) (f : Firmware → Firmware) : (d.modFw f).fw = f d.fw := rfl
@[simp] theorem Dev.modFw_pins (d : Dev) (f : Firmware → Firmware) : (d.modFw f).pins = d.pins := rfl
@[simp] theorem Dev.modFw_tamp (d : Dev) (f : Firmware → Firmware) : (d.modFw f).tamp = d.tamp := rfl
@[simp] theorem Dev.modFw_linkA (d : Dev) (f : Firmware → Firmware) : (d.modFw f).linkA = d.linkA := rfl
@[simp] theorem Dev.modFw_linkB (d : Dev) (f : Firmware → Firmware) : (d.modFw f).linkB = d.linkB := rfl
@[simp] theorem Dev.modFw_cplTimeout (d : Dev) (f : Firmware → Firmware) : (d.modFw f).cplTimeout = d.cplTimeout := rfl
@[simp] theorem Dev.modFw_mq (d : Dev) (f : Firmware → Firmware) : (d.modFw f).mq = d.mq := rfl
@[simp] theorem Dev.modFw_quorum (d : Dev) (f : Firmware → Firmware) : (d.modFw f).quorum = d.quorum := rfl
@[simp] theorem Dev.modFw_seams (d : Dev) (f : Firmware → Firmware) : (d.modFw f).seams = d.seams := rfl
@[simp] theorem Dev.modFw_ridges (d : Dev) (f : Firmware → Firmware) : (d.modFw f).ridges = d.ridges := rfl
@[simp] theorem Dev.modFw_jobs (d : Dev) (f : Firmware → Firmware) : (d.modFw f).jobs = d.jobs := rfl
@[simp] theorem Dev.modFw_log (d : Dev) (f : Firmware → Firmware) : (d.modFw f).log = d.log := rfl
@[simp] theorem Dev.modFw_power (d : Dev) (f : Firmware → Firmware) : (d.modFw f).power = d.power := rfl
@[simp] theorem Dev.modFw_perf (d : Dev) (f : Firmware → Firmware) : (d.modFw f).perf = d.perf := rfl
@[simp] theorem Dev.modFw_access (d : Dev) (f : Firmware → Firmware) : (d.modFw f).access = d.access := rfl
@[simp] theorem Dev.modFw_unsealed (d : Dev) (f : Firmware → Firmware) : (d.modFw f).unsealed = d.unsealed := rfl
@[simp] theorem Dev.modFw_trained (d : Dev) (f : Firmware → Firmware) : (d.modFw f).trained = d.trained := rfl
@[simp] theorem Dev.modFw_cacheMode (d : Dev) (f : Firmware → Firmware) : (d.modFw f).cacheMode = d.cacheMode := rfl
@[simp] theorem Dev.modFw_neighbour (d : Dev) (f : Firmware → Firmware) : (d.modFw f).neighbour = d.neighbour := rfl
@[simp] theorem Dev.modFw_decode (d : Dev) (f : Firmware → Firmware) : (d.modFw f).decode = d.decode := rfl
@[simp] theorem Dev.modFw_uses (d : Dev) (f : Firmware → Firmware) : (d.modFw f).uses = d.uses := rfl
@[simp] theorem Dev.modFw_clock (d : Dev) (f : Firmware → Firmware) : (d.modFw f).clock = d.clock := rfl
@[simp] theorem Dev.modFw_stamps (d : Dev) (f : Firmware → Firmware) : (d.modFw f).stamps = d.stamps := rfl
@[simp] theorem Dev.modFw_draws (d : Dev) (f : Firmware → Firmware) : (d.modFw f).draws = d.draws := rfl
@[simp] theorem Dev.modFw_nextJob (d : Dev) (f : Firmware → Firmware) : (d.modFw f).nextJob = d.nextJob := rfl

@[simp] theorem Dev.modLog_fuses (d : Dev) (f : LogBlock → LogBlock) : (d.modLog f).fuses = d.fuses := rfl
@[simp] theorem Dev.modLog_vigil (d : Dev) (f : LogBlock → LogBlock) : (d.modLog f).vigil = d.vigil := rfl
@[simp] theorem Dev.modLog_mode (d : Dev) (f : LogBlock → LogBlock) : (d.modLog f).mode = d.mode := rfl
@[simp] theorem Dev.modLog_prior (d : Dev) (f : LogBlock → LogBlock) : (d.modLog f).prior = d.prior := rfl
@[simp] theorem Dev.modLog_exported (d : Dev) (f : LogBlock → LogBlock) : (d.modLog f).exported = d.exported := rfl
@[simp] theorem Dev.modLog_modeCopy (d : Dev) (f : LogBlock → LogBlock) : (d.modLog f).modeCopy = d.modeCopy := rfl
@[simp] theorem Dev.modLog_lastMode (d : Dev) (f : LogBlock → LogBlock) : (d.modLog f).lastMode = d.lastMode := rfl
@[simp] theorem Dev.modLog_boot (d : Dev) (f : LogBlock → LogBlock) : (d.modLog f).boot = d.boot := rfl
@[simp] theorem Dev.modLog_fw (d : Dev) (f : LogBlock → LogBlock) : (d.modLog f).fw = d.fw := rfl
@[simp] theorem Dev.modLog_pins (d : Dev) (f : LogBlock → LogBlock) : (d.modLog f).pins = d.pins := rfl
@[simp] theorem Dev.modLog_tamp (d : Dev) (f : LogBlock → LogBlock) : (d.modLog f).tamp = d.tamp := rfl
@[simp] theorem Dev.modLog_linkA (d : Dev) (f : LogBlock → LogBlock) : (d.modLog f).linkA = d.linkA := rfl
@[simp] theorem Dev.modLog_linkB (d : Dev) (f : LogBlock → LogBlock) : (d.modLog f).linkB = d.linkB := rfl
@[simp] theorem Dev.modLog_cplTimeout (d : Dev) (f : LogBlock → LogBlock) : (d.modLog f).cplTimeout = d.cplTimeout := rfl
@[simp] theorem Dev.modLog_mq (d : Dev) (f : LogBlock → LogBlock) : (d.modLog f).mq = d.mq := rfl
@[simp] theorem Dev.modLog_quorum (d : Dev) (f : LogBlock → LogBlock) : (d.modLog f).quorum = d.quorum := rfl
@[simp] theorem Dev.modLog_seams (d : Dev) (f : LogBlock → LogBlock) : (d.modLog f).seams = d.seams := rfl
@[simp] theorem Dev.modLog_ridges (d : Dev) (f : LogBlock → LogBlock) : (d.modLog f).ridges = d.ridges := rfl
@[simp] theorem Dev.modLog_jobs (d : Dev) (f : LogBlock → LogBlock) : (d.modLog f).jobs = d.jobs := rfl
@[simp] theorem Dev.modLog_log (d : Dev) (f : LogBlock → LogBlock) : (d.modLog f).log = f d.log := rfl
@[simp] theorem Dev.modLog_power (d : Dev) (f : LogBlock → LogBlock) : (d.modLog f).power = d.power := rfl
@[simp] theorem Dev.modLog_perf (d : Dev) (f : LogBlock → LogBlock) : (d.modLog f).perf = d.perf := rfl
@[simp] theorem Dev.modLog_access (d : Dev) (f : LogBlock → LogBlock) : (d.modLog f).access = d.access := rfl
@[simp] theorem Dev.modLog_unsealed (d : Dev) (f : LogBlock → LogBlock) : (d.modLog f).unsealed = d.unsealed := rfl
@[simp] theorem Dev.modLog_trained (d : Dev) (f : LogBlock → LogBlock) : (d.modLog f).trained = d.trained := rfl
@[simp] theorem Dev.modLog_cacheMode (d : Dev) (f : LogBlock → LogBlock) : (d.modLog f).cacheMode = d.cacheMode := rfl
@[simp] theorem Dev.modLog_neighbour (d : Dev) (f : LogBlock → LogBlock) : (d.modLog f).neighbour = d.neighbour := rfl
@[simp] theorem Dev.modLog_decode (d : Dev) (f : LogBlock → LogBlock) : (d.modLog f).decode = d.decode := rfl
@[simp] theorem Dev.modLog_uses (d : Dev) (f : LogBlock → LogBlock) : (d.modLog f).uses = d.uses := rfl
@[simp] theorem Dev.modLog_clock (d : Dev) (f : LogBlock → LogBlock) : (d.modLog f).clock = d.clock := rfl
@[simp] theorem Dev.modLog_stamps (d : Dev) (f : LogBlock → LogBlock) : (d.modLog f).stamps = d.stamps := rfl
@[simp] theorem Dev.modLog_draws (d : Dev) (f : LogBlock → LogBlock) : (d.modLog f).draws = d.draws := rfl
@[simp] theorem Dev.modLog_nextJob (d : Dev) (f : LogBlock → LogBlock) : (d.modLog f).nextJob = d.nextJob := rfl

@[simp] theorem Dev.modAccess_fuses (d : Dev) (f : Access → Access) : (d.modAccess f).fuses = d.fuses := rfl
@[simp] theorem Dev.modAccess_vigil (d : Dev) (f : Access → Access) : (d.modAccess f).vigil = d.vigil := rfl
@[simp] theorem Dev.modAccess_mode (d : Dev) (f : Access → Access) : (d.modAccess f).mode = d.mode := rfl
@[simp] theorem Dev.modAccess_prior (d : Dev) (f : Access → Access) : (d.modAccess f).prior = d.prior := rfl
@[simp] theorem Dev.modAccess_exported (d : Dev) (f : Access → Access) : (d.modAccess f).exported = d.exported := rfl
@[simp] theorem Dev.modAccess_modeCopy (d : Dev) (f : Access → Access) : (d.modAccess f).modeCopy = d.modeCopy := rfl
@[simp] theorem Dev.modAccess_lastMode (d : Dev) (f : Access → Access) : (d.modAccess f).lastMode = d.lastMode := rfl
@[simp] theorem Dev.modAccess_boot (d : Dev) (f : Access → Access) : (d.modAccess f).boot = d.boot := rfl
@[simp] theorem Dev.modAccess_fw (d : Dev) (f : Access → Access) : (d.modAccess f).fw = d.fw := rfl
@[simp] theorem Dev.modAccess_pins (d : Dev) (f : Access → Access) : (d.modAccess f).pins = d.pins := rfl
@[simp] theorem Dev.modAccess_tamp (d : Dev) (f : Access → Access) : (d.modAccess f).tamp = d.tamp := rfl
@[simp] theorem Dev.modAccess_linkA (d : Dev) (f : Access → Access) : (d.modAccess f).linkA = d.linkA := rfl
@[simp] theorem Dev.modAccess_linkB (d : Dev) (f : Access → Access) : (d.modAccess f).linkB = d.linkB := rfl
@[simp] theorem Dev.modAccess_cplTimeout (d : Dev) (f : Access → Access) : (d.modAccess f).cplTimeout = d.cplTimeout := rfl
@[simp] theorem Dev.modAccess_mq (d : Dev) (f : Access → Access) : (d.modAccess f).mq = d.mq := rfl
@[simp] theorem Dev.modAccess_quorum (d : Dev) (f : Access → Access) : (d.modAccess f).quorum = d.quorum := rfl
@[simp] theorem Dev.modAccess_seams (d : Dev) (f : Access → Access) : (d.modAccess f).seams = d.seams := rfl
@[simp] theorem Dev.modAccess_ridges (d : Dev) (f : Access → Access) : (d.modAccess f).ridges = d.ridges := rfl
@[simp] theorem Dev.modAccess_jobs (d : Dev) (f : Access → Access) : (d.modAccess f).jobs = d.jobs := rfl
@[simp] theorem Dev.modAccess_log (d : Dev) (f : Access → Access) : (d.modAccess f).log = d.log := rfl
@[simp] theorem Dev.modAccess_power (d : Dev) (f : Access → Access) : (d.modAccess f).power = d.power := rfl
@[simp] theorem Dev.modAccess_perf (d : Dev) (f : Access → Access) : (d.modAccess f).perf = d.perf := rfl
@[simp] theorem Dev.modAccess_access (d : Dev) (f : Access → Access) : (d.modAccess f).access = f d.access := rfl
@[simp] theorem Dev.modAccess_unsealed (d : Dev) (f : Access → Access) : (d.modAccess f).unsealed = d.unsealed := rfl
@[simp] theorem Dev.modAccess_trained (d : Dev) (f : Access → Access) : (d.modAccess f).trained = d.trained := rfl
@[simp] theorem Dev.modAccess_cacheMode (d : Dev) (f : Access → Access) : (d.modAccess f).cacheMode = d.cacheMode := rfl
@[simp] theorem Dev.modAccess_neighbour (d : Dev) (f : Access → Access) : (d.modAccess f).neighbour = d.neighbour := rfl
@[simp] theorem Dev.modAccess_decode (d : Dev) (f : Access → Access) : (d.modAccess f).decode = d.decode := rfl
@[simp] theorem Dev.modAccess_uses (d : Dev) (f : Access → Access) : (d.modAccess f).uses = d.uses := rfl
@[simp] theorem Dev.modAccess_clock (d : Dev) (f : Access → Access) : (d.modAccess f).clock = d.clock := rfl
@[simp] theorem Dev.modAccess_stamps (d : Dev) (f : Access → Access) : (d.modAccess f).stamps = d.stamps := rfl
@[simp] theorem Dev.modAccess_draws (d : Dev) (f : Access → Access) : (d.modAccess f).draws = d.draws := rfl
@[simp] theorem Dev.modAccess_nextJob (d : Dev) (f : Access → Access) : (d.modAccess f).nextJob = d.nextJob := rfl

@[simp] theorem Dev.modLink_fuses (d : Dev) (l : Lk) (f : Link → Link) : (d.modLink l f).fuses = d.fuses := by cases l <;> rfl
@[simp] theorem Dev.modLink_vigil (d : Dev) (l : Lk) (f : Link → Link) : (d.modLink l f).vigil = d.vigil := by cases l <;> rfl
@[simp] theorem Dev.modLink_mode (d : Dev) (l : Lk) (f : Link → Link) : (d.modLink l f).mode = d.mode := by cases l <;> rfl
@[simp] theorem Dev.modLink_prior (d : Dev) (l : Lk) (f : Link → Link) : (d.modLink l f).prior = d.prior := by cases l <;> rfl
@[simp] theorem Dev.modLink_exported (d : Dev) (l : Lk) (f : Link → Link) : (d.modLink l f).exported = d.exported := by cases l <;> rfl
@[simp] theorem Dev.modLink_modeCopy (d : Dev) (l : Lk) (f : Link → Link) : (d.modLink l f).modeCopy = d.modeCopy := by cases l <;> rfl
@[simp] theorem Dev.modLink_lastMode (d : Dev) (l : Lk) (f : Link → Link) : (d.modLink l f).lastMode = d.lastMode := by cases l <;> rfl
@[simp] theorem Dev.modLink_boot (d : Dev) (l : Lk) (f : Link → Link) : (d.modLink l f).boot = d.boot := by cases l <;> rfl
@[simp] theorem Dev.modLink_fw (d : Dev) (l : Lk) (f : Link → Link) : (d.modLink l f).fw = d.fw := by cases l <;> rfl
@[simp] theorem Dev.modLink_pins (d : Dev) (l : Lk) (f : Link → Link) : (d.modLink l f).pins = d.pins := by cases l <;> rfl
@[simp] theorem Dev.modLink_tamp (d : Dev) (l : Lk) (f : Link → Link) : (d.modLink l f).tamp = d.tamp := by cases l <;> rfl
@[simp] theorem Dev.modLink_cplTimeout (d : Dev) (l : Lk) (f : Link → Link) : (d.modLink l f).cplTimeout = d.cplTimeout := by cases l <;> rfl
@[simp] theorem Dev.modLink_mq (d : Dev) (l : Lk) (f : Link → Link) : (d.modLink l f).mq = d.mq := by cases l <;> rfl
@[simp] theorem Dev.modLink_quorum (d : Dev) (l : Lk) (f : Link → Link) : (d.modLink l f).quorum = d.quorum := by cases l <;> rfl
@[simp] theorem Dev.modLink_seams (d : Dev) (l : Lk) (f : Link → Link) : (d.modLink l f).seams = d.seams := by cases l <;> rfl
@[simp] theorem Dev.modLink_ridges (d : Dev) (l : Lk) (f : Link → Link) : (d.modLink l f).ridges = d.ridges := by cases l <;> rfl
@[simp] theorem Dev.modLink_jobs (d : Dev) (l : Lk) (f : Link → Link) : (d.modLink l f).jobs = d.jobs := by cases l <;> rfl
@[simp] theorem Dev.modLink_log (d : Dev) (l : Lk) (f : Link → Link) : (d.modLink l f).log = d.log := by cases l <;> rfl
@[simp] theorem Dev.modLink_power (d : Dev) (l : Lk) (f : Link → Link) : (d.modLink l f).power = d.power := by cases l <;> rfl
@[simp] theorem Dev.modLink_perf (d : Dev) (l : Lk) (f : Link → Link) : (d.modLink l f).perf = d.perf := by cases l <;> rfl
@[simp] theorem Dev.modLink_access (d : Dev) (l : Lk) (f : Link → Link) : (d.modLink l f).access = d.access := by cases l <;> rfl
@[simp] theorem Dev.modLink_unsealed (d : Dev) (l : Lk) (f : Link → Link) : (d.modLink l f).unsealed = d.unsealed := by cases l <;> rfl
@[simp] theorem Dev.modLink_trained (d : Dev) (l : Lk) (f : Link → Link) : (d.modLink l f).trained = d.trained := by cases l <;> rfl
@[simp] theorem Dev.modLink_cacheMode (d : Dev) (l : Lk) (f : Link → Link) : (d.modLink l f).cacheMode = d.cacheMode := by cases l <;> rfl
@[simp] theorem Dev.modLink_neighbour (d : Dev) (l : Lk) (f : Link → Link) : (d.modLink l f).neighbour = d.neighbour := by cases l <;> rfl
@[simp] theorem Dev.modLink_decode (d : Dev) (l : Lk) (f : Link → Link) : (d.modLink l f).decode = d.decode := by cases l <;> rfl
@[simp] theorem Dev.modLink_uses (d : Dev) (l : Lk) (f : Link → Link) : (d.modLink l f).uses = d.uses := by cases l <;> rfl
@[simp] theorem Dev.modLink_clock (d : Dev) (l : Lk) (f : Link → Link) : (d.modLink l f).clock = d.clock := by cases l <;> rfl
@[simp] theorem Dev.modLink_stamps (d : Dev) (l : Lk) (f : Link → Link) : (d.modLink l f).stamps = d.stamps := by cases l <;> rfl
@[simp] theorem Dev.modLink_draws (d : Dev) (l : Lk) (f : Link → Link) : (d.modLink l f).draws = d.draws := by cases l <;> rfl
@[simp] theorem Dev.modLink_nextJob (d : Dev) (l : Lk) (f : Link → Link) : (d.modLink l f).nextJob = d.nextJob := by cases l <;> rfl

@[simp] theorem Dev.send_fuses (d : Dev) (l : Lk) (w : HostWrite) : (d.send l w).fuses = d.fuses := by cases l <;> rfl
@[simp] theorem Dev.send_vigil (d : Dev) (l : Lk) (w : HostWrite) : (d.send l w).vigil = d.vigil := by cases l <;> rfl
@[simp] theorem Dev.send_mode (d : Dev) (l : Lk) (w : HostWrite) : (d.send l w).mode = d.mode := by cases l <;> rfl
@[simp] theorem Dev.send_prior (d : Dev) (l : Lk) (w : HostWrite) : (d.send l w).prior = d.prior := by cases l <;> rfl
@[simp] theorem Dev.send_exported (d : Dev) (l : Lk) (w : HostWrite) : (d.send l w).exported = d.exported := by cases l <;> rfl
@[simp] theorem Dev.send_modeCopy (d : Dev) (l : Lk) (w : HostWrite) : (d.send l w).modeCopy = d.modeCopy := by cases l <;> rfl
@[simp] theorem Dev.send_lastMode (d : Dev) (l : Lk) (w : HostWrite) : (d.send l w).lastMode = d.lastMode := by cases l <;> rfl
@[simp] theorem Dev.send_boot (d : Dev) (l : Lk) (w : HostWrite) : (d.send l w).boot = d.boot := by cases l <;> rfl
@[simp] theorem Dev.send_fw (d : Dev) (l : Lk) (w : HostWrite) : (d.send l w).fw = d.fw := by cases l <;> rfl
@[simp] theorem Dev.send_pins (d : Dev) (l : Lk) (w : HostWrite) : (d.send l w).pins = d.pins := by cases l <;> rfl
@[simp] theorem Dev.send_tamp (d : Dev) (l : Lk) (w : HostWrite) : (d.send l w).tamp = d.tamp := by cases l <;> rfl
@[simp] theorem Dev.send_cplTimeout (d : Dev) (l : Lk) (w : HostWrite) : (d.send l w).cplTimeout = d.cplTimeout := by cases l <;> rfl
@[simp] theorem Dev.send_mq (d : Dev) (l : Lk) (w : HostWrite) : (d.send l w).mq = d.mq := by cases l <;> rfl
@[simp] theorem Dev.send_quorum (d : Dev) (l : Lk) (w : HostWrite) : (d.send l w).quorum = d.quorum := by cases l <;> rfl
@[simp] theorem Dev.send_seams (d : Dev) (l : Lk) (w : HostWrite) : (d.send l w).seams = d.seams := by cases l <;> rfl
@[simp] theorem Dev.send_ridges (d : Dev) (l : Lk) (w : HostWrite) : (d.send l w).ridges = d.ridges := by cases l <;> rfl
@[simp] theorem Dev.send_jobs (d : Dev) (l : Lk) (w : HostWrite) : (d.send l w).jobs = d.jobs := by cases l <;> rfl
@[simp] theorem Dev.send_log (d : Dev) (l : Lk) (w : HostWrite) : (d.send l w).log = d.log := by cases l <;> rfl
@[simp] theorem Dev.send_power (d : Dev) (l : Lk) (w : HostWrite) : (d.send l w).power = d.power := by cases l <;> rfl
@[simp] theorem Dev.send_perf (d : Dev) (l : Lk) (w : HostWrite) : (d.send l w).perf = d.perf := by cases l <;> rfl
@[simp] theorem Dev.send_access (d : Dev) (l : Lk) (w : HostWrite) : (d.send l w).access = d.access := by cases l <;> rfl
@[simp] theorem Dev.send_unsealed (d : Dev) (l : Lk) (w : HostWrite) : (d.send l w).unsealed = d.unsealed := by cases l <;> rfl
@[simp] theorem Dev.send_trained (d : Dev) (l : Lk) (w : HostWrite) : (d.send l w).trained = d.trained := by cases l <;> rfl
@[simp] theorem Dev.send_cacheMode (d : Dev) (l : Lk) (w : HostWrite) : (d.send l w).cacheMode = d.cacheMode := by cases l <;> rfl
@[simp] theorem Dev.send_neighbour (d : Dev) (l : Lk) (w : HostWrite) : (d.send l w).neighbour = d.neighbour := by cases l <;> rfl
@[simp] theorem Dev.send_decode (d : Dev) (l : Lk) (w : HostWrite) : (d.send l w).decode = d.decode := by cases l <;> rfl
@[simp] theorem Dev.send_uses (d : Dev) (l : Lk) (w : HostWrite) : (d.send l w).uses = d.uses := by cases l <;> rfl
@[simp] theorem Dev.send_clock (d : Dev) (l : Lk) (w : HostWrite) : (d.send l w).clock = d.clock := by cases l <;> rfl
@[simp] theorem Dev.send_stamps (d : Dev) (l : Lk) (w : HostWrite) : (d.send l w).stamps = d.stamps := by cases l <;> rfl
@[simp] theorem Dev.send_draws (d : Dev) (l : Lk) (w : HostWrite) : (d.send l w).draws = d.draws := by cases l <;> rfl
@[simp] theorem Dev.send_nextJob (d : Dev) (l : Lk) (w : HostWrite) : (d.send l w).nextJob = d.nextJob := by cases l <;> rfl

@[simp] theorem Dev.stamp_fuses (d : Dev) (f : Stamps → Option Nat → Stamps) : (d.stamp f).fuses = d.fuses := rfl
@[simp] theorem Dev.stamp_vigil (d : Dev) (f : Stamps → Option Nat → Stamps) : (d.stamp f).vigil = d.vigil := rfl
@[simp] theorem Dev.stamp_mode (d : Dev) (f : Stamps → Option Nat → Stamps) : (d.stamp f).mode = d.mode := rfl
@[simp] theorem Dev.stamp_prior (d : Dev) (f : Stamps → Option Nat → Stamps) : (d.stamp f).prior = d.prior := rfl
@[simp] theorem Dev.stamp_exported (d : Dev) (f : Stamps → Option Nat → Stamps) : (d.stamp f).exported = d.exported := rfl
@[simp] theorem Dev.stamp_modeCopy (d : Dev) (f : Stamps → Option Nat → Stamps) : (d.stamp f).modeCopy = d.modeCopy := rfl
@[simp] theorem Dev.stamp_lastMode (d : Dev) (f : Stamps → Option Nat → Stamps) : (d.stamp f).lastMode = d.lastMode := rfl
@[simp] theorem Dev.stamp_boot (d : Dev) (f : Stamps → Option Nat → Stamps) : (d.stamp f).boot = d.boot := rfl
@[simp] theorem Dev.stamp_fw (d : Dev) (f : Stamps → Option Nat → Stamps) : (d.stamp f).fw = d.fw := rfl
@[simp] theorem Dev.stamp_pins (d : Dev) (f : Stamps → Option Nat → Stamps) : (d.stamp f).pins = d.pins := rfl
@[simp] theorem Dev.stamp_tamp (d : Dev) (f : Stamps → Option Nat → Stamps) : (d.stamp f).tamp = d.tamp := rfl
@[simp] theorem Dev.stamp_linkA (d : Dev) (f : Stamps → Option Nat → Stamps) : (d.stamp f).linkA = d.linkA := rfl
@[simp] theorem Dev.stamp_linkB (d : Dev) (f : Stamps → Option Nat → Stamps) : (d.stamp f).linkB = d.linkB := rfl
@[simp] theorem Dev.stamp_cplTimeout (d : Dev) (f : Stamps → Option Nat → Stamps) : (d.stamp f).cplTimeout = d.cplTimeout := rfl
@[simp] theorem Dev.stamp_mq (d : Dev) (f : Stamps → Option Nat → Stamps) : (d.stamp f).mq = d.mq := rfl
@[simp] theorem Dev.stamp_quorum (d : Dev) (f : Stamps → Option Nat → Stamps) : (d.stamp f).quorum = d.quorum := rfl
@[simp] theorem Dev.stamp_seams (d : Dev) (f : Stamps → Option Nat → Stamps) : (d.stamp f).seams = d.seams := rfl
@[simp] theorem Dev.stamp_ridges (d : Dev) (f : Stamps → Option Nat → Stamps) : (d.stamp f).ridges = d.ridges := rfl
@[simp] theorem Dev.stamp_jobs (d : Dev) (f : Stamps → Option Nat → Stamps) : (d.stamp f).jobs = d.jobs := rfl
@[simp] theorem Dev.stamp_log (d : Dev) (f : Stamps → Option Nat → Stamps) : (d.stamp f).log = d.log := rfl
@[simp] theorem Dev.stamp_power (d : Dev) (f : Stamps → Option Nat → Stamps) : (d.stamp f).power = d.power := rfl
@[simp] theorem Dev.stamp_perf (d : Dev) (f : Stamps → Option Nat → Stamps) : (d.stamp f).perf = d.perf := rfl
@[simp] theorem Dev.stamp_access (d : Dev) (f : Stamps → Option Nat → Stamps) : (d.stamp f).access = d.access := rfl
@[simp] theorem Dev.stamp_unsealed (d : Dev) (f : Stamps → Option Nat → Stamps) : (d.stamp f).unsealed = d.unsealed := rfl
@[simp] theorem Dev.stamp_trained (d : Dev) (f : Stamps → Option Nat → Stamps) : (d.stamp f).trained = d.trained := rfl
@[simp] theorem Dev.stamp_cacheMode (d : Dev) (f : Stamps → Option Nat → Stamps) : (d.stamp f).cacheMode = d.cacheMode := rfl
@[simp] theorem Dev.stamp_neighbour (d : Dev) (f : Stamps → Option Nat → Stamps) : (d.stamp f).neighbour = d.neighbour := rfl
@[simp] theorem Dev.stamp_decode (d : Dev) (f : Stamps → Option Nat → Stamps) : (d.stamp f).decode = d.decode := rfl
@[simp] theorem Dev.stamp_uses (d : Dev) (f : Stamps → Option Nat → Stamps) : (d.stamp f).uses = d.uses := rfl
@[simp] theorem Dev.stamp_clock (d : Dev) (f : Stamps → Option Nat → Stamps) : (d.stamp f).clock = d.clock := rfl
@[simp] theorem Dev.stamp_stamps (d : Dev) (f : Stamps → Option Nat → Stamps) : (d.stamp f).stamps = f d.stamps (some d.spineCycle) := rfl
@[simp] theorem Dev.stamp_draws (d : Dev) (f : Stamps → Option Nat → Stamps) : (d.stamp f).draws = d.draws := rfl
@[simp] theorem Dev.stamp_nextJob (d : Dev) (f : Stamps → Option Nat → Stamps) : (d.stamp f).nextJob = d.nextJob := rfl

@[simp] theorem Dev.ownCycle_fuses (d : Dev) (x : Option Nat) : (d.ownCycle x).fuses = d.fuses := by unfold Dev.ownCycle; split <;> rfl
@[simp] theorem Dev.ownCycle_vigil (d : Dev) (x : Option Nat) : (d.ownCycle x).vigil = d.vigil := by unfold Dev.ownCycle; split <;> rfl
@[simp] theorem Dev.ownCycle_mode (d : Dev) (x : Option Nat) : (d.ownCycle x).mode = d.mode := by unfold Dev.ownCycle; split <;> rfl
@[simp] theorem Dev.ownCycle_prior (d : Dev) (x : Option Nat) : (d.ownCycle x).prior = d.prior := by unfold Dev.ownCycle; split <;> rfl
@[simp] theorem Dev.ownCycle_exported (d : Dev) (x : Option Nat) : (d.ownCycle x).exported = d.exported := by unfold Dev.ownCycle; split <;> rfl
@[simp] theorem Dev.ownCycle_modeCopy (d : Dev) (x : Option Nat) : (d.ownCycle x).modeCopy = d.modeCopy := by unfold Dev.ownCycle; split <;> rfl
@[simp] theorem Dev.ownCycle_lastMode (d : Dev) (x : Option Nat) : (d.ownCycle x).lastMode = d.lastMode := by unfold Dev.ownCycle; split <;> rfl
@[simp] theorem Dev.ownCycle_boot (d : Dev) (x : Option Nat) : (d.ownCycle x).boot = d.boot := by unfold Dev.ownCycle; split <;> rfl
@[simp] theorem Dev.ownCycle_fw (d : Dev) (x : Option Nat) : (d.ownCycle x).fw = d.fw := by unfold Dev.ownCycle; split <;> rfl
@[simp] theorem Dev.ownCycle_pins (d : Dev) (x : Option Nat) : (d.ownCycle x).pins = d.pins := by unfold Dev.ownCycle; split <;> rfl
@[simp] theorem Dev.ownCycle_tamp (d : Dev) (x : Option Nat) : (d.ownCycle x).tamp = d.tamp := by unfold Dev.ownCycle; split <;> rfl
@[simp] theorem Dev.ownCycle_linkA (d : Dev) (x : Option Nat) : (d.ownCycle x).linkA = d.linkA := by unfold Dev.ownCycle; split <;> rfl
@[simp] theorem Dev.ownCycle_linkB (d : Dev) (x : Option Nat) : (d.ownCycle x).linkB = d.linkB := by unfold Dev.ownCycle; split <;> rfl
@[simp] theorem Dev.ownCycle_cplTimeout (d : Dev) (x : Option Nat) : (d.ownCycle x).cplTimeout = d.cplTimeout := by unfold Dev.ownCycle; split <;> rfl
@[simp] theorem Dev.ownCycle_mq (d : Dev) (x : Option Nat) : (d.ownCycle x).mq = d.mq := by unfold Dev.ownCycle; split <;> rfl
@[simp] theorem Dev.ownCycle_quorum (d : Dev) (x : Option Nat) : (d.ownCycle x).quorum = d.quorum := by unfold Dev.ownCycle; split <;> rfl
@[simp] theorem Dev.ownCycle_seams (d : Dev) (x : Option Nat) : (d.ownCycle x).seams = d.seams := by unfold Dev.ownCycle; split <;> rfl
@[simp] theorem Dev.ownCycle_ridges (d : Dev) (x : Option Nat) : (d.ownCycle x).ridges = d.ridges := by unfold Dev.ownCycle; split <;> rfl
@[simp] theorem Dev.ownCycle_jobs (d : Dev) (x : Option Nat) : (d.ownCycle x).jobs = d.jobs := by unfold Dev.ownCycle; split <;> rfl
@[simp] theorem Dev.ownCycle_log (d : Dev) (x : Option Nat) : (d.ownCycle x).log = d.log := by unfold Dev.ownCycle; split <;> rfl
@[simp] theorem Dev.ownCycle_power (d : Dev) (x : Option Nat) : (d.ownCycle x).power = d.power := by unfold Dev.ownCycle; split <;> rfl
@[simp] theorem Dev.ownCycle_perf (d : Dev) (x : Option Nat) : (d.ownCycle x).perf = d.perf := by unfold Dev.ownCycle; split <;> rfl
@[simp] theorem Dev.ownCycle_access (d : Dev) (x : Option Nat) : (d.ownCycle x).access = d.access := by unfold Dev.ownCycle; split <;> rfl
@[simp] theorem Dev.ownCycle_unsealed (d : Dev) (x : Option Nat) : (d.ownCycle x).unsealed = d.unsealed := by unfold Dev.ownCycle; split <;> rfl
@[simp] theorem Dev.ownCycle_trained (d : Dev) (x : Option Nat) : (d.ownCycle x).trained = d.trained := by unfold Dev.ownCycle; split <;> rfl
@[simp] theorem Dev.ownCycle_cacheMode (d : Dev) (x : Option Nat) : (d.ownCycle x).cacheMode = d.cacheMode := by unfold Dev.ownCycle; split <;> rfl
@[simp] theorem Dev.ownCycle_neighbour (d : Dev) (x : Option Nat) : (d.ownCycle x).neighbour = d.neighbour := by unfold Dev.ownCycle; split <;> rfl
@[simp] theorem Dev.ownCycle_decode (d : Dev) (x : Option Nat) : (d.ownCycle x).decode = d.decode := by unfold Dev.ownCycle; split <;> rfl
@[simp] theorem Dev.ownCycle_uses (d : Dev) (x : Option Nat) : (d.ownCycle x).uses = d.uses := by unfold Dev.ownCycle; split <;> rfl
@[simp] theorem Dev.ownCycle_stamps (d : Dev) (x : Option Nat) : (d.ownCycle x).stamps = d.stamps := by unfold Dev.ownCycle; split <;> rfl
@[simp] theorem Dev.ownCycle_draws (d : Dev) (x : Option Nat) : (d.ownCycle x).draws = d.draws := by unfold Dev.ownCycle; split <;> rfl
@[simp] theorem Dev.ownCycle_nextJob (d : Dev) (x : Option Nat) : (d.ownCycle x).nextJob = d.nextJob := by unfold Dev.ownCycle; split <;> rfl

@[simp] theorem Dev.stampWrite_fuses (d : Dev) : d.stampWrite.fuses = d.fuses := by simp [Dev.stampWrite]
@[simp] theorem Dev.stampWrite_vigil (d : Dev) : d.stampWrite.vigil = d.vigil := by simp [Dev.stampWrite]
@[simp] theorem Dev.stampWrite_mode (d : Dev) : d.stampWrite.mode = d.mode := by simp [Dev.stampWrite]
@[simp] theorem Dev.stampWrite_prior (d : Dev) : d.stampWrite.prior = d.prior := by simp [Dev.stampWrite]
@[simp] theorem Dev.stampWrite_exported (d : Dev) : d.stampWrite.exported = d.exported := by simp [Dev.stampWrite]
@[simp] theorem Dev.stampWrite_modeCopy (d : Dev) : d.stampWrite.modeCopy = d.modeCopy := by simp [Dev.stampWrite]
@[simp] theorem Dev.stampWrite_lastMode (d : Dev) : d.stampWrite.lastMode = d.lastMode := by simp [Dev.stampWrite]
@[simp] theorem Dev.stampWrite_boot (d : Dev) : d.stampWrite.boot = d.boot := by simp [Dev.stampWrite]
@[simp] theorem Dev.stampWrite_fw (d : Dev) : d.stampWrite.fw = d.fw := by simp [Dev.stampWrite]
@[simp] theorem Dev.stampWrite_pins (d : Dev) : d.stampWrite.pins = d.pins := by simp [Dev.stampWrite]
@[simp] theorem Dev.stampWrite_tamp (d : Dev) : d.stampWrite.tamp = d.tamp := by simp [Dev.stampWrite]
@[simp] theorem Dev.stampWrite_linkA (d : Dev) : d.stampWrite.linkA = d.linkA := by simp [Dev.stampWrite]
@[simp] theorem Dev.stampWrite_linkB (d : Dev) : d.stampWrite.linkB = d.linkB := by simp [Dev.stampWrite]
@[simp] theorem Dev.stampWrite_cplTimeout (d : Dev) : d.stampWrite.cplTimeout = d.cplTimeout := by simp [Dev.stampWrite]
@[simp] theorem Dev.stampWrite_mq (d : Dev) : d.stampWrite.mq = d.mq := by simp [Dev.stampWrite]
@[simp] theorem Dev.stampWrite_quorum (d : Dev) : d.stampWrite.quorum = d.quorum := by simp [Dev.stampWrite]
@[simp] theorem Dev.stampWrite_seams (d : Dev) : d.stampWrite.seams = d.seams := by simp [Dev.stampWrite]
@[simp] theorem Dev.stampWrite_ridges (d : Dev) : d.stampWrite.ridges = d.ridges := by simp [Dev.stampWrite]
@[simp] theorem Dev.stampWrite_jobs (d : Dev) : d.stampWrite.jobs = d.jobs := by simp [Dev.stampWrite]
@[simp] theorem Dev.stampWrite_log (d : Dev) : d.stampWrite.log = d.log := by simp [Dev.stampWrite]
@[simp] theorem Dev.stampWrite_power (d : Dev) : d.stampWrite.power = d.power := by simp [Dev.stampWrite]
@[simp] theorem Dev.stampWrite_perf (d : Dev) : d.stampWrite.perf = d.perf := by simp [Dev.stampWrite]
@[simp] theorem Dev.stampWrite_access (d : Dev) : d.stampWrite.access = d.access := by simp [Dev.stampWrite]
@[simp] theorem Dev.stampWrite_unsealed (d : Dev) : d.stampWrite.unsealed = d.unsealed := by simp [Dev.stampWrite]
@[simp] theorem Dev.stampWrite_trained (d : Dev) : d.stampWrite.trained = d.trained := by simp [Dev.stampWrite]
@[simp] theorem Dev.stampWrite_cacheMode (d : Dev) : d.stampWrite.cacheMode = d.cacheMode := by simp [Dev.stampWrite]
@[simp] theorem Dev.stampWrite_neighbour (d : Dev) : d.stampWrite.neighbour = d.neighbour := by simp [Dev.stampWrite]
@[simp] theorem Dev.stampWrite_decode (d : Dev) : d.stampWrite.decode = d.decode := by simp [Dev.stampWrite]
@[simp] theorem Dev.stampWrite_uses (d : Dev) : d.stampWrite.uses = d.uses := by simp [Dev.stampWrite]
@[simp] theorem Dev.stampWrite_draws (d : Dev) : d.stampWrite.draws = d.draws := by simp [Dev.stampWrite]
@[simp] theorem Dev.stampWrite_nextJob (d : Dev) : d.stampWrite.nextJob = d.nextJob := by simp [Dev.stampWrite]

@[simp] theorem Dev.stampTamper_fuses (d : Dev) : d.stampTamper.fuses = d.fuses := by simp [Dev.stampTamper]
@[simp] theorem Dev.stampTamper_vigil (d : Dev) : d.stampTamper.vigil = d.vigil := by simp [Dev.stampTamper]
@[simp] theorem Dev.stampTamper_mode (d : Dev) : d.stampTamper.mode = d.mode := by simp [Dev.stampTamper]
@[simp] theorem Dev.stampTamper_prior (d : Dev) : d.stampTamper.prior = d.prior := by simp [Dev.stampTamper]
@[simp] theorem Dev.stampTamper_exported (d : Dev) : d.stampTamper.exported = d.exported := by simp [Dev.stampTamper]
@[simp] theorem Dev.stampTamper_modeCopy (d : Dev) : d.stampTamper.modeCopy = d.modeCopy := by simp [Dev.stampTamper]
@[simp] theorem Dev.stampTamper_lastMode (d : Dev) : d.stampTamper.lastMode = d.lastMode := by simp [Dev.stampTamper]
@[simp] theorem Dev.stampTamper_boot (d : Dev) : d.stampTamper.boot = d.boot := by simp [Dev.stampTamper]
@[simp] theorem Dev.stampTamper_fw (d : Dev) : d.stampTamper.fw = d.fw := by simp [Dev.stampTamper]
@[simp] theorem Dev.stampTamper_pins (d : Dev) : d.stampTamper.pins = d.pins := by simp [Dev.stampTamper]
@[simp] theorem Dev.stampTamper_tamp (d : Dev) : d.stampTamper.tamp = d.tamp := by simp [Dev.stampTamper]
@[simp] theorem Dev.stampTamper_linkA (d : Dev) : d.stampTamper.linkA = d.linkA := by simp [Dev.stampTamper]
@[simp] theorem Dev.stampTamper_linkB (d : Dev) : d.stampTamper.linkB = d.linkB := by simp [Dev.stampTamper]
@[simp] theorem Dev.stampTamper_cplTimeout (d : Dev) : d.stampTamper.cplTimeout = d.cplTimeout := by simp [Dev.stampTamper]
@[simp] theorem Dev.stampTamper_mq (d : Dev) : d.stampTamper.mq = d.mq := by simp [Dev.stampTamper]
@[simp] theorem Dev.stampTamper_quorum (d : Dev) : d.stampTamper.quorum = d.quorum := by simp [Dev.stampTamper]
@[simp] theorem Dev.stampTamper_seams (d : Dev) : d.stampTamper.seams = d.seams := by simp [Dev.stampTamper]
@[simp] theorem Dev.stampTamper_ridges (d : Dev) : d.stampTamper.ridges = d.ridges := by simp [Dev.stampTamper]
@[simp] theorem Dev.stampTamper_jobs (d : Dev) : d.stampTamper.jobs = d.jobs := by simp [Dev.stampTamper]
@[simp] theorem Dev.stampTamper_log (d : Dev) : d.stampTamper.log = d.log := by simp [Dev.stampTamper]
@[simp] theorem Dev.stampTamper_power (d : Dev) : d.stampTamper.power = d.power := by simp [Dev.stampTamper]
@[simp] theorem Dev.stampTamper_perf (d : Dev) : d.stampTamper.perf = d.perf := by simp [Dev.stampTamper]
@[simp] theorem Dev.stampTamper_access (d : Dev) : d.stampTamper.access = d.access := by simp [Dev.stampTamper]
@[simp] theorem Dev.stampTamper_unsealed (d : Dev) : d.stampTamper.unsealed = d.unsealed := by simp [Dev.stampTamper]
@[simp] theorem Dev.stampTamper_trained (d : Dev) : d.stampTamper.trained = d.trained := by simp [Dev.stampTamper]
@[simp] theorem Dev.stampTamper_cacheMode (d : Dev) : d.stampTamper.cacheMode = d.cacheMode := by simp [Dev.stampTamper]
@[simp] theorem Dev.stampTamper_neighbour (d : Dev) : d.stampTamper.neighbour = d.neighbour := by simp [Dev.stampTamper]
@[simp] theorem Dev.stampTamper_decode (d : Dev) : d.stampTamper.decode = d.decode := by simp [Dev.stampTamper]
@[simp] theorem Dev.stampTamper_uses (d : Dev) : d.stampTamper.uses = d.uses := by simp [Dev.stampTamper]
@[simp] theorem Dev.stampTamper_draws (d : Dev) : d.stampTamper.draws = d.draws := by simp [Dev.stampTamper]
@[simp] theorem Dev.stampTamper_nextJob (d : Dev) : d.stampTamper.nextJob = d.nextJob := by simp [Dev.stampTamper]

@[simp] theorem Dev.stampClass_fuses (d : Dev) : d.stampClass.fuses = d.fuses := rfl
@[simp] theorem Dev.stampClass_vigil (d : Dev) : d.stampClass.vigil = d.vigil := rfl
@[simp] theorem Dev.stampClass_mode (d : Dev) : d.stampClass.mode = d.mode := rfl
@[simp] theorem Dev.stampClass_prior (d : Dev) : d.stampClass.prior = d.prior := rfl
@[simp] theorem Dev.stampClass_exported (d : Dev) : d.stampClass.exported = d.exported := rfl
@[simp] theorem Dev.stampClass_modeCopy (d : Dev) : d.stampClass.modeCopy = d.modeCopy := rfl
@[simp] theorem Dev.stampClass_lastMode (d : Dev) : d.stampClass.lastMode = d.lastMode := rfl
@[simp] theorem Dev.stampClass_boot (d : Dev) : d.stampClass.boot = d.boot := rfl
@[simp] theorem Dev.stampClass_fw (d : Dev) : d.stampClass.fw = d.fw := rfl
@[simp] theorem Dev.stampClass_pins (d : Dev) : d.stampClass.pins = d.pins := rfl
@[simp] theorem Dev.stampClass_tamp (d : Dev) : d.stampClass.tamp = d.tamp := rfl
@[simp] theorem Dev.stampClass_linkA (d : Dev) : d.stampClass.linkA = d.linkA := rfl
@[simp] theorem Dev.stampClass_linkB (d : Dev) : d.stampClass.linkB = d.linkB := rfl
@[simp] theorem Dev.stampClass_cplTimeout (d : Dev) : d.stampClass.cplTimeout = d.cplTimeout := rfl
@[simp] theorem Dev.stampClass_mq (d : Dev) : d.stampClass.mq = d.mq := rfl
@[simp] theorem Dev.stampClass_quorum (d : Dev) : d.stampClass.quorum = d.quorum := rfl
@[simp] theorem Dev.stampClass_seams (d : Dev) : d.stampClass.seams = d.seams := rfl
@[simp] theorem Dev.stampClass_ridges (d : Dev) : d.stampClass.ridges = d.ridges := rfl
@[simp] theorem Dev.stampClass_jobs (d : Dev) : d.stampClass.jobs = d.jobs := rfl
@[simp] theorem Dev.stampClass_log (d : Dev) : d.stampClass.log = d.log := rfl
@[simp] theorem Dev.stampClass_power (d : Dev) : d.stampClass.power = d.power := rfl
@[simp] theorem Dev.stampClass_perf (d : Dev) : d.stampClass.perf = d.perf := rfl
@[simp] theorem Dev.stampClass_access (d : Dev) : d.stampClass.access = d.access := rfl
@[simp] theorem Dev.stampClass_unsealed (d : Dev) : d.stampClass.unsealed = d.unsealed := rfl
@[simp] theorem Dev.stampClass_trained (d : Dev) : d.stampClass.trained = d.trained := rfl
@[simp] theorem Dev.stampClass_cacheMode (d : Dev) : d.stampClass.cacheMode = d.cacheMode := rfl
@[simp] theorem Dev.stampClass_neighbour (d : Dev) : d.stampClass.neighbour = d.neighbour := rfl
@[simp] theorem Dev.stampClass_decode (d : Dev) : d.stampClass.decode = d.decode := rfl
@[simp] theorem Dev.stampClass_uses (d : Dev) : d.stampClass.uses = d.uses := rfl
@[simp] theorem Dev.stampClass_clock (d : Dev) : d.stampClass.clock = d.clock := rfl
@[simp] theorem Dev.stampClass_draws (d : Dev) : d.stampClass.draws = d.draws := rfl
@[simp] theorem Dev.stampClass_nextJob (d : Dev) : d.stampClass.nextJob = d.nextJob := rfl

@[simp] theorem Dev.stampPortal_fuses (d : Dev) : d.stampPortal.fuses = d.fuses := rfl
@[simp] theorem Dev.stampPortal_vigil (d : Dev) : d.stampPortal.vigil = d.vigil := rfl
@[simp] theorem Dev.stampPortal_mode (d : Dev) : d.stampPortal.mode = d.mode := rfl
@[simp] theorem Dev.stampPortal_prior (d : Dev) : d.stampPortal.prior = d.prior := rfl
@[simp] theorem Dev.stampPortal_exported (d : Dev) : d.stampPortal.exported = d.exported := rfl
@[simp] theorem Dev.stampPortal_modeCopy (d : Dev) : d.stampPortal.modeCopy = d.modeCopy := rfl
@[simp] theorem Dev.stampPortal_lastMode (d : Dev) : d.stampPortal.lastMode = d.lastMode := rfl
@[simp] theorem Dev.stampPortal_boot (d : Dev) : d.stampPortal.boot = d.boot := rfl
@[simp] theorem Dev.stampPortal_fw (d : Dev) : d.stampPortal.fw = d.fw := rfl
@[simp] theorem Dev.stampPortal_pins (d : Dev) : d.stampPortal.pins = d.pins := rfl
@[simp] theorem Dev.stampPortal_tamp (d : Dev) : d.stampPortal.tamp = d.tamp := rfl
@[simp] theorem Dev.stampPortal_linkA (d : Dev) : d.stampPortal.linkA = d.linkA := rfl
@[simp] theorem Dev.stampPortal_linkB (d : Dev) : d.stampPortal.linkB = d.linkB := rfl
@[simp] theorem Dev.stampPortal_cplTimeout (d : Dev) : d.stampPortal.cplTimeout = d.cplTimeout := rfl
@[simp] theorem Dev.stampPortal_mq (d : Dev) : d.stampPortal.mq = d.mq := rfl
@[simp] theorem Dev.stampPortal_quorum (d : Dev) : d.stampPortal.quorum = d.quorum := rfl
@[simp] theorem Dev.stampPortal_seams (d : Dev) : d.stampPortal.seams = d.seams := rfl
@[simp] theorem Dev.stampPortal_ridges (d : Dev) : d.stampPortal.ridges = d.ridges := rfl
@[simp] theorem Dev.stampPortal_jobs (d : Dev) : d.stampPortal.jobs = d.jobs := rfl
@[simp] theorem Dev.stampPortal_log (d : Dev) : d.stampPortal.log = d.log := rfl
@[simp] theorem Dev.stampPortal_power (d : Dev) : d.stampPortal.power = d.power := rfl
@[simp] theorem Dev.stampPortal_perf (d : Dev) : d.stampPortal.perf = d.perf := rfl
@[simp] theorem Dev.stampPortal_access (d : Dev) : d.stampPortal.access = d.access := rfl
@[simp] theorem Dev.stampPortal_unsealed (d : Dev) : d.stampPortal.unsealed = d.unsealed := rfl
@[simp] theorem Dev.stampPortal_trained (d : Dev) : d.stampPortal.trained = d.trained := rfl
@[simp] theorem Dev.stampPortal_cacheMode (d : Dev) : d.stampPortal.cacheMode = d.cacheMode := rfl
@[simp] theorem Dev.stampPortal_neighbour (d : Dev) : d.stampPortal.neighbour = d.neighbour := rfl
@[simp] theorem Dev.stampPortal_decode (d : Dev) : d.stampPortal.decode = d.decode := rfl
@[simp] theorem Dev.stampPortal_uses (d : Dev) : d.stampPortal.uses = d.uses := rfl
@[simp] theorem Dev.stampPortal_clock (d : Dev) : d.stampPortal.clock = d.clock := rfl
@[simp] theorem Dev.stampPortal_draws (d : Dev) : d.stampPortal.draws = d.draws := rfl
@[simp] theorem Dev.stampPortal_nextJob (d : Dev) : d.stampPortal.nextJob = d.nextJob := rfl

@[simp] theorem Dev.spineSend_fuses (d : Dev) (a b : Nat) : (d.spineSend a b).fuses = d.fuses := by unfold Dev.spineSend; split <;> rfl
@[simp] theorem Dev.spineSend_vigil (d : Dev) (a b : Nat) : (d.spineSend a b).vigil = d.vigil := by unfold Dev.spineSend; split <;> rfl
@[simp] theorem Dev.spineSend_mode (d : Dev) (a b : Nat) : (d.spineSend a b).mode = d.mode := by unfold Dev.spineSend; split <;> rfl
@[simp] theorem Dev.spineSend_prior (d : Dev) (a b : Nat) : (d.spineSend a b).prior = d.prior := by unfold Dev.spineSend; split <;> rfl
@[simp] theorem Dev.spineSend_exported (d : Dev) (a b : Nat) : (d.spineSend a b).exported = d.exported := by unfold Dev.spineSend; split <;> rfl
@[simp] theorem Dev.spineSend_modeCopy (d : Dev) (a b : Nat) : (d.spineSend a b).modeCopy = d.modeCopy := by unfold Dev.spineSend; split <;> rfl
@[simp] theorem Dev.spineSend_lastMode (d : Dev) (a b : Nat) : (d.spineSend a b).lastMode = d.lastMode := by unfold Dev.spineSend; split <;> rfl
@[simp] theorem Dev.spineSend_boot (d : Dev) (a b : Nat) : (d.spineSend a b).boot = d.boot := by unfold Dev.spineSend; split <;> rfl
@[simp] theorem Dev.spineSend_fw (d : Dev) (a b : Nat) : (d.spineSend a b).fw = d.fw := by unfold Dev.spineSend; split <;> rfl
@[simp] theorem Dev.spineSend_pins (d : Dev) (a b : Nat) : (d.spineSend a b).pins = d.pins := by unfold Dev.spineSend; split <;> rfl
@[simp] theorem Dev.spineSend_tamp (d : Dev) (a b : Nat) : (d.spineSend a b).tamp = d.tamp := by unfold Dev.spineSend; split <;> rfl
@[simp] theorem Dev.spineSend_linkA (d : Dev) (a b : Nat) : (d.spineSend a b).linkA = d.linkA := by unfold Dev.spineSend; split <;> rfl
@[simp] theorem Dev.spineSend_linkB (d : Dev) (a b : Nat) : (d.spineSend a b).linkB = d.linkB := by unfold Dev.spineSend; split <;> rfl
@[simp] theorem Dev.spineSend_cplTimeout (d : Dev) (a b : Nat) : (d.spineSend a b).cplTimeout = d.cplTimeout := by unfold Dev.spineSend; split <;> rfl
@[simp] theorem Dev.spineSend_mq (d : Dev) (a b : Nat) : (d.spineSend a b).mq = d.mq := by unfold Dev.spineSend; split <;> rfl
@[simp] theorem Dev.spineSend_quorum (d : Dev) (a b : Nat) : (d.spineSend a b).quorum = d.quorum := by unfold Dev.spineSend; split <;> rfl
@[simp] theorem Dev.spineSend_seams (d : Dev) (a b : Nat) : (d.spineSend a b).seams = d.seams := by unfold Dev.spineSend; split <;> rfl
@[simp] theorem Dev.spineSend_jobs (d : Dev) (a b : Nat) : (d.spineSend a b).jobs = d.jobs := by unfold Dev.spineSend; split <;> rfl
@[simp] theorem Dev.spineSend_log (d : Dev) (a b : Nat) : (d.spineSend a b).log = d.log := by unfold Dev.spineSend; split <;> rfl
@[simp] theorem Dev.spineSend_power (d : Dev) (a b : Nat) : (d.spineSend a b).power = d.power := by unfold Dev.spineSend; split <;> rfl
@[simp] theorem Dev.spineSend_perf (d : Dev) (a b : Nat) : (d.spineSend a b).perf = d.perf := by unfold Dev.spineSend; split <;> rfl
@[simp] theorem Dev.spineSend_access (d : Dev) (a b : Nat) : (d.spineSend a b).access = d.access := by unfold Dev.spineSend; split <;> rfl
@[simp] theorem Dev.spineSend_unsealed (d : Dev) (a b : Nat) : (d.spineSend a b).unsealed = d.unsealed := by unfold Dev.spineSend; split <;> rfl
@[simp] theorem Dev.spineSend_trained (d : Dev) (a b : Nat) : (d.spineSend a b).trained = d.trained := by unfold Dev.spineSend; split <;> rfl
@[simp] theorem Dev.spineSend_cacheMode (d : Dev) (a b : Nat) : (d.spineSend a b).cacheMode = d.cacheMode := by unfold Dev.spineSend; split <;> rfl
@[simp] theorem Dev.spineSend_neighbour (d : Dev) (a b : Nat) : (d.spineSend a b).neighbour = d.neighbour := by unfold Dev.spineSend; split <;> rfl
@[simp] theorem Dev.spineSend_decode (d : Dev) (a b : Nat) : (d.spineSend a b).decode = d.decode := by unfold Dev.spineSend; split <;> rfl
@[simp] theorem Dev.spineSend_uses (d : Dev) (a b : Nat) : (d.spineSend a b).uses = d.uses := by unfold Dev.spineSend; split <;> rfl
@[simp] theorem Dev.spineSend_clock (d : Dev) (a b : Nat) : (d.spineSend a b).clock = d.clock := by unfold Dev.spineSend; split <;> rfl
@[simp] theorem Dev.spineSend_stamps (d : Dev) (a b : Nat) : (d.spineSend a b).stamps = d.stamps := by unfold Dev.spineSend; split <;> rfl
@[simp] theorem Dev.spineSend_draws (d : Dev) (a b : Nat) : (d.spineSend a b).draws = d.draws := by unfold Dev.spineSend; split <;> rfl
@[simp] theorem Dev.spineSend_nextJob (d : Dev) (a b : Nat) : (d.spineSend a b).nextJob = d.nextJob := by unfold Dev.spineSend; split <;> rfl

end Sys2Proof.Machine
end

