-- ==== Sys2Proof/Laws/Frames.lean ====
section
/-! SUPPORT. What raising an event and running the governor leave alone: everything but the ridges and the log. -/

namespace Sys2Proof.Machine

-- one proof at a time: many proofs at once ask for too many threads
set_option Elab.async false

/-- An operation that keeps a view of the device keeps it however often it runs. -/
theorem foldl_same {α β : Type} {f : Dev → α → Dev} (g : Dev → β) (h : ∀ d x, g (f d x) = g d) (l : List α) (d : Dev) :
    g (l.foldl f d) = g d := by
  induction l generalizing d with
  | nil => rfl
  | cons x l ih => exact (ih _).trans (h d x)

/-- The device without its ridges and its log. -/
def Dev.apart (d : Dev) : Dev := { d with ridges := [], log := LogBlock.reset }

theorem Dev.raise_apart (d : Dev) (src : Option Nat) (id : Nat) (c : BitVec 2) (x : BitVec 32) (s : Option Nat) :
    (d.raise src id c x s).apart = d.apart := by
  unfold Dev.raise; cases src <;> rfl

theorem Dev.ridgeEvent_apart (d : Dev) (r off x : Nat) (s : Option Nat) : (d.ridgeEvent r off x s).apart = d.apart := by
  unfold Dev.ridgeEvent
  split
  · exact d.raise_apart _ _ _ _ _
  · rfl

theorem Dev.pkgEvent_apart (d : Dev) (id x : Nat) (s : Option Nat) : (d.pkgEvent id x s).apart = d.apart := d.raise_apart _ _ _ _ _

theorem Dev.govern_apart (d : Dev) (b : Bool) : (d.govern b).apart = d.apart := by
  unfold Dev.govern
  extract_lets old thr d₁ still
  have h₁ : d₁.apart = d.apart := by
    refine foldl_same Dev.apart (fun d r => ?_) _ _
    extract_lets x claimed now gone d₃ d₄
    have h : d₄.apart = d.apart := by
      refine (foldl_same Dev.apart (fun d b => ?_) _ _).trans rfl
      split
      · exact d.ridgeEvent_apart _ _ _ _
      · rfl
    split
    · exact (d₄.ridgeEvent_apart _ _ _ _).trans h
    · exact h
  split
  · exact (d₁.ridgeEvent_apart _ _ _ _).trans h₁
  · exact h₁

theorem Dev.fuses_of_apart {d e : Dev} (h : d.apart = e.apart) : d.fuses = e.fuses := (congrArg Dev.fuses h :)
theorem Dev.vigil_of_apart {d e : Dev} (h : d.apart = e.apart) : d.vigil = e.vigil := (congrArg Dev.vigil h :)
theorem Dev.mode_of_apart {d e : Dev} (h : d.apart = e.apart) : d.mode = e.mode := (congrArg Dev.mode h :)
theorem Dev.prior_of_apart {d e : Dev} (h : d.apart = e.apart) : d.prior = e.prior := (congrArg Dev.prior h :)
theorem Dev.exported_of_apart {d e : Dev} (h : d.apart = e.apart) : d.exported = e.exported := (congrArg Dev.exported h :)
theorem Dev.modeCopy_of_apart {d e : Dev} (h : d.apart = e.apart) : d.modeCopy = e.modeCopy := (congrArg Dev.modeCopy h :)
theorem Dev.lastMode_of_apart {d e : Dev} (h : d.apart = e.apart) : d.lastMode = e.lastMode := (congrArg Dev.lastMode h :)
theorem Dev.boot_of_apart {d e : Dev} (h : d.apart = e.apart) : d.boot = e.boot := (congrArg Dev.boot h :)
theorem Dev.fw_of_apart {d e : Dev} (h : d.apart = e.apart) : d.fw = e.fw := (congrArg Dev.fw h :)
theorem Dev.pins_of_apart {d e : Dev} (h : d.apart = e.apart) : d.pins = e.pins := (congrArg Dev.pins h :)
theorem Dev.tamp_of_apart {d e : Dev} (h : d.apart = e.apart) : d.tamp = e.tamp := (congrArg Dev.tamp h :)
theorem Dev.linkA_of_apart {d e : Dev} (h : d.apart = e.apart) : d.linkA = e.linkA := (congrArg Dev.linkA h :)
theorem Dev.linkB_of_apart {d e : Dev} (h : d.apart = e.apart) : d.linkB = e.linkB := (congrArg Dev.linkB h :)
theorem Dev.cplTimeout_of_apart {d e : Dev} (h : d.apart = e.apart) : d.cplTimeout = e.cplTimeout := (congrArg Dev.cplTimeout h :)
theorem Dev.mq_of_apart {d e : Dev} (h : d.apart = e.apart) : d.mq = e.mq := (congrArg Dev.mq h :)
theorem Dev.quorum_of_apart {d e : Dev} (h : d.apart = e.apart) : d.quorum = e.quorum := (congrArg Dev.quorum h :)
theorem Dev.seams_of_apart {d e : Dev} (h : d.apart = e.apart) : d.seams = e.seams := (congrArg Dev.seams h :)
theorem Dev.jobs_of_apart {d e : Dev} (h : d.apart = e.apart) : d.jobs = e.jobs := (congrArg Dev.jobs h :)
theorem Dev.power_of_apart {d e : Dev} (h : d.apart = e.apart) : d.power = e.power := (congrArg Dev.power h :)
theorem Dev.perf_of_apart {d e : Dev} (h : d.apart = e.apart) : d.perf = e.perf := (congrArg Dev.perf h :)
theorem Dev.access_of_apart {d e : Dev} (h : d.apart = e.apart) : d.access = e.access := (congrArg Dev.access h :)
theorem Dev.unsealed_of_apart {d e : Dev} (h : d.apart = e.apart) : d.unsealed = e.unsealed := (congrArg Dev.unsealed h :)
theorem Dev.trained_of_apart {d e : Dev} (h : d.apart = e.apart) : d.trained = e.trained := (congrArg Dev.trained h :)
theorem Dev.cacheMode_of_apart {d e : Dev} (h : d.apart = e.apart) : d.cacheMode = e.cacheMode := (congrArg Dev.cacheMode h :)
theorem Dev.neighbour_of_apart {d e : Dev} (h : d.apart = e.apart) : d.neighbour = e.neighbour := (congrArg Dev.neighbour h :)
theorem Dev.decode_of_apart {d e : Dev} (h : d.apart = e.apart) : d.decode = e.decode := (congrArg Dev.decode h :)
theorem Dev.uses_of_apart {d e : Dev} (h : d.apart = e.apart) : d.uses = e.uses := (congrArg Dev.uses h :)
theorem Dev.clock_of_apart {d e : Dev} (h : d.apart = e.apart) : d.clock = e.clock := (congrArg Dev.clock h :)
theorem Dev.stamps_of_apart {d e : Dev} (h : d.apart = e.apart) : d.stamps = e.stamps := (congrArg Dev.stamps h :)
theorem Dev.draws_of_apart {d e : Dev} (h : d.apart = e.apart) : d.draws = e.draws := (congrArg Dev.draws h :)
theorem Dev.nextJob_of_apart {d e : Dev} (h : d.apart = e.apart) : d.nextJob = e.nextJob := (congrArg Dev.nextJob h :)
@[simp] theorem Dev.raise_fuses (d : Dev) (src : Option Nat) (id : Nat) (c : BitVec 2) (x : BitVec 32) (s : Option Nat) :
    (d.raise src id c x s).fuses = d.fuses := Dev.fuses_of_apart (d.raise_apart src id c x s)
@[simp] theorem Dev.raise_vigil (d : Dev) (src : Option Nat) (id : Nat) (c : BitVec 2) (x : BitVec 32) (s : Option Nat) :
    (d.raise src id c x s).vigil = d.vigil := Dev.vigil_of_apart (d.raise_apart src id c x s)
@[simp] theorem Dev.raise_mode (d : Dev) (src : Option Nat) (id : Nat) (c : BitVec 2) (x : BitVec 32) (s : Option Nat) :
    (d.raise src id c x s).mode = d.mode := Dev.mode_of_apart (d.raise_apart src id c x s)
@[simp] theorem Dev.raise_prior (d : Dev) (src : Option Nat) (id : Nat) (c : BitVec 2) (x : BitVec 32) (s : Option Nat) :
    (d.raise src id c x s).prior = d.prior := Dev.prior_of_apart (d.raise_apart src id c x s)
@[simp] theorem Dev.raise_exported (d : Dev) (src : Option Nat) (id : Nat) (c : BitVec 2) (x : BitVec 32) (s : Option Nat) :
    (d.raise src id c x s).exported = d.exported := Dev.exported_of_apart (d.raise_apart src id c x s)
@[simp] theorem Dev.raise_modeCopy (d : Dev) (src : Option Nat) (id : Nat) (c : BitVec 2) (x : BitVec 32) (s : Option Nat) :
    (d.raise src id c x s).modeCopy = d.modeCopy := Dev.modeCopy_of_apart (d.raise_apart src id c x s)
@[simp] theorem Dev.raise_lastMode (d : Dev) (src : Option Nat) (id : Nat) (c : BitVec 2) (x : BitVec 32) (s : Option Nat) :
    (d.raise src id c x s).lastMode = d.lastMode := Dev.lastMode_of_apart (d.raise_apart src id c x s)
@[simp] theorem Dev.raise_boot (d : Dev) (src : Option Nat) (id : Nat) (c : BitVec 2) (x : BitVec 32) (s : Option Nat) :
    (d.raise src id c x s).boot = d.boot := Dev.boot_of_apart (d.raise_apart src id c x s)
@[simp] theorem Dev.raise_fw (d : Dev) (src : Option Nat) (id : Nat) (c : BitVec 2) (x : BitVec 32) (s : Option Nat) :
    (d.raise src id c x s).fw = d.fw := Dev.fw_of_apart (d.raise_apart src id c x s)
@[simp] theorem Dev.raise_pins (d : Dev) (src : Option Nat) (id : Nat) (c : BitVec 2) (x : BitVec 32) (s : Option Nat) :
    (d.raise src id c x s).pins = d.pins := Dev.pins_of_apart (d.raise_apart src id c x s)
@[simp] theorem Dev.raise_tamp (d : Dev) (src : Option Nat) (id : Nat) (c : BitVec 2) (x : BitVec 32) (s : Option Nat) :
    (d.raise src id c x s).tamp = d.tamp := Dev.tamp_of_apart (d.raise_apart src id c x s)
@[simp] theorem Dev.raise_linkA (d : Dev) (src : Option Nat) (id : Nat) (c : BitVec 2) (x : BitVec 32) (s : Option Nat) :
    (d.raise src id c x s).linkA = d.linkA := Dev.linkA_of_apart (d.raise_apart src id c x s)
@[simp] theorem Dev.raise_linkB (d : Dev) (src : Option Nat) (id : Nat) (c : BitVec 2) (x : BitVec 32) (s : Option Nat) :
    (d.raise src id c x s).linkB = d.linkB := Dev.linkB_of_apart (d.raise_apart src id c x s)
@[simp] theorem Dev.raise_cplTimeout (d : Dev) (src : Option Nat) (id : Nat) (c : BitVec 2) (x : BitVec 32) (s : Option Nat) :
    (d.raise src id c x s).cplTimeout = d.cplTimeout := Dev.cplTimeout_of_apart (d.raise_apart src id c x s)
@[simp] theorem Dev.raise_mq (d : Dev) (src : Option Nat) (id : Nat) (c : BitVec 2) (x : BitVec 32) (s : Option Nat) :
    (d.raise src id c x s).mq = d.mq := Dev.mq_of_apart (d.raise_apart src id c x s)
@[simp] theorem Dev.raise_quorum (d : Dev) (src : Option Nat) (id : Nat) (c : BitVec 2) (x : BitVec 32) (s : Option Nat) :
    (d.raise src id c x s).quorum = d.quorum := Dev.quorum_of_apart (d.raise_apart src id c x s)
@[simp] theorem Dev.raise_seams (d : Dev) (src : Option Nat) (id : Nat) (c : BitVec 2) (x : BitVec 32) (s : Option Nat) :
    (d.raise src id c x s).seams = d.seams := Dev.seams_of_apart (d.raise_apart src id c x s)
@[simp] theorem Dev.raise_jobs (d : Dev) (src : Option Nat) (id : Nat) (c : BitVec 2) (x : BitVec 32) (s : Option Nat) :
    (d.raise src id c x s).jobs = d.jobs := Dev.jobs_of_apart (d.raise_apart src id c x s)
@[simp] theorem Dev.raise_power (d : Dev) (src : Option Nat) (id : Nat) (c : BitVec 2) (x : BitVec 32) (s : Option Nat) :
    (d.raise src id c x s).power = d.power := Dev.power_of_apart (d.raise_apart src id c x s)
@[simp] theorem Dev.raise_perf (d : Dev) (src : Option Nat) (id : Nat) (c : BitVec 2) (x : BitVec 32) (s : Option Nat) :
    (d.raise src id c x s).perf = d.perf := Dev.perf_of_apart (d.raise_apart src id c x s)
@[simp] theorem Dev.raise_access (d : Dev) (src : Option Nat) (id : Nat) (c : BitVec 2) (x : BitVec 32) (s : Option Nat) :
    (d.raise src id c x s).access = d.access := Dev.access_of_apart (d.raise_apart src id c x s)
@[simp] theorem Dev.raise_unsealed (d : Dev) (src : Option Nat) (id : Nat) (c : BitVec 2) (x : BitVec 32) (s : Option Nat) :
    (d.raise src id c x s).unsealed = d.unsealed := Dev.unsealed_of_apart (d.raise_apart src id c x s)
@[simp] theorem Dev.raise_trained (d : Dev) (src : Option Nat) (id : Nat) (c : BitVec 2) (x : BitVec 32) (s : Option Nat) :
    (d.raise src id c x s).trained = d.trained := Dev.trained_of_apart (d.raise_apart src id c x s)
@[simp] theorem Dev.raise_cacheMode (d : Dev) (src : Option Nat) (id : Nat) (c : BitVec 2) (x : BitVec 32) (s : Option Nat) :
    (d.raise src id c x s).cacheMode = d.cacheMode := Dev.cacheMode_of_apart (d.raise_apart src id c x s)
@[simp] theorem Dev.raise_neighbour (d : Dev) (src : Option Nat) (id : Nat) (c : BitVec 2) (x : BitVec 32) (s : Option Nat) :
    (d.raise src id c x s).neighbour = d.neighbour := Dev.neighbour_of_apart (d.raise_apart src id c x s)
@[simp] theorem Dev.raise_decode (d : Dev) (src : Option Nat) (id : Nat) (c : BitVec 2) (x : BitVec 32) (s : Option Nat) :
    (d.raise src id c x s).decode = d.decode := Dev.decode_of_apart (d.raise_apart src id c x s)
@[simp] theorem Dev.raise_uses (d : Dev) (src : Option Nat) (id : Nat) (c : BitVec 2) (x : BitVec 32) (s : Option Nat) :
    (d.raise src id c x s).uses = d.uses := Dev.uses_of_apart (d.raise_apart src id c x s)
@[simp] theorem Dev.raise_clock (d : Dev) (src : Option Nat) (id : Nat) (c : BitVec 2) (x : BitVec 32) (s : Option Nat) :
    (d.raise src id c x s).clock = d.clock := Dev.clock_of_apart (d.raise_apart src id c x s)
@[simp] theorem Dev.raise_stamps (d : Dev) (src : Option Nat) (id : Nat) (c : BitVec 2) (x : BitVec 32) (s : Option Nat) :
    (d.raise src id c x s).stamps = d.stamps := Dev.stamps_of_apart (d.raise_apart src id c x s)
@[simp] theorem Dev.raise_draws (d : Dev) (src : Option Nat) (id : Nat) (c : BitVec 2) (x : BitVec 32) (s : Option Nat) :
    (d.raise src id c x s).draws = d.draws := Dev.draws_of_apart (d.raise_apart src id c x s)
@[simp] theorem Dev.raise_nextJob (d : Dev) (src : Option Nat) (id : Nat) (c : BitVec 2) (x : BitVec 32) (s : Option Nat) :
    (d.raise src id c x s).nextJob = d.nextJob := Dev.nextJob_of_apart (d.raise_apart src id c x s)
@[simp] theorem Dev.raise_link (d : Dev) (src : Option Nat) (id : Nat) (c : BitVec 2) (x : BitVec 32) (s : Option Nat) (l : Lk) :
    (d.raise src id c x s).link l = d.link l := by cases l <;> simp [Dev.link]
@[simp] theorem Dev.raise_seam (d : Dev) (src : Option Nat) (id : Nat) (c : BitVec 2) (x : BitVec 32) (s : Option Nat) (n : Nat) :
    (d.raise src id c x s).seam n = d.seam n := by simp [Dev.seam]
@[simp] theorem Dev.raise_usedSeams (d : Dev) (src : Option Nat) (id : Nat) (c : BitVec 2) (x : BitVec 32) (s : Option Nat) :
    (d.raise src id c x s).usedSeams = d.usedSeams := by simp [Dev.usedSeams]

@[simp] theorem Dev.ridgeEvent_fuses (d : Dev) (r off x : Nat) (s : Option Nat) :
    (d.ridgeEvent r off x s).fuses = d.fuses := Dev.fuses_of_apart (d.ridgeEvent_apart r off x s)
@[simp] theorem Dev.ridgeEvent_vigil (d : Dev) (r off x : Nat) (s : Option Nat) :
    (d.ridgeEvent r off x s).vigil = d.vigil := Dev.vigil_of_apart (d.ridgeEvent_apart r off x s)
@[simp] theorem Dev.ridgeEvent_mode (d : Dev) (r off x : Nat) (s : Option Nat) :
    (d.ridgeEvent r off x s).mode = d.mode := Dev.mode_of_apart (d.ridgeEvent_apart r off x s)
@[simp] theorem Dev.ridgeEvent_prior (d : Dev) (r off x : Nat) (s : Option Nat) :
    (d.ridgeEvent r off x s).prior = d.prior := Dev.prior_of_apart (d.ridgeEvent_apart r off x s)
@[simp] theorem Dev.ridgeEvent_exported (d : Dev) (r off x : Nat) (s : Option Nat) :
    (d.ridgeEvent r off x s).exported = d.exported := Dev.exported_of_apart (d.ridgeEvent_apart r off x s)
@[simp] theorem Dev.ridgeEvent_modeCopy (d : Dev) (r off x : Nat) (s : Option Nat) :
    (d.ridgeEvent r off x s).modeCopy = d.modeCopy := Dev.modeCopy_of_apart (d.ridgeEvent_apart r off x s)
@[simp] theorem Dev.ridgeEvent_lastMode (d : Dev) (r off x : Nat) (s : Option Nat) :
    (d.ridgeEvent r off x s).lastMode = d.lastMode := Dev.lastMode_of_apart (d.ridgeEvent_apart r off x s)
@[simp] theorem Dev.ridgeEvent_boot (d : Dev) (r off x : Nat) (s : Option Nat) :
    (d.ridgeEvent r off x s).boot = d.boot := Dev.boot_of_apart (d.ridgeEvent_apart r off x s)
@[simp] theorem Dev.ridgeEvent_fw (d : Dev) (r off x : Nat) (s : Option Nat) :
    (d.ridgeEvent r off x s).fw = d.fw := Dev.fw_of_apart (d.ridgeEvent_apart r off x s)
@[simp] theorem Dev.ridgeEvent_pins (d : Dev) (r off x : Nat) (s : Option Nat) :
    (d.ridgeEvent r off x s).pins = d.pins := Dev.pins_of_apart (d.ridgeEvent_apart r off x s)
@[simp] theorem Dev.ridgeEvent_tamp (d : Dev) (r off x : Nat) (s : Option Nat) :
    (d.ridgeEvent r off x s).tamp = d.tamp := Dev.tamp_of_apart (d.ridgeEvent_apart r off x s)
@[simp] theorem Dev.ridgeEvent_linkA (d : Dev) (r off x : Nat) (s : Option Nat) :
    (d.ridgeEvent r off x s).linkA = d.linkA := Dev.linkA_of_apart (d.ridgeEvent_apart r off x s)
@[simp] theorem Dev.ridgeEvent_linkB (d : Dev) (r off x : Nat) (s : Option Nat) :
    (d.ridgeEvent r off x s).linkB = d.linkB := Dev.linkB_of_apart (d.ridgeEvent_apart r off x s)
@[simp] theorem Dev.ridgeEvent_cplTimeout (d : Dev) (r off x : Nat) (s : Option Nat) :
    (d.ridgeEvent r off x s).cplTimeout = d.cplTimeout := Dev.cplTimeout_of_apart (d.ridgeEvent_apart r off x s)
@[simp] theorem Dev.ridgeEvent_mq (d : Dev) (r off x : Nat) (s : Option Nat) :
    (d.ridgeEvent r off x s).mq = d.mq := Dev.mq_of_apart (d.ridgeEvent_apart r off x s)
@[simp] theorem Dev.ridgeEvent_quorum (d : Dev) (r off x : Nat) (s : Option Nat) :
    (d.ridgeEvent r off x s).quorum = d.quorum := Dev.quorum_of_apart (d.ridgeEvent_apart r off x s)
@[simp] theorem Dev.ridgeEvent_seams (d : Dev) (r off x : Nat) (s : Option Nat) :
    (d.ridgeEvent r off x s).seams = d.seams := Dev.seams_of_apart (d.ridgeEvent_apart r off x s)
@[simp] theorem Dev.ridgeEvent_jobs (d : Dev) (r off x : Nat) (s : Option Nat) :
    (d.ridgeEvent r off x s).jobs = d.jobs := Dev.jobs_of_apart (d.ridgeEvent_apart r off x s)
@[simp] theorem Dev.ridgeEvent_power (d : Dev) (r off x : Nat) (s : Option Nat) :
    (d.ridgeEvent r off x s).power = d.power := Dev.power_of_apart (d.ridgeEvent_apart r off x s)
@[simp] theorem Dev.ridgeEvent_perf (d : Dev) (r off x : Nat) (s : Option Nat) :
    (d.ridgeEvent r off x s).perf = d.perf := Dev.perf_of_apart (d.ridgeEvent_apart r off x s)
@[simp] theorem Dev.ridgeEvent_access (d : Dev) (r off x : Nat) (s : Option Nat) :
    (d.ridgeEvent r off x s).access = d.access := Dev.access_of_apart (d.ridgeEvent_apart r off x s)
@[simp] theorem Dev.ridgeEvent_unsealed (d : Dev) (r off x : Nat) (s : Option Nat) :
    (d.ridgeEvent r off x s).unsealed = d.unsealed := Dev.unsealed_of_apart (d.ridgeEvent_apart r off x s)
@[simp] theorem Dev.ridgeEvent_trained (d : Dev) (r off x : Nat) (s : Option Nat) :
    (d.ridgeEvent r off x s).trained = d.trained := Dev.trained_of_apart (d.ridgeEvent_apart r off x s)
@[simp] theorem Dev.ridgeEvent_cacheMode (d : Dev) (r off x : Nat) (s : Option Nat) :
    (d.ridgeEvent r off x s).cacheMode = d.cacheMode := Dev.cacheMode_of_apart (d.ridgeEvent_apart r off x s)
@[simp] theorem Dev.ridgeEvent_neighbour (d : Dev) (r off x : Nat) (s : Option Nat) :
    (d.ridgeEvent r off x s).neighbour = d.neighbour := Dev.neighbour_of_apart (d.ridgeEvent_apart r off x s)
@[simp] theorem Dev.ridgeEvent_decode (d : Dev) (r off x : Nat) (s : Option Nat) :
    (d.ridgeEvent r off x s).decode = d.decode := Dev.decode_of_apart (d.ridgeEvent_apart r off x s)
@[simp] theorem Dev.ridgeEvent_uses (d : Dev) (r off x : Nat) (s : Option Nat) :
    (d.ridgeEvent r off x s).uses = d.uses := Dev.uses_of_apart (d.ridgeEvent_apart r off x s)
@[simp] theorem Dev.ridgeEvent_clock (d : Dev) (r off x : Nat) (s : Option Nat) :
    (d.ridgeEvent r off x s).clock = d.clock := Dev.clock_of_apart (d.ridgeEvent_apart r off x s)
@[simp] theorem Dev.ridgeEvent_stamps (d : Dev) (r off x : Nat) (s : Option Nat) :
    (d.ridgeEvent r off x s).stamps = d.stamps := Dev.stamps_of_apart (d.ridgeEvent_apart r off x s)
@[simp] theorem Dev.ridgeEvent_draws (d : Dev) (r off x : Nat) (s : Option Nat) :
    (d.ridgeEvent r off x s).draws = d.draws := Dev.draws_of_apart (d.ridgeEvent_apart r off x s)
@[simp] theorem Dev.ridgeEvent_nextJob (d : Dev) (r off x : Nat) (s : Option Nat) :
    (d.ridgeEvent r off x s).nextJob = d.nextJob := Dev.nextJob_of_apart (d.ridgeEvent_apart r off x s)
@[simp] theorem Dev.ridgeEvent_link (d : Dev) (r off x : Nat) (s : Option Nat) (l : Lk) :
    (d.ridgeEvent r off x s).link l = d.link l := by cases l <;> simp [Dev.link]
@[simp] theorem Dev.ridgeEvent_seam (d : Dev) (r off x : Nat) (s : Option Nat) (n : Nat) :
    (d.ridgeEvent r off x s).seam n = d.seam n := by simp [Dev.seam]
@[simp] theorem Dev.ridgeEvent_usedSeams (d : Dev) (r off x : Nat) (s : Option Nat) :
    (d.ridgeEvent r off x s).usedSeams = d.usedSeams := by simp [Dev.usedSeams]

@[simp] theorem Dev.pkgEvent_fuses (d : Dev) (id x : Nat) (s : Option Nat) :
    (d.pkgEvent id x s).fuses = d.fuses := Dev.fuses_of_apart (d.pkgEvent_apart id x s)
@[simp] theorem Dev.pkgEvent_vigil (d : Dev) (id x : Nat) (s : Option Nat) :
    (d.pkgEvent id x s).vigil = d.vigil := Dev.vigil_of_apart (d.pkgEvent_apart id x s)
@[simp] theorem Dev.pkgEvent_mode (d : Dev) (id x : Nat) (s : Option Nat) :
    (d.pkgEvent id x s).mode = d.mode := Dev.mode_of_apart (d.pkgEvent_apart id x s)
@[simp] theorem Dev.pkgEvent_prior (d : Dev) (id x : Nat) (s : Option Nat) :
    (d.pkgEvent id x s).prior = d.prior := Dev.prior_of_apart (d.pkgEvent_apart id x s)
@[simp] theorem Dev.pkgEvent_exported (d : Dev) (id x : Nat) (s : Option Nat) :
    (d.pkgEvent id x s).exported = d.exported := Dev.exported_of_apart (d.pkgEvent_apart id x s)
@[simp] theorem Dev.pkgEvent_modeCopy (d : Dev) (id x : Nat) (s : Option Nat) :
    (d.pkgEvent id x s).modeCopy = d.modeCopy := Dev.modeCopy_of_apart (d.pkgEvent_apart id x s)
@[simp] theorem Dev.pkgEvent_lastMode (d : Dev) (id x : Nat) (s : Option Nat) :
    (d.pkgEvent id x s).lastMode = d.lastMode := Dev.lastMode_of_apart (d.pkgEvent_apart id x s)
@[simp] theorem Dev.pkgEvent_boot (d : Dev) (id x : Nat) (s : Option Nat) :
    (d.pkgEvent id x s).boot = d.boot := Dev.boot_of_apart (d.pkgEvent_apart id x s)
@[simp] theorem Dev.pkgEvent_fw (d : Dev) (id x : Nat) (s : Option Nat) :
    (d.pkgEvent id x s).fw = d.fw := Dev.fw_of_apart (d.pkgEvent_apart id x s)
@[simp] theorem Dev.pkgEvent_pins (d : Dev) (id x : Nat) (s : Option Nat) :
    (d.pkgEvent id x s).pins = d.pins := Dev.pins_of_apart (d.pkgEvent_apart id x s)
@[simp] theorem Dev.pkgEvent_tamp (d : Dev) (id x : Nat) (s : Option Nat) :
    (d.pkgEvent id x s).tamp = d.tamp := Dev.tamp_of_apart (d.pkgEvent_apart id x s)
@[simp] theorem Dev.pkgEvent_linkA (d : Dev) (id x : Nat) (s : Option Nat) :
    (d.pkgEvent id x s).linkA = d.linkA := Dev.linkA_of_apart (d.pkgEvent_apart id x s)
@[simp] theorem Dev.pkgEvent_linkB (d : Dev) (id x : Nat) (s : Option Nat) :
    (d.pkgEvent id x s).linkB = d.linkB := Dev.linkB_of_apart (d.pkgEvent_apart id x s)
@[simp] theorem Dev.pkgEvent_cplTimeout (d : Dev) (id x : Nat) (s : Option Nat) :
    (d.pkgEvent id x s).cplTimeout = d.cplTimeout := Dev.cplTimeout_of_apart (d.pkgEvent_apart id x s)
@[simp] theorem Dev.pkgEvent_mq (d : Dev) (id x : Nat) (s : Option Nat) :
    (d.pkgEvent id x s).mq = d.mq := Dev.mq_of_apart (d.pkgEvent_apart id x s)
@[simp] theorem Dev.pkgEvent_quorum (d : Dev) (id x : Nat) (s : Option Nat) :
    (d.pkgEvent id x s).quorum = d.quorum := Dev.quorum_of_apart (d.pkgEvent_apart id x s)
@[simp] theorem Dev.pkgEvent_seams (d : Dev) (id x : Nat) (s : Option Nat) :
    (d.pkgEvent id x s).seams = d.seams := Dev.seams_of_apart (d.pkgEvent_apart id x s)
@[simp] theorem Dev.pkgEvent_jobs (d : Dev) (id x : Nat) (s : Option Nat) :
    (d.pkgEvent id x s).jobs = d.jobs := Dev.jobs_of_apart (d.pkgEvent_apart id x s)
@[simp] theorem Dev.pkgEvent_power (d : Dev) (id x : Nat) (s : Option Nat) :
    (d.pkgEvent id x s).power = d.power := Dev.power_of_apart (d.pkgEvent_apart id x s)
@[simp] theorem Dev.pkgEvent_perf (d : Dev) (id x : Nat) (s : Option Nat) :
    (d.pkgEvent id x s).perf = d.perf := Dev.perf_of_apart (d.pkgEvent_apart id x s)
@[simp] theorem Dev.pkgEvent_access (d : Dev) (id x : Nat) (s : Option Nat) :
    (d.pkgEvent id x s).access = d.access := Dev.access_of_apart (d.pkgEvent_apart id x s)
@[simp] theorem Dev.pkgEvent_unsealed (d : Dev) (id x : Nat) (s : Option Nat) :
    (d.pkgEvent id x s).unsealed = d.unsealed := Dev.unsealed_of_apart (d.pkgEvent_apart id x s)
@[simp] theorem Dev.pkgEvent_trained (d : Dev) (id x : Nat) (s : Option Nat) :
    (d.pkgEvent id x s).trained = d.trained := Dev.trained_of_apart (d.pkgEvent_apart id x s)
@[simp] theorem Dev.pkgEvent_cacheMode (d : Dev) (id x : Nat) (s : Option Nat) :
    (d.pkgEvent id x s).cacheMode = d.cacheMode := Dev.cacheMode_of_apart (d.pkgEvent_apart id x s)
@[simp] theorem Dev.pkgEvent_neighbour (d : Dev) (id x : Nat) (s : Option Nat) :
    (d.pkgEvent id x s).neighbour = d.neighbour := Dev.neighbour_of_apart (d.pkgEvent_apart id x s)
@[simp] theorem Dev.pkgEvent_decode (d : Dev) (id x : Nat) (s : Option Nat) :
    (d.pkgEvent id x s).decode = d.decode := Dev.decode_of_apart (d.pkgEvent_apart id x s)
@[simp] theorem Dev.pkgEvent_uses (d : Dev) (id x : Nat) (s : Option Nat) :
    (d.pkgEvent id x s).uses = d.uses := Dev.uses_of_apart (d.pkgEvent_apart id x s)
@[simp] theorem Dev.pkgEvent_clock (d : Dev) (id x : Nat) (s : Option Nat) :
    (d.pkgEvent id x s).clock = d.clock := Dev.clock_of_apart (d.pkgEvent_apart id x s)
@[simp] theorem Dev.pkgEvent_stamps (d : Dev) (id x : Nat) (s : Option Nat) :
    (d.pkgEvent id x s).stamps = d.stamps := Dev.stamps_of_apart (d.pkgEvent_apart id x s)
@[simp] theorem Dev.pkgEvent_draws (d : Dev) (id x : Nat) (s : Option Nat) :
    (d.pkgEvent id x s).draws = d.draws := Dev.draws_of_apart (d.pkgEvent_apart id x s)
@[simp] theorem Dev.pkgEvent_nextJob (d : Dev) (id x : Nat) (s : Option Nat) :
    (d.pkgEvent id x s).nextJob = d.nextJob := Dev.nextJob_of_apart (d.pkgEvent_apart id x s)
@[simp] theorem Dev.pkgEvent_link (d : Dev) (id x : Nat) (s : Option Nat) (l : Lk) :
    (d.pkgEvent id x s).link l = d.link l := by cases l <;> simp [Dev.link]
@[simp] theorem Dev.pkgEvent_seam (d : Dev) (id x : Nat) (s : Option Nat) (n : Nat) :
    (d.pkgEvent id x s).seam n = d.seam n := by simp [Dev.seam]
@[simp] theorem Dev.pkgEvent_usedSeams (d : Dev) (id x : Nat) (s : Option Nat) :
    (d.pkgEvent id x s).usedSeams = d.usedSeams := by simp [Dev.usedSeams]

@[simp] theorem Dev.govern_fuses (d : Dev) (b : Bool) :
    (d.govern b).fuses = d.fuses := Dev.fuses_of_apart (d.govern_apart b)
@[simp] theorem Dev.govern_vigil (d : Dev) (b : Bool) :
    (d.govern b).vigil = d.vigil := Dev.vigil_of_apart (d.govern_apart b)
@[simp] theorem Dev.govern_mode (d : Dev) (b : Bool) :
    (d.govern b).mode = d.mode := Dev.mode_of_apart (d.govern_apart b)
@[simp] theorem Dev.govern_prior (d : Dev) (b : Bool) :
    (d.govern b).prior = d.prior := Dev.prior_of_apart (d.govern_apart b)
@[simp] theorem Dev.govern_exported (d : Dev) (b : Bool) :
    (d.govern b).exported = d.exported := Dev.exported_of_apart (d.govern_apart b)
@[simp] theorem Dev.govern_modeCopy (d : Dev) (b : Bool) :
    (d.govern b).modeCopy = d.modeCopy := Dev.modeCopy_of_apart (d.govern_apart b)
@[simp] theorem Dev.govern_lastMode (d : Dev) (b : Bool) :
    (d.govern b).lastMode = d.lastMode := Dev.lastMode_of_apart (d.govern_apart b)
@[simp] theorem Dev.govern_boot (d : Dev) (b : Bool) :
    (d.govern b).boot = d.boot := Dev.boot_of_apart (d.govern_apart b)
@[simp] theorem Dev.govern_fw (d : Dev) (b : Bool) :
    (d.govern b).fw = d.fw := Dev.fw_of_apart (d.govern_apart b)
@[simp] theorem Dev.govern_pins (d : Dev) (b : Bool) :
    (d.govern b).pins = d.pins := Dev.pins_of_apart (d.govern_apart b)
@[simp] theorem Dev.govern_tamp (d : Dev) (b : Bool) :
    (d.govern b).tamp = d.tamp := Dev.tamp_of_apart (d.govern_apart b)
@[simp] theorem Dev.govern_linkA (d : Dev) (b : Bool) :
    (d.govern b).linkA = d.linkA := Dev.linkA_of_apart (d.govern_apart b)
@[simp] theorem Dev.govern_linkB (d : Dev) (b : Bool) :
    (d.govern b).linkB = d.linkB := Dev.linkB_of_apart (d.govern_apart b)
@[simp] theorem Dev.govern_cplTimeout (d : Dev) (b : Bool) :
    (d.govern b).cplTimeout = d.cplTimeout := Dev.cplTimeout_of_apart (d.govern_apart b)
@[simp] theorem Dev.govern_power (d : Dev) (b : Bool) :
    (d.govern b).power = d.power := Dev.power_of_apart (d.govern_apart b)
@[simp] theorem Dev.govern_mq (d : Dev) (b : Bool) :
    (d.govern b).mq = d.mq := Dev.mq_of_apart (d.govern_apart b)
@[simp] theorem Dev.govern_quorum (d : Dev) (b : Bool) :
    (d.govern b).quorum = d.quorum := Dev.quorum_of_apart (d.govern_apart b)
@[simp] theorem Dev.govern_seams (d : Dev) (b : Bool) :
    (d.govern b).seams = d.seams := Dev.seams_of_apart (d.govern_apart b)
@[simp] theorem Dev.govern_jobs (d : Dev) (b : Bool) :
    (d.govern b).jobs = d.jobs := Dev.jobs_of_apart (d.govern_apart b)
@[simp] theorem Dev.govern_perf (d : Dev) (b : Bool) :
    (d.govern b).perf = d.perf := Dev.perf_of_apart (d.govern_apart b)
@[simp] theorem Dev.govern_access (d : Dev) (b : Bool) :
    (d.govern b).access = d.access := Dev.access_of_apart (d.govern_apart b)
@[simp] theorem Dev.govern_unsealed (d : Dev) (b : Bool) :
    (d.govern b).unsealed = d.unsealed := Dev.unsealed_of_apart (d.govern_apart b)
@[simp] theorem Dev.govern_trained (d : Dev) (b : Bool) :
    (d.govern b).trained = d.trained := Dev.trained_of_apart (d.govern_apart b)
@[simp] theorem Dev.govern_cacheMode (d : Dev) (b : Bool) :
    (d.govern b).cacheMode = d.cacheMode := Dev.cacheMode_of_apart (d.govern_apart b)
@[simp] theorem Dev.govern_neighbour (d : Dev) (b : Bool) :
    (d.govern b).neighbour = d.neighbour := Dev.neighbour_of_apart (d.govern_apart b)
@[simp] theorem Dev.govern_decode (d : Dev) (b : Bool) :
    (d.govern b).decode = d.decode := Dev.decode_of_apart (d.govern_apart b)
@[simp] theorem Dev.govern_uses (d : Dev) (b : Bool) :
    (d.govern b).uses = d.uses := Dev.uses_of_apart (d.govern_apart b)
@[simp] theorem Dev.govern_clock (d : Dev) (b : Bool) :
    (d.govern b).clock = d.clock := Dev.clock_of_apart (d.govern_apart b)
@[simp] theorem Dev.govern_stamps (d : Dev) (b : Bool) :
    (d.govern b).stamps = d.stamps := Dev.stamps_of_apart (d.govern_apart b)
@[simp] theorem Dev.govern_draws (d : Dev) (b : Bool) :
    (d.govern b).draws = d.draws := Dev.draws_of_apart (d.govern_apart b)
@[simp] theorem Dev.govern_nextJob (d : Dev) (b : Bool) :
    (d.govern b).nextJob = d.nextJob := Dev.nextJob_of_apart (d.govern_apart b)
@[simp] theorem Dev.govern_link (d : Dev) (b : Bool) (l : Lk) :
    (d.govern b).link l = d.link l := by cases l <;> simp [Dev.link]
@[simp] theorem Dev.govern_seam (d : Dev) (b : Bool) (n : Nat) :
    (d.govern b).seam n = d.seam n := by simp [Dev.seam]
@[simp] theorem Dev.govern_usedSeams (d : Dev) (b : Bool) :
    (d.govern b).usedSeams = d.usedSeams := by simp [Dev.usedSeams]

end Sys2Proof.Machine
end

