-- ==== Sys2Proof/Laws/Memory.lean ====
section
/-! SUPPORT. The SRAM of a ridge: a read after a write, and every operation keeps the canonical form. -/

namespace Sys2Proof.Machine

/-- Every listed address is above `a`. -/
def above (a : Nat) (m : List Host.Cell) : Prop := ∀ c ∈ m, a < c.1

theorem memWf_cons {k : Nat} {b : Byte} {m : List Host.Cell} :
    memWf ((k, b) :: m) = true ↔ b ≠ 0 ∧ above k m ∧ memWf m = true := by
  simp [memWf, above, and_assoc]

theorem memWrite_cons_below {k a : Nat} {v b : Byte} {m : List Host.Cell} (h : k < a) :
    memWrite ((k, v) :: m) a b = (k, v) :: memWrite m a b := by
  rw [memWrite, if_pos h]

theorem memWrite_cons_at {k : Nat} {v b : Byte} {m : List Host.Cell} :
    memWrite ((k, v) :: m) k b = if b = 0 then m else (k, b) :: m := by
  rw [memWrite, if_neg (Nat.lt_irrefl k), if_pos rfl]

theorem memWrite_cons_over {k a : Nat} {v b : Byte} {m : List Host.Cell} (h : a < k) :
    memWrite ((k, v) :: m) a b = if b = 0 then (k, v) :: m else (a, b) :: (k, v) :: m := by
  rw [memWrite, if_neg (Nat.lt_asymm h), if_neg (Nat.ne_of_gt h)]

theorem above_cons {a : Nat} {c : Host.Cell} {m : List Host.Cell} : above a (c :: m) ↔ a < c.1 ∧ above a m :=
  List.forall_mem_cons

theorem above_memWrite {a k : Nat} {b : Byte} {m : List Host.Cell} (h : above a m) (hk : a < k) :
    above a (memWrite m k b) := by
  induction m with
  | nil =>
    rw [memWrite]
    split_ifs
    · exact h
    · exact above_cons.2 ⟨hk, h⟩
  | cons c m ih =>
    have hc := above_cons.1 h
    rcases Nat.lt_trichotomy c.1 k with h1 | rfl | h1
    · rw [memWrite_cons_below h1]
      exact above_cons.2 ⟨hc.1, ih hc.2⟩
    · rw [memWrite_cons_at]
      split_ifs
      · exact hc.2
      · exact above_cons.2 ⟨hk, hc.2⟩
    · rw [memWrite_cons_over h1]
      split_ifs
      · exact h
      · exact above_cons.2 ⟨hk, h⟩

theorem memWf_memWrite {m : List Host.Cell} (h : memWf m = true) (k : Nat) (b : Byte) :
    memWf (memWrite m k b) = true := by
  induction m with
  | nil =>
    rw [memWrite]
    split_ifs with h0
    · rfl
    · exact memWf_cons.2 ⟨h0, List.forall_mem_nil _, rfl⟩
  | cons c m ih =>
    obtain ⟨h0, ha, hm⟩ := memWf_cons.1 h
    rcases Nat.lt_trichotomy c.1 k with h1 | rfl | h1
    · rw [memWrite_cons_below h1]
      exact memWf_cons.2 ⟨h0, above_memWrite ha h1, ih hm⟩
    · rw [memWrite_cons_at]
      split_ifs with hb
      · exact hm
      · exact memWf_cons.2 ⟨hb, ha, hm⟩
    · rw [memWrite_cons_over h1]
      split_ifs with hb
      · exact h
      · exact memWf_cons.2 ⟨hb, above_cons.2 ⟨h1, fun x hx => h1.trans (ha x hx)⟩, h⟩

theorem memWf_memPut {m : List Host.Cell} (h : memWf m = true) (k : Nat) (bs : List Byte) :
    memWf (memPut m k bs) = true := by
  induction bs generalizing m k with
  | nil => exact h
  | cons b bs ih => exact ih (memWf_memWrite h k b) (k + 1)

theorem memWf_filter {m : List Host.Cell} (h : memWf m = true) (p : Host.Cell → Bool) : memWf (m.filter p) = true := by
  induction m with
  | nil => rfl
  | cons c m ih =>
    obtain ⟨h0, ha, hm⟩ := memWf_cons.1 h
    rw [List.filter_cons]
    split_ifs
    · exact memWf_cons.2 ⟨h0, fun x hx => ha x (List.mem_filter.1 hx).1, ih hm⟩
    · exact ih hm

theorem memWf_memZero {m : List Host.Cell} (h : memWf m = true) (a n : Nat) : memWf (memZero m a n) = true :=
  memWf_filter h _

theorem memRead_of_above {a k : Nat} {m : List Host.Cell} (h : above a m) (hk : k ≤ a) : memRead m k = 0 := by
  induction m with
  | nil => rfl
  | cons c m ih =>
    have hc : a < c.1 := h c (by simp)
    have : c.1 ≠ k := by omega
    simp only [memRead, this, if_false]
    exact ih fun x hx => h x (by simp [hx])

theorem memRead_cons (k a : Nat) (v : Byte) (m : List Host.Cell) :
    memRead ((k, v) :: m) a = if k = a then v else memRead m a := rfl

/-- A read after a write: the value at the address written, what stood there elsewhere. -/
theorem memRead_memWrite {m : List Host.Cell} (h : memWf m = true) (k a : Nat) (b : Byte) :
    memRead (memWrite m k b) a = if k = a then b else memRead m a := by
  have zero : ∀ n : List Host.Cell, above k n → b = 0 → memRead n a = if k = a then b else memRead n a := by
    intro n hn hb
    by_cases hk : k = a
    · rw [if_pos hk, hb, memRead_of_above hn (by omega)]
    · rw [if_neg hk]
  induction m with
  | nil =>
    rw [memWrite]
    by_cases hb : b = 0
    · rw [if_pos hb]
      exact zero [] (List.forall_mem_nil _) hb
    · rw [if_neg hb, memRead_cons]
  | cons c m ih =>
    obtain ⟨h0, ha, hm⟩ := memWf_cons.1 h
    obtain ⟨j, v⟩ := c
    rcases Nat.lt_trichotomy j k with h1 | rfl | h1
    · rw [memWrite_cons_below h1, memRead_cons, memRead_cons, ih hm]
      by_cases hj : j = a
      · rw [if_pos hj, if_neg (by omega), if_pos hj]
      · rw [if_neg hj, if_neg hj]
    · rw [memWrite_cons_at, memRead_cons]
      by_cases hb : b = 0
      · rw [if_pos hb, zero m ha hb]
        by_cases hj : j = a
        · rw [if_pos hj, if_pos hj]
        · rw [if_neg hj, if_neg hj, if_neg hj]
      · rw [if_neg hb, memRead_cons]
        by_cases hj : j = a
        · rw [if_pos hj, if_pos hj]
        · rw [if_neg hj, if_neg hj, if_neg hj]
    · rw [memWrite_cons_over h1]
      by_cases hb : b = 0
      · rw [if_pos hb]
        exact zero _ (above_cons.2 ⟨h1, fun x hx => h1.trans (ha x hx)⟩) hb
      · rw [if_neg hb, memRead_cons]

theorem memRead_memPut_outside {m : List Host.Cell} (h : memWf m = true) (k a : Nat) (bs : List Byte)
    (ho : a < k ∨ k + bs.length ≤ a) : memRead (memPut m k bs) a = memRead m a := by
  induction bs generalizing m k with
  | nil => rfl
  | cons b bs ih =>
    simp only [List.length_cons] at ho
    rw [memPut, ih (memWf_memWrite h k b) (k + 1) (by omega), memRead_memWrite h, if_neg (by omega)]

theorem memRead_memPut_inside {m : List Host.Cell} (h : memWf m = true) (k i : Nat) (bs : List Byte) (hi : i < bs.length) :
    memRead (memPut m k bs) (k + i) = bs.getD i 0 := by
  induction bs generalizing m k i with
  | nil => simp at hi
  | cons b bs ih =>
    rw [memPut]
    cases i with
    | zero =>
      rw [memRead_memPut_outside (memWf_memWrite h k b) (k + 1) (k + 0) bs (by omega), memRead_memWrite h]
      simp
    | succ i =>
      have := ih (memWf_memWrite h k b) (k + 1) i (by simpa using hi)
      rw [show k + (i + 1) = k + 1 + i by omega, this]
      simp

/-- A zeroed range reads as zero, and every other address as before. -/
theorem memRead_memZero {m : List Host.Cell} (h : memWf m = true) (a n x : Nat) :
    memRead (memZero m a n) x = if a ≤ x ∧ x < a + n then 0 else memRead m x := by
  induction m with
  | nil => simp [memZero, memRead]
  | cons c m ih =>
    obtain ⟨h0, ha, hm⟩ := memWf_cons.1 h
    have ih := ih hm
    rw [memZero, List.filter_cons]
    split_ifs with h1 h2 h2
    · have hx : c.1 ≠ x := by rintro rfl; simp at h1; omega
      rw [memRead, if_neg hx, ← memZero, ih, if_pos h2]
    · by_cases hx : c.1 = x
      · simp [memRead, hx]
      · rw [memRead, if_neg hx, ← memZero, ih, if_neg h2, memRead, if_neg hx]
    · rw [← memZero, ih, if_pos h2]
    · have hx : c.1 ≠ x := by rintro rfl; simp at h1; omega
      rw [← memZero, ih, if_neg h2, memRead, if_neg hx]

end Sys2Proof.Machine
end

