-- ==== Sys2Proof/Laws/Kept.lean ====
section
/-! SUPPORT. Every shared operation of the device keeps `Kept`: the updates of its parts first, then each operation from those
it is made of. -/

namespace Sys2Proof

-- one proof at a time: many proofs at once ask for too many threads
set_option Elab.async false

open Machine

theorem Machine.Shadowed.agrees_of {w : Nat} (v : BitVec w) : (Shadowed.of v).agrees = true := by simp [Shadowed.of,
    Shadowed.agrees]

/-- `Kept` looks at the ridges, the seams, the two modes and TAMP alone. -/
theorem Kept.same {d e : Dev} (h : Kept d) (hr : e.ridges = d.ridges) (hs : e.seams = d.seams) (hm : e.mode = d.mode)
    (hp : e.prior = d.prior) (ht : e.tamp = d.tamp) : Kept e := by
  unfold Kept eightRidges shadowsAgree at *
  rw [hr, hs, hm, hp, ht]; exact h

/-- `Kept` in the parts that it looks at. -/
def keptParts (ridges : List Ridge) (seams : List (Nat × Seam)) (mode prior : Shadowed 3) (tamp : Tamp) : Prop :=
  Kept { Dev.reset with ridges := ridges, seams := seams, mode := mode, prior := prior, tamp := tamp }

theorem Kept.mk (x0 : Fuses) (x1 : Vigil) (x2 : Shadowed 3) (x3 : Shadowed 3) (x4 : Bool) (x5 : Option ModeRec) (x6 :
    LastMode) (x7 : Boot) (x8 : Firmware) (x9 : Pins) (x10 : Tamp) (x11 : Link) (x12 : Link) (x13 : BitVec 10) (x14 :
    MQ) (x15 : Quorum) (x16 : List (Nat × Seam)) (x17 : List Ridge) (x18 : List JobRec) (x19 : LogBlock) (x20 : Power)
    (x21 : List (Nat × PerfUnit)) (x22 : Access) (x23 : Bool) (x24 : Bool) (x25 : Bool) (x26 : Bool) (x27 : List (List
    W64)) (x28 : List (Nat × Nat)) (x29 : Nat) (x30 : Stamps) (x31 : Nat) (x32 : Nat) :     Kept ⟨x0, x1, x2, x3, x4,
    x5, x6, x7, x8, x9, x10, x11, x12, x13, x14, x15, x16, x17, x18, x19, x20, x21, x22, x23, x24, x25, x26, x27, x28,
    x29, x30, x31, x32⟩ ↔ keptParts x17 x16 x2 x3 x10 := Iff.rfl

theorem Kept.parts {d : Dev} (h : Kept d) : keptParts d.ridges d.seams d.mode d.prior d.tamp := h

theorem Kept.foldl {α : Type} {f : Dev → α → Dev} {l : List α} {d : Dev} (h : Kept d)
    (hf : ∀ d x, Kept d → Kept (f d x)) : Kept (l.foldl f d) := by
  induction l generalizing d with
  | nil => exact h
  | cons x l ih => exact ih (hf d x h)

theorem Kept.ite {p : Prop} [Decidable p] {d e : Dev} (h : Kept d) (h' : Kept e) : Kept (if p then d else e) := by
  split <;> assumption

theorem Kept.modRidge {d : Dev} {r : Nat} {f : Ridge → Ridge} (h : Kept d) (hf : ∀ x, ridgeKept x → ridgeKept (f x)) :
    Kept (d.modRidge r f) := by
  refine ⟨by simpa [eightRidges, Dev.modRidge] using h.1, ?_, h.2.2.1, h.2.2.2⟩
  intro x hx
  obtain ⟨i, hi, rfl⟩ := List.mem_iff_getElem.1 hx
  have hl : i < d.ridges.length := by simpa [Dev.modRidge] using hi
  have := h.2.1 _ (List.getElem_mem hl)
  simp only [Dev.modRidge, List.getElem_modify]
  split
  · exact hf _ this
  · exact this

theorem Kept.modRidges {d : Dev} {f : Ridge → Ridge} (h : Kept d) (hf : ∀ x, ridgeKept x → ridgeKept (f x)) :
    Kept (d.modRidges f) := by
  refine ⟨by simpa [eightRidges, Dev.modRidges] using h.1, ?_, h.2.2.1, h.2.2.2⟩
  intro x hx
  obtain ⟨i, hi, rfl⟩ := List.mem_iff_getElem.1 hx
  have hl : i < d.ridges.length := by simpa [Dev.modRidges] using hi
  have := h.2.1 _ (List.getElem_mem hl)
  simp only [Dev.modRidges, List.getElem_mapIdx]
  split
  · exact hf _ this
  · exact this

theorem Kept.ridge {d : Dev} (h : Kept d) (r : Nat) : ridgeKept (d.ridge r) := by
  simp only [Dev.ridge, List.getD]
  cases hh : d.ridges[r]? with
  | none => exact ⟨rfl, rfl, rfl, by decide⟩
  | some x => exact h.2.1 x (List.mem_of_getElem? hh)

theorem assocSet_mem {α : Type} {l : List (Nat × α)} {k : Nat} {v : α} {e : Nat × α} (h : e ∈ assocSet l k v) :
    e = (k, v) ∨ e ∈ l := by
  induction l with
  | nil => simpa [assocSet] using h
  | cons x l ih =>
    simp only [assocSet] at h
    split at h
    · rcases List.mem_cons.1 h with h | h
      · exact .inr (h ▸ List.mem_cons_self)
      · exact (ih h).imp id (List.mem_cons_of_mem _)
    · split at h
      · rcases List.mem_cons.1 h with h | h
        · exact .inl h
        · exact .inr (List.mem_cons_of_mem _ h)
      · rcases List.mem_cons.1 h with h | h
        · exact .inl h
        · exact .inr h

theorem assocGet_mem {α : Type} {l : List (Nat × α)} {k : Nat} {v : α} (h : assocGet l k = some v) : (k, v) ∈ l := by
  induction l with
  | nil => simp [assocGet] at h
  | cons x l ih =>
    simp only [assocGet] at h
    split at h
    · next e => cases h; subst e; exact List.mem_cons_self
    · exact List.mem_cons_of_mem _ (ih h)

theorem Kept.seam {d : Dev} (h : Kept d) (s : Nat) : entryKept (d.seam s).entry := by
  simp only [Dev.seam]
  cases hh : assocGet d.seams s with
  | none => exact ⟨rfl, rfl, rfl, by simp [Seam.blank, SeamEntry.blank, Shadowed.agrees_of]⟩
  | some x => exact h.2.2.2 _ (assocGet_mem hh)

theorem Kept.modSeam {d : Dev} {s : Nat} {f : Seam → Seam} (h : Kept d) (hf : ∀ x, entryKept x.entry → entryKept (f x).entry) :
    Kept (d.modSeam s f) := by
  refine ⟨h.1, h.2.1, h.2.2.1, ?_⟩
  intro e he
  rcases assocSet_mem he with rfl | he
  · exact hf _ (h.seam s)
  · exact h.2.2.2 e he

theorem Kept.modSeams {d : Dev} {f : Nat → Seam → Seam} (h : Kept d) (hf : ∀ n x, entryKept x.entry → entryKept (f n x).entry) :
    Kept (d.modSeams f) := by
  refine ⟨h.1, h.2.1, h.2.2.1, ?_⟩
  intro e he
  obtain ⟨x, hx, rfl⟩ := List.mem_map.1 he
  exact hf _ _ (h.2.2.2 x hx)

theorem Kept.modEntry {d : Dev} {s : Nat} {f : SeamEntry → SeamEntry} (h : Kept d) (hf : ∀ x, entryKept x → entryKept (f x)) :
    Kept (d.modEntry s f) := h.modSeam fun _ hx => hf _ hx

theorem Kept.modRun {d : Dev} {s : Nat} {f : SeamRun → SeamRun} (h : Kept d) : Kept (d.modRun s f) := h.modSeam fun _ hx => hx

theorem Kept.modQueue {d : Dev} {s q : Nat} {f : Queue → Queue} (h : Kept d) : Kept (d.modQueue s q f) := h.modRun

theorem Kept.modTamp {d : Dev} {f : Tamp → Tamp} (h : Kept d) (hf : ∀ d : Dev, shadowsAgree d → shadowsAgree (d.modTamp f)) :
    Kept (d.modTamp f) := ⟨h.1, h.2.1, hf d h.2.2.1, h.2.2.2⟩

theorem Kept.modJob {d : Dev} {n : Nat} {f : JobRec → JobRec} (h : Kept d) : Kept (d.modJob n f) := h
theorem Kept.modQuorum {d : Dev} {f : Quorum → Quorum} (h : Kept d) : Kept (d.modQuorum f) := h
theorem Kept.modMq {d : Dev} {f : MQ → MQ} (h : Kept d) : Kept (d.modMq f) := h
theorem Kept.modPins {d : Dev} {f : Pins → Pins} (h : Kept d) : Kept (d.modPins f) := h
theorem Kept.modVigil {d : Dev} {f : Vigil → Vigil} (h : Kept d) : Kept (d.modVigil f) := h
theorem Kept.modPower {d : Dev} {f : Power → Power} (h : Kept d) : Kept (d.modPower f) := h
theorem Kept.modBoot {d : Dev} {f : Boot → Boot} (h : Kept d) : Kept (d.modBoot f) := h
theorem Kept.modFw {d : Dev} {f : Firmware → Firmware} (h : Kept d) : Kept (d.modFw f) := h
theorem Kept.modLog {d : Dev} {f : LogBlock → LogBlock} (h : Kept d) : Kept (d.modLog f) := h
theorem Kept.modAccess {d : Dev} {f : Access → Access} (h : Kept d) : Kept (d.modAccess f) := h
theorem Kept.reach {d : Dev} {t : Nat} (h : Kept d) : Kept (d.reach t) := h
theorem Kept.modLink {d : Dev} {l : Lk} {f : Link → Link} (h : Kept d) : Kept (d.modLink l f) := by cases l <;> exact h
theorem Kept.whenB {d : Dev} {c : Bool} {f : Dev → Dev} (h : Kept d) (hf : Kept (f d)) : Kept (d.whenB c f) := by
  unfold Dev.whenB; split <;> assumption
theorem Kept.of_fst {α : Type} {p : Dev × α} {d : Dev} {x : α} (e : p = (d, x)) (h : Kept p.1) : Kept d := by
  rw [e] at h; exact h
theorem Kept.of_snd {α : Type} {p : α × Dev} {d : Dev} {x : α} (e : p = (x, d)) (h : Kept p.2) : Kept d := by
  rw [e] at h; exact h

/-! ## Lamad: what an instruction may do to SRAM -/

/-- The effect of an instruction keeps the canonical form of SRAM. -/
def KeepsSram (sem : Lam → Except Nat Lam) : Prop := ∀ x y, memWf x.sram = true → sem x = .ok y → memWf y.sram = true

theorem Machine.Lam.set_sram (x : Lam) (n : BitVec 6) (v : W64) : (x.set n v).sram = x.sram := by
  unfold Lam.set; split <;> rfl

theorem Machine.Lam.later_sram (x : Lam) (n : BitVec 6) (v : W64) : (x.later n v).sram = x.sram := by
  unfold Lam.later; split <;> rfl

theorem Machine.Lam.opC_sram (x : Lam) (n : BitVec 6) (v : W64 × Bool) : (x.opC n v).sram = x.sram := (x.setC v.2).set_sram n
    v.1

/-- An effect that leaves SRAM alone. -/
theorem KeepsSram.of_ok {f : Lam → Lam} (h : ∀ x, (f x).sram = x.sram) : KeepsSram fun x => .ok (f x) := by
  intro x y hx e
  cases e
  rw [h]; exact hx

theorem KeepsSram.error (c : Nat) : KeepsSram fun _ => .error c := fun _ _ _ e => nomatch e

theorem ok_of_bind {α β : Type} {a : Except Nat α} {g : α → Except Nat β} {y : β} (e : a >>= g = .ok y) :
    ∃ b, a = .ok b ∧ g b = .ok y := by
  cases a with
  | error c => exact nomatch e
  | ok b => exact ⟨b, rfl, e⟩

theorem KeepsSram.storeElem (s : Lam → Seg) (i v : Lam → Nat) : KeepsSram fun x => x.storeElem (s x) (i x) (v x) := by
  intro x y hx e
  obtain ⟨a, _, e⟩ := ok_of_bind e
  obtain ⟨_, _, e⟩ := ok_of_bind e
  cases e
  exact memWf_memPut hx _ _

theorem KeepsSram.store (rs ra : BitVec 6) (sel : BitVec 3) (imm : BitVec 11) : KeepsSram fun x => x.store rs ra sel imm :=
  KeepsSram.storeElem _ _ _

theorem KeepsSram.load (g : Bool) (rd ra : BitVec 6) (sel : BitVec 3) (imm : BitVec 11) : KeepsSram fun x => x.load g rd ra sel
    imm := by
  intro x y hx e
  obtain ⟨v, _, e⟩ := ok_of_bind e
  obtain ⟨a, _, e⟩ := ok_of_bind e
  cases e
  exact ((x.touch false a).later_sram _ _).symm ▸ hx

theorem KeepsSram.sderive (dst src : BitVec 3) (ra rb : BitVec 6) (mode esize : BitVec 2) :
    KeepsSram fun x => x.sderive dst src ra rb mode esize := by
  intro x y hx e
  dsimp only [Lam.sderive] at e
  split at e
  · cases e; exact hx
  · contradiction

theorem KeepsSram.run {sem : Lam → Except Nat Lam} (h : KeepsSram sem) : KeepsSram fun x => x.run sem := by
  intro x y hx e
  obtain ⟨a, ha, e⟩ := ok_of_bind e
  cases e
  exact h _ a (by exact hx) ha

theorem KeepsSram.spill : KeepsSram Lam.spill := by
  intro x y hx e
  simp only [Lam.spill] at e
  split at e
  · contradiction
  · obtain ⟨_, _, e⟩ := ok_of_bind e
    generalize frameBytes _ = bs at e
    have h := congrArg Lam.sram (Except.ok.inj e)
    simp only at h
    rw [← h]
    exact memWf_memPut hx _ _

theorem KeepsSram.fill : KeepsSram Lam.fill := by
  intro x y hx e
  unfold Lam.fill at e
  obtain ⟨_, _, e⟩ := ok_of_bind e
  cases e
  exact hx

theorem KeepsSram.callTo (t : Lam → W64) : KeepsSram fun x => x.callTo (t x) := by
  intro x y hx e
  unfold Lam.callTo at e
  dsimp only at e
  split at e
  · obtain ⟨a, ha, e⟩ := ok_of_bind e
    rw [← Except.ok.inj e]
    exact KeepsSram.spill x a hx ha
  · rw [← Except.ok.inj e]
    exact hx

theorem KeepsSram.ret : KeepsSram Lam.ret := by
  intro x y hx e
  unfold Lam.ret at e
  dsimp only at e
  split at e
  · split at e
    · contradiction
    · obtain ⟨a, ha, e⟩ := ok_of_bind e
      cases e
      exact KeepsSram.fill x a hx ha
  · cases e; exact hx

theorem KeepsSram.micro (i : Instr) : KeepsSram fun x => x.micro i := by
  cases i
  all_goals first
    | exact KeepsSram.error _ | exact KeepsSram.of_ok fun x => x.set_sram _ _
    | exact KeepsSram.of_ok fun x => x.opC_sram _ _ | exact KeepsSram.of_ok fun _ => rfl
    | exact KeepsSram.store _ _ _ _ | exact KeepsSram.load _ _ _ _ _
    | exact KeepsSram.sderive _ _ _ _ _ _

theorem Machine.Lam.slotOps_sram (rd ra rb : BitVec 6) (k : BitVec 3) (ops : List W64) (x : Lam) (hx : memWf x.sram = true) :
    memWf (x.slotOps rd ra rb k ops).1.sram = true := by
  induction ops generalizing x with
  | nil => exact hx
  | cons m ops ih =>
    dsimp only [Lam.slotOps]
    split
    · split
      · exact hx
      · split
        · next y e => exact ih _ ((KeepsSram.micro _).run x y hx e)
        · exact hx
    · exact hx

end Sys2Proof
end

