-- ==== Sys2Proof/Laws/KeptEngines.lean ====
section
/-! SUPPORT. Every shared operation keeps `Kept`: events, keys, engines, completions, fetching, granting and entropy. -/

namespace Sys2Proof

-- one proof at a time: many proofs at once ask for too many threads
set_option Elab.async false

open Machine

theorem Kept.spineSend {d : Dev} {src dst : Nat} (hk : Kept d) : Kept (d.spineSend src dst) := by
  unfold Dev.spineSend
  repeat' first
    | with_reducible assumption | with_reducible apply Kept.modRidge | with_reducible refine Kept.ite ?_ ?_
    | exact fun x (hx : ridgeKept x) => hx

theorem Kept.stamp {d : Dev} {f : Stamps → Option Nat → Stamps} (hk : Kept d) : Kept (d.stamp f) := by
  unfold Dev.stamp
  repeat' first
    | with_reducible assumption | with_reducible refine Kept.ite ?_ ?_ | intro _ | split | dsimp only
    | with_reducible apply Kept.parts | simp only [Kept.mk]

theorem Kept.ownCycle {d : Dev} {last : Option Nat} (hk : Kept d) : Kept (d.ownCycle last) := by
  unfold Dev.ownCycle
  repeat' first
    | with_reducible assumption | with_reducible refine Kept.ite ?_ ?_ | intro _ | split | dsimp only
    | with_reducible apply Kept.parts | simp only [Kept.mk]

theorem Kept.stampWrite {d : Dev} (hk : Kept d) : Kept (d.stampWrite) := by
  unfold Dev.stampWrite
  repeat' first | with_reducible assumption | with_reducible apply Kept.stamp | with_reducible apply Kept.ownCycle

theorem Kept.stampClass {d : Dev} (hk : Kept d) : Kept (d.stampClass) := by
  unfold Dev.stampClass
  repeat' first | with_reducible assumption | with_reducible apply Kept.stamp

theorem Kept.stampTamper {d : Dev} (hk : Kept d) : Kept (d.stampTamper) := by
  unfold Dev.stampTamper
  repeat' first | with_reducible assumption | with_reducible apply Kept.stamp | with_reducible apply Kept.ownCycle

theorem Kept.stampPortal {d : Dev} (hk : Kept d) : Kept (d.stampPortal) := by
  unfold Dev.stampPortal
  repeat' first | with_reducible assumption | with_reducible apply Kept.stamp

theorem Kept.send {d : Dev} {l : Lk} {w : HostWrite} (hk : Kept d) : Kept (d.send l w) := by
  unfold Dev.send
  repeat' first | with_reducible assumption | with_reducible apply Kept.modLink

theorem Kept.raise {d : Dev} {src : Option Nat} {id : Nat} {cls : BitVec 2} {detail : BitVec 32} {seam : Option Nat} (hk : Kept
    d) : Kept (d.raise src id cls detail seam) := by
  unfold Dev.raise
  repeat' first
    | with_reducible assumption | with_reducible apply Kept.modRidge | with_reducible refine Kept.ite ?_ ?_
    | exact fun x (hx : ridgeKept x) => hx
    | exact fun x (hx : ridgeKept x) => ⟨by first | exact hx.1 | rfl | (dsimp only; repeat' first | exact hx.1 | apply memWf_memZero | apply memWf_memPut | split), by simp [hx.2.1], by simp [hx.2.2.1], by first | exact hx.2.2.2 | exact Shadowed.agrees_of _ | rfl | simp [hx.2.2.2]⟩
    | intro _ | split | dsimp only | with_reducible apply Kept.parts | simp only [Kept.mk]

theorem Kept.ridgeEvent {d : Dev} {r off detail : Nat} {seam : Option Nat} (hk : Kept d) : Kept (d.ridgeEvent r off detail
    seam) := by
  unfold Dev.ridgeEvent
  repeat' first | with_reducible assumption | with_reducible apply Kept.raise | with_reducible refine Kept.ite ?_ ?_

theorem Kept.pkgEvent {d : Dev} {id detail : Nat} {seam : Option Nat} (hk : Kept d) : Kept (d.pkgEvent id detail seam) := by
  unfold Dev.pkgEvent
  repeat' first | with_reducible assumption | with_reducible apply Kept.raise

theorem Kept.ignoredWrite {d : Dev} {l : Lk} {offset : Nat} (hk : Kept d) : Kept (d.ignoredWrite l offset) := by
  unfold Dev.ignoredWrite
  repeat' first | with_reducible assumption | with_reducible apply Kept.raise

theorem Kept.msix {d : Dev} {l : Lk} {v : Nat} (hk : Kept d) : Kept (d.msix l v) := by
  unfold Dev.msix
  repeat' first
    | with_reducible assumption | with_reducible apply Kept.modLink | with_reducible apply Kept.send
    | with_reducible refine Kept.ite ?_ ?_

theorem Kept.vector {d : Dev} {l : Lk} {v : Nat} (hk : Kept d) : Kept (d.vector l v) := by
  unfold Dev.vector
  repeat' first
    | with_reducible assumption | with_reducible apply Kept.msix | with_reducible refine Kept.ite ?_ ?_ | intro _ | split

theorem Kept.unmask {d : Dev} {l : Lk} (hk : Kept d) : Kept (d.unmask l) := by
  unfold Dev.unmask
  repeat' first
    | with_reducible assumption | with_reducible apply Kept.modLink | with_reducible apply Kept.msix
    | with_reducible apply Kept.foldl | with_reducible refine Kept.ite ?_ ?_ | intro _

theorem Kept.afterRecord {d : Dev} {e : Event} (hk : Kept d) : Kept (d.afterRecord e) := by
  unfold Dev.afterRecord
  repeat' first
    | with_reducible assumption | with_reducible apply Kept.vector | with_reducible refine Kept.ite ?_ ?_ | intro _ | split
    | dsimp only | with_reducible apply Kept.parts | simp only [Kept.mk]

theorem Kept.writeEvent {d : Dev} {e : Event} (hk : Kept d) : Kept (d.writeEvent e) := by
  unfold Dev.writeEvent
  repeat' first
    | with_reducible assumption | with_reducible apply Kept.afterRecord | with_reducible refine Kept.ite ?_ ?_ | intro _ | split
    | dsimp only | with_reducible apply Kept.parts | simp only [Kept.mk]

theorem Kept.passEvent {d : Dev} {src : Option Nat} (hk : Kept d) : Kept (d.passEvent src) := by
  unfold Dev.passEvent
  repeat' first
    | with_reducible assumption | with_reducible apply Kept.modRidge | with_reducible apply Kept.writeEvent
    | with_reducible refine Kept.ite ?_ ?_ | exact fun x (hx : ridgeKept x) => hx
    | exact fun x (hx : ridgeKept x) => ⟨by first | exact hx.1 | rfl | (dsimp only; repeat' first | exact hx.1 | apply memWf_memZero | apply memWf_memPut | split), by simp [hx.2.1], by simp [hx.2.2.1], by first | exact hx.2.2.2 | exact Shadowed.agrees_of _ | rfl | simp [hx.2.2.2]⟩
    | intro _ | split | dsimp only | with_reducible apply Kept.parts | simp only [Kept.mk]

theorem Kept.passEvents {d : Dev} {src : Option Nat} {k : Nat} (hk : Kept d) : Kept (d.passEvents src k) := by
  induction k generalizing d src with
  | zero => exact hk
  | succ k ih =>
    unfold Dev.passEvents
    repeat' first | with_reducible assumption | with_reducible apply ih | with_reducible apply Kept.passEvent

theorem Kept.flushEvents {d : Dev} {src : Option Nat} (hk : Kept d) : Kept (d.flushEvents src) := by
  unfold Dev.flushEvents
  repeat' first | with_reducible assumption | with_reducible apply Kept.passEvents

theorem Kept.markRecord {d : Dev} {marker : BitVec 32} (hk : Kept d) : Kept (d.markRecord marker) := by
  unfold Dev.markRecord
  repeat' first
    | with_reducible assumption | with_reducible apply Kept.afterRecord | with_reducible refine Kept.ite ?_ ?_ | intro _ | split
    | dsimp only | with_reducible apply Kept.parts | simp only [Kept.mk]

theorem Kept.mergeVigilLog {d : Dev} (hk : Kept d) : Kept (d.mergeVigilLog) := by
  unfold Dev.mergeVigilLog
  repeat' first
    | with_reducible assumption | with_reducible apply Kept.pkgEvent | with_reducible apply Kept.afterRecord
    | with_reducible apply Kept.foldl | with_reducible refine Kept.ite ?_ ?_ | intro _ | split | dsimp only
    | with_reducible apply Kept.parts | simp only [Kept.mk]

theorem Kept.draw {d : Dev} (hk : Kept d) : Kept (d.draw).2 := by
  unfold Dev.draw
  repeat' first
    | with_reducible assumption | with_reducible refine Kept.ite ?_ ?_ | intro _ | split | dsimp only
    | with_reducible apply Kept.parts | simp only [Kept.mk]

theorem Kept.modRng {d : Dev} {r : Nat} {f : Rng → Rng} (hk : Kept d) : Kept (d.modRng r f) := by
  unfold Dev.modRng
  repeat' first
    | with_reducible assumption | with_reducible apply Kept.modRidge | with_reducible refine Kept.ite ?_ ?_
    | exact fun x (hx : ridgeKept x) => hx

theorem Kept.modSrc {d : Dev} {r n : Nat} {f : Source → Source} (hk : Kept d) : Kept (d.modSrc r n f) := by
  unfold Dev.modSrc
  repeat' first | with_reducible assumption | with_reducible apply Kept.modRng

theorem Kept.drained {d : Dev} {r : Nat} {before : Rng} (hk : Kept d) : Kept (d.drained r before) := by
  unfold Dev.drained
  repeat' first | with_reducible assumption | with_reducible apply Kept.ridgeEvent | with_reducible refine Kept.ite ?_ ?_

theorem Kept.rngStep {d : Dev} {r : Nat} {f : Rng → Rng} (hk : Kept d) : Kept (d.rngStep r f) := by
  unfold Dev.rngStep
  repeat' first | with_reducible assumption | with_reducible apply Kept.modRng | with_reducible apply Kept.drained

theorem Kept.generate {d : Dev} {r : Nat} {host : Bool} {n : Nat} (hk : Kept d) : Kept (d.generate r host n) := by
  unfold Dev.generate
  repeat' first | with_reducible assumption | with_reducible apply Kept.rngStep

theorem Kept.refillBuf {d : Dev} {r : Nat} (hk : Kept d) : Kept (d.refillBuf r) := by
  unfold Dev.refillBuf
  repeat' first
    | with_reducible assumption | with_reducible apply Kept.draw | with_reducible apply Kept.modRng
    | with_reducible apply Kept.generate | with_reducible refine Kept.ite ?_ ?_

theorem Kept.sourceFails {d : Dev} {r n : Nat} (hk : Kept d) : Kept (d.sourceFails r n) := by
  unfold Dev.sourceFails
  repeat' first
    | with_reducible assumption | with_reducible apply Kept.ridgeEvent | with_reducible apply Kept.modSrc
    | with_reducible refine Kept.ite ?_ ?_

theorem Kept.entropyWindow {d : Dev} {r n : Nat} {latch : BitVec 1024} (hk : Kept d) : Kept (d.entropyWindow r n latch) := by
  unfold Dev.entropyWindow
  repeat' first
    | with_reducible assumption | with_reducible apply Kept.ridgeEvent | with_reducible apply Kept.modSrc
    | with_reducible apply Kept.rngStep | with_reducible apply Kept.refillBuf | with_reducible apply Kept.sourceFails
    | with_reducible refine Kept.ite ?_ ?_

theorem Kept.calibrate {d : Dev} {r n : Nat} (hk : Kept d) : Kept (d.calibrate r n) := by
  unfold Dev.calibrate
  repeat' first | with_reducible assumption | with_reducible apply Kept.draw | with_reducible apply Kept.modSrc

theorem Kept.askSeed {d : Dev} {r : Nat} (hk : Kept d) : Kept (d.askSeed r) := by
  unfold Dev.askSeed
  repeat' first
    | with_reducible assumption | with_reducible apply Kept.modRng | with_reducible refine Kept.ite ?_ ?_ | intro _ | split

theorem Kept.takeSeed {d : Dev} {r g : Nat} (hk : Kept d) : Kept (d.takeSeed r g) := by
  unfold Dev.takeSeed
  repeat' first
    | with_reducible assumption | with_reducible apply Kept.spineSend | with_reducible apply Kept.ridgeEvent
    | with_reducible apply Kept.modRng | with_reducible apply Kept.rngStep | with_reducible refine Kept.ite ?_ ?_ | intro _
    | split | dsimp only

theorem Kept.checkFull {d : Dev} {r before : Nat} (hk : Kept d) : Kept (d.checkFull r before) := by
  unfold Dev.checkFull
  repeat' first | with_reducible assumption | with_reducible apply Kept.ridgeEvent | with_reducible refine Kept.ite ?_ ?_

theorem Kept.addEntry {d : Dev} {rs : List Nat} {e : Entry} (hk : Kept d) : Kept (d.addEntry rs e) := by
  unfold Dev.addEntry
  repeat' first
    | with_reducible assumption | with_reducible apply Kept.modRidge | with_reducible apply Kept.checkFull
    | with_reducible apply Kept.foldl | with_reducible refine Kept.ite ?_ ?_ | exact fun x (hx : ridgeKept x) => hx
    | exact fun x (hx : ridgeKept x) => ⟨by first | exact hx.1 | rfl | (dsimp only; repeat' first | exact hx.1 | apply memWf_memZero | apply memWf_memPut | split), by simp [hx.2.1], by simp [hx.2.2.1], by first | exact hx.2.2.2 | exact Shadowed.agrees_of _ | rfl | simp [hx.2.2.2]⟩
    | intro _

theorem Kept.drawNonce {d : Dev} {owner : Option Nat} (hk : Kept d) : Kept (d.drawNonce owner) := by
  unfold Dev.drawNonce
  repeat' first | with_reducible assumption | with_reducible apply Kept.draw | with_reducible apply Kept.generate

theorem Kept.storeEntry {d : Dev} {rs : List Nat} {e : Entry} (hk : Kept d) : Kept (d.storeEntry rs e) := by
  unfold Dev.storeEntry
  repeat' first | with_reducible assumption | with_reducible apply Kept.addEntry | with_reducible apply Kept.drawNonce

theorem Kept.modEntries {d : Dev} {p : Entry → Bool} {f : Entry → Entry} (hk : Kept d) : Kept (d.modEntries p f) := by
  unfold Dev.modEntries
  repeat' first
    | with_reducible assumption | with_reducible apply Kept.modRidges | with_reducible refine Kept.ite ?_ ?_
    | exact fun x (hx : ridgeKept x) => hx

theorem Kept.eraseEntries {d : Dev} {p : Entry → Bool} (hk : Kept d) : Kept (d.eraseEntries p) := by
  unfold Dev.eraseEntries
  repeat' first
    | with_reducible assumption | with_reducible apply Kept.modRidges | with_reducible refine Kept.ite ?_ ?_
    | exact fun x (hx : ridgeKept x) => hx

theorem Kept.dropCache {d : Dev} {s n : Nat} (hk : Kept d) : Kept (d.dropCache s n) := by
  unfold Dev.dropCache
  repeat' first
    | with_reducible assumption | with_reducible apply Kept.modRidges | with_reducible refine Kept.ite ?_ ?_
    | exact fun x (hx : ridgeKept x) => hx

theorem Kept.touchCache {d : Dev} {s n : Nat} (hk : Kept d) : Kept (d.touchCache s n) := by
  unfold Dev.touchCache
  repeat' first
    | with_reducible assumption | with_reducible apply Kept.modRidges | with_reducible refine Kept.ite ?_ ?_
    | exact fun x (hx : ridgeKept x) => hx

theorem Kept.makeRoom {d e : Dev} {r k : Nat} (h : d.makeRoom r k = some e) (hk : Kept d) : Kept e := by
  induction k generalizing d with
  | zero => exact nomatch h
  | succ k ih =>
    dsimp only [Dev.makeRoom] at h
    split at h
    · cases h; exact hk
    · obtain ⟨_, _, h⟩ := Option.bind_eq_some_iff.1 h
      exact ih h hk.dropCache

theorem Kept.foldOpt {f : Dev → Nat → Option Dev} (hf : ∀ {d e : Dev} {r : Nat}, f d r = some e → Kept d → Kept e)
    {l : List Nat} {o : Option Dev} {e : Dev} (h : l.foldl (fun d r => d.bind fun d => f d r) o = some e)
    (ho : ∀ d, o = some d → Kept d) : Kept e := by
  induction l generalizing o with
  | nil => exact ho e h
  | cons r l ih =>
    refine ih h fun d hd => ?_
    obtain ⟨x, hx, hx'⟩ := Option.bind_eq_some_iff.1 hd
    exact hf hx' (ho x hx)

theorem Kept.loadCache {d e : Dev} {s n : Nat} {k : KeyMat} (h : d.loadCache s n k = some e) (hk : Kept d) : Kept e := by
  obtain ⟨x, hx, h⟩ := Option.map_eq_some_iff.1 h
  rw [← h]
  exact (Kept.foldOpt Kept.makeRoom hx fun _ hd => Option.some.inj hd ▸ hk).foldl fun d r hk => hk.modRidge fun x hx => hx

theorem Kept.countKeys {d : Dev} {s : Nat} {f : Nat → Nat} (hk : Kept d) : Kept (d.countKeys s f) := by
  unfold Dev.countKeys
  repeat' first | with_reducible assumption | with_reducible apply Kept.modRun

theorem Kept.destroyKey {d : Dev} {s i : Nat} (hk : Kept d) : Kept (d.destroyKey s i) := by
  unfold Dev.destroyKey
  repeat' first
    | with_reducible assumption | with_reducible apply Kept.eraseEntries | with_reducible apply Kept.countKeys
    | with_reducible refine Kept.ite ?_ ?_ | intro _ | split

theorem Kept.eraseSeamStore {d : Dev} {s : Nat} (hk : Kept d) : Kept (d.eraseSeamStore s) := by
  unfold Dev.eraseSeamStore
  repeat' first
    | with_reducible assumption | with_reducible apply Kept.modRidges | with_reducible apply Kept.eraseEntries
    | with_reducible refine Kept.ite ?_ ?_ | exact fun x (hx : ridgeKept x) => hx

theorem Kept.putDevice {d : Dev} {kind : Nat} {origin : BitVec 16} {p : Payload} (hk : Kept d) : Kept (d.putDevice kind origin
    p) := by
  unfold Dev.putDevice
  repeat' first | with_reducible assumption | with_reducible apply Kept.storeEntry | with_reducible apply Kept.eraseEntries

theorem Kept.deriveRoots {d : Dev} (hk : Kept d) : Kept (d.deriveRoots) := by
  unfold Dev.deriveRoots
  repeat' first
    | with_reducible assumption | with_reducible apply Kept.modRidges | with_reducible refine Kept.ite ?_ ?_
    | exact fun x (hx : ridgeKept x) => hx | (refine fun x (hx : ridgeKept x) => ?_; split <;> exact hx)
    | exact fun x (hx : ridgeKept x) => ⟨by first | exact hx.1 | rfl | (dsimp only; repeat' first | exact hx.1 | apply memWf_memZero | apply memWf_memPut | split), by simp [hx.2.1], by simp [hx.2.2.1], by first | exact hx.2.2.2 | exact Shadowed.agrees_of _ | rfl | simp [hx.2.2.2]⟩
    | intro _ | split | dsimp only | with_reducible apply Kept.parts | simp only [Kept.mk]

theorem Machine.Ridge.modEng_kept {x : Ridge} (hx : ridgeKept x) (b : Nat) (f : Engine → Engine) : ridgeKept (x.modEng b f) :=
  ⟨hx.1, by simp [Ridge.modEng, hx.2.1], hx.2.2⟩

theorem Machine.Ridge.modEngs_kept {x : Ridge} (hx : ridgeKept x) (l : List Nat) (f : Nat → Engine → Engine) :
    ridgeKept (l.foldl (fun x c => x.modEng c (f c)) x) := by
  induction l generalizing x with | nil => exact hx | cons c l ih => exact ih (Ridge.modEng_kept hx c _)

theorem Machine.Ridge.start_kept {x : Ridge} (hx : ridgeKept x) (b n : Nat) (m : OpRam) (bs : List Byte) :
    ridgeKept (x.start b n m bs) := Ridge.modEngs_kept (Ridge.modEng_kept hx b _) _ _

theorem Machine.Ridge.wipe_kept {x : Ridge} (hx : ridgeKept x) (b n : Nat) : ridgeKept (x.wipe b n) := by
  dsimp only [Ridge.wipe]
  split
  · exact Ridge.modEngs_kept (Ridge.modEng_kept hx b _) _ _
  · exact Ridge.modEng_kept hx b _

theorem Machine.Ridge.borrow_kept {x : Ridge} (hx : ridgeKept x) (b : Nat) (v : Bool) : ridgeKept (x.borrow b v) := by
  unfold Ridge.borrow
  split
  · exact hx
  · exact ⟨hx.1, hx.2.1, by simp [hx.2.2.1], hx.2.2.2⟩

theorem Kept.modEngine {d : Dev} {r b : Nat} {f : Engine → Engine} (hk : Kept d) : Kept (d.modEngine r b f) :=
  hk.modRidge fun _ hx => Ridge.modEng_kept hx b f

theorem Kept.govern {d : Dev} {risen : Bool} (hk : Kept d) : Kept (d.govern risen) := by
  unfold Dev.govern
  repeat' first
    | with_reducible assumption | with_reducible apply Kept.modRidge | with_reducible apply Kept.ridgeEvent
    | with_reducible apply Kept.claim | with_reducible apply Kept.foldl | with_reducible refine Kept.ite ?_ ?_
    | exact fun x (hx : ridgeKept x) => hx
    | exact fun x (hx : ridgeKept x) => ⟨by first | exact hx.1 | rfl | (dsimp only; repeat' first | exact hx.1 | apply memWf_memZero | apply memWf_memPut | split), by simp [hx.2.1], by simp [hx.2.2.1], by first | exact hx.2.2.2 | exact Shadowed.agrees_of _ | rfl | simp [hx.2.2.2]⟩
    | intro _

theorem Kept.startJob {d : Dev} {r b n : Nat} {m : OpRam} (hk : Kept d) : Kept (d.startJob r b n m) := by
  unfold Dev.startJob
  repeat' first
    | with_reducible assumption | with_reducible apply Kept.modRidge | exact fun _ hx => Ridge.start_kept hx _ _ _ _
    | with_reducible apply Kept.modJob

theorem Kept.assign {d : Dev} {r b n : Nat} (hk : Kept d) : Kept (d.assign r b n) := by
  unfold Dev.assign
  repeat' first
    | with_reducible assumption | with_reducible apply Kept.modRidge | with_reducible apply Kept.spineSend
    | with_reducible apply Kept.modEngine | with_reducible apply Kept.startJob | with_reducible refine Kept.ite ?_ ?_
    | exact fun x (hx : ridgeKept x) => hx
    | exact fun x (hx : ridgeKept x) => ⟨by first | exact hx.1 | rfl | (dsimp only; repeat' first | exact hx.1 | apply memWf_memZero | apply memWf_memPut | split), by simp [hx.2.1], by simp [hx.2.2.1], by first | exact hx.2.2.2 | exact Shadowed.agrees_of _ | rfl | simp [hx.2.2.2]⟩
    | intro _ | split

theorem Kept.deliver {d : Dev} {n : Nat} (hk : Kept d) : Kept (d.deliver n) := by
  unfold Dev.deliver
  repeat' first
    | with_reducible assumption | with_reducible apply Kept.modEngine | with_reducible refine Kept.ite ?_ ?_ | intro _ | split

theorem Kept.promote {d : Dev} {r b : Nat} (hk : Kept d) : Kept (d.promote r b) := by
  unfold Dev.promote
  repeat' first
    | with_reducible assumption | with_reducible apply Kept.modEngine | with_reducible apply Kept.startJob
    | with_reducible refine Kept.ite ?_ ?_ | intro _ | split | dsimp only

theorem Kept.release {d : Dev} {r b n : Nat} (hk : Kept d) : Kept (d.release r b n) := by
  unfold Dev.release
  repeat' first
    | with_reducible assumption | with_reducible apply Kept.modRidge | exact fun _ hx => Ridge.wipe_kept hx _ _
    | with_reducible apply Kept.promote | with_reducible refine Kept.ite ?_ ?_

theorem Kept.modWorld {d : Dev} {r : Nat} {f : World → World} (hk : Kept d) (hf : ∀ x, x.line.agrees = true → (f x).line.agrees
    = true) : Kept (d.modWorld r f) := by
  exact hk.modRidge fun x hx => ⟨hx.1, hx.2.1, hx.2.2.1, hf _ hx.2.2.2⟩

theorem Kept.claim {d : Dev} {r b : Nat} (hk : Kept d) : Kept (d.claim r b) := by
  unfold Dev.claim
  repeat' first
    | with_reducible assumption | with_reducible apply Kept.modRidge | exact fun _ hx => Ridge.borrow_kept hx _ _
    | with_reducible apply Kept.modWorld | with_reducible refine Kept.ite ?_ ?_ | exact fun x (hx : ridgeKept x) => hx
    | exact fun x (hx : ridgeKept x) => ⟨by first | exact hx.1 | rfl | (dsimp only; repeat' first | exact hx.1 | apply memWf_memZero | apply memWf_memPut | split), by simp [hx.2.1], by simp [hx.2.2.1], by first | exact hx.2.2.2 | exact Shadowed.agrees_of _ | rfl | simp [hx.2.2.2]⟩
    | exact fun x (hx : x.line.agrees = true) => hx

theorem Kept.endClaim {d : Dev} {r b : Nat} (hk : Kept d) : Kept (d.endClaim r b) := by
  unfold Dev.endClaim
  repeat' first
    | with_reducible assumption | with_reducible apply Kept.modRidge | exact fun _ hx => Ridge.borrow_kept hx _ _
    | with_reducible apply Kept.ridgeEvent | with_reducible apply Kept.modWorld | with_reducible apply Kept.claim
    | with_reducible refine Kept.ite ?_ ?_ | exact fun x (hx : ridgeKept x) => hx
    | exact fun x (hx : ridgeKept x) => ⟨by first | exact hx.1 | rfl | (dsimp only; repeat' first | exact hx.1 | apply memWf_memZero | apply memWf_memPut | split), by simp [hx.2.1], by simp [hx.2.2.1], by first | exact hx.2.2.2 | exact Shadowed.agrees_of _ | rfl | simp [hx.2.2.2]⟩
    | exact fun x (hx : x.line.agrees = true) => hx

theorem Kept.endClaims {d : Dev} {r : Nat} {m : BitVec 33} (hk : Kept d) : Kept (d.endClaims r m) := by
  unfold Dev.endClaims
  repeat' first
    | with_reducible assumption | with_reducible apply Kept.endClaim | with_reducible apply Kept.foldl
    | with_reducible refine Kept.ite ?_ ?_ | intro _

theorem Kept.freeService {d : Dev} {r n : Nat} (hk : Kept d) : Kept (d.freeService r n) := by
  unfold Dev.freeService
  repeat' first
    | with_reducible assumption | with_reducible apply Kept.modWorld | with_reducible apply Kept.endClaims
    | with_reducible refine Kept.ite ?_ ?_ | exact fun x (hx : x.line.agrees = true) => hx | intro _ | split

theorem Kept.releaseAll {d : Dev} {j : JobRec} (hk : Kept d) : Kept (d.releaseAll j) := by
  unfold Dev.releaseAll
  repeat' first
    | with_reducible assumption | with_reducible apply Kept.release | with_reducible apply Kept.freeService
    | with_reducible apply Kept.foldl | with_reducible refine Kept.ite ?_ ?_ | intro _

theorem Kept.askWake {d : Dev} {home r : Nat} (hk : Kept d) : Kept (d.askWake home r) := by
  unfold Dev.askWake
  repeat' first
    | with_reducible assumption | with_reducible apply Kept.modRidge | with_reducible apply Kept.ridgeEvent
    | with_reducible refine Kept.ite ?_ ?_ | exact fun x (hx : ridgeKept x) => hx

theorem Kept.requestWake {d : Dev} {home : Nat} {cs : List EClass} (hk : Kept d) : Kept (d.requestWake home cs) := by
  unfold Dev.requestWake
  repeat' first
    | with_reducible assumption | with_reducible apply Kept.askWake | with_reducible refine Kept.ite ?_ ?_ | intro _ | split

theorem Kept.irq {d : Dev} {s : Nat} {l : Lk} (hk : Kept d) : Kept (d.irq s l) := by
  unfold Dev.irq
  repeat' first | with_reducible assumption | with_reducible apply Kept.send | with_reducible refine Kept.ite ?_ ?_

theorem Kept.seamFault {d : Dev} {s cause : Nat} (hk : Kept d) : Kept (d.seamFault s cause) := by
  unfold Dev.seamFault
  repeat' first
    | with_reducible assumption | with_reducible apply Kept.modEntry | with_reducible apply Kept.pkgEvent
    | with_reducible refine Kept.ite ?_ ?_ | exact fun x (hx : entryKept x) => hx

theorem Kept.queueFault {d : Dev} {s q : Nat} (hk : Kept d) : Kept (d.queueFault s q) := by
  unfold Dev.queueFault
  repeat' first
    | with_reducible assumption | with_reducible apply Kept.modQueue | with_reducible apply Kept.pkgEvent
    | with_reducible apply Kept.irq | with_reducible refine Kept.ite ?_ ?_ | intro _ | split

theorem Kept.discard {d : Dev} {s : Nat} {n : Nat} (hk : Kept d) : Kept (d.discard s n) := by
  unfold Dev.discard
  repeat' first | with_reducible assumption | with_reducible apply Kept.modRun

theorem Kept.capture {d : Dev} {s : Nat} {opcode : BitVec 16} {arrival granted ns : Nat} (hk : Kept d) : Kept (d.capture s
    opcode arrival granted ns) := by
  unfold Dev.capture
  repeat' first
    | with_reducible assumption | with_reducible refine Kept.ite ?_ ?_ | intro _ | split | dsimp only
    | with_reducible apply Kept.parts | simp only [Kept.mk]

theorem Kept.putCompletion {d : Dev} {s : Nat} {c : Compl} {irq : Bool} {first : Option Lk} {hold : Bool} (hk : Kept d) : Kept
    (d.putCompletion s c irq first hold).1 := by
  unfold Dev.putCompletion
  repeat' first
    | with_reducible assumption | with_reducible apply Kept.spineSend | with_reducible apply Kept.modRun
    | with_reducible apply Kept.send | with_reducible apply Kept.irq | with_reducible apply Kept.seamFault
    | with_reducible apply Kept.discard | with_reducible refine Kept.ite ?_ ?_ | intro _ | split

theorem Kept.destroyKeys {d : Dev} {s : Nat} {is : List Nat} (hk : Kept d) : Kept (d.destroyKeys s is) := by
  unfold Dev.destroyKeys
  repeat' first
    | with_reducible assumption | with_reducible apply Kept.destroyKey | with_reducible apply Kept.foldl
    | with_reducible refine Kept.ite ?_ ?_ | intro _

theorem Kept.eraseConsumed {d : Dev} {j : JobRec} (hk : Kept d) : Kept (d.eraseConsumed j) := by
  unfold Dev.eraseConsumed
  repeat' first
    | with_reducible assumption | with_reducible apply Kept.modRidges | with_reducible apply Kept.eraseEntries
    | with_reducible refine Kept.ite ?_ ?_ | exact fun x (hx : ridgeKept x) => hx

theorem Kept.dropJob {d : Dev} {j : JobRec} (hk : Kept d) : Kept (d.dropJob j) := by
  unfold Dev.dropJob
  repeat' first
    | with_reducible assumption | with_reducible apply Kept.modRun | with_reducible apply Kept.releaseAll
    | with_reducible refine Kept.ite ?_ ?_ | intro _ | split | dsimp only | with_reducible apply Kept.parts
    | simp only [Kept.mk]

theorem Kept.countEntropy {d : Dev} {r : Nat} {status : BitVec 16} (hk : Kept d) : Kept (d.countEntropy r status) := by
  unfold Dev.countEntropy
  repeat' first
    | with_reducible assumption | with_reducible apply Kept.modRidge | with_reducible refine Kept.ite ?_ ?_
    | exact fun x (hx : ridgeKept x) => hx

theorem Kept.finishDesc {d : Dev} {j : JobRec} {v : Verdict} {keep hold : Bool} (hk : Kept d) : Kept (d.finishDesc j v keep
    hold) := by
  unfold Dev.finishDesc
  repeat' first
    | with_reducible assumption | with_reducible apply Kept.modRun | with_reducible apply Kept.discard
    | with_reducible apply Kept.capture | with_reducible apply Kept.putCompletion | with_reducible apply Kept.destroyKeys
    | with_reducible apply Kept.eraseConsumed | with_reducible apply Kept.dropJob | with_reducible apply Kept.countEntropy
    | with_reducible refine Kept.ite ?_ ?_

theorem Kept.modCore {d : Dev} {r c : Nat} {f : Core → Core} (hk : Kept d) : Kept (d.modCore r c f) := by
  exact hk.modRidge fun x hx => ⟨hx.1, hx.2.1, by simp [hx.2.2.1], hx.2.2.2⟩

theorem Kept.modProgram {d : Dev} {r c : Nat} {f : Program → Program} (hk : Kept d) : Kept (d.modProgram r c f) := by
  unfold Dev.modProgram
  repeat' first | with_reducible assumption | with_reducible apply Kept.modCore

theorem Kept.freeArea {d : Dev} {r : Nat} {p : Program} (hk : Kept d) : Kept (d.freeArea r p) := by
  exact hk.modRidge fun x hx => ⟨memWf_memZero (memWf_memZero (memWf_memZero (memWf_memZero hx.1 _ _) _ _) _ _) _ _, hx.2⟩

theorem Kept.freeWindow {d : Dev} {r s : Nat} (hk : Kept d) : Kept (d.freeWindow r s) := by
  unfold Dev.freeWindow
  refine Kept.ite hk (hk.modRidge fun x hx => ⟨?_, hx.2⟩)
  generalize x.staging.filter _ = l
  have : ∀ (m : List Host.Cell), memWf m = true → memWf (l.foldl (fun m w => memZero m w.2.1 w.2.2) m) = true := by
    induction l with | nil => exact fun m h => h | cons w l ih => exact fun m h => ih _ (memWf_memZero h _ _)
  exact this _ hx.1

theorem Kept.purgePrograms {d : Dev} {s : Nat} (hk : Kept d) : Kept (d.purgePrograms s) := by
  unfold Dev.purgePrograms
  repeat' first
    | with_reducible assumption | with_reducible apply Kept.modRidge | with_reducible apply Kept.foldl
    | with_reducible refine Kept.ite ?_ ?_ | exact fun x (hx : ridgeKept x) => hx
    | exact fun x (hx : ridgeKept x) => ⟨by first | exact hx.1 | rfl | (dsimp only; repeat' first | exact hx.1 | apply memWf_memZero | apply memWf_memPut | split), by simp [hx.2.1], by simp [hx.2.2.1], by first | exact hx.2.2.2 | exact Shadowed.agrees_of _ | rfl | simp [hx.2.2.2]⟩
    | intro _

theorem Kept.programOut {d : Dev} {j : JobRec} {v : Verdict} {bytes : List Byte} (hk : Kept d) : Kept (d.programOut j v
    bytes).1 := by
  unfold Dev.programOut
  repeat' first
    | with_reducible assumption | with_reducible apply Kept.spineSend | with_reducible apply Kept.send
    | with_reducible refine Kept.ite ?_ ?_ | intro _ | split | dsimp only

theorem Kept.closeProgram {d : Dev} {r c : Nat} {hold : Bool} (hk : Kept d) : Kept (d.closeProgram r c hold) := by
  unfold Dev.closeProgram
  repeat' first
    | with_reducible assumption | with_reducible apply Kept.finishDesc | with_reducible apply Kept.modCore
    | with_reducible apply Kept.freeArea | with_reducible apply Kept.freeWindow | with_reducible apply Kept.purgePrograms
    | with_reducible apply Kept.programOut | with_reducible refine Kept.ite ?_ ?_ | (refine Kept.of_fst ‹_ = (_, _)› ?_)
    | (refine Kept.of_snd ‹_ = (_, _)› ?_) | intro _ | split

theorem Kept.endRequest {d : Dev} {j : JobRec} {pj t : Nat} {v : Verdict} {hold : Bool} (hk : Kept d) : Kept (d.endRequest j pj
    t v hold) := by
  unfold Dev.endRequest
  repeat' first
    | with_reducible assumption | with_reducible apply Kept.modJob | with_reducible apply Kept.destroyKeys
    | with_reducible apply Kept.eraseConsumed | with_reducible apply Kept.dropJob | with_reducible apply Kept.countEntropy
    | with_reducible apply Kept.modProgram | with_reducible apply Kept.closeProgram | with_reducible refine Kept.ite ?_ ?_
    | intro _ | split | dsimp only

theorem Kept.finish {d : Dev} {n : Nat} {v : Verdict} {keep : Bool} {hold : Bool} (hk : Kept d) : Kept (d.finish n v keep hold)
    := by
  unfold Dev.finish
  repeat' first
    | with_reducible assumption | with_reducible apply Kept.finishDesc | with_reducible apply Kept.endRequest
    | with_reducible refine Kept.ite ?_ ?_ | intro _ | split

theorem Kept.rollback {d : Dev} {j : JobRec} (hk : Kept d) : Kept (d.rollback j) := by
  unfold Dev.rollback
  repeat' first
    | with_reducible assumption | with_reducible apply Kept.modJob | with_reducible apply Kept.eraseEntries
    | with_reducible apply Kept.countKeys | with_reducible refine Kept.ite ?_ ?_ | intro _ | split

theorem Kept.abortJob {d : Dev} {n : Nat} {status : BitVec 16} {hold : Bool} (hk : Kept d) : Kept (d.abortJob n status hold) :=
    by
  unfold Dev.abortJob
  repeat' first
    | with_reducible assumption | with_reducible apply Kept.modJob | with_reducible apply Kept.modProgram
    | with_reducible apply Kept.closeProgram | with_reducible apply Kept.finish | with_reducible apply Kept.rollback
    | with_reducible refine Kept.ite ?_ ?_ | intro _ | split

theorem Kept.abortJobs {d : Dev} {ns : List Nat} {status : BitVec 16} {hold : Bool} (hk : Kept d) : Kept (d.abortJobs ns status
    hold) := by
  unfold Dev.abortJobs
  repeat' first
    | with_reducible assumption | with_reducible apply Kept.abortJob | with_reducible apply Kept.foldl
    | with_reducible refine Kept.ite ?_ ?_ | intro _

theorem Kept.retire {d : Dev} {s q : Nat} {f : Fetched} {v : Verdict} (hk : Kept d) : Kept (d.retire s q f v) := by
  unfold Dev.retire
  repeat' first
    | with_reducible assumption | with_reducible apply Kept.modRun | with_reducible apply Kept.capture
    | with_reducible apply Kept.putCompletion | with_reducible refine Kept.ite ?_ ?_

theorem Kept.mqWrite {d : Dev} {m : MqDone} (hk : Kept d) : Kept (d.mqWrite m) := by
  unfold Dev.mqWrite
  repeat' first
    | with_reducible assumption | with_reducible apply Kept.send | with_reducible apply Kept.vector
    | with_reducible refine Kept.ite ?_ ?_ | intro _ | split | dsimp only | with_reducible apply Kept.parts
    | simp only [Kept.mk]

theorem Kept.mqFault {d : Dev} {cause : Nat} (hk : Kept d) : Kept (d.mqFault cause) := by
  unfold Dev.mqFault
  repeat' first
    | with_reducible assumption | with_reducible apply Kept.pkgEvent | with_reducible refine Kept.ite ?_ ?_ | intro _ | split
    | dsimp only | with_reducible apply Kept.parts | simp only [Kept.mk]

theorem Kept.mqDrain {d : Dev} {k : Nat} (hk : Kept d) : Kept (d.mqDrain k) := by
  induction k generalizing d  with
  | zero => exact hk
  | succ k ih =>
    unfold Dev.mqDrain
    repeat' first
      | with_reducible assumption | with_reducible apply ih | with_reducible apply Kept.mqWrite
      | with_reducible apply Kept.mqFault | with_reducible refine Kept.ite ?_ ?_ | split | dsimp only
      | with_reducible apply Kept.parts | simp only [Kept.mk]

theorem Kept.mqComplete {d : Dev} {cmd : Nat} {v : Verdict} {out : List Byte} (hk : Kept d) : Kept (d.mqComplete cmd v out) :=
    by
  unfold Dev.mqComplete
  repeat' first
    | with_reducible assumption | with_reducible apply Kept.mqDrain | with_reducible refine Kept.ite ?_ ?_ | intro _ | split
    | dsimp only | with_reducible apply Kept.parts | simp only [Kept.mk]

theorem Kept.modCmd {d : Dev} {cmd : Nat} {f : MqCmd → MqCmd} (hk : Kept d) : Kept (d.modCmd cmd f) := by
  unfold Dev.modCmd
  repeat' first
    | with_reducible assumption | with_reducible refine Kept.ite ?_ ?_ | intro _ | split | dsimp only
    | with_reducible apply Kept.parts | simp only [Kept.mk]

theorem Kept.fetch {d : Dev} {s q : Nat} (hk : Kept d) : Kept (d.fetch s q) := by
  unfold Dev.fetch
  repeat' first
    | with_reducible assumption | with_reducible apply Kept.modQueue | with_reducible apply Kept.queueFault
    | with_reducible refine Kept.ite ?_ ?_ | intro _ | split

theorem Kept.fetchSeam {d : Dev} {s : Nat} (hk : Kept d) : Kept (d.fetchSeam s) := by
  unfold Dev.fetchSeam
  repeat' first
    | with_reducible assumption | with_reducible apply Kept.fetch | with_reducible apply Kept.foldl
    | with_reducible refine Kept.ite ?_ ?_ | intro _

theorem Kept.fetchAll {d : Dev} (hk : Kept d) : Kept (d.fetchAll) := by
  unfold Dev.fetchAll
  repeat' first | with_reducible assumption | with_reducible apply Kept.fetchSeam | with_reducible apply Kept.foldl

theorem Kept.enter {d : Dev} {s q : Nat} {bytes : List Byte} (hk : Kept d) : Kept (d.enter s q bytes) := by
  unfold Dev.enter
  repeat' first
    | with_reducible assumption | with_reducible apply Kept.spineSend | with_reducible apply Kept.modQueue
    | with_reducible refine Kept.ite ?_ ?_

theorem Kept.enterAll {d : Dev} {s q : Nat} {bytes : List Byte} {k : Nat} (hk : Kept d) : Kept (d.enterAll s q bytes k) := by
  induction k generalizing d s q bytes with
  | zero => exact hk
  | succ k ih =>
    unfold Dev.enterAll
    repeat' first
      | with_reducible assumption | with_reducible apply ih | with_reducible apply Kept.enter
      | with_reducible refine Kept.ite ?_ ?_

theorem Kept.ringData {d : Dev} {s q : Nat} {bytes : List Byte} (hk : Kept d) : Kept (d.ringData s q bytes) := by
  unfold Dev.ringData
  repeat' first
    | with_reducible assumption | with_reducible apply Kept.modQueue | with_reducible apply Kept.fetch
    | with_reducible apply Kept.enterAll | with_reducible refine Kept.ite ?_ ?_

theorem Kept.mirrored {d : Dev} {s q : Nat} {i : BitVec 32} (hk : Kept d) : Kept (d.mirrored s q i) := by
  unfold Dev.mirrored
  repeat' first | with_reducible assumption | with_reducible apply Kept.modQueue

theorem Kept.portalDrop {d : Dev} {l : Lk} (hk : Kept d) : Kept (d.portalDrop l) := by
  unfold Dev.portalDrop
  repeat' first | with_reducible assumption | with_reducible apply Kept.modLink

theorem Kept.badIndex {d : Dev} {s q : Nat} {cq : Bool} (hk : Kept d) : Kept (d.badIndex s q cq) := by
  unfold Dev.badIndex
  repeat' first | with_reducible assumption | with_reducible apply Kept.pkgEvent

theorem Kept.tailWrite {d : Dev} {s q : Nat} {v : BitVec 32} (hk : Kept d) : Kept (d.tailWrite s q v) := by
  unfold Dev.tailWrite
  repeat' first
    | with_reducible assumption | with_reducible apply Kept.modQueue | with_reducible apply Kept.fetch
    | with_reducible apply Kept.badIndex | with_reducible refine Kept.ite ?_ ?_

theorem Kept.cqHead {d : Dev} {s : Nat} {v : BitVec 32} (hk : Kept d) : Kept (d.cqHead s v) := by
  unfold Dev.cqHead
  repeat' first
    | with_reducible assumption | with_reducible apply Kept.modRun | with_reducible apply Kept.fetchSeam
    | with_reducible apply Kept.badIndex | with_reducible refine Kept.ite ?_ ?_ | intro _ | split

theorem Kept.snapTail {d : Dev} {s q : Nat} {v : BitVec 32} (hk : Kept d) : Kept (d.snapTail s q v) := by
  unfold Dev.snapTail
  repeat' first
    | with_reducible assumption | with_reducible apply Kept.modRun | with_reducible apply Kept.badIndex
    | with_reducible refine Kept.ite ?_ ?_ | intro _ | split

theorem Kept.snapHead {d : Dev} {s : Nat} {v : BitVec 32} (hk : Kept d) : Kept (d.snapHead s v) := by
  unfold Dev.snapHead
  repeat' first
    | with_reducible assumption | with_reducible apply Kept.modRun | with_reducible apply Kept.badIndex
    | with_reducible refine Kept.ite ?_ ?_ | intro _ | split

theorem Kept.wakeHome {d : Dev} {s : Nat} (hk : Kept d) : Kept (d.wakeHome s) := by
  unfold Dev.wakeHome
  repeat' first
    | with_reducible assumption | with_reducible apply Kept.modRidge | with_reducible refine Kept.ite ?_ ?_
    | exact fun x (hx : ridgeKept x) => hx | (refine fun x (hx : ridgeKept x) => ?_; split <;> exact hx)

theorem Kept.portalIndex {d : Dev} {l : Lk} {s which : Nat} {v : BitVec 32} (hk : Kept d) : Kept (d.portalIndex l s which v) :=
    by
  unfold Dev.portalIndex
  repeat' first
    | with_reducible assumption | with_reducible apply Kept.modRun | with_reducible apply Kept.portalDrop
    | with_reducible apply Kept.tailWrite | with_reducible apply Kept.cqHead | with_reducible apply Kept.snapTail
    | with_reducible apply Kept.snapHead | with_reducible apply Kept.wakeHome | with_reducible refine Kept.ite ?_ ?_

theorem Kept.portalWrite {d : Dev} {l : Lk} {s which size : Nat} {v : W64} (hk : Kept d) : Kept (d.portalWrite l s which size
    v) := by
  unfold Dev.portalWrite
  repeat' first
    | with_reducible assumption | with_reducible apply Kept.portalDrop | with_reducible apply Kept.portalIndex
    | with_reducible refine Kept.ite ?_ ?_

theorem Kept.invalidate {d : Dev} {s : Nat} {mask : W64} (hk : Kept d) : Kept (d.invalidate s mask) := by
  unfold Dev.invalidate
  repeat' first
    | with_reducible assumption | with_reducible apply Kept.modQueue | with_reducible apply Kept.fetch
    | with_reducible apply Kept.foldl | with_reducible refine Kept.ite ?_ ?_ | intro _

theorem Kept.useKey {d : Dev} {s : Nat} {r : KeyRef} (hk : Kept d) : Kept (d.useKey s r) := by
  unfold Dev.useKey
  repeat' first
    | with_reducible assumption | with_reducible apply Kept.modRidges | with_reducible apply Kept.modEntries
    | with_reducible apply Kept.touchCache | with_reducible apply Kept.countKeys | with_reducible refine Kept.ite ?_ ?_
    | exact fun x (hx : ridgeKept x) => hx
    | exact fun x (hx : ridgeKept x) => ⟨by first | exact hx.1 | rfl | (dsimp only; repeat' first | exact hx.1 | apply memWf_memZero | apply memWf_memPut | split), by simp [hx.2.1], by simp [hx.2.2.1], by first | exact hx.2.2.2 | exact Shadowed.agrees_of _ | rfl | simp [hx.2.2.2]⟩
    | intro _ | split

theorem Kept.markDestroyed {d : Dev} {s : Nat} {r : KeyRef} (hk : Kept d) : Kept (d.markDestroyed s r) := by
  unfold Dev.markDestroyed
  repeat' first
    | with_reducible assumption | with_reducible apply Kept.modRidges | with_reducible apply Kept.modEntries
    | with_reducible apply Kept.countKeys | with_reducible refine Kept.ite ?_ ?_ | exact fun x (hx : ridgeKept x) => hx
    | exact fun x (hx : ridgeKept x) => ⟨by first | exact hx.1 | rfl | (dsimp only; repeat' first | exact hx.1 | apply memWf_memZero | apply memWf_memPut | split), by simp [hx.2.1], by simp [hx.2.2.1], by first | exact hx.2.2.2 | exact Shadowed.agrees_of _ | rfl | simp [hx.2.2.2]⟩
    | intro _ | split

theorem Kept.reserve {d : Dev} {n s : Nat} {creates : Bool} {room : Nat} (hk : Kept d) : Kept (d.reserve n s creates room) := by
  unfold Dev.reserve
  repeat' first
    | with_reducible assumption | with_reducible apply Kept.modJob | with_reducible apply Kept.checkFull
    | with_reducible apply Kept.countKeys | with_reducible apply Kept.foldl | with_reducible refine Kept.ite ?_ ?_ | intro _

theorem Kept.load {d : Dev} {j : JobRec} {x : Desc} {p : Passed} (hk : Kept d) : Kept (d.load j x p) := by
  unfold Dev.load
  repeat' first
    | with_reducible assumption | with_reducible apply Kept.modJob | with_reducible apply Kept.useKey
    | with_reducible apply Kept.markDestroyed | with_reducible apply Kept.reserve | with_reducible apply Kept.foldl
    | with_reducible refine Kept.ite ?_ ?_ | intro _

theorem Kept.lateStage {d : Dev} {n : Nat} (hk : Kept d) : Kept (d.lateStage n) := by
  unfold Dev.lateStage
  repeat' first
    | with_reducible assumption | with_reducible apply Kept.finish | with_reducible apply Kept.rollback
    | with_reducible apply Kept.reserve | with_reducible refine Kept.ite ?_ ?_ | intro _ | split

theorem Kept.place {d : Dev} {n : Nat} (hk : Kept d) : Kept (d.place n) := by
  unfold Dev.place
  repeat' first
    | with_reducible assumption | with_reducible apply Kept.modJob | with_reducible apply Kept.assign
    | with_reducible refine Kept.ite ?_ ?_ | intro _ | split

theorem Kept.givePart {d : Dev} {n : Nat} {cs : List EClass} (hk : Kept d) : Kept (d.givePart n cs) := by
  unfold Dev.givePart
  repeat' first
    | with_reducible assumption | with_reducible apply Kept.modJob | with_reducible apply Kept.assign
    | with_reducible refine Kept.ite ?_ ?_ | intro _ | split

theorem Kept.endPart {d : Dev} {n : Nat} (hk : Kept d) : Kept (d.endPart n) := by
  unfold Dev.endPart
  repeat' first
    | with_reducible assumption | with_reducible apply Kept.modJob | with_reducible apply Kept.release
    | with_reducible apply Kept.foldl | with_reducible refine Kept.ite ?_ ?_ | intro _ | split

theorem Kept.runParts {d : Dev} {n : Nat} {cs : List EClass} {k : Nat} (hk : Kept d) : Kept (d.runParts n cs k) := by
  induction k generalizing d cs with
  | zero => exact hk
  | succ k ih =>
    unfold Dev.runParts
    repeat' first
      | with_reducible assumption | with_reducible apply ih | with_reducible apply Kept.givePart
      | with_reducible apply Kept.endPart | with_reducible refine Kept.ite ?_ ?_

theorem Kept.rePlace {d : Dev} {n : Nat} (hk : Kept d) : Kept (d.rePlace n) := by
  unfold Dev.rePlace
  repeat' first
    | with_reducible assumption | with_reducible apply Kept.finish | with_reducible apply Kept.rollback
    | with_reducible apply Kept.place | with_reducible refine Kept.ite ?_ ?_ | intro _ | split

theorem Kept.queueDeep {d : Dev} {n : Nat} (hk : Kept d) : Kept (d.queueDeep n) := by
  unfold Dev.queueDeep
  repeat' first
    | with_reducible assumption | with_reducible apply Kept.modRidge | with_reducible apply Kept.modJob
    | with_reducible refine Kept.ite ?_ ?_ | exact fun x (hx : ridgeKept x) => hx
    | exact fun x (hx : ridgeKept x) => ⟨by first | exact hx.1 | rfl | (dsimp only; repeat' first | exact hx.1 | apply memWf_memZero | apply memWf_memPut | split), by simp [hx.2.1], by simp [hx.2.2.1], by first | exact hx.2.2.2 | exact Shadowed.agrees_of _ | rfl | simp [hx.2.2.2]⟩
    | intro _ | split

theorem Kept.placeProgram {d : Dev} {n : Nat} (hk : Kept d) : Kept (d.placeProgram n) := by
  unfold Dev.placeProgram
  repeat' first
    | with_reducible assumption | with_reducible apply Kept.modJob | with_reducible apply Kept.modEngine
    | with_reducible refine Kept.ite ?_ ?_ | intro _ | split

theorem Kept.dispatch {d : Dev} {s q : Nat} {f : Fetched} {p : Passed} (hk : Kept d) : Kept (d.dispatch s q f p) := by
  unfold Dev.dispatch
  repeat' first
    | with_reducible assumption | with_reducible apply Kept.modRun | with_reducible apply Kept.load
    | with_reducible apply Kept.place | with_reducible apply Kept.queueDeep | with_reducible apply Kept.placeProgram
    | with_reducible refine Kept.ite ?_ ?_ | intro _ | split | dsimp only | with_reducible apply Kept.parts
    | simp only [Kept.mk]

theorem Kept.modArb {d : Dev} {r : Nat} {f : Arb → Arb} (hk : Kept d) : Kept (d.modArb r f) := by
  unfold Dev.modArb
  repeat' first
    | with_reducible assumption | with_reducible apply Kept.modRidge | with_reducible refine Kept.ite ?_ ?_
    | exact fun x (hx : ridgeKept x) => hx

theorem Kept.grant {d : Dev} {r s q : Nat} (hk : Kept d) : Kept (d.grant r s q) := by
  unfold Dev.grant
  repeat' first
    | with_reducible assumption | with_reducible apply Kept.modQueue | with_reducible apply Kept.retire
    | with_reducible apply Kept.fetchSeam | with_reducible apply Kept.dispatch | with_reducible apply Kept.modArb
    | with_reducible refine Kept.ite ?_ ?_ | intro _ | split

theorem Kept.capCredits {d : Dev} {ss : List Nat} (hk : Kept d) : Kept (d.capCredits ss) := by
  unfold Dev.capCredits
  repeat' first
    | with_reducible assumption | with_reducible apply Kept.modSeam | with_reducible apply Kept.foldl
    | with_reducible refine Kept.ite ?_ ?_ | exact fun x (hx : entryKept x.entry) => hx
    | exact fun x (hx : entryKept x.entry) => ⟨by first | exact hx.1 | exact Shadowed.agrees_of _ | rfl, by first | exact hx.2.1 | exact Shadowed.agrees_of _ | rfl, by first | exact hx.2.2.1 | exact Shadowed.agrees_of _, by first | exact hx.2.2.2 | exact Shadowed.agrees_of _ | simp [SeamEntry.blank, Shadowed.agrees_of]⟩
    | intro _

theorem Kept.decideGrant {d : Dev} {r : Nat} (hk : Kept d) : Kept (d.decideGrant r) := by
  unfold Dev.decideGrant
  repeat' first
    | with_reducible assumption | with_reducible apply Kept.modSeam | with_reducible apply Kept.modRun
    | with_reducible apply Kept.modArb | with_reducible apply Kept.grant | with_reducible apply Kept.capCredits
    | with_reducible apply Kept.foldl | with_reducible refine Kept.ite ?_ ?_ | exact fun x (hx : entryKept x.entry) => hx
    | exact fun x (hx : entryKept x.entry) => ⟨by first | exact hx.1 | exact Shadowed.agrees_of _ | rfl, by first | exact hx.2.1 | exact Shadowed.agrees_of _ | rfl, by first | exact hx.2.2.1 | exact Shadowed.agrees_of _, by first | exact hx.2.2.2 | exact Shadowed.agrees_of _ | simp [SeamEntry.blank, Shadowed.agrees_of]⟩
    | intro _ | split | dsimp only

theorem Kept.placeWaiting {d : Dev} {r : Nat} (hk : Kept d) : Kept (d.placeWaiting r) := by
  unfold Dev.placeWaiting
  repeat' first
    | with_reducible assumption | with_reducible apply Kept.givePart | with_reducible apply Kept.rePlace
    | with_reducible apply Kept.foldl | with_reducible refine Kept.ite ?_ ?_ | intro _

theorem Kept.grantDecision {d : Dev} {r : Nat} (hk : Kept d) : Kept (d.grantDecision r) := by
  unfold Dev.grantDecision
  repeat' first
    | with_reducible assumption | with_reducible apply Kept.requestWake | with_reducible apply Kept.modArb
    | with_reducible apply Kept.decideGrant | with_reducible apply Kept.placeWaiting | with_reducible refine Kept.ite ?_ ?_
    | intro _ | split

end Sys2Proof
end

