-- ==== Sys2Proof/Laws/KeptModes.lean ====
section
/-! SUPPORT. Every shared operation keeps `Kept`: mode changes, tamper responses, resets, links and ridges. -/

namespace Sys2Proof

-- one proof at a time: many proofs at once ask for too many threads
set_option Elab.async false

open Machine

theorem Kept.setOrder {d : Dev} {n : Nat} {st : OrderState} (hk : Kept d) : Kept (d.setOrder n st) := by
  unfold Dev.setOrder
  repeat' first | with_reducible assumption | with_reducible apply Kept.modQuorum | with_reducible apply Kept.pkgEvent

theorem Kept.lapse {d : Dev} {p : Order → Bool} (hk : Kept d) : Kept (d.lapse p) := by
  unfold Dev.lapse
  repeat' first
    | with_reducible assumption | with_reducible apply Kept.setOrder | with_reducible apply Kept.foldl
    | with_reducible refine Kept.ite ?_ ?_ | intro _

theorem Kept.closeExtest {d : Dev} (hk : Kept d) : Kept (d.closeExtest) := by
  unfold Dev.closeExtest
  repeat' first | with_reducible assumption | with_reducible apply Kept.modAccess | with_reducible refine Kept.ite ?_ ?_

theorem Kept.closePermit {d : Dev} (hk : Kept d) : Kept (d.closePermit) := by
  unfold Dev.closePermit
  repeat' first | with_reducible assumption | with_reducible apply Kept.modQuorum

theorem Kept.propose {d : Dev} {m : Mode} {prior : BitVec 3} {exported : Bool} (hk : Kept d) : Kept (d.propose m prior
    exported) := by
  unfold Dev.propose
  repeat' first | with_reducible assumption | with_reducible apply Kept.modVigil

theorem Kept.copyRecord {d : Dev} (hk : Kept d) : Kept (d.copyRecord) := by
  unfold Dev.copyRecord
  repeat' first
    | with_reducible assumption | with_reducible refine Kept.ite ?_ ?_ | intro _ | split | dsimp only
    | with_reducible apply Kept.parts | simp only [Kept.mk]

theorem Kept.commitRecord {d : Dev} (hk : Kept d) : Kept (d.commitRecord) := by
  unfold Dev.commitRecord
  repeat' first | with_reducible assumption | with_reducible apply Kept.modVigil

theorem Kept.showMode {d : Dev} {m : Mode} {prior : BitVec 3} {exported : Bool} (hk : Kept d) : Kept (d.showMode m prior
    exported) := by
  exact ⟨hk.1, hk.2.1, ⟨Shadowed.agrees_of _, Shadowed.agrees_of _, hk.2.2.1.2.2⟩, hk.2.2.2⟩

theorem Kept.changeMode {d : Dev} {m : Mode} {prior : BitVec 3} {exported : Bool} (hk : Kept d) : Kept (d.changeMode m prior
    exported) := by
  unfold Dev.changeMode
  repeat' first
    | with_reducible assumption | with_reducible apply Kept.pkgEvent | with_reducible apply Kept.release
    | with_reducible apply Kept.lapse | with_reducible apply Kept.closeExtest | with_reducible apply Kept.closePermit
    | with_reducible apply Kept.propose | with_reducible apply Kept.copyRecord | with_reducible apply Kept.commitRecord
    | with_reducible apply Kept.showMode | with_reducible refine Kept.ite ?_ ?_

theorem Kept.defaultTamp {d : Dev} (hk : Kept d) : Kept (d.defaultTamp) := by
  refine Kept.modPower (Kept.modTamp hk fun _ hx => ⟨hx.1, hx.2.1, Shadowed.agrees_of _, Shadowed.agrees_of _, hx.2.2.2.2.1, ?_⟩)
  exact ⟨Shadowed.agrees_of _, Shadowed.agrees_of _, Shadowed.agrees_of _, Shadowed.agrees_of _⟩

theorem Kept.eraseVsalt {d : Dev} (hk : Kept d) : Kept (d.eraseVsalt) := by
  unfold Dev.eraseVsalt
  repeat' first
    | with_reducible assumption | with_reducible apply Kept.modVigil | with_reducible apply Kept.modRidges
    | with_reducible refine Kept.ite ?_ ?_ | exact fun x (hx : ridgeKept x) => hx
    | exact fun x (hx : ridgeKept x) => ⟨by first | exact hx.1 | rfl | (dsimp only; repeat' first | exact hx.1 | apply memWf_memZero | apply memWf_memPut | split), by simp [hx.2.1], by simp [hx.2.2.1], by first | exact hx.2.2.2 | exact Shadowed.agrees_of _ | rfl | simp [hx.2.2.2]⟩
    | intro _ | split | dsimp only | with_reducible apply Kept.parts | simp only [Kept.mk]

theorem Kept.discardSettings {d : Dev} (hk : Kept d) : Kept (d.discardSettings) := by
  unfold Dev.discardSettings
  repeat' first
    | with_reducible assumption | with_reducible apply Kept.modFw | with_reducible apply Kept.defaultTamp
    | with_reducible refine Kept.ite ?_ ?_ | intro _ | split | dsimp only | with_reducible apply Kept.parts
    | simp only [Kept.mk]

theorem Kept.discardCommission {d : Dev} (hk : Kept d) : Kept (d.discardCommission) := by
  unfold Dev.discardCommission
  repeat' first
    | with_reducible assumption | with_reducible apply Kept.eraseEntries | with_reducible apply Kept.eraseVsalt
    | with_reducible apply Kept.discardSettings

theorem Machine.Ridge.firedamp_kept {x : Ridge} (hx : ridgeKept x) : ridgeKept x.firedamp :=
  ⟨memWf_memZero hx.1 _ _, by simp [Ridge.firedamp, Ridge.wipeDeep, hx.2.1], hx.2.2⟩

theorem Kept.firedampWipe {d : Dev} (hk : Kept d) : Kept (d.firedampWipe) :=
  Kept.modRidges (f := Ridge.firedamp) hk fun _ hx => Ridge.firedamp_kept hx

theorem Kept.stopWaiting {d : Dev} (hk : Kept d) : Kept (d.stopWaiting) := by
  unfold Dev.stopWaiting
  repeat' first
    | with_reducible assumption | with_reducible apply Kept.modMq | with_reducible apply Kept.modRidges
    | with_reducible apply Kept.modSeams | with_reducible refine Kept.ite ?_ ?_ | exact fun x (hx : ridgeKept x) => hx
    | (refine fun x (hx : ridgeKept x) => ?_; split <;> exact hx)
    | exact fun x (hx : ridgeKept x) => ⟨by first | exact hx.1 | rfl | (dsimp only; repeat' first | exact hx.1 | apply memWf_memZero | apply memWf_memPut | split), by simp [hx.2.1], by simp [hx.2.2.1], by first | exact hx.2.2.2 | exact Shadowed.agrees_of _ | rfl | simp [hx.2.2.2]⟩
    | exact fun n x (hx : entryKept x.entry) => hx

theorem Kept.abortCmds {d : Dev} {status : BitVec 16} {spared : List Nat} (hk : Kept d) : Kept (d.abortCmds status spared) := by
  unfold Dev.abortCmds
  repeat' first
    | with_reducible assumption | with_reducible apply Kept.mqComplete | with_reducible apply Kept.stopWaiting
    | with_reducible apply Kept.foldl | with_reducible refine Kept.ite ?_ ?_ | intro _

theorem Kept.markSource {d : Dev} {id : Nat} (hk : Kept d) : Kept (d.markSource id) := by
  unfold Dev.markSource
  repeat' first
    | with_reducible assumption | with_reducible apply Kept.modTamp | with_reducible apply Kept.modRidge
    | with_reducible refine Kept.ite ?_ ?_ | exact fun x (hx : ridgeKept x) => hx
    | exact fun x (hx : ridgeKept x) => ⟨by first | exact hx.1 | rfl | (dsimp only; repeat' first | exact hx.1 | apply memWf_memZero | apply memWf_memPut | split), by simp [hx.2.1], by simp [hx.2.2.1], by first | exact hx.2.2.2 | exact Shadowed.agrees_of _ | rfl | simp [hx.2.2.2]⟩
    | exact fun _ hx => hx

theorem Kept.markSupply {d : Dev} {id : Nat} {ok : Bool} (hk : Kept d) : Kept (d.markSupply id ok) := by
  unfold Dev.markSupply
  repeat' first | with_reducible assumption | with_reducible apply Kept.modVigil

theorem Kept.clearSource {d : Dev} {id : Nat} (hk : Kept d) : Kept (d.clearSource id) := by
  unfold Dev.clearSource
  repeat' first
    | with_reducible assumption | with_reducible apply Kept.modTamp | with_reducible apply Kept.modRidge
    | with_reducible apply Kept.markSupply | with_reducible refine Kept.ite ?_ ?_ | exact fun x (hx : ridgeKept x) => hx
    | exact fun x (hx : ridgeKept x) => ⟨by first | exact hx.1 | rfl | (dsimp only; repeat' first | exact hx.1 | apply memWf_memZero | apply memWf_memPut | split), by simp [hx.2.1], by simp [hx.2.2.1], by first | exact hx.2.2.2 | exact Shadowed.agrees_of _ | rfl | simp [hx.2.2.2]⟩
    | exact fun _ hx => hx

theorem Kept.driveOut {d : Dev} (hk : Kept d) : Kept (d.driveOut) := by
  unfold Dev.driveOut
  repeat' first | with_reducible assumption | with_reducible apply Kept.modPins

theorem Kept.refuseWaiting {d : Dev} {spared : List Nat} (hk : Kept d) : Kept (d.refuseWaiting spared) := by
  unfold Dev.refuseWaiting
  repeat' first
    | with_reducible assumption | with_reducible apply Kept.mqComplete | with_reducible apply Kept.foldl
    | with_reducible refine Kept.ite ?_ ?_ | intro _

theorem Kept.cut {d : Dev} {status : BitVec 16} {hold : Bool} {spared : List Nat} (hk : Kept d) : Kept (d.cut status hold
    spared) := by
  unfold Dev.cut
  repeat' first
    | with_reducible assumption | with_reducible apply Kept.stamp | with_reducible apply Kept.abortJobs
    | with_reducible apply Kept.abortCmds | with_reducible apply Kept.refuseWaiting

theorem Kept.wakeAll {d : Dev} (hk : Kept d) : Kept (d.wakeAll) := by
  unfold Dev.wakeAll
  repeat' first
    | with_reducible assumption | with_reducible apply Kept.modRidges | with_reducible refine Kept.ite ?_ ?_
    | exact fun x (hx : ridgeKept x) => hx | (refine fun x (hx : ridgeKept x) => ?_; split <;> exact hx)

theorem Kept.respondL {d : Dev} {spared : List Nat} (hk : Kept d) : Kept (d.respondL spared) := by
  unfold Dev.respondL
  repeat' first
    | with_reducible assumption | with_reducible apply Kept.changeMode | with_reducible apply Kept.discardCommission
    | with_reducible apply Kept.driveOut | with_reducible apply Kept.cut | with_reducible apply Kept.service
    | with_reducible apply Kept.commission | with_reducible refine Kept.ite ?_ ?_ | intro _ | split

theorem Kept.respondZ {d : Dev} {spared : List Nat} (hk : Kept d) : Kept (d.respondZ spared) := by
  unfold Dev.respondZ
  repeat' first
    | with_reducible assumption | with_reducible apply Kept.modPins | with_reducible apply Kept.changeMode
    | with_reducible apply Kept.eraseVsalt | with_reducible apply Kept.firedampWipe | with_reducible apply Kept.driveOut
    | with_reducible apply Kept.cut | with_reducible apply Kept.wakeAll | with_reducible refine Kept.ite ?_ ?_ | intro _ | split
    | dsimp only

theorem Kept.respond {d : Dev} {cls : BitVec 2} {spared : List Nat} (hk : Kept d) : Kept (d.respond cls spared) := by
  unfold Dev.respond
  repeat' first
    | with_reducible assumption | with_reducible apply Kept.respondL | with_reducible apply Kept.respondZ
    | with_reducible refine Kept.ite ?_ ?_

theorem Kept.recordSource {d : Dev} {h : TamperHit} {cls : BitVec 2} (hk : Kept d) : Kept (d.recordSource h cls) := by
  unfold Dev.recordSource
  repeat' first
    | with_reducible assumption | with_reducible apply Kept.modTamp | with_reducible apply Kept.raise
    | with_reducible apply Kept.markSource | with_reducible apply Kept.markSupply | with_reducible refine Kept.ite ?_ ?_
    | exact fun _ hx => hx

theorem Kept.tamper {d : Dev} {hs : List TamperHit} {orders : List Nat} (hk : Kept d) : Kept (d.tamper hs orders) := by
  unfold Dev.tamper
  repeat' first
    | with_reducible assumption | with_reducible apply Kept.modPins | with_reducible apply Kept.stampTamper
    | with_reducible apply Kept.respond | with_reducible apply Kept.recordSource | with_reducible apply Kept.foldl
    | with_reducible refine Kept.ite ?_ ?_ | intro _

theorem Kept.mismatch {d : Dev} {r : Nat} (hk : Kept d) : Kept (d.mismatch r) := by
  unfold Dev.mismatch
  repeat' first | with_reducible assumption | with_reducible apply Kept.tamper

theorem Kept.injection {d : Dev} {r : Nat} {blk : BitVec 16} (hk : Kept d) : Kept (d.injection r blk) := by
  unfold Dev.injection
  repeat' first | with_reducible assumption | with_reducible apply Kept.tamper

theorem Kept.vigilEvent {d : Dev} {id : Nat} (hk : Kept d) : Kept (d.vigilEvent id) := by
  unfold Dev.vigilEvent
  repeat' first
    | with_reducible assumption | with_reducible apply Kept.modTamp | with_reducible apply Kept.modPins
    | with_reducible apply Kept.modVigil | with_reducible apply Kept.eraseVsalt | with_reducible apply Kept.markSource
    | with_reducible apply Kept.markSupply | with_reducible apply Kept.driveOut | with_reducible refine Kept.ite ?_ ?_
    | exact fun _ hx => hx

theorem Kept.cellsLost {d : Dev} (hk : Kept d) : Kept (d.cellsLost) := by
  unfold Dev.cellsLost
  repeat' first
    | with_reducible assumption | with_reducible apply Kept.modTamp | with_reducible apply Kept.modPins
    | with_reducible apply Kept.modVigil | with_reducible apply Kept.eraseVsalt | with_reducible apply Kept.markSource
    | with_reducible apply Kept.markSupply | with_reducible refine Kept.ite ?_ ?_ | exact fun _ hx => hx

theorem Kept.sampleWindow {d : Dev} {present : List Nat} (hk : Kept d) : Kept (d.sampleWindow present) := by
  unfold Dev.sampleWindow
  repeat' first
    | with_reducible assumption | with_reducible apply Kept.clearSource | with_reducible apply Kept.vigilEvent
    | with_reducible apply Kept.foldl | with_reducible refine Kept.ite ?_ ?_

theorem Kept.forgetWrites {d : Dev} {s : Nat} (hk : Kept d) : Kept (d.forgetWrites s) := by
  unfold Dev.forgetWrites
  repeat' first
    | with_reducible assumption | with_reducible apply Kept.modLink | with_reducible apply Kept.foldl
    | with_reducible refine Kept.ite ?_ ?_ | intro _

theorem Kept.stopProgram {d : Dev} {n : Nat} (hk : Kept d) : Kept (d.stopProgram n) := by
  unfold Dev.stopProgram
  repeat' first
    | with_reducible assumption | with_reducible apply Kept.modProgram | with_reducible apply Kept.closeProgram
    | with_reducible refine Kept.ite ?_ ?_ | intro _ | split

theorem Kept.resetCut {d : Dev} {s : Nat} (hk : Kept d) : Kept (d.resetCut s) := by
  unfold Dev.resetCut
  repeat' first
    | with_reducible assumption | with_reducible apply Kept.stamp | with_reducible apply Kept.modRun
    | with_reducible apply Kept.modEntry | with_reducible apply Kept.modJob | with_reducible apply Kept.discard
    | with_reducible apply Kept.freeWindow | with_reducible apply Kept.finish | with_reducible apply Kept.forgetWrites
    | with_reducible apply Kept.stopProgram | with_reducible apply Kept.foldl | with_reducible refine Kept.ite ?_ ?_
    | exact fun x (hx : entryKept x) => hx
    | exact fun x (hx : entryKept x) => ⟨by simp [hx.1, Shadowed.agrees_of], by simp [hx.2.1, Shadowed.agrees_of], by simp [hx.2.2.1, Shadowed.agrees_of], by simp [hx.2.2.2, Shadowed.agrees_of]⟩
    | intro _

theorem Kept.holdWrite {d : Dev} {s : Nat} {w : HostWrite} (hk : Kept d) : Kept (d.holdWrite s w) := by
  unfold Dev.holdWrite
  repeat' first | with_reducible assumption | with_reducible apply Kept.modRun

theorem Kept.writeWithheld {d : Dev} {s : Nat} {w : HostWrite} (hk : Kept d) : Kept (d.writeWithheld s w) := by
  unfold Dev.writeWithheld
  repeat' first
    | with_reducible assumption | with_reducible apply Kept.seamFault | with_reducible apply Kept.discard
    | with_reducible apply Kept.finish | with_reducible apply Kept.rollback | with_reducible refine Kept.ite ?_ ?_ | intro _
    | split

theorem Kept.reissue {d : Dev} {l : Lk} (hk : Kept d) : Kept (d.reissue l) := by
  unfold Dev.reissue
  repeat' first
    | with_reducible assumption | with_reducible apply Kept.modLink | with_reducible apply Kept.send
    | with_reducible apply Kept.holdWrite | with_reducible apply Kept.writeWithheld | with_reducible apply Kept.foldl
    | with_reducible refine Kept.ite ?_ ?_ | intro _ | split

theorem Kept.loseReads {d : Dev} {j : JobRec} (hk : Kept d) : Kept (d.loseReads j) := by
  unfold Dev.loseReads
  repeat' first
    | with_reducible assumption | with_reducible apply Kept.modJob | with_reducible refine Kept.ite ?_ ?_ | intro _ | split
    | dsimp only

theorem Kept.endIfFailed {d : Dev} {j : JobRec} (hk : Kept d) : Kept (d.endIfFailed j) := by
  unfold Dev.endIfFailed
  repeat' first
    | with_reducible assumption | with_reducible apply Kept.finish | with_reducible apply Kept.rollback
    | with_reducible refine Kept.ite ?_ ?_ | intro _ | split

theorem Kept.endFailed {d : Dev} (hk : Kept d) : Kept (d.endFailed) := by
  unfold Dev.endFailed
  repeat' first | with_reducible assumption | with_reducible apply Kept.endIfFailed | with_reducible apply Kept.foldl

theorem Kept.loseRing {d : Dev} {s : Nat} (hk : Kept d) : Kept (d.loseRing s) := by
  unfold Dev.loseRing
  repeat' first
    | with_reducible assumption | with_reducible apply Kept.modQueue | with_reducible apply Kept.queueFault
    | with_reducible apply Kept.finish | with_reducible apply Kept.foldl | with_reducible refine Kept.ite ?_ ?_ | intro _
    | split

theorem Kept.dropLone {d : Dev} {s : Nat} {ws : List HostWrite} (hk : Kept d) : Kept (d.dropLone s ws) := by
  unfold Dev.dropLone
  repeat' first | with_reducible assumption | with_reducible apply Kept.discard

theorem Kept.mqLinkLost {d : Dev} {l : Lk} (hk : Kept d) : Kept (d.mqLinkLost l) := by
  unfold Dev.mqLinkLost
  repeat' first
    | with_reducible assumption | with_reducible apply Kept.modMq | with_reducible apply Kept.mqFault
    | with_reducible apply Kept.mqComplete | with_reducible apply Kept.foldl | with_reducible refine Kept.ite ?_ ?_ | intro _

theorem Kept.linkLoss {d : Dev} {l : Lk} {cause : Nat} (hk : Kept d) : Kept (d.linkLoss l cause) := by
  unfold Dev.linkLoss
  repeat' first
    | with_reducible assumption | with_reducible apply Kept.modLink | with_reducible apply Kept.raise
    | with_reducible apply Kept.seamFault | with_reducible apply Kept.reissue | with_reducible apply Kept.loseReads
    | with_reducible apply Kept.endFailed | with_reducible apply Kept.loseRing | with_reducible apply Kept.dropLone
    | with_reducible apply Kept.mqLinkLost | with_reducible apply Kept.foldl | with_reducible refine Kept.ite ?_ ?_ | intro _

theorem Kept.releaseHeld {d : Dev} {s : Nat} (hk : Kept d) : Kept (d.releaseHeld s) := by
  unfold Dev.releaseHeld
  repeat' first
    | with_reducible assumption | with_reducible apply Kept.modRun | with_reducible apply Kept.send
    | with_reducible apply Kept.discard | with_reducible apply Kept.writeWithheld | with_reducible apply Kept.foldl
    | with_reducible refine Kept.ite ?_ ?_ | intro _ | split

theorem Kept.linkServes {d : Dev} {l : Lk} (hk : Kept d) : Kept (d.linkServes l) := by
  unfold Dev.linkServes
  repeat' first
    | with_reducible assumption | with_reducible apply Kept.fetchSeam | with_reducible apply Kept.releaseHeld
    | with_reducible apply Kept.foldl | with_reducible refine Kept.ite ?_ ?_ | intro _

theorem Kept.linkRises {d : Dev} {l : Lk} {width speed : Nat} (hk : Kept d) : Kept (d.linkRises l width speed) := by
  unfold Dev.linkRises
  repeat' first
    | with_reducible assumption | with_reducible apply Kept.modLink | with_reducible apply Kept.raise
    | with_reducible apply Kept.unmask | with_reducible apply Kept.govern | with_reducible apply Kept.linkServes

theorem Kept.bmeOff {d : Dev} {l : Lk} (hk : Kept d) : Kept (d.bmeOff l) := by
  unfold Dev.bmeOff
  repeat' first
    | with_reducible assumption | with_reducible apply Kept.modLink | with_reducible apply Kept.raise
    | with_reducible apply Kept.reissue | with_reducible apply Kept.loseReads | with_reducible apply Kept.endFailed
    | with_reducible apply Kept.loseRing | with_reducible apply Kept.foldl | with_reducible refine Kept.ite ?_ ?_

theorem Kept.unmirror {d : Dev} {s : Nat} (hk : Kept d) : Kept (d.unmirror s) := by
  unfold Dev.unmirror
  repeat' first
    | with_reducible assumption | with_reducible apply Kept.modRun | with_reducible apply Kept.modEntry
    | with_reducible apply Kept.ridgeEvent | with_reducible refine Kept.ite ?_ ?_ | exact fun x (hx : entryKept x) => hx
    | exact fun x (hx : entryKept x) => ⟨by simp [hx.1, Shadowed.agrees_of], by simp [hx.2.1, Shadowed.agrees_of], by simp [hx.2.2.1, Shadowed.agrees_of], by simp [hx.2.2.2, Shadowed.agrees_of]⟩

theorem Kept.copyDone {d : Dev} {s : Nat} (hk : Kept d) : Kept (d.copyDone s) := by
  unfold Dev.copyDone
  repeat' first
    | with_reducible assumption | with_reducible apply Kept.modRidge | with_reducible apply Kept.modRun
    | with_reducible apply Kept.modEntry | with_reducible apply Kept.ridgeEvent | with_reducible apply Kept.checkFull
    | with_reducible apply Kept.unmirror | with_reducible refine Kept.ite ?_ ?_ | exact fun x (hx : ridgeKept x) => hx
    | exact fun x (hx : ridgeKept x) => ⟨by first | exact hx.1 | rfl | (dsimp only; repeat' first | exact hx.1 | apply memWf_memZero | apply memWf_memPut | split), by simp [hx.2.1], by simp [hx.2.2.1], by first | exact hx.2.2.2 | exact Shadowed.agrees_of _ | rfl | simp [hx.2.2.2]⟩
    | exact fun x (hx : entryKept x) => hx
    | exact fun x (hx : entryKept x) => ⟨by simp [hx.1, Shadowed.agrees_of], by simp [hx.2.1, Shadowed.agrees_of], by simp [hx.2.2.1, Shadowed.agrees_of], by simp [hx.2.2.2, Shadowed.agrees_of]⟩
    | intro _ | split

theorem Kept.sweep {d : Dev} {n : Nat} (hk : Kept d) : Kept (d.sweep n) := by
  unfold Dev.sweep
  repeat' first
    | with_reducible assumption | with_reducible apply Kept.modRidge | with_reducible apply Kept.modJob
    | with_reducible apply Kept.releaseAll | with_reducible apply Kept.destroyKeys | with_reducible apply Kept.dropJob
    | with_reducible apply Kept.modCore | with_reducible apply Kept.freeArea | with_reducible apply Kept.purgePrograms
    | with_reducible apply Kept.rollback | with_reducible refine Kept.ite ?_ ?_ | exact fun x (hx : ridgeKept x) => hx
    | exact fun x (hx : ridgeKept x) => ⟨by first | exact hx.1 | rfl | (dsimp only; repeat' first | exact hx.1 | apply memWf_memZero | apply memWf_memPut | split), by simp [hx.2.1], by simp [hx.2.2.1], by first | exact hx.2.2.2 | exact Shadowed.agrees_of _ | rfl | simp [hx.2.2.2]⟩
    | intro _ | split

theorem Kept.replay {d : Dev} {n : Nat} (hk : Kept d) : Kept (d.replay n) := by
  unfold Dev.replay
  repeat' first
    | with_reducible assumption | with_reducible apply Kept.modJob | with_reducible apply Kept.place
    | with_reducible apply Kept.queueDeep | with_reducible apply Kept.endIfFailed | with_reducible refine Kept.ite ?_ ?_
    | intro _ | split | dsimp only

theorem Kept.replayOrAbort {d : Dev} {n : Nat} (hk : Kept d) : Kept (d.replayOrAbort n) := by
  unfold Dev.replayOrAbort
  repeat' first
    | with_reducible assumption | with_reducible apply Kept.finish | with_reducible apply Kept.replay
    | with_reducible refine Kept.ite ?_ ?_ | intro _ | split

theorem Kept.loseJobsOn {d : Dev} {r : Nat} (hk : Kept d) : Kept (d.loseJobsOn r) := by
  unfold Dev.loseJobsOn
  repeat' first
    | with_reducible assumption | with_reducible apply Kept.finish | with_reducible apply Kept.rollback
    | with_reducible apply Kept.sweep | with_reducible apply Kept.replayOrAbort | with_reducible apply Kept.foldl
    | with_reducible refine Kept.ite ?_ ?_ | intro _

theorem Kept.takeQueue {d : Dev} {s q : Nat} (hk : Kept d) : Kept (d.takeQueue s q) := by
  unfold Dev.takeQueue
  repeat' first
    | with_reducible assumption | with_reducible apply Kept.modRun | with_reducible apply Kept.modQueue
    | with_reducible apply Kept.dropJob | with_reducible apply Kept.mirrored | with_reducible apply Kept.foldl
    | with_reducible refine Kept.ite ?_ ?_ | intro _

theorem Kept.deliverPortal {d : Dev} {s : Nat} (hk : Kept d) : Kept (d.deliverPortal s) := by
  unfold Dev.deliverPortal
  repeat' first
    | with_reducible assumption | with_reducible apply Kept.modRun | with_reducible apply Kept.tailWrite
    | with_reducible apply Kept.cqHead | with_reducible apply Kept.invalidate | with_reducible apply Kept.foldl
    | with_reducible refine Kept.ite ?_ ?_ | intro _

theorem Kept.takeOver {d : Dev} {s : Nat} (hk : Kept d) : Kept (d.takeOver s) := by
  unfold Dev.takeOver
  repeat' first
    | with_reducible assumption | with_reducible apply Kept.modRun | with_reducible apply Kept.modEntry
    | with_reducible apply Kept.fetchSeam | with_reducible apply Kept.unmirror | with_reducible apply Kept.replayOrAbort
    | with_reducible apply Kept.takeQueue | with_reducible apply Kept.deliverPortal | with_reducible apply Kept.foldl
    | with_reducible refine Kept.ite ?_ ?_ | exact fun x (hx : entryKept x) => hx
    | exact fun x (hx : entryKept x) => ⟨by simp [hx.1, Shadowed.agrees_of], by simp [hx.2.1, Shadowed.agrees_of], by simp [hx.2.2.1, Shadowed.agrees_of], by simp [hx.2.2.2, Shadowed.agrees_of]⟩
    | intro _

theorem Kept.homeGone {d : Dev} {s : Nat} (hk : Kept d) : Kept (d.homeGone s) := by
  unfold Dev.homeGone
  repeat' first
    | with_reducible assumption | with_reducible apply Kept.modRun | with_reducible apply Kept.seamFault
    | with_reducible apply Kept.finish | with_reducible apply Kept.sweep | with_reducible apply Kept.foldl
    | with_reducible refine Kept.ite ?_ ?_ | intro _

theorem Kept.mirrorGone {d : Dev} {s : Nat} (hk : Kept d) : Kept (d.mirrorGone s) := by
  unfold Dev.mirrorGone
  repeat' first
    | with_reducible assumption | with_reducible apply Kept.homeGone | with_reducible apply Kept.modRun
    | with_reducible apply Kept.unmirror | with_reducible refine Kept.ite ?_ ?_ | intro _

theorem Kept.barrierAck {d : Dev} {r : Nat} (hk : Kept d) : Kept (d.barrierAck r) := by
  unfold Dev.barrierAck
  repeat' first
    | with_reducible assumption | with_reducible apply Kept.modMq | with_reducible apply Kept.flushEvents
    | with_reducible apply Kept.markRecord | with_reducible apply Kept.mqComplete | with_reducible refine Kept.ite ?_ ?_
    | intro _ | split

theorem Kept.spineDown {d : Dev} {r : Nat} (hk : Kept d) : Kept (d.spineDown r) := by
  unfold Dev.spineDown
  repeat' first
    | with_reducible assumption | with_reducible apply Kept.modRidge | with_reducible apply Kept.foldl
    | with_reducible refine Kept.ite ?_ ?_ | exact fun x (hx : ridgeKept x) => hx
    | exact fun x (hx : ridgeKept x) => ⟨by first | exact hx.1 | rfl | (dsimp only; repeat' first | exact hx.1 | apply memWf_memZero | apply memWf_memPut | split), by simp [hx.2.1], by simp [hx.2.2.1], by first | exact hx.2.2.2 | exact Shadowed.agrees_of _ | rfl | simp [hx.2.2.2]⟩
    | intro _

theorem Kept.fence {d : Dev} {r : Nat} (hk : Kept d) : Kept (d.fence r) := by
  unfold Dev.fence
  repeat' first
    | with_reducible assumption | with_reducible apply Kept.modRidge | with_reducible apply Kept.spineDown
    | with_reducible refine Kept.ite ?_ ?_ | exact fun x (hx : ridgeKept x) => hx
    | (refine fun x (hx : ridgeKept x) => ?_; split <;> exact hx)
    | exact fun x (hx : ridgeKept x) => ⟨by first | exact hx.1 | rfl | (dsimp only; repeat' first | exact hx.1 | apply memWf_memZero | apply memWf_memPut | split), by simp [hx.2.1], by simp [hx.2.2.1], by first | exact hx.2.2.2 | exact Shadowed.agrees_of _ | rfl | simp [hx.2.2.2]⟩

theorem Kept.loseRidge {d : Dev} {r cause : Nat} (hk : Kept d) : Kept (d.loseRidge r cause) := by
  unfold Dev.loseRidge
  repeat' first
    | with_reducible assumption | with_reducible apply Kept.modMq | with_reducible apply Kept.modPower
    | with_reducible apply Kept.modLog | with_reducible apply Kept.modRidge | with_reducible apply Kept.modRidges
    | with_reducible apply Kept.modRun | with_reducible apply Kept.pkgEvent | with_reducible apply Kept.mqComplete
    | with_reducible apply Kept.linkLoss | with_reducible apply Kept.mirrorGone | with_reducible apply Kept.loseJobsOn
    | with_reducible apply Kept.homeGone | with_reducible apply Kept.barrierAck | with_reducible apply Kept.fence
    | with_reducible apply Kept.foldl | with_reducible refine Kept.ite ?_ ?_ | exact fun x (hx : ridgeKept x) => hx
    | exact fun x (hx : ridgeKept x) => ⟨by first | exact hx.1 | rfl | (dsimp only; repeat' first | exact hx.1 | apply memWf_memZero | apply memWf_memPut | split), by simp [hx.2.1], by simp [hx.2.2.1], by first | exact hx.2.2.2 | exact Shadowed.agrees_of _ | rfl | simp [hx.2.2.2]⟩
    | intro _

end Sys2Proof
end

