-- ==== Sys2Proof/Laws/KeptCores.lean ====
section
/-! SUPPORT. Every shared operation keeps `Kept`: the Deep side, programs and Lamad cores. -/

namespace Sys2Proof

-- one proof at a time: many proofs at once ask for too many threads
set_option Elab.async false

open Machine

theorem Kept.enterDeep {d : Dev} {r c : Nat} {resume : W64} {cause : Nat} (hk : Kept d) : Kept (d.enterDeep r c resume cause)
    := by
  unfold Dev.enterDeep
  repeat' first | with_reducible assumption | with_reducible apply Kept.draw | with_reducible apply Kept.modCore

theorem Kept.leaveDeep {d : Dev} {r c : Nat} {resume : W64} (hk : Kept d) : Kept (d.leaveDeep r c resume) := by
  unfold Dev.leaveDeep
  repeat' first | with_reducible assumption | with_reducible apply Kept.draw | with_reducible apply Kept.modCore

theorem Kept.visitDeep {d : Dev} {r c : Nat} {resume : W64} {cause : Nat} (hk : Kept d) : Kept (d.visitDeep r c resume cause)
    := by
  unfold Dev.visitDeep
  repeat' first | with_reducible assumption | with_reducible apply Kept.enterDeep | with_reducible apply Kept.leaveDeep

theorem Kept.deepTrap {d : Dev} {r c code : Nat} (hk : Kept d) : Kept (d.deepTrap r c code) := by
  unfold Dev.deepTrap
  repeat' first | with_reducible assumption | with_reducible apply Kept.modCore

theorem Kept.takeDue {d : Dev} {r c : Nat} (hk : Kept d) : Kept (d.takeDue r c) := by
  unfold Dev.takeDue
  repeat' first
    | with_reducible assumption | with_reducible apply Kept.modCore | with_reducible apply Kept.enterDeep
    | with_reducible apply Kept.surface | with_reducible refine Kept.ite ?_ ?_ | intro _ | split | dsimp only

theorem Kept.addMLog {d : Dev} {r cause result : Nat} {meas : BitVec 384} (hk : Kept d) : Kept (d.addMLog r cause result meas)
    := by
  unfold Dev.addMLog
  repeat' first
    | with_reducible assumption | with_reducible apply Kept.modWorld | with_reducible refine Kept.ite ?_ ?_
    | exact fun x (hx : x.line.agrees = true) => hx

theorem Machine.Ridge.wipeDeep_kept {x : Ridge} (hx : ridgeKept x) : ridgeKept x.wipeDeep := ⟨memWf_memZero hx.1 _ _, hx.2⟩

theorem Kept.stopDeep {d : Dev} {r : Nat} {but : Option Nat} (hk : Kept d) : Kept (d.stopDeep r but) := by
  unfold Dev.stopDeep
  repeat' first
    | with_reducible assumption | with_reducible apply Kept.modRidge | with_reducible apply Kept.modMq
    | with_reducible apply Kept.modWorld | with_reducible apply Kept.endClaims | with_reducible apply Kept.abortJobs
    | with_reducible apply Kept.abortCmds | with_reducible refine Kept.ite ?_ ?_ | exact fun _ hx => Ridge.wipeDeep_kept hx
    | exact fun x (hx : ridgeKept x) => hx
    | exact fun x (hx : ridgeKept x) => ⟨hx.1, by simp [hx.2.1], by simp [hx.2.2.1], hx.2.2.2⟩
    | exact fun x (hx : x.line.agrees = true) => hx

theorem Kept.deepFault {d : Dev} {r cause : Nat} (hk : Kept d) : Kept (d.deepFault r cause) := by
  unfold Dev.deepFault
  repeat' first
    | with_reducible assumption | with_reducible apply Kept.ridgeEvent | with_reducible apply Kept.modWorld
    | with_reducible apply Kept.loseRidge | with_reducible apply Kept.stopDeep | with_reducible refine Kept.ite ?_ ?_
    | exact fun x (hx : x.line.agrees = true) => hx

theorem Kept.returnCore {d : Dev} {r c : Nat} (hk : Kept d) : Kept (d.returnCore r c) := by
  unfold Dev.returnCore
  repeat' first
    | with_reducible assumption | with_reducible apply Kept.modCore | with_reducible apply Kept.leaveDeep
    | with_reducible apply Kept.surface | with_reducible refine Kept.ite ?_ ?_ | intro _ | split

theorem Kept.resumeDeep {d : Dev} {r : Nat} (hk : Kept d) : Kept (d.resumeDeep r) := by
  unfold Dev.resumeDeep
  repeat' first
    | with_reducible assumption | with_reducible apply Kept.modRidge | with_reducible apply Kept.deliver
    | with_reducible apply Kept.modWorld | with_reducible apply Kept.returnCore | with_reducible apply Kept.foldl
    | with_reducible refine Kept.ite ?_ ?_ | exact fun x (hx : ridgeKept x) => hx
    | (refine fun x (hx : ridgeKept x) => ?_; split <;> exact hx)
    | exact fun x (hx : ridgeKept x) => ⟨by first | exact hx.1 | rfl | (dsimp only; repeat' first | exact hx.1 | apply memWf_memZero | apply memWf_memPut | split), by simp [hx.2.1], by simp [hx.2.2.1], by first | exact hx.2.2.2 | exact Shadowed.agrees_of _ | rfl | simp [hx.2.2.2]⟩
    | exact fun x (hx : x.line.agrees = true) => hx | intro _

theorem Kept.remeasure {d : Dev} {r cause : Nat} {measured : BitVec 384} {signed : Bool} (hk : Kept d) : Kept (d.remeasure r
    cause measured signed) := by
  unfold Dev.remeasure
  repeat' first
    | with_reducible assumption | with_reducible apply Kept.ridgeEvent | with_reducible apply Kept.modWorld
    | with_reducible apply Kept.loseRidge | with_reducible apply Kept.addMLog | with_reducible apply Kept.resumeDeep
    | with_reducible refine Kept.ite ?_ ?_ | exact fun x (hx : x.line.agrees = true) => hx

theorem Kept.restartDone {d : Dev} {r : Nat} {measured : BitVec 384} {signed : Bool} (hk : Kept d) : Kept (d.restartDone r
    measured signed) := by
  unfold Dev.restartDone
  repeat' first | with_reducible assumption | with_reducible apply Kept.remeasure | with_reducible refine Kept.ite ?_ ?_

theorem Kept.moveLine {d : Dev} {r : Nat} {up : Bool} (hk : Kept d) : Kept (d.moveLine r up) := by
  unfold Dev.moveLine
  repeat' first
    | with_reducible assumption | with_reducible apply Kept.modRidge | with_reducible apply Kept.ridgeEvent
    | with_reducible refine Kept.ite ?_ ?_ | dsimp only
    | exact fun x (hx : ridgeKept x) => ⟨memWf_memZero hx.1 _ _, hx.2.1, hx.2.2.1, Shadowed.agrees_of _⟩

theorem Kept.cacheImage {d : Dev} {r s : Nat} {i : Image} {raw : List Byte} (hk : Kept d) : Kept (d.cacheImage r s i raw).1 :=
    by
  unfold Dev.cacheImage
  repeat' first
    | with_reducible assumption | with_reducible apply Kept.modRidge | with_reducible refine Kept.ite ?_ ?_
    | exact fun x (hx : ridgeKept x) => hx | (refine fun x (hx : ridgeKept x) => ?_; split <;> exact hx)
    | exact fun x (hx : ridgeKept x) => ⟨by first | exact hx.1 | rfl | (dsimp only; repeat' first | exact hx.1 | apply memWf_memZero | apply memWf_memPut | split), by simp [hx.2.1], by simp [hx.2.2.1], by first | exact hx.2.2.2 | exact Shadowed.agrees_of _ | rfl | simp [hx.2.2.2]⟩
    | intro _ | split | dsimp only

theorem Kept.touchImage {d : Dev} {r s : Nat} {digest : List Byte} (hk : Kept d) : Kept (d.touchImage r s digest) := by
  unfold Dev.touchImage
  repeat' first
    | with_reducible assumption | with_reducible apply Kept.modRidge | with_reducible refine Kept.ite ?_ ?_
    | exact fun x (hx : ridgeKept x) => hx

theorem Kept.stage {d : Dev} {p : Dev × Nat} {r s need : Nat} (h : d.stage r s need = some p) (hk : Kept d) : Kept p.1 := by
  unfold Dev.stage at h
  split at h
  · split at h
    · cases h; exact hk
    · contradiction
  · obtain ⟨a, _, hx⟩ := Option.map_eq_some_iff.1 h
    rw [← hx]
    exact hk.modRidge fun x hx => hx

theorem Kept.startProgram {d : Dev} {r c : Nat} {j : JobRec} {i : Image} {raw inp : List Byte} {stageBase : Nat} {at' : Option
    Nat} (hk : Kept d) : Kept (d.startProgram r c j i raw inp stageBase at') := by
  unfold Dev.startProgram
  repeat' first
    | with_reducible assumption | with_reducible apply Kept.modRidge | with_reducible apply Kept.modJob
    | with_reducible apply Kept.modCore | with_reducible apply Kept.finish | with_reducible apply Kept.place
    | with_reducible apply Kept.injection | with_reducible refine Kept.ite ?_ ?_ | exact fun x (hx : ridgeKept x) => hx
    | (refine fun x (hx : ridgeKept x) => ?_; split <;> exact hx)
    | exact fun x (hx : ridgeKept x) => ⟨by first | exact hx.1 | rfl | (dsimp only; repeat' first | exact hx.1 | apply memWf_memZero | apply memWf_memPut | split), by simp [hx.2.1], by simp [hx.2.2.1], by first | exact hx.2.2.2 | exact Shadowed.agrees_of _ | rfl | simp [hx.2.2.2]⟩
    | intro _ | split | dsimp only

theorem Kept.loadProgram {d : Dev} {r c : Nat} {j : JobRec} {image inp : List Byte} (hk : Kept d) : Kept (d.loadProgram r c j
    image inp) := by
  unfold Dev.loadProgram
  repeat' first
    | with_reducible assumption | with_reducible apply Kept.purgePrograms | with_reducible apply Kept.finish
    | with_reducible apply Kept.cacheImage | with_reducible apply Kept.touchImage | with_reducible apply Kept.startProgram
    | with_reducible refine Kept.ite ?_ ?_ | (refine Kept.of_fst ‹_ = (_, _)› ?_) | (refine Kept.of_snd ‹_ = (_, _)› ?_)
    | (refine Kept.stage ‹_ = some _› ?_) | intro _ | split | dsimp only

theorem Kept.endProgram {d : Dev} {r c : Nat} {v : Verdict} (hk : Kept d) : Kept (d.endProgram r c v) := by
  unfold Dev.endProgram
  repeat' first
    | with_reducible assumption | with_reducible apply Kept.modJob | with_reducible apply Kept.modProgram
    | with_reducible apply Kept.closeProgram | with_reducible apply Kept.injection | with_reducible refine Kept.ite ?_ ?_
    | intro _ | split

theorem Kept.trapProgram {d : Dev} {r c code : Nat} (hk : Kept d) : Kept (d.trapProgram r c code) := by
  unfold Dev.trapProgram
  repeat' first
    | with_reducible assumption | with_reducible apply Kept.injection | with_reducible apply Kept.visitDeep
    | with_reducible apply Kept.endProgram | with_reducible apply Kept.surface | with_reducible refine Kept.ite ?_ ?_

theorem Kept.codeFetch {d : Dev} {r c : Nat} (hk : Kept d) : Kept (d.codeFetch r c) := by
  unfold Dev.codeFetch
  repeat' first | with_reducible assumption | with_reducible apply Kept.modCore

theorem Kept.putLam {d : Dev} {r c : Nat} {x : Lam} (hk : Kept d) (hm : memWf x.sram = true) : Kept (d.putLam r c x) := by
  exact Kept.parts (Kept.modRidge (f := _) hk fun y hy => ⟨hm, hy.2.1, by simpa using hy.2.2.1, hy.2.2.2⟩)

theorem Kept.surface {d : Dev} {r c : Nat} {own : BitVec 32 → Bool} {charge : Nat} {f : Dev → Dev} (hk : Kept d) (hf : ∀ d,
    Kept d → Kept (f d)) : Kept (d.surface r c own charge f) := by
  unfold Dev.surface
  repeat' first
    | with_reducible assumption | with_reducible apply hf | with_reducible apply Kept.endProgram
    | with_reducible apply Kept.trapProgram | with_reducible refine Kept.ite ?_ ?_ | intro _ | split | dsimp only

theorem Kept.runLam {d : Dev} {r c : Nat} {sem : Lam → Except Nat Lam} {post : Dev → Dev} (hk : Kept d)
    (hpost : ∀ d, Kept d → Kept (post d)) (hs : KeepsSram sem) : Kept (d.runLam r c sem post) := by
  have hf : Kept (d.codeFetch r c) := hk.codeFetch
  unfold Dev.runLam
  dsimp only
  split
  · next x e => exact (hpost _ (hf.putLam (hs.run _ x (hf.ridge r).1 e))).takeDue
  · exact Kept.ite hf.deepTrap hf.trapProgram

theorem Kept.issue {d : Dev} {r c : Nat} {i : Instr} {sem : Lam → Except Nat Lam} {post : Dev → Dev} (hk : Kept d)
    (hpost : ∀ d, Kept d → Kept (post d)) (hs : KeepsSram sem) : Kept (d.issue r c i sem post) := by
  unfold Dev.issue
  repeat' first
    | with_reducible assumption | with_reducible refine Kept.ite ?_ ?_ | with_reducible apply Kept.deepTrap
    | (exact Kept.surface hk fun d hk => Kept.runLam hk hpost hs) | exact Kept.runLam hk hpost hs

theorem Kept.submit {d : Dev} {r c : Nat} {q : Submit} (hk : Kept d) : Kept (d.submit r c q) := by
  unfold Dev.submit
  repeat' first
    | with_reducible assumption | with_reducible apply Kept.modJob | with_reducible apply Kept.modProgram
    | with_reducible apply Kept.load | with_reducible apply Kept.lateStage | with_reducible apply Kept.place
    | with_reducible apply Kept.queueDeep | with_reducible refine Kept.ite ?_ ?_ | intro _ | split | dsimp only
    | with_reducible apply Kept.parts | simp only [Kept.mk]

theorem Kept.freeTicket {d : Dev} {r c : Nat} {n : W64} (hk : Kept d) : Kept (d.freeTicket r c n) := by
  unfold Dev.freeTicket
  repeat' first | with_reducible assumption | with_reducible apply Kept.modProgram

theorem Kept.stall {d : Dev} {r c : Nat} (hk : Kept d) : Kept (d.stall r c) := by
  unfold Dev.stall
  repeat' first | with_reducible assumption | with_reducible apply Kept.modCore

theorem KeepsSram.answer (rd : BitVec 6) (t : Ticket) (status : BitVec 16) (detail written : BitVec 32) (handle : W64) :
    KeepsSram fun x => x.answer rd t status detail written handle := by
  intro x y hx e
  obtain ⟨a, ha, e⟩ := ok_of_bind e
  obtain ⟨b, hb, e⟩ := ok_of_bind e
  rw [← Except.ok.inj e, Lam.set_sram]
  exact KeepsSram.storeElem (fun _ => t.block) (fun _ => _) (fun _ => _) a b
    (KeepsSram.storeElem (fun _ => t.block) (fun _ => _) (fun _ => _) x a hx ha) hb

theorem Kept.jwait {d : Dev} {r c : Nat} {i : Instr} {rd ra : BitVec 6} {poll : Bool} (hk : Kept d) :
    Kept (d.jwait r c i rd ra poll) := by
  unfold Dev.jwait
  repeat' first
    | with_reducible assumption | with_reducible apply Kept.surface | with_reducible apply Kept.issue
    | with_reducible apply Kept.freeTicket | with_reducible apply Kept.stall | with_reducible apply Kept.takeDue
    | with_reducible refine Kept.ite ?_ ?_ | exact KeepsSram.of_ok fun x => x.set_sram _ _ | exact KeepsSram.answer _ _ _ _ _ _
    | intro _ | split | dsimp only [id]

theorem Kept.descend {d : Dev} {r c : Nat} {i : Instr} {service : Nat} (hk : Kept d) : Kept (d.descend r c i service) := by
  unfold Dev.descend
  repeat' first
    | with_reducible assumption | with_reducible apply Kept.enterDeep | with_reducible apply Kept.trapProgram
    | with_reducible apply Kept.surface | with_reducible refine Kept.ite ?_ ?_ | intro _

theorem Kept.exitProgram {d : Dev} {r c : Nat} {i : Instr} (hk : Kept d) : Kept (d.exitProgram r c i) := by
  unfold Dev.exitProgram
  repeat' first
    | with_reducible assumption | with_reducible apply Kept.modCore | with_reducible apply Kept.visitDeep
    | with_reducible apply Kept.endProgram | with_reducible apply Kept.trapProgram | with_reducible apply Kept.surface
    | with_reducible apply Kept.stall | with_reducible refine Kept.ite ?_ ?_ | intro _

theorem Kept.ascend {d : Dev} {r c : Nat} {i : Instr} (hk : Kept d) : Kept (d.ascend r c i) := by
  unfold Dev.ascend
  repeat' first
    | with_reducible assumption | with_reducible apply Kept.leaveDeep | with_reducible apply Kept.takeDue
    | with_reducible apply Kept.deepFault | with_reducible apply Kept.trapProgram | with_reducible apply Kept.surface
    | with_reducible refine Kept.ite ?_ ?_ | intro _ | split

theorem Kept.privilegedSide {d : Dev} {r c : Nat} {op : PrivOp} (hk : Kept d) : Kept (d.privilegedSide r c op) := by
  unfold Dev.privilegedSide
  repeat' first
    | with_reducible assumption | with_reducible apply Kept.modWorld | with_reducible apply Kept.modProgram
    | with_reducible refine Kept.ite ?_ ?_ | exact fun x (hx : x.line.agrees = true) => hx | intro _ | split

theorem KeepsSram.privileged (op : PrivOp) : KeepsSram fun x => .ok (x.privileged op) := by
  refine KeepsSram.of_ok fun x => ?_
  cases op <;> rfl

theorem Kept.privileged {d : Dev} {r c : Nat} {op : PrivOp} (hk : Kept d) : Kept (d.privileged r c op) := by
  unfold Dev.privileged
  refine Kept.ite hk (Kept.ite (Kept.ite hk ?_) (hk.surface fun d hk => hk.trapProgram))
  exact hk.privilegedSide.runLam (fun _ h => h) (KeepsSram.privileged op)

theorem Kept.custom {d : Dev} {r c : Nat} {i : Instr} {slot : BitVec 5} {rd ra rb : BitVec 6} {k : BitVec 3} (hk : Kept d) :
    Kept (d.custom r c i slot rd ra rb k) := by
  have hf : Kept (d.codeFetch r c) := hk.codeFetch
  unfold Dev.custom
  refine Kept.ite hk (Kept.ite (Kept.ite hk ?_) (hk.surface fun d hk => hk.trapProgram))
  split
  · exact hk.deepTrap
  · refine Kept.ite ?_ hk
    have h := Lam.slotOps_sram rd ra rb k (d.decode.getD slot.toNat []) ((d.codeFetch r c).lam r c) (hf.ridge r).1
    dsimp only
    split
    · next e => rw [e] at h; exact hf.putLam h
    · next e => rw [e] at h; exact (hf.putLam h).deepTrap

theorem Kept.emulate {d : Dev} {r c : Nat} {writes : List (BitVec 6 × W64)} (hk : Kept d) : Kept (d.emulate r c writes) := by
  unfold Dev.emulate
  repeat' first | with_reducible assumption | with_reducible apply Kept.modCore | with_reducible apply Kept.visitDeep

theorem Kept.reservedTrap {d : Dev} {r c : Nat} {writes : Option (List (BitVec 6 × W64))} (hk : Kept d) : Kept (d.reservedTrap
    r c writes) := by
  unfold Dev.reservedTrap
  repeat' first
    | with_reducible assumption | with_reducible apply Kept.deepTrap | with_reducible apply Kept.trapProgram
    | with_reducible apply Kept.surface | with_reducible apply Kept.emulate | with_reducible refine Kept.ite ?_ ?_ | intro _
    | split

theorem Kept.budgetEnd {d : Dev} {r c : Nat} (hk : Kept d) : Kept (d.budgetEnd r c) := by
  unfold Dev.budgetEnd
  repeat' first
    | with_reducible assumption | with_reducible apply Kept.endProgram | with_reducible apply Kept.surface
    | with_reducible refine Kept.ite ?_ ?_ | intro _ | split

end Sys2Proof
end

