-- ==== Sys2Proof/Laws/KeptJobs.lean ====
section
/-! SUPPORT. Every shared operation keeps `Kept`: work on jobs and Deep services. -/

namespace Sys2Proof

-- one proof at a time: many proofs at once ask for too many threads
set_option Elab.async false

open Machine

theorem Kept.sampled {d : Dev} {r unit n : Nat} (hk : Kept d) : Kept (d.sampled r unit n) := by
  unfold Dev.sampled
  repeat' first
    | with_reducible assumption | with_reducible apply Kept.modEngine | with_reducible refine Kept.ite ?_ ?_ | intro _ | split
    | dsimp only | with_reducible apply Kept.parts | simp only [Kept.mk]

theorem Kept.emitAt {d : Dev} {j : JobRec} {at' : Nat} {out : List Byte} (hk : Kept d) : Kept (d.emitAt j at' out).1 := by
  unfold Dev.emitAt
  repeat' first
    | with_reducible assumption | with_reducible apply Kept.modRidge | with_reducible apply Kept.spineSend
    | with_reducible apply Kept.modJob | with_reducible apply Kept.send | with_reducible apply Kept.injection
    | with_reducible apply Kept.trapProgram | with_reducible refine Kept.ite ?_ ?_ | exact fun x (hx : ridgeKept x) => hx
    | (refine fun x (hx : ridgeKept x) => ?_; split <;> exact hx)
    | exact fun x (hx : ridgeKept x) => ⟨by first | exact hx.1 | rfl | (dsimp only; repeat' first | exact hx.1 | apply memWf_memZero | apply memWf_memPut | split), by simp [hx.2.1], by simp [hx.2.2.1], by first | exact hx.2.2.2 | exact Shadowed.agrees_of _ | rfl | simp [hx.2.2.2]⟩
    | intro _ | split | dsimp only

theorem Kept.stream {d : Dev} {n : Nat} {w : Work} {res : Result} (hk : Kept d) : Kept (d.stream n w res) := by
  unfold Dev.stream
  repeat' first
    | with_reducible assumption | with_reducible apply Kept.modJob | with_reducible apply Kept.emitAt
    | with_reducible refine Kept.ite ?_ ?_ | (refine Kept.of_fst ‹_ = (_, _)› ?_) | (refine Kept.of_snd ‹_ = (_, _)› ?_)
    | intro _ | split

theorem Kept.holdResult {d : Dev} {r b : Nat} {blind : Option Nat} {res : Result} (hk : Kept d) : Kept (d.holdResult r b blind
    res) := by
  unfold Dev.holdResult
  repeat' first | with_reducible assumption | with_reducible apply Kept.modEngine

theorem Kept.work {d : Dev} {r b : Nat} {ops : Nat → Bool} {f : Work → Result} (hk : Kept d) : Kept (d.work r b ops f) := by
  unfold Dev.work
  repeat' first
    | with_reducible assumption | with_reducible apply Kept.modJob | with_reducible apply Kept.generate
    | with_reducible apply Kept.runParts | with_reducible apply Kept.sampled | with_reducible apply Kept.stream
    | with_reducible apply Kept.holdResult | with_reducible refine Kept.ite ?_ ?_ | intro _ | split | dsimp only
    | with_reducible apply Kept.parts | simp only [Kept.mk]

theorem Kept.emit {d : Dev} {j : JobRec} {out : List Byte} (hk : Kept d) : Kept (d.emit j out).1 := by
  unfold Dev.emit
  repeat' first | with_reducible assumption | with_reducible apply Kept.emitAt

theorem Kept.elementEnd {d : Dev} {n : Nat} {v : Verdict} (hk : Kept d) : Kept (d.elementEnd n v) := by
  unfold Dev.elementEnd
  repeat' first
    | with_reducible assumption | with_reducible apply Kept.modJob | with_reducible apply Kept.releaseAll
    | with_reducible apply Kept.eraseConsumed | with_reducible apply Kept.finish | with_reducible refine Kept.ite ?_ ?_
    | intro _ | split | dsimp only

theorem Kept.prepare {d : Dev} {n : Nat} {k : NewKey} (hk : Kept d) : Kept (d.prepare n k) := by
  unfold Dev.prepare
  repeat' first
    | with_reducible assumption | with_reducible apply Kept.modRidge | with_reducible apply Kept.spineSend
    | with_reducible apply Kept.modJob | with_reducible apply Kept.checkFull | with_reducible apply Kept.drawNonce
    | with_reducible apply Kept.releaseAll | with_reducible refine Kept.ite ?_ ?_ | exact fun x (hx : ridgeKept x) => hx
    | exact fun x (hx : ridgeKept x) => ⟨by first | exact hx.1 | rfl | (dsimp only; repeat' first | exact hx.1 | apply memWf_memZero | apply memWf_memPut | split), by simp [hx.2.1], by simp [hx.2.2.1], by first | exact hx.2.2.2 | exact Shadowed.agrees_of _ | rfl | simp [hx.2.2.2]⟩
    | intro _ | split | dsimp only | with_reducible apply Kept.parts | simp only [Kept.mk]

theorem Kept.preparedAck {d : Dev} {n : Nat} (hk : Kept d) : Kept (d.preparedAck n) := by
  unfold Dev.preparedAck
  repeat' first
    | with_reducible assumption | with_reducible apply Kept.modRidge | with_reducible apply Kept.modJob
    | with_reducible apply Kept.addEntry | with_reducible apply Kept.finish | with_reducible apply Kept.rollback
    | with_reducible apply Kept.emit | with_reducible apply Kept.foldl | with_reducible refine Kept.ite ?_ ?_
    | exact fun x (hx : ridgeKept x) => hx
    | exact fun x (hx : ridgeKept x) => ⟨by first | exact hx.1 | rfl | (dsimp only; repeat' first | exact hx.1 | apply memWf_memZero | apply memWf_memPut | split), by simp [hx.2.1], by simp [hx.2.2.1], by first | exact hx.2.2.2 | exact Shadowed.agrees_of _ | rfl | simp [hx.2.2.2]⟩
    | (refine Kept.of_fst ‹_ = (_, _)› ?_) | (refine Kept.of_snd ‹_ = (_, _)› ?_) | intro _ | split | dsimp only

theorem Kept.commitAck {d : Dev} {n : Nat} (hk : Kept d) : Kept (d.commitAck n) := by
  unfold Dev.commitAck
  repeat' first
    | with_reducible assumption | with_reducible apply Kept.modJob | with_reducible apply Kept.modEntries
    | with_reducible apply Kept.elementEnd | with_reducible refine Kept.ite ?_ ?_ | intro _ | split

theorem Kept.endWork {d : Dev} {n : Nat} {res : Result} (hk : Kept d) : Kept (d.endWork n res) := by
  unfold Dev.endWork
  repeat' first
    | with_reducible assumption | with_reducible apply Kept.modJob | with_reducible apply Kept.finish
    | with_reducible apply Kept.rollback | with_reducible apply Kept.emit | with_reducible apply Kept.elementEnd
    | with_reducible apply Kept.prepare | with_reducible refine Kept.ite ?_ ?_ | (refine Kept.of_fst ‹_ = (_, _)› ?_)
    | (refine Kept.of_snd ‹_ = (_, _)› ?_) | intro _ | split | dsimp only

theorem Kept.removeEngine {d : Dev} {r b cause : Nat} (hk : Kept d) : Kept (d.removeEngine r b cause) := by
  unfold Dev.removeEngine
  repeat' first
    | with_reducible assumption | with_reducible apply Kept.modRidge
    | exact fun _ hx => Ridge.modEngs_kept (Ridge.modEng_kept hx _ _) _ _ | exact fun _ hx => Ridge.modEng_kept hx _ _
    | with_reducible apply Kept.modJob | with_reducible apply Kept.ridgeEvent | with_reducible apply Kept.rePlace
    | with_reducible apply Kept.foldl | with_reducible refine Kept.ite ?_ ?_ | exact fun x (hx : ridgeKept x) => hx
    | exact fun x (hx : ridgeKept x) => ⟨by first | exact hx.1 | rfl | (dsimp only; repeat' first | exact hx.1 | apply memWf_memZero | apply memWf_memPut | split), by simp [hx.2.1], by simp [hx.2.2.1], by first | exact hx.2.2.2 | exact Shadowed.agrees_of _ | rfl | simp [hx.2.2.2]⟩
    | intro _ | split | dsimp only

theorem Kept.checkFails {d : Dev} {n r b : Nat} {res : Result} (hk : Kept d) : Kept (d.checkFails n r b res) := by
  unfold Dev.checkFails
  repeat' first
    | with_reducible assumption | with_reducible apply Kept.modJob | with_reducible apply Kept.ridgeEvent
    | with_reducible apply Kept.modEngine | with_reducible apply Kept.abortJob | with_reducible apply Kept.injection
    | with_reducible apply Kept.removeEngine | with_reducible refine Kept.ite ?_ ?_ | intro _ | split | dsimp only

theorem Kept.jobEnd {d : Dev} {r b : Nat} {checkOk wipeOk : Bool} (hk : Kept d) : Kept (d.jobEnd r b checkOk wipeOk) := by
  unfold Dev.jobEnd
  repeat' first
    | with_reducible assumption | with_reducible apply Kept.reach | with_reducible apply Kept.endWork
    | with_reducible apply Kept.removeEngine | with_reducible apply Kept.checkFails | with_reducible refine Kept.ite ?_ ?_
    | intro _ | split

theorem Kept.engineFault {d : Dev} {r b cause : Nat} (hk : Kept d) : Kept (d.engineFault r b cause) := by
  unfold Dev.engineFault
  repeat' first
    | with_reducible assumption | with_reducible apply Kept.modJob | with_reducible apply Kept.modEngine
    | with_reducible apply Kept.releaseAll | with_reducible apply Kept.rePlace | with_reducible apply Kept.removeEngine
    | with_reducible refine Kept.ite ?_ ?_ | intro _ | split | dsimp only

theorem Kept.dispatchElement {d : Dev} {n : Nat} (hk : Kept d) : Kept (d.dispatchElement n) := by
  unfold Dev.dispatchElement
  repeat' first
    | with_reducible assumption | with_reducible apply Kept.modJob | with_reducible apply Kept.finish
    | with_reducible apply Kept.load | with_reducible apply Kept.place | with_reducible apply Kept.queueDeep
    | with_reducible apply Kept.endFailed | with_reducible refine Kept.ite ?_ ?_ | intro _ | split

theorem Kept.element {d : Dev} {n : Nat} {bytes : List Byte} (hk : Kept d) : Kept (d.element n bytes) := by
  unfold Dev.element
  repeat' first
    | with_reducible assumption | with_reducible apply Kept.spineSend | with_reducible apply Kept.modJob
    | with_reducible apply Kept.finish | with_reducible apply Kept.elementEnd | with_reducible apply Kept.dispatchElement
    | with_reducible refine Kept.ite ?_ ?_ | intro _ | split | dsimp only

theorem Kept.mirrorAck {d : Dev} {s q : Nat} {i : BitVec 32} (hk : Kept d) : Kept (d.mirrorAck s q i) := by
  unfold Dev.mirrorAck
  repeat' first
    | with_reducible assumption | with_reducible apply Kept.mirrored | with_reducible apply Kept.dispatchElement
    | with_reducible refine Kept.ite ?_ ?_ | intro _ | split

theorem Kept.countRead {d : Dev} {l : Option Lk} {a : ReadAnswer} (hk : Kept d) : Kept (d.countRead l a) := by
  unfold Dev.countRead
  repeat' first
    | with_reducible assumption | with_reducible apply Kept.modLink | with_reducible apply Kept.raise
    | with_reducible refine Kept.ite ?_ ?_ | intro _ | split

theorem Kept.countTimeout {d : Dev} {l : Option Lk} (hk : Kept d) : Kept (d.countTimeout l) := by
  unfold Dev.countTimeout
  repeat' first
    | with_reducible assumption | with_reducible apply Kept.modLink | with_reducible refine Kept.ite ?_ ?_ | intro _ | split

theorem Kept.mqFetch {d : Dev} (hk : Kept d) : Kept (d.mqFetch) := by
  unfold Dev.mqFetch
  repeat' first
    | with_reducible assumption | with_reducible apply Kept.modMq | with_reducible apply Kept.mqFault
    | with_reducible apply Kept.cut | with_reducible refine Kept.ite ?_ ?_

theorem Kept.mqEnter {d : Dev} {bytes : List Byte} {k : Nat} (hk : Kept d) : Kept (d.mqEnter bytes k) := by
  induction k generalizing d bytes with
  | zero => exact hk
  | succ k ih =>
    unfold Dev.mqEnter
    repeat' first
      | with_reducible assumption | with_reducible apply ih | with_reducible apply Kept.modMq
      | with_reducible refine Kept.ite ?_ ?_

theorem Kept.inputHop {d : Dev} {n : Nat} (hk : Kept d) : Kept (d.inputHop n) := by
  unfold Dev.inputHop
  repeat' first
    | with_reducible assumption | with_reducible apply Kept.spineSend | with_reducible refine Kept.ite ?_ ?_ | intro _ | split

theorem Kept.readData {d : Dev} {t : ReadTarget} {bytes : List Byte} (hk : Kept d) : Kept (d.readData t bytes) := by
  unfold Dev.readData
  repeat' first
    | with_reducible assumption | with_reducible apply Kept.modMq | with_reducible apply Kept.modJob
    | with_reducible apply Kept.deliver | with_reducible apply Kept.modCmd | with_reducible apply Kept.ringData
    | with_reducible apply Kept.lateStage | with_reducible apply Kept.element | with_reducible apply Kept.mqFetch
    | with_reducible apply Kept.mqEnter | with_reducible apply Kept.inputHop | with_reducible refine Kept.ite ?_ ?_ | intro _
    | split

theorem Kept.readFails {d : Dev} {t : ReadTarget} {status : BitVec 16} (hk : Kept d) : Kept (d.readFails t status) := by
  unfold Dev.readFails
  repeat' first
    | with_reducible assumption | with_reducible apply Kept.queueFault | with_reducible apply Kept.finish
    | with_reducible apply Kept.rollback | with_reducible apply Kept.mqFault | with_reducible apply Kept.mqComplete
    | with_reducible refine Kept.ite ?_ ?_ | intro _ | split | dsimp only

theorem Kept.readAnswered {d : Dev} {t : ReadTarget} {a : ReadAnswer} (hk : Kept d) : Kept (d.readAnswered t a) := by
  unfold Dev.readAnswered
  repeat' first
    | with_reducible assumption | with_reducible apply Kept.raise | with_reducible apply Kept.countRead
    | with_reducible apply Kept.readData | with_reducible apply Kept.readFails | with_reducible refine Kept.ite ?_ ?_ | intro _
    | split

theorem Kept.readTimesOut {d : Dev} {t : ReadTarget} (hk : Kept d) : Kept (d.readTimesOut t) := by
  unfold Dev.readTimesOut
  repeat' first
    | with_reducible assumption | with_reducible apply Kept.reach | with_reducible apply Kept.countTimeout
    | with_reducible apply Kept.readFails | with_reducible refine Kept.ite ?_ ?_ | intro _ | split

theorem Kept.writeAcked {d : Dev} {l : Lk} (hk : Kept d) : Kept (d.writeAcked l) := by
  unfold Dev.writeAcked
  repeat' first
    | with_reducible assumption | with_reducible apply Kept.modMq | with_reducible apply Kept.modLink
    | with_reducible refine Kept.ite ?_ ?_ | intro _ | split

theorem Kept.captureWhole {d : Dev} {s : Nat} {opcode : BitVec 16} {arrival : Nat} (hk : Kept d) : Kept (d.captureWhole s
    opcode arrival) := by
  unfold Dev.captureWhole
  repeat' first
    | with_reducible assumption | with_reducible refine Kept.ite ?_ ?_ | intro _ | split | dsimp only
    | with_reducible apply Kept.parts | simp only [Kept.mk]

theorem Kept.abortEntry {d : Dev} {s q : Nat} {a : ReadAnswer} (hk : Kept d) : Kept (d.abortEntry s q a) := by
  unfold Dev.abortEntry
  repeat' first
    | with_reducible assumption | with_reducible apply Kept.modRun | with_reducible apply Kept.modQueue
    | with_reducible apply Kept.discard | with_reducible apply Kept.putCompletion | with_reducible apply Kept.countRead
    | with_reducible apply Kept.captureWhole | with_reducible refine Kept.ite ?_ ?_ | (refine Kept.of_fst ‹_ = (_, _)› ?_)
    | (refine Kept.of_snd ‹_ = (_, _)› ?_) | intro _ | split | dsimp only

theorem Kept.grantHere {d : Dev} {s q op : Nat} (hk : Kept d) : Kept (d.grantHere s q op) := by
  unfold Dev.grantHere
  repeat' first
    | with_reducible assumption | with_reducible apply Kept.grantDecision | with_reducible apply Kept.endFailed
    | with_reducible refine Kept.ite ?_ ?_ | intro _ | split

theorem Kept.invalWrite {d : Dev} {l : Lk} {s size : Nat} {v : W64} (hk : Kept d) : Kept (d.invalWrite l s size v) := by
  unfold Dev.invalWrite
  repeat' first
    | with_reducible assumption | with_reducible apply Kept.modRun | with_reducible apply Kept.portalDrop
    | with_reducible apply Kept.wakeHome | with_reducible apply Kept.invalidate | with_reducible refine Kept.ite ?_ ?_

theorem Kept.startService {d : Dev} {r : Nat} {blocks : BitVec 33} (hk : Kept d) : Kept (d.startService r blocks) := by
  unfold Dev.startService
  repeat' first
    | with_reducible assumption | with_reducible apply Kept.modJob | with_reducible apply Kept.modWorld
    | with_reducible apply Kept.claim | with_reducible apply Kept.foldl | with_reducible refine Kept.ite ?_ ?_
    | exact fun x (hx : x.line.agrees = true) => hx | intro _ | split | dsimp only

theorem Kept.service {d : Dev} {r n op : Nat} {f : Dev → Work → Dev × Result} (hk : Kept d) (hf : ∀ d w, Kept d → Kept (f d
    w).1) : Kept (d.service r n op f) := by
  unfold Dev.service
  repeat' first
    | with_reducible assumption | with_reducible apply hf | with_reducible apply Kept.modJob | with_reducible apply Kept.reach
    | with_reducible apply Kept.draw | with_reducible apply Kept.generate | with_reducible apply Kept.freeService
    | with_reducible apply Kept.endWork | with_reducible refine Kept.ite ?_ ?_ | (refine Kept.of_fst ‹_ = (_, _)› ?_)
    | (refine Kept.of_snd ‹_ = (_, _)› ?_) | intro _ | split

theorem Kept.Work_curveLoad {n : Nat} {d : Dev} {w : Work} (hk : Kept d) : Kept (Work.curveLoad n d w).1 := by
  unfold Work.curveLoad
  repeat' first
    | with_reducible assumption | with_reducible apply Kept.storeEntry | with_reducible apply Kept.addEntry
    | with_reducible apply Kept.drawNonce | with_reducible apply Kept.modJob | split | dsimp only

theorem Kept.Work_destroy {d : Dev} {w : Work} (hk : Kept d) : Kept (Work.destroy d w).1 := by
  unfold Work.destroy
  repeat' first | with_reducible assumption | with_reducible apply Kept.eraseEntries | split | dsimp only

theorem Kept.nextLoad {d : Dev} {s : Nat} (hk : Kept d) : Kept (d.nextLoad s) := by
  unfold Dev.nextLoad
  repeat' first | with_reducible assumption | with_reducible apply Kept.modEntries

theorem Kept.loadBlob {d : Dev} {j : Nat} {w : Work} (hk : Kept d) : Kept (d.loadBlob j w).1 := by
  unfold Dev.loadBlob
  repeat' first
    | with_reducible assumption | with_reducible apply Kept.modJob | with_reducible apply Kept.nextLoad
    | with_reducible refine Kept.ite ?_ ?_ | (refine Kept.loadCache ‹_ = some _› ?_) | intro _ | split | dsimp only

end Sys2Proof
end

