-- ==== Sys2Proof/Laws/KeptManagement.lean ====
section
/-! SUPPORT. Every shared operation keeps `Kept`: management commands, seams, migration and orders. -/

namespace Sys2Proof

-- one proof at a time: many proofs at once ask for too many threads
set_option Elab.async false

open Machine

theorem Kept.wakeBoss {d : Dev} (hk : Kept d) : Kept (d.wakeBoss) := by
  unfold Dev.wakeBoss
  repeat' first
    | with_reducible assumption | with_reducible apply Kept.modRidge | with_reducible refine Kept.ite ?_ ?_
    | exact fun x (hx : ridgeKept x) => hx | (refine fun x (hx : ridgeKept x) => ?_; split <;> exact hx)

theorem Kept.mqTail {d : Dev} {v : BitVec 32} (hk : Kept d) : Kept (d.mqTail v) := by
  unfold Dev.mqTail
  repeat' first
    | with_reducible assumption | with_reducible apply Kept.modMq | with_reducible apply Kept.pkgEvent
    | with_reducible apply Kept.mqFetch | with_reducible apply Kept.wakeBoss | with_reducible refine Kept.ite ?_ ?_

theorem Kept.mqHead {d : Dev} {v : BitVec 32} (hk : Kept d) : Kept (d.mqHead v) := by
  unfold Dev.mqHead
  repeat' first
    | with_reducible assumption | with_reducible apply Kept.modMq | with_reducible apply Kept.pkgEvent
    | with_reducible apply Kept.mqDrain | with_reducible apply Kept.cqHead | with_reducible refine Kept.ite ?_ ?_

theorem Kept.mqRise {d : Dev} (hk : Kept d) : Kept (d.mqRise) := by
  unfold Dev.mqRise
  repeat' first
    | with_reducible assumption | with_reducible apply Kept.modMq | with_reducible apply Kept.mqDrain
    | with_reducible apply Kept.mqFetch

theorem Kept.mqCtrl {d : Dev} {l : Lk} {v : W64} (hk : Kept d) : Kept (d.mqCtrl l v) := by
  unfold Dev.mqCtrl
  repeat' first
    | with_reducible assumption | with_reducible apply Kept.modMq | with_reducible apply Kept.ignoredWrite
    | with_reducible apply Kept.mqRise | with_reducible refine Kept.ite ?_ ?_

theorem Kept.mqStart {d : Dev} {n : Nat} (hk : Kept d) : Kept (d.mqStart n) := by
  unfold Dev.mqStart
  repeat' first
    | with_reducible assumption | with_reducible apply Kept.modMq | with_reducible apply Kept.mqComplete
    | with_reducible apply Kept.modCmd | with_reducible apply Kept.mqFetch | with_reducible refine Kept.ite ?_ ?_ | intro _
    | split

theorem Kept.tokenEvent {d : Dev} {num : Nat} {b : List Byte} {refused : Bool} (hk : Kept d) : Kept (d.tokenEvent num b
    refused) := by
  unfold Dev.tokenEvent
  repeat' first | with_reducible assumption | with_reducible apply Kept.pkgEvent

theorem Kept.command {d : Dev} {n op : Nat} {f : Dev → Desc → List Byte → List Byte → Dev} (hk : Kept d) (hf : ∀ d a b c, Kept
    d → Kept (f d a b c)) : Kept (d.command n op f) := by
  unfold Dev.command
  repeat' first
    | with_reducible assumption | with_reducible apply hf | with_reducible apply Kept.mqComplete
    | with_reducible apply Kept.tokenEvent | with_reducible refine Kept.ite ?_ ?_ | intro _ | split

theorem Kept.cmdWaits {d : Dev} {n : Nat} (hk : Kept d) : Kept (d.cmdWaits n) := by
  unfold Dev.cmdWaits
  repeat' first | with_reducible assumption | with_reducible apply Kept.modCmd

theorem Kept.cmdDone {d : Dev} {n : Nat} {x : Desc} {out : List Byte} {detail : Nat} (hk : Kept d) : Kept (d.cmdDone n x out
    detail) := by
  unfold Dev.cmdDone
  repeat' first | with_reducible assumption | with_reducible apply Kept.mqComplete | with_reducible refine Kept.ite ?_ ?_

theorem Kept.supersede {d : Dev} {o : Order} (hk : Kept d) : Kept (d.supersede o) := by
  unfold Dev.supersede
  repeat' first
    | with_reducible assumption | with_reducible apply Kept.setOrder | with_reducible apply Kept.foldl
    | with_reducible refine Kept.ite ?_ ?_ | intro _

theorem Kept.consumeOrder {d : Dev} {num : Nat} (hk : Kept d) : Kept (d.consumeOrder num) := by
  unfold Dev.consumeOrder
  repeat' first
    | with_reducible assumption | with_reducible apply Kept.stamp | with_reducible apply Kept.setOrder
    | with_reducible apply Kept.supersede | with_reducible refine Kept.ite ?_ ?_ | intro _ | split

theorem Kept.startMark {d : Dev} {n : Nat} (hk : Kept d) : Kept (d.startMark n) := by
  unfold Dev.startMark
  repeat' first
    | with_reducible assumption | with_reducible apply Kept.modMq | with_reducible apply Kept.cmdWaits
    | with_reducible apply Kept.foldl | with_reducible refine Kept.ite ?_ ?_

theorem Kept.startTest {d : Dev} {n : Nat} {x : Desc} (hk : Kept d) : Kept (d.startTest n x) := by
  unfold Dev.startTest
  repeat' first
    | with_reducible assumption | with_reducible apply Kept.modMq | with_reducible apply Kept.modEngine
    | with_reducible apply Kept.mqComplete | with_reducible apply Kept.cmdWaits | with_reducible refine Kept.ite ?_ ?_

theorem Kept.endTest {d : Dev} {r b : Nat} {pass : Bool} (hk : Kept d) : Kept (d.endTest r b pass) := by
  unfold Dev.endTest
  repeat' first
    | with_reducible assumption | with_reducible apply Kept.modMq | with_reducible apply Kept.pkgEvent
    | with_reducible apply Kept.modEngine | with_reducible apply Kept.mqComplete | with_reducible apply Kept.removeEngine
    | with_reducible refine Kept.ite ?_ ?_ | intro _ | split

theorem Kept.setSlot {d : Dev} {n : Nat} {i : Option FwImage} (hk : Kept d) : Kept (d.setSlot n i) := by
  unfold Dev.setSlot
  repeat' first | with_reducible assumption | with_reducible apply Kept.modFw

theorem Kept.fwStage {d : Dev} {n : Nat} {b : List Byte} (hk : Kept d) : Kept (d.fwStage n b) := by
  unfold Dev.fwStage
  repeat' first
    | with_reducible assumption | with_reducible apply Kept.modBoot | with_reducible apply Kept.modFw
    | with_reducible apply Kept.pkgEvent | with_reducible apply Kept.mqComplete | with_reducible apply Kept.setSlot
    | with_reducible refine Kept.ite ?_ ?_ | intro _ | split

theorem Kept.fwCounter {d : Dev} {n : Nat} {x : Desc} {b : List Byte} (hk : Kept d) : Kept (d.fwCounter n x b) := by
  unfold Dev.fwCounter
  repeat' first
    | with_reducible assumption | with_reducible apply Kept.mqComplete | with_reducible apply Kept.setSlot
    | with_reducible refine Kept.ite ?_ ?_ | intro _ | split

theorem Kept.activateStart {d : Dev} {n : Nat} {x : Desc} (hk : Kept d) : Kept (d.activateStart n x) := by
  unfold Dev.activateStart
  repeat' first
    | with_reducible assumption | with_reducible apply Kept.modMq | with_reducible apply Kept.mqComplete
    | with_reducible apply Kept.cmdWaits | with_reducible refine Kept.ite ?_ ?_ | intro _ | split

theorem Kept.activateEnd {d : Dev} {a : Activation} (hk : Kept d) : Kept (d.activateEnd a) := by
  unfold Dev.activateEnd
  repeat' first
    | with_reducible assumption | with_reducible apply Kept.modMq | with_reducible apply Kept.modFw
    | with_reducible apply Kept.pkgEvent | with_reducible apply Kept.mqComplete | with_reducible apply Kept.consumeOrder

theorem Kept.activateRidge {d : Dev} {r : Nat} {pass : Bool} (hk : Kept d) : Kept (d.activateRidge r pass) := by
  unfold Dev.activateRidge
  repeat' first
    | with_reducible assumption | with_reducible apply Kept.modMq | with_reducible apply Kept.ridgeEvent
    | with_reducible apply Kept.draw | with_reducible apply Kept.modWorld | with_reducible apply Kept.mqComplete
    | with_reducible apply Kept.addMLog | with_reducible apply Kept.stopDeep | with_reducible apply Kept.resumeDeep
    | with_reducible apply Kept.remeasure | with_reducible apply Kept.activateEnd | with_reducible refine Kept.ite ?_ ?_
    | exact fun x (hx : x.line.agrees = true) => hx | (refine Kept.of_fst ‹_ = (_, _)› ?_)
    | (refine Kept.of_snd ‹_ = (_, _)› ?_) | intro _ | split

theorem Kept.eraseReceive {d : Dev} {id : List Byte} (hk : Kept d) : Kept (d.eraseReceive id) := by
  unfold Dev.eraseReceive
  repeat' first | with_reducible assumption | with_reducible apply Kept.eraseEntries

theorem Kept.attestIdentity {d : Dev} {n : Nat} {x : Desc} {nonce : List Byte} (hk : Kept d) : Kept (d.attestIdentity n x
    nonce) := by
  unfold Dev.attestIdentity
  repeat' first
    | with_reducible assumption | with_reducible apply Kept.draw | with_reducible apply Kept.generate
    | with_reducible apply Kept.cmdDone | with_reducible refine Kept.ite ?_ ?_

theorem Kept.attestMigration {d : Dev} {n : Nat} {x : Desc} {nonce : List Byte} (hk : Kept d) : Kept (d.attestMigration n x
    nonce) := by
  unfold Dev.attestMigration
  repeat' first
    | with_reducible assumption | with_reducible apply Kept.draw | with_reducible apply Kept.generate
    | with_reducible apply Kept.storeEntry | with_reducible apply Kept.mqComplete | with_reducible apply Kept.cmdDone
    | with_reducible apply Kept.eraseReceive | with_reducible refine Kept.ite ?_ ?_ | (refine Kept.of_fst ‹_ = (_, _)› ?_)
    | (refine Kept.of_snd ‹_ = (_, _)› ?_) | intro _ | split | dsimp only | with_reducible apply Kept.parts
    | simp only [Kept.mk]

theorem Kept.makeBlobKey {d : Dev} {s : Nat} (hk : Kept d) : Kept (d.makeBlobKey s) := by
  unfold Dev.makeBlobKey
  repeat' first
    | with_reducible assumption | with_reducible apply Kept.draw | with_reducible apply Kept.generate
    | with_reducible apply Kept.storeEntry

theorem Kept.noteUnmirrored {d : Dev} {s : Nat} (hk : Kept d) : Kept (d.noteUnmirrored s) := by
  unfold Dev.noteUnmirrored
  repeat' first | with_reducible assumption | with_reducible apply Kept.ridgeEvent | with_reducible refine Kept.ite ?_ ?_

theorem Kept.seamDone {d : Dev} {n code s : Nat} (hk : Kept d) : Kept (d.seamDone n code s) := by
  unfold Dev.seamDone
  repeat' first | with_reducible assumption | with_reducible apply Kept.pkgEvent | with_reducible apply Kept.mqComplete

theorem Kept.seamCreate {d : Dev} {n s : Nat} {b : List Byte} (hk : Kept d) : Kept (d.seamCreate n s b) := by
  unfold Dev.seamCreate
  repeat' first
    | with_reducible assumption | with_reducible apply Kept.modSeam | with_reducible apply Kept.mqComplete
    | with_reducible apply Kept.makeBlobKey | with_reducible apply Kept.noteUnmirrored | with_reducible apply Kept.seamDone
    | with_reducible refine Kept.ite ?_ ?_ | exact fun x (hx : entryKept x.entry) => hx
    | exact fun x (hx : entryKept x.entry) => ⟨by first | exact hx.1 | exact Shadowed.agrees_of _ | rfl, by first | exact hx.2.1 | exact Shadowed.agrees_of _ | rfl, by first | exact hx.2.2.1 | exact Shadowed.agrees_of _, by first | exact hx.2.2.2 | exact Shadowed.agrees_of _ | simp [SeamEntry.blank, Shadowed.agrees_of]⟩
    | intro _ | split

theorem Kept.cutSeam {d : Dev} {s : Nat} (hk : Kept d) : Kept (d.cutSeam s) := by
  unfold Dev.cutSeam
  repeat' first
    | with_reducible assumption | with_reducible apply Kept.mqComplete | with_reducible apply Kept.resetCut
    | with_reducible apply Kept.foldl | with_reducible refine Kept.ite ?_ ?_ | intro _

theorem Kept.seamReset {d : Dev} {n s : Nat} (hk : Kept d) : Kept (d.seamReset n s) := by
  unfold Dev.seamReset
  repeat' first
    | with_reducible assumption | with_reducible apply Kept.modRun | with_reducible apply Kept.mqComplete
    | with_reducible apply Kept.cmdWaits | with_reducible apply Kept.cutSeam | with_reducible refine Kept.ite ?_ ?_

theorem Kept.resetDrained {d : Dev} {s : Nat} (hk : Kept d) : Kept (d.resetDrained s) := by
  unfold Dev.resetDrained
  repeat' first
    | with_reducible assumption | with_reducible apply Kept.modRun | with_reducible apply Kept.seamDone
    | with_reducible refine Kept.ite ?_ ?_ | intro _ | split

theorem Kept.seamDestroy {d : Dev} {n s : Nat} (hk : Kept d) : Kept (d.seamDestroy n s) := by
  unfold Dev.seamDestroy
  repeat' first
    | with_reducible assumption | with_reducible apply Kept.modRun | with_reducible apply Kept.cmdWaits
    | with_reducible apply Kept.cutSeam

theorem Kept.freeSeam {d : Dev} {s : Nat} (hk : Kept d) : Kept (d.freeSeam s) := by
  unfold Dev.freeSeam
  repeat' first
    | with_reducible assumption | with_reducible apply Kept.modSeam | with_reducible apply Kept.eraseSeamStore
    | with_reducible apply Kept.purgePrograms | with_reducible apply Kept.setOrder | with_reducible apply Kept.foldl
    | with_reducible refine Kept.ite ?_ ?_ | exact fun x (hx : entryKept x.entry) => hx
    | exact fun x (hx : entryKept x.entry) => ⟨by first | exact hx.1 | exact Shadowed.agrees_of _ | rfl, by first | exact hx.2.1 | exact Shadowed.agrees_of _ | rfl, by first | exact hx.2.2.1 | exact Shadowed.agrees_of _, by first | exact hx.2.2.2 | exact Shadowed.agrees_of _ | simp [SeamEntry.blank, Shadowed.agrees_of]⟩
    | intro _

theorem Kept.destroyDrained {d : Dev} {s : Nat} (hk : Kept d) : Kept (d.destroyDrained s) := by
  unfold Dev.destroyDrained
  repeat' first
    | with_reducible assumption | with_reducible apply Kept.seamDone | with_reducible apply Kept.freeSeam
    | with_reducible refine Kept.ite ?_ ?_ | intro _ | split

theorem Kept.fitPrograms {d : Dev} {s : Nat} (hk : Kept d) : Kept (d.fitPrograms s) := by
  unfold Dev.fitPrograms
  repeat' first
    | with_reducible assumption | with_reducible apply Kept.modRidge | with_reducible apply Kept.foldl
    | with_reducible refine Kept.ite ?_ ?_ | exact fun x (hx : ridgeKept x) => hx
    | exact fun x (hx : ridgeKept x) => ⟨by first | exact hx.1 | rfl | (dsimp only; repeat' first | exact hx.1 | apply memWf_memZero | apply memWf_memPut | split), by simp [hx.2.1], by simp [hx.2.2.1], by first | exact hx.2.2.2 | exact Shadowed.agrees_of _ | rfl | simp [hx.2.2.2]⟩
    | intro _

theorem Kept.seamShare {d : Dev} {n s : Nat} {b : List Byte} (hk : Kept d) : Kept (d.seamShare n s b) := by
  unfold Dev.seamShare
  repeat' first
    | with_reducible assumption | with_reducible apply Kept.modEntry | with_reducible apply Kept.mqComplete
    | with_reducible apply Kept.capCredits | with_reducible apply Kept.fitPrograms | with_reducible refine Kept.ite ?_ ?_
    | exact fun x (hx : entryKept x) => hx
    | exact fun x (hx : entryKept x) => ⟨by simp [hx.1, Shadowed.agrees_of], by simp [hx.2.1, Shadowed.agrees_of], by simp [hx.2.2.1, Shadowed.agrees_of], by simp [hx.2.2.2, Shadowed.agrees_of]⟩
    | intro _ | split

theorem Kept.unmaskIrq {d : Dev} {s : Nat} (hk : Kept d) : Kept (d.unmaskIrq s) := by
  unfold Dev.unmaskIrq
  repeat' first
    | with_reducible assumption | with_reducible apply Kept.irq | with_reducible refine Kept.ite ?_ ?_ | intro _ | split

theorem Kept.seamBind {d : Dev} {n s : Nat} {b : List Byte} (hk : Kept d) : Kept (d.seamBind n s b) := by
  unfold Dev.seamBind
  repeat' first
    | with_reducible assumption | with_reducible apply Kept.modEntry | with_reducible apply Kept.mqComplete
    | with_reducible apply Kept.seamDone | with_reducible apply Kept.unmaskIrq | with_reducible refine Kept.ite ?_ ?_
    | exact fun x (hx : entryKept x) => hx
    | exact fun x (hx : entryKept x) => ⟨by simp [hx.1, Shadowed.agrees_of], by simp [hx.2.1, Shadowed.agrees_of], by simp [hx.2.2.1, Shadowed.agrees_of], by simp [hx.2.2.2, Shadowed.agrees_of]⟩
    | intro _ | split

theorem Kept.seamFreeze {d : Dev} {n s : Nat} {drop : Bool} (hk : Kept d) : Kept (d.seamFreeze n s drop) := by
  unfold Dev.seamFreeze
  repeat' first
    | with_reducible assumption | with_reducible apply Kept.modRun | with_reducible apply Kept.abortJobs
    | with_reducible apply Kept.cmdWaits | with_reducible refine Kept.ite ?_ ?_

theorem Kept.freezeDrained {d : Dev} {s : Nat} (hk : Kept d) : Kept (d.freezeDrained s) := by
  unfold Dev.freezeDrained
  repeat' first
    | with_reducible assumption | with_reducible apply Kept.modRun | with_reducible apply Kept.modEntry
    | with_reducible apply Kept.mqComplete | with_reducible apply Kept.seamDone | with_reducible refine Kept.ite ?_ ?_
    | exact fun x (hx : entryKept x) => hx
    | exact fun x (hx : entryKept x) => ⟨by simp [hx.1, Shadowed.agrees_of], by simp [hx.2.1, Shadowed.agrees_of], by simp [hx.2.2.1, Shadowed.agrees_of], by simp [hx.2.2.2, Shadowed.agrees_of]⟩
    | intro _ | split | dsimp only

theorem Kept.seamThaw {d : Dev} {n s : Nat} (hk : Kept d) : Kept (d.seamThaw n s) := by
  unfold Dev.seamThaw
  repeat' first
    | with_reducible assumption | with_reducible apply Kept.modRun | with_reducible apply Kept.modEntry
    | with_reducible apply Kept.fetchSeam | with_reducible apply Kept.seamDone | with_reducible refine Kept.ite ?_ ?_
    | exact fun x (hx : entryKept x) => hx

theorem Kept.queueCreate {d : Dev} {n s q : Nat} {b : List Byte} (hk : Kept d) : Kept (d.queueCreate n s q b) := by
  unfold Dev.queueCreate
  repeat' first
    | with_reducible assumption | with_reducible apply Kept.modRun | with_reducible apply Kept.mqComplete
    | with_reducible refine Kept.ite ?_ ?_ | intro _ | split

theorem Kept.queueShut {d : Dev} {n s q : Nat} (hk : Kept d) : Kept (d.queueShut n s q) := by
  unfold Dev.queueShut
  repeat' first
    | with_reducible assumption | with_reducible apply Kept.modQueue | with_reducible apply Kept.mqComplete
    | with_reducible apply Kept.cmdWaits | with_reducible refine Kept.ite ?_ ?_

theorem Kept.shutDrained {d : Dev} {s q : Nat} (hk : Kept d) : Kept (d.shutDrained s q) := by
  unfold Dev.shutDrained
  repeat' first
    | with_reducible assumption | with_reducible apply Kept.modRun | with_reducible apply Kept.modQueue
    | with_reducible apply Kept.mqComplete | with_reducible refine Kept.ite ?_ ?_ | intro _ | split | dsimp only

theorem Kept.queueRestart {d : Dev} {n s q : Nat} (hk : Kept d) : Kept (d.queueRestart n s q) := by
  unfold Dev.queueRestart
  repeat' first
    | with_reducible assumption | with_reducible apply Kept.modQueue | with_reducible apply Kept.mqComplete
    | with_reducible apply Kept.fetch | with_reducible refine Kept.ite ?_ ?_

theorem Kept.rangeFreeze {d : Dev} {n : Nat} {x : Desc} (hk : Kept d) : Kept (d.rangeFreeze n x) := by
  unfold Dev.rangeFreeze
  repeat' first
    | with_reducible assumption | with_reducible apply Kept.modMq | with_reducible apply Kept.modSeams
    | with_reducible apply Kept.abortJobs | with_reducible apply Kept.mqComplete | with_reducible apply Kept.cmdWaits
    | with_reducible refine Kept.ite ?_ ?_ | exact fun n x (hx : entryKept x.entry) => hx

theorem Kept.rangeFrozen {d : Dev} (hk : Kept d) : Kept (d.rangeFrozen) := by
  unfold Dev.rangeFrozen
  repeat' first
    | with_reducible assumption | with_reducible apply Kept.modMq | with_reducible apply Kept.pkgEvent
    | with_reducible apply Kept.mqComplete | with_reducible apply Kept.fetchAll | with_reducible apply Kept.changeMode
    | with_reducible apply Kept.service | with_reducible apply Kept.consumeOrder | with_reducible refine Kept.ite ?_ ?_
    | intro _ | split

theorem Kept.rangeRelease {d : Dev} {n : Nat} {x : Desc} (hk : Kept d) : Kept (d.rangeRelease n x) := by
  unfold Dev.rangeRelease
  repeat' first
    | with_reducible assumption | with_reducible apply Kept.pkgEvent | with_reducible apply Kept.mqComplete
    | with_reducible apply Kept.fetchAll | with_reducible apply Kept.changeMode | with_reducible apply Kept.service
    | with_reducible apply Kept.consumeOrder | with_reducible refine Kept.ite ?_ ?_

theorem Kept.seamCommand {d : Dev} {n op : Nat} {f : Dev → Nat → Desc → List Byte → Dev} (hk : Kept d) (hf : ∀ d a b c, Kept d
    → Kept (f d a b c)) : Kept (d.seamCommand n op f) := by
  unfold Dev.seamCommand
  repeat' first
    | with_reducible assumption | with_reducible apply hf | with_reducible apply Kept.command
    | with_reducible refine Kept.ite ?_ ?_ | intro _

theorem Kept.installEntries {d : Dev} {s : Nat} {es : List Entry} (hk : Kept d) : Kept (d.installEntries s es) := by
  unfold Dev.installEntries
  repeat' first
    | with_reducible assumption | with_reducible apply Kept.storeEntry | with_reducible apply Kept.countKeys
    | with_reducible apply Kept.foldl | with_reducible refine Kept.ite ?_ ?_ | intro _ | split | dsimp only
    | with_reducible apply Kept.parts | simp only [Kept.mk]

theorem Kept.installSeam {d : Dev} {s home mirror : Nat} {p : PkgSeam} {e : SeamEntry} {snap : Option Snapshot} (hk : Kept d) :
    Kept (d.installSeam s home mirror p e snap) := by
  unfold Dev.installSeam
  repeat' first
    | with_reducible assumption | with_reducible apply Kept.modSeam | with_reducible apply Kept.noteUnmirrored
    | with_reducible apply Kept.installEntries | with_reducible refine Kept.ite ?_ ?_
    | exact fun x (hx : entryKept x.entry) => hx
    | exact fun x (hx : entryKept x.entry) => ⟨by first | exact hx.1 | exact Shadowed.agrees_of _ | rfl, by first | exact hx.2.1 | exact Shadowed.agrees_of _ | rfl, by first | exact hx.2.2.1 | exact Shadowed.agrees_of _, by first | exact hx.2.2.2 | exact Shadowed.agrees_of _ | simp [SeamEntry.blank, Shadowed.agrees_of]⟩

theorem Kept.seamSave {d : Dev} {n s : Nat} {x : Desc} {aux : List Byte} (hk : Kept d) : Kept (d.seamSave n s x aux) := by
  unfold Dev.seamSave
  repeat' first
    | with_reducible assumption | with_reducible apply Kept.modRun | with_reducible apply Kept.modEntry
    | with_reducible apply Kept.pkgEvent | with_reducible apply Kept.generate | with_reducible apply Kept.mqComplete
    | with_reducible apply Kept.consumeOrder | with_reducible refine Kept.ite ?_ ?_ | exact fun x (hx : entryKept x) => hx
    | exact fun x (hx : entryKept x) => ⟨by simp [hx.1, Shadowed.agrees_of], by simp [hx.2.1, Shadowed.agrees_of], by simp [hx.2.2.1, Shadowed.agrees_of], by simp [hx.2.2.2, Shadowed.agrees_of]⟩
    | intro _ | split | dsimp only | with_reducible apply Kept.parts | simp only [Kept.mk]

theorem Kept.seamRestore {d : Dev} {n s : Nat} {inp aux : List Byte} (hk : Kept d) : Kept (d.seamRestore n s inp aux) := by
  unfold Dev.seamRestore
  repeat' first
    | with_reducible assumption | with_reducible apply Kept.mqComplete | with_reducible apply Kept.eraseReceive
    | with_reducible apply Kept.seamDone | with_reducible apply Kept.installSeam | with_reducible refine Kept.ite ?_ ?_
    | intro _ | split

theorem Kept.setExported {d : Dev} (hk : Kept d) : Kept (d.setExported) := by
  unfold Dev.setExported
  repeat' first
    | with_reducible assumption | with_reducible apply Kept.propose | with_reducible apply Kept.copyRecord
    | with_reducible apply Kept.commitRecord | with_reducible apply Kept.showMode

theorem Kept.rangeExport {d : Dev} {n : Nat} {x : Desc} {aux : List Byte} (hk : Kept d) : Kept (d.rangeExport n x aux) := by
  unfold Dev.rangeExport
  repeat' first
    | with_reducible assumption | with_reducible apply Kept.pkgEvent | with_reducible apply Kept.generate
    | with_reducible apply Kept.mqComplete | with_reducible apply Kept.consumeOrder | with_reducible apply Kept.setExported
    | with_reducible refine Kept.ite ?_ ?_ | intro _ | split | dsimp only | with_reducible apply Kept.parts
    | simp only [Kept.mk]

theorem Kept.writePers {d : Dev} {ws : List (Nat × W64)} (hk : Kept d) : Kept (d.writePers ws) := by
  unfold Dev.writePers
  repeat' first
    | with_reducible assumption | with_reducible apply Kept.modPower | with_reducible apply Kept.foldl
    | with_reducible refine Kept.ite ?_ ?_ | intro _

theorem Kept.importSeam {d e : Dev} {p : PkgSeam} (h : d.importSeam p = some e) (hk : Kept d) : Kept e := by
  unfold Dev.importSeam at h
  dsimp only at h
  split at h
  · cases h; exact hk.installSeam
  · contradiction

theorem Kept.importSeams {d e : Dev} {ps : List PkgSeam} (h : d.importSeams ps = some e) (hk : Kept d) : Kept e := by
  induction ps generalizing d with
  | nil => cases h; exact hk
  | cons p ps ih =>
    obtain ⟨_, h', h⟩ := Option.bind_eq_some_iff.1 h
    exact ih h (hk.importSeam h')

theorem Kept.rangeImport {d : Dev} {n : Nat} {x : Desc} {inp : List Byte} (hk : Kept d) : Kept (d.rangeImport n x inp) := by
  unfold Dev.rangeImport
  repeat' first
    | with_reducible assumption | with_reducible apply Kept.pkgEvent | with_reducible apply Kept.mqComplete
    | with_reducible apply Kept.consumeOrder | with_reducible apply Kept.eraseReceive | with_reducible apply Kept.writePers
    | with_reducible refine Kept.ite ?_ ?_ | (refine Kept.importSeams ‹_ = some _› ?_) | intro _ | split | dsimp only
    | with_reducible apply Kept.parts | simp only [Kept.mk]

theorem Kept.modOrder {d : Dev} {num : Nat} {f : Order → Order} (hk : Kept d) : Kept (d.modOrder num f) := by
  unfold Dev.modOrder
  repeat' first | with_reducible assumption | with_reducible apply Kept.modQuorum

theorem Kept.orderNonce {d : Dev} (hk : Kept d) : Kept (d.orderNonce).2 := by
  unfold Dev.orderNonce
  repeat' first | with_reducible assumption | with_reducible apply Kept.draw | with_reducible apply Kept.generate

theorem Kept.openOrder {d : Dev} {n : Nat} {x : Desc} {body : List Byte} (hk : Kept d) : Kept (d.openOrder n x body) := by
  unfold Dev.openOrder
  repeat' first
    | with_reducible assumption | with_reducible apply Kept.modQuorum | with_reducible apply Kept.mqComplete
    | with_reducible apply Kept.setOrder | with_reducible apply Kept.cmdDone | with_reducible apply Kept.orderNonce
    | with_reducible refine Kept.ite ?_ ?_ | (refine Kept.of_fst ‹_ = (_, _)› ?_) | (refine Kept.of_snd ‹_ = (_, _)› ?_)
    | intro _ | split | dsimp only

theorem Kept.commission {d : Dev} {o : Order} (hk : Kept d) : Kept (d.commission o) := by
  unfold Dev.commission
  repeat' first
    | with_reducible assumption | with_reducible apply Kept.modVigil | with_reducible apply Kept.modFw
    | with_reducible apply Kept.draw | with_reducible apply Kept.generate | with_reducible apply Kept.putDevice
    | with_reducible apply Kept.deriveRoots | with_reducible apply Kept.changeMode | with_reducible refine Kept.ite ?_ ?_
    | (refine Kept.of_fst ‹_ = (_, _)› ?_) | (refine Kept.of_snd ‹_ = (_, _)› ?_) | intro _ | split

theorem Kept.unlock {d : Dev} (hk : Kept d) : Kept (d.unlock) := by
  unfold Dev.unlock
  repeat' first
    | with_reducible assumption | with_reducible apply Kept.modSeams | with_reducible apply Kept.fetchAll
    | with_reducible apply Kept.changeMode | with_reducible refine Kept.ite ?_ ?_ | exact fun n x (hx : entryKept x.entry) => hx

theorem Kept.zeroize {d : Dev} {cmd : Nat} (hk : Kept d) : Kept (d.zeroize cmd) := by
  unfold Dev.zeroize
  repeat' first
    | with_reducible assumption | with_reducible apply Kept.modPins | with_reducible apply Kept.abortJobs
    | with_reducible apply Kept.changeMode | with_reducible apply Kept.eraseVsalt | with_reducible apply Kept.firedampWipe
    | with_reducible apply Kept.abortCmds | with_reducible apply Kept.wakeAll

theorem Kept.blowFuse {d : Dev} {id : Nat} (hk : Kept d) : Kept (d.blowFuse id) := by
  unfold Dev.blowFuse
  repeat' first
    | with_reducible assumption | with_reducible apply Kept.modTamp | with_reducible apply Kept.foldl
    | with_reducible refine Kept.ite ?_ ?_ | exact fun _ hx => hx
    | exact fun _ hx => ⟨hx.1, hx.2.1, by first | exact hx.2.2.1 | exact Shadowed.agrees_of _, by first | exact hx.2.2.2.1 | exact Shadowed.agrees_of _, by first | exact hx.2.2.2.2.1 | exact Shadowed.agrees_of _, by first | exact hx.2.2.2.2.2.1 | exact Shadowed.agrees_of _, by first | exact hx.2.2.2.2.2.2.1 | exact Shadowed.agrees_of _, by first | exact hx.2.2.2.2.2.2.2.1 | exact Shadowed.agrees_of _, by first | exact hx.2.2.2.2.2.2.2.2 | exact Shadowed.agrees_of _⟩
    | intro _ | split | dsimp only | with_reducible apply Kept.parts | simp only [Kept.mk]

theorem Kept.writeDecode {d : Dev} {b : List Byte} (hk : Kept d) : Kept (d.writeDecode b) := by
  unfold Dev.writeDecode
  repeat' first
    | with_reducible assumption | with_reducible refine Kept.ite ?_ ?_ | intro _ | split | dsimp only
    | with_reducible apply Kept.parts | simp only [Kept.mk]

theorem Kept.replaceSet {d : Dev} {s : Nat} {c : CustSet} {origin : BitVec 16} (hk : Kept d) : Kept (d.replaceSet s c origin)
    := by
  unfold Dev.replaceSet
  repeat' first | with_reducible assumption | with_reducible apply Kept.storeEntry | with_reducible apply Kept.eraseEntries

theorem Kept.enrol {d : Dev} {s : Nat} {b : List Byte} {origin : BitVec 16} (hk : Kept d) : Kept (d.enrol s b origin) := by
  unfold Dev.enrol
  repeat' first
    | with_reducible assumption | with_reducible apply Kept.storeEntry | with_reducible refine Kept.ite ?_ ?_ | intro _ | split

theorem Kept.unenrol {d : Dev} {s : Nat} {digest : List Byte} (hk : Kept d) : Kept (d.unenrol s digest) := by
  unfold Dev.unenrol
  repeat' first | with_reducible assumption | with_reducible apply Kept.eraseEntries | with_reducible apply Kept.purgePrograms

theorem Kept.widen {d : Dev} {o : Order} (hk : Kept d) : Kept (d.widen o) := by
  unfold Dev.widen
  repeat' first
    | with_reducible assumption | with_reducible apply Kept.drawNonce | with_reducible apply Kept.modEntries
    | with_reducible refine Kept.ite ?_ ?_ | intro _ | split

theorem Kept.act {d : Dev} {o : Order} {cmd : Nat} (hk : Kept d) : Kept (d.act o cmd) := by
  unfold Dev.act
  repeat' first
    | with_reducible assumption | with_reducible apply Kept.modQuorum | with_reducible apply Kept.modEntry
    | with_reducible apply Kept.putDevice | with_reducible apply Kept.changeMode | with_reducible apply Kept.discardCommission
    | with_reducible apply Kept.service | with_reducible apply Kept.commission | with_reducible apply Kept.unlock
    | with_reducible apply Kept.zeroize | with_reducible apply Kept.blowFuse | with_reducible apply Kept.writeDecode
    | with_reducible apply Kept.replaceSet | with_reducible apply Kept.enrol | with_reducible apply Kept.unenrol
    | with_reducible apply Kept.widen | with_reducible refine Kept.ite ?_ ?_ | exact fun x (hx : entryKept x) => hx
    | exact fun x (hx : entryKept x) => ⟨by simp [hx.1, Shadowed.agrees_of], by simp [hx.2.1, Shadowed.agrees_of], by simp [hx.2.2.1, Shadowed.agrees_of], by simp [hx.2.2.2, Shadowed.agrees_of]⟩
    | intro _ | split

theorem Kept.refuseOrder {d : Dev} {n : Nat} {o : Order} {v : Verdict} (hk : Kept d) : Kept (d.refuseOrder n o v) := by
  unfold Dev.refuseOrder
  repeat' first
    | with_reducible assumption | with_reducible apply Kept.mqComplete | with_reducible apply Kept.setOrder
    | with_reducible apply Kept.modOrder

theorem Kept.quorumReached {d : Dev} {n : Nat} {o : Order} (hk : Kept d) : Kept (d.quorumReached n o) := by
  unfold Dev.quorumReached
  repeat' first
    | with_reducible assumption | with_reducible apply Kept.stamp | with_reducible apply Kept.mqComplete
    | with_reducible apply Kept.setOrder | with_reducible apply Kept.supersede | with_reducible apply Kept.modOrder
    | with_reducible apply Kept.act | with_reducible apply Kept.refuseOrder | with_reducible refine Kept.ite ?_ ?_ | intro _
    | split

theorem Kept.orderToken {d : Dev} {n num : Nat} {b : List Byte} (hk : Kept d) : Kept (d.orderToken n num b) := by
  unfold Dev.orderToken
  repeat' first
    | with_reducible assumption | with_reducible apply Kept.mqComplete | with_reducible apply Kept.tokenEvent
    | with_reducible apply Kept.modOrder | with_reducible apply Kept.quorumReached | with_reducible refine Kept.ite ?_ ?_
    | intro _ | split

theorem Kept.renewOrder {d : Dev} {n num : Nat} {x : Desc} (hk : Kept d) : Kept (d.renewOrder n num x) := by
  unfold Dev.renewOrder
  repeat' first
    | with_reducible assumption | with_reducible apply Kept.mqComplete | with_reducible apply Kept.cmdDone
    | with_reducible apply Kept.modOrder | with_reducible apply Kept.orderNonce | with_reducible refine Kept.ite ?_ ?_
    | (refine Kept.of_fst ‹_ = (_, _)› ?_) | (refine Kept.of_snd ‹_ = (_, _)› ?_) | intro _ | split

theorem Kept.cancelOrder {d : Dev} {n num : Nat} (hk : Kept d) : Kept (d.cancelOrder n num) := by
  unfold Dev.cancelOrder
  repeat' first
    | with_reducible assumption | with_reducible apply Kept.mqComplete | with_reducible apply Kept.setOrder
    | with_reducible refine Kept.ite ?_ ?_ | intro _ | split

theorem Kept.lapseOrder {d : Dev} {num : Nat} {st : OrderState} (hk : Kept d) : Kept (d.lapseOrder num st) := by
  unfold Dev.lapseOrder
  repeat' first
    | with_reducible assumption | with_reducible apply Kept.reach | with_reducible apply Kept.setOrder
    | with_reducible refine Kept.ite ?_ ?_ | intro _ | split

theorem Kept.endPermit {d : Dev} (hk : Kept d) : Kept (d.endPermit) := by
  unfold Dev.endPermit
  repeat' first
    | with_reducible assumption | with_reducible apply Kept.reach | with_reducible apply Kept.closeExtest
    | with_reducible apply Kept.closePermit | with_reducible refine Kept.ite ?_ ?_ | intro _ | split

end Sys2Proof
end

