-- ==== Sys2Proof/Laws/KeptPower.lean ====
section
/-! SUPPORT. Every shared operation keeps `Kept`: power-up, supplies, monitors, registers and the sideband. -/

namespace Sys2Proof

-- one proof at a time: many proofs at once ask for too many threads
set_option Elab.async false

open Machine

theorem Kept.persWrite {d : Dev} {slot : PersSlot} {v : W64} (hk : Kept d) : Kept (d.persWrite slot v) := by
  unfold Dev.persWrite
  repeat' first | with_reducible assumption | with_reducible apply Kept.modPower

theorem Kept.persCommit {d : Dev} {slot : PersSlot} (hk : Kept d) : Kept (d.persCommit slot) := by
  unfold Dev.persCommit
  repeat' first
    | with_reducible assumption | with_reducible apply Kept.modPower | with_reducible apply Kept.reach
    | with_reducible refine Kept.ite ?_ ?_

theorem Kept.persFlush {d : Dev} (hk : Kept d) : Kept (d.persFlush) := by
  unfold Dev.persFlush
  repeat' first | with_reducible assumption | with_reducible apply Kept.modPower

theorem Kept.settlePers {d : Dev} (hk : Kept d) : Kept (d.settlePers) := by
  unfold Dev.settlePers
  repeat' first | with_reducible assumption | with_reducible apply Kept.modPower

theorem Kept.volatileReset {d : Dev} (hk : Kept d) : Kept (d.volatileReset) := by
  refine ⟨by simpa [eightRidges, Dev.volatileReset] using hk.1, ?_, ⟨hk.2.2.1.1, hk.2.2.1.2.1, Shadowed.agrees_of _,
      Shadowed.agrees_of _,
    hk.2.2.1.2.2.2.2.1, Shadowed.agrees_of _, Shadowed.agrees_of _, Shadowed.agrees_of _, Shadowed.agrees_of _⟩, ?_⟩
  · intro x hx
    obtain ⟨y, _, rfl⟩ := List.mem_map.1 hx
    exact ⟨rfl, rfl, rfl, Shadowed.agrees_of _⟩
  · intro e he
    obtain ⟨y, hy, rfl⟩ := List.mem_map.1 he
    exact hk.2.2.2 y hy

theorem Kept.enterVigil {d : Dev} {cut main : Bool} (hk : Kept d) : Kept (d.enterVigil cut main) := by
  refine Kept.modPins ⟨?_, ?_, ⟨Shadowed.agrees_of _, ?_⟩, ?_⟩
  all_goals
    have h : Kept (((d.volatileReset.modTamp fun t => { t with live := d.tamp.live }).modRidge 0 fun x =>
        { x with live := (d.ridge 0).live &&& 0x18 })) :=
      (hk.volatileReset.modTamp (f := fun t => { t with live := d.tamp.live }) fun _ hx => hx).modRidge fun x (hx : ridgeKept
      x) => hx
  · exact h.1
  · exact h.2.1
  · exact h.2.2.1.2
  · exact h.2.2.2

theorem Kept.flushAll {d : Dev} (hk : Kept d) : Kept (d.flushAll) := by
  unfold Dev.flushAll
  repeat' first | with_reducible assumption | with_reducible apply Kept.flushEvents | with_reducible apply Kept.foldl

theorem Kept.powerCut {d : Dev} (hk : Kept d) : Kept (d.powerCut) := by
  unfold Dev.powerCut
  repeat' first
    | with_reducible assumption | with_reducible apply Kept.modPins | with_reducible apply Kept.modPower
    | with_reducible apply Kept.stamp | with_reducible apply Kept.modLink | with_reducible apply Kept.pkgEvent
    | with_reducible apply Kept.abortJobs | with_reducible apply Kept.abortCmds | with_reducible apply Kept.commitAck
    | with_reducible apply Kept.persFlush | with_reducible apply Kept.enterVigil | with_reducible apply Kept.flushAll
    | with_reducible apply Kept.foldl

theorem Kept.pfwFalls {d : Dev} (hk : Kept d) : Kept (d.pfwFalls) := by
  unfold Dev.pfwFalls
  repeat' first
    | with_reducible assumption | with_reducible apply Kept.modPins | with_reducible apply Kept.cut
    | with_reducible apply Kept.powerCut | with_reducible refine Kept.ite ?_ ?_

theorem Kept.porFalls {d : Dev} (hk : Kept d) : Kept (d.porFalls) := by
  unfold Dev.porFalls
  repeat' first
    | with_reducible assumption | with_reducible apply Kept.modPins | with_reducible apply Kept.modVigil
    | with_reducible apply Kept.volatileReset | with_reducible refine Kept.ite ?_ ?_

theorem Kept.mainLost {d : Dev} (hk : Kept d) : Kept (d.mainLost) := by
  unfold Dev.mainLost
  repeat' first
    | with_reducible assumption | with_reducible apply Kept.modPins | with_reducible apply Kept.modPower
    | with_reducible apply Kept.tamper | with_reducible apply Kept.enterVigil | with_reducible apply Kept.flushAll
    | with_reducible refine Kept.ite ?_ ?_

theorem Kept.vigilHit {d : Dev} {id : Nat} (hk : Kept d) : Kept (d.vigilHit id) := by
  unfold Dev.vigilHit
  repeat' first
    | with_reducible assumption | with_reducible apply Kept.vigilEvent | with_reducible apply Kept.cellsLost
    | with_reducible refine Kept.ite ?_ ?_

theorem Kept.bootVigil {d : Dev} {vholdOk : Bool} (hk : Kept d) : Kept (d.bootVigil vholdOk).1 := by
  unfold Dev.bootVigil
  extract_lets was d₁ d₂ d₃ d₄ d₅ cls src last d₆ d₇ d₈
  have h₃ : Kept d₃ := hk.modPins.modLink.modLink.modPower
  have h₄ : Kept d₄ := Kept.ite ((h₃.modTamp (f := fun t => { t with live := 0 }) fun _ hx => hx).modRidges fun x hx => hx) h₃
  have h₅ : Kept d₅ := Kept.ite h₄.clearSource.markSupply h₄.tamper.modVigil
  have h₆ : Kept d₆ := by
    unfold d₆
    split <;> exact h₅
  have h₇ : Kept d₇ := Kept.ite h₆.eraseVsalt h₆
  have h₈ : Kept d₈ := Kept.ite h₇.eraseVsalt.driveOut (Kept.ite h₇.driveOut h₇)
  exact h₈

theorem Kept.setRecord {d : Dev} {m : Mode} {prior : BitVec 3} {exported : Bool} (hk : Kept d) : Kept (d.setRecord m prior
    exported) := by
  unfold Dev.setRecord
  repeat' first
    | with_reducible assumption | with_reducible apply Kept.modVigil | with_reducible apply Kept.propose
    | with_reducible apply Kept.copyRecord | with_reducible apply Kept.commitRecord | with_reducible refine Kept.ite ?_ ?_
    | intro _ | split | dsimp only | with_reducible apply Kept.parts | simp only [Kept.mk]

theorem Kept.bootMode {d : Dev} {cls : BitVec 2} (hk : Kept d) : Kept (d.bootMode cls) := by
  unfold Dev.bootMode
  repeat' first
    | with_reducible assumption | with_reducible apply Kept.modTamp | with_reducible apply Kept.modPins
    | with_reducible apply Kept.modBoot | with_reducible apply Kept.raise | with_reducible apply Kept.lapse
    | with_reducible apply Kept.closeExtest | with_reducible apply Kept.closePermit | with_reducible apply Kept.showMode
    | with_reducible apply Kept.eraseVsalt | with_reducible apply Kept.discardCommission | with_reducible apply Kept.mismatch
    | with_reducible apply Kept.commission | with_reducible apply Kept.setRecord | with_reducible refine Kept.ite ?_ ?_
    | exact fun _ hx => hx
    | exact fun _ hx => ⟨hx.1, hx.2.1, by first | exact hx.2.2.1 | exact Shadowed.agrees_of _, by first | exact hx.2.2.2.1 | exact Shadowed.agrees_of _, by first | exact hx.2.2.2.2.1 | exact Shadowed.agrees_of _, by first | exact hx.2.2.2.2.2.1 | exact Shadowed.agrees_of _, by first | exact hx.2.2.2.2.2.2.1 | exact Shadowed.agrees_of _, by first | exact hx.2.2.2.2.2.2.2.1 | exact Shadowed.agrees_of _, by first | exact hx.2.2.2.2.2.2.2.2 | exact Shadowed.agrees_of _⟩

theorem Kept.bootRidge {d : Dev} {f : BootFacts} {r : Nat} (hk : Kept d) : Kept (d.bootRidge f r) := by
  unfold Dev.bootRidge
  repeat' first
    | with_reducible assumption | with_reducible apply Kept.modBoot | with_reducible apply Kept.modRidge
    | with_reducible apply Kept.ridgeEvent | with_reducible apply Kept.pkgEvent | with_reducible apply Kept.draw
    | with_reducible apply Kept.addMLog | with_reducible apply Kept.foldl | with_reducible refine Kept.ite ?_ ?_
    | exact fun x (hx : ridgeKept x) => hx | (refine fun x (hx : ridgeKept x) => ?_; split <;> exact hx)
    | exact fun x (hx : ridgeKept x) => ⟨by first | exact hx.1 | rfl | (dsimp only; repeat' first | exact hx.1 | apply memWf_memZero | apply memWf_memPut | split), by simp [hx.2.1], by simp [hx.2.2.1], by first | exact hx.2.2.2 | exact Shadowed.agrees_of _ | rfl | simp [hx.2.2.2]⟩
    | (refine Kept.of_fst ‹_ = (_, _)› ?_) | (refine Kept.of_snd ‹_ = (_, _)› ?_) | intro _ | split | dsimp only
    | with_reducible apply Kept.parts | simp only [Kept.mk]

theorem Kept.joinLog {d : Dev} (hk : Kept d) : Kept (d.joinLog) := by
  unfold Dev.joinLog
  repeat' first | with_reducible assumption | with_reducible apply Kept.modLog

theorem Kept.bootRidges {d : Dev} {f : BootFacts} (hk : Kept d) : Kept (d.bootRidges f) := by
  unfold Dev.bootRidges
  repeat' first
    | with_reducible assumption | with_reducible apply Kept.modBoot | with_reducible apply Kept.flushEvents
    | with_reducible apply Kept.bootRidge | with_reducible apply Kept.joinLog | with_reducible apply Kept.foldl
    | with_reducible refine Kept.ite ?_ ?_ | intro _ | split | dsimp only | with_reducible apply Kept.parts
    | simp only [Kept.mk]

theorem Kept.bootSource {d : Dev} {f : BootFacts} {r n : Nat} (hk : Kept d) : Kept (d.bootSource f r n) := by
  unfold Dev.bootSource
  repeat' first
    | with_reducible assumption | with_reducible apply Kept.ridgeEvent | with_reducible apply Kept.modSrc
    | with_reducible apply Kept.sourceFails | with_reducible apply Kept.calibrate | with_reducible refine Kept.ite ?_ ?_

theorem Kept.bootEntropy {d : Dev} {f : BootFacts} {r : Nat} (hk : Kept d) : Kept (d.bootEntropy f r) := by
  unfold Dev.bootEntropy
  repeat' first
    | with_reducible assumption | with_reducible apply Kept.draw | with_reducible apply Kept.modRng
    | with_reducible apply Kept.refillBuf | with_reducible apply Kept.bootSource | with_reducible refine Kept.ite ?_ ?_

theorem Kept.bootSeed {d : Dev} {r : Nat} (hk : Kept d) : Kept (d.bootSeed r) := by
  unfold Dev.bootSeed
  repeat' first
    | with_reducible assumption | with_reducible apply Kept.askSeed | with_reducible apply Kept.takeSeed
    | with_reducible refine Kept.ite ?_ ?_ | intro _ | split | dsimp only

theorem Kept.bootSources {d : Dev} {f : BootFacts} (hk : Kept d) : Kept (d.bootSources f) := by
  unfold Dev.bootSources
  repeat' first
    | with_reducible assumption | with_reducible apply Kept.bootEntropy | with_reducible apply Kept.bootSeed
    | with_reducible apply Kept.foldl | with_reducible refine Kept.ite ?_ ?_ | intro _

theorem Kept.deliverKey {d : Dev} {k : Nat} (hk : Kept d) : Kept (d.deliverKey k) := by
  unfold Dev.deliverKey
  repeat' first
    | with_reducible assumption | with_reducible apply Kept.modRidge | with_reducible apply Kept.foldl
    | with_reducible refine Kept.ite ?_ ?_ | exact fun x (hx : ridgeKept x) => hx
    | exact fun x (hx : ridgeKept x) => ⟨by first | exact hx.1 | rfl | (dsimp only; repeat' first | exact hx.1 | apply memWf_memZero | apply memWf_memPut | split), by simp [hx.2.1], by simp [hx.2.2.1], by first | exact hx.2.2.2 | exact Shadowed.agrees_of _ | rfl | simp [hx.2.2.2]⟩
    | intro _

theorem Kept.bootKey {d : Dev} (hk : Kept d) : Kept (d.bootKey) := by
  unfold Dev.bootKey
  repeat' first
    | with_reducible assumption | with_reducible apply Kept.modBoot | with_reducible apply Kept.draw
    | with_reducible apply Kept.generate | with_reducible apply Kept.bootSeed | with_reducible apply Kept.deliverKey
    | with_reducible apply Kept.foldl | with_reducible refine Kept.ite ?_ ?_

theorem Kept.freeGranule {d : Dev} (hk : Kept d) : Kept (d.freeGranule).2 := by
  unfold Dev.freeGranule
  repeat' first | with_reducible assumption | with_reducible apply Kept.draw

theorem Kept.spoil {d : Dev} {bad : List (Nat × Nat × Option Nat × Nat)} (hk : Kept d) : Kept (d.spoil bad) := by
  unfold Dev.spoil
  repeat' first
    | with_reducible assumption | with_reducible apply Kept.modRidge | with_reducible apply Kept.foldl
    | with_reducible refine Kept.ite ?_ ?_ | exact fun x (hx : ridgeKept x) => hx
    | exact fun x (hx : ridgeKept x) => ⟨by first | exact hx.1 | rfl | (dsimp only; repeat' first | exact hx.1 | apply memWf_memZero | apply memWf_memPut | split), by simp [hx.2.1], by simp [hx.2.2.1], by first | exact hx.2.2.2 | exact Shadowed.agrees_of _ | rfl | simp [hx.2.2.2]⟩
    | intro _

theorem Kept.setOwned {d : Dev} {o : Option Nat} {r : Nat} {es : List Entry} (hk : Kept d) : Kept (d.setOwned o r es) := by
  unfold Dev.setOwned
  repeat' first
    | with_reducible assumption | with_reducible apply Kept.modRidge | with_reducible refine Kept.ite ?_ ?_
    | exact fun x (hx : ridgeKept x) => hx

theorem Kept.repairFrom {d : Dev} {o : Option Nat} {r t : Nat} (hk : Kept d) : Kept (d.repairFrom o r t) := by
  unfold Dev.repairFrom
  repeat' first
    | with_reducible assumption | with_reducible apply Kept.ridgeEvent | with_reducible apply Kept.freeGranule
    | with_reducible apply Kept.setOwned | with_reducible apply Kept.foldl | with_reducible refine Kept.ite ?_ ?_
    | (refine Kept.of_fst ‹_ = (_, _)› ?_) | (refine Kept.of_snd ‹_ = (_, _)› ?_) | intro _

theorem Kept.repair {d : Dev} {o : Option Nat} (hk : Kept d) : Kept (d.repair o) := by
  unfold Dev.repair
  repeat' first
    | with_reducible assumption | with_reducible apply Kept.mismatch | with_reducible apply Kept.repairFrom
    | with_reducible refine Kept.ite ?_ ?_

theorem Kept.reconcile {d : Dev} {o : Option Nat} (hk : Kept d) : Kept (d.reconcile o) := by
  unfold Dev.reconcile
  repeat' first
    | with_reducible assumption | with_reducible apply Kept.modRun | with_reducible apply Kept.mismatch
    | with_reducible apply Kept.setOwned | with_reducible refine Kept.ite ?_ ?_ | intro _ | split

theorem Kept.moveSeam {d : Dev} {s : Nat} (hk : Kept d) : Kept (d.moveSeam s) := by
  unfold Dev.moveSeam
  repeat' first
    | with_reducible assumption | with_reducible apply Kept.modEntry | with_reducible apply Kept.seamFault
    | with_reducible apply Kept.unmirror | with_reducible refine Kept.ite ?_ ?_ | exact fun x (hx : entryKept x) => hx
    | exact fun x (hx : entryKept x) => ⟨by simp [hx.1, Shadowed.agrees_of], by simp [hx.2.1, Shadowed.agrees_of], by simp [hx.2.2.1, Shadowed.agrees_of], by simp [hx.2.2.2, Shadowed.agrees_of]⟩

theorem Kept.dropStale {d : Dev} (hk : Kept d) : Kept (d.dropStale) := by
  unfold Dev.dropStale
  repeat' first
    | with_reducible assumption | with_reducible apply Kept.modRidge | with_reducible apply Kept.foldl
    | with_reducible refine Kept.ite ?_ ?_ | exact fun x (hx : ridgeKept x) => hx
    | exact fun x (hx : ridgeKept x) => ⟨by first | exact hx.1 | rfl | (dsimp only; repeat' first | exact hx.1 | apply memWf_memZero | apply memWf_memPut | split), by simp [hx.2.1], by simp [hx.2.2.1], by first | exact hx.2.2.2 | exact Shadowed.agrees_of _ | rfl | simp [hx.2.2.2]⟩
    | intro _

theorem Kept.unfault {d : Dev} (hk : Kept d) : Kept (d.unfault) := by
  refine hk.modSeams fun n x (hx : entryKept x.entry) => ?_
  split
  · exact hx
  · exact hx

theorem Kept.scrub {d : Dev} {f : BootFacts} (hk : Kept d) : Kept (d.scrub f) := by
  unfold Dev.scrub
  repeat' first
    | with_reducible assumption | with_reducible apply Kept.modBoot | with_reducible apply Kept.modRidge
    | with_reducible apply Kept.modRidges | with_reducible apply Kept.modSeams | with_reducible apply Kept.ridgeEvent
    | with_reducible apply Kept.pkgEvent | with_reducible apply Kept.discardSettings | with_reducible apply Kept.freeGranule
    | with_reducible apply Kept.foldl | with_reducible refine Kept.ite ?_ ?_ | exact fun x (hx : ridgeKept x) => hx
    | (refine fun x (hx : ridgeKept x) => ?_; split <;> exact hx)
    | exact fun x (hx : ridgeKept x) => ⟨by first | exact hx.1 | rfl | (dsimp only; repeat' first | exact hx.1 | apply memWf_memZero | apply memWf_memPut | split), by simp [hx.2.1], by simp [hx.2.2.1], by first | exact hx.2.2.2 | exact Shadowed.agrees_of _ | rfl | simp [hx.2.2.2]⟩
    | exact fun n x (hx : entryKept x.entry) => hx
    | exact fun _ x (hx : entryKept x.entry) => ⟨by first | exact hx.1 | exact Shadowed.agrees_of _ | rfl, by first | exact hx.2.1 | exact Shadowed.agrees_of _ | rfl, by first | exact hx.2.2.1 | exact Shadowed.agrees_of _, by first | exact hx.2.2.2 | exact Shadowed.agrees_of _ | simp [SeamEntry.blank, Shadowed.agrees_of]⟩
    | (refine Kept.of_fst ‹_ = (_, _)› ?_) | (refine Kept.of_snd ‹_ = (_, _)› ?_) | intro _

theorem Kept.unseal {d : Dev} {f : BootFacts} (hk : Kept d) : Kept (d.unseal f) := by
  unfold Dev.unseal
  repeat' first
    | with_reducible assumption | with_reducible apply Kept.deriveRoots | with_reducible apply Kept.spoil
    | with_reducible apply Kept.repair | with_reducible apply Kept.reconcile | with_reducible apply Kept.moveSeam
    | with_reducible apply Kept.dropStale | with_reducible apply Kept.unfault | with_reducible apply Kept.foldl

theorem Kept.bootStore {d : Dev} {f : BootFacts} (hk : Kept d) : Kept (d.bootStore f) := by
  unfold Dev.bootStore
  repeat' first
    | with_reducible assumption | with_reducible apply Kept.modBoot | with_reducible apply Kept.mergeVigilLog
    | with_reducible apply Kept.settlePers | with_reducible apply Kept.joinLog | with_reducible apply Kept.scrub
    | with_reducible apply Kept.unseal | with_reducible refine Kept.ite ?_ ?_

theorem Kept.bootEnd {d : Dev} {f : BootFacts} (hk : Kept d) : Kept (d.bootEnd f) := by
  unfold Dev.bootEnd
  repeat' first
    | with_reducible assumption | with_reducible apply Kept.bootKey | with_reducible apply Kept.bootStore
    | with_reducible refine Kept.ite ?_ ?_

theorem Kept.powerUp {d : Dev} {f : BootFacts} (hk : Kept d) : Kept (d.powerUp f) := by
  unfold Dev.powerUp
  repeat' first
    | with_reducible assumption | with_reducible apply Kept.cut | with_reducible apply Kept.bootVigil
    | with_reducible apply Kept.bootMode | with_reducible apply Kept.bootRidges | with_reducible apply Kept.bootSources
    | with_reducible apply Kept.bootEnd | with_reducible refine Kept.ite ?_ ?_

theorem Kept.bootDone {d : Dev} {elapsed : Nat} (hk : Kept d) : Kept (d.bootDone elapsed) := by
  unfold Dev.bootDone
  repeat' first
    | with_reducible assumption | with_reducible apply Kept.modPins | with_reducible apply Kept.modBoot
    | with_reducible apply Kept.modRidges | with_reducible apply Kept.pkgEvent | with_reducible apply Kept.govern
    | with_reducible apply Kept.changeMode | with_reducible apply Kept.mqFetch | with_reducible apply Kept.scrub
    | with_reducible refine Kept.ite ?_ ?_ | exact fun x (hx : ridgeKept x) => hx
    | (refine fun x (hx : ridgeKept x) => ?_; split <;> exact hx)

theorem Kept.modSpine {d : Dev} {r : Nat} {f : SpinePort → SpinePort} (hk : Kept d) : Kept (d.modSpine r f) := by
  unfold Dev.modSpine
  repeat' first
    | with_reducible assumption | with_reducible apply Kept.modRidge | with_reducible refine Kept.ite ?_ ?_
    | exact fun x (hx : ridgeKept x) => hx

theorem Kept.transfer {d : Dev} {src dst : Nat} {authentic : Bool} {latency : Nat} (hk : Kept d) : Kept (d.transfer src dst
    authentic latency) := by
  unfold Dev.transfer
  repeat' first
    | with_reducible assumption | with_reducible apply Kept.spineSend | with_reducible apply Kept.tamper
    | with_reducible apply Kept.loseRidge | with_reducible apply Kept.modSpine | with_reducible refine Kept.ite ?_ ?_

theorem Kept.gateCluster {d : Dev} {r c : Nat} (hk : Kept d) : Kept (d.gateCluster r c) := by
  unfold Dev.gateCluster
  repeat' first
    | with_reducible assumption | with_reducible apply Kept.modRidge | with_reducible refine Kept.ite ?_ ?_
    | exact fun x (hx : ridgeKept x) => hx

theorem Kept.ungateCluster {d : Dev} {r c : Nat} (hk : Kept d) : Kept (d.ungateCluster r c) := by
  unfold Dev.ungateCluster
  repeat' first
    | with_reducible assumption | with_reducible apply Kept.modRidge | with_reducible apply Kept.promote
    | with_reducible apply Kept.foldl | with_reducible refine Kept.ite ?_ ?_ | exact fun x (hx : ridgeKept x) => hx
    | exact fun x (hx : ridgeKept x) => ⟨by first | exact hx.1 | rfl | (dsimp only; repeat' first | exact hx.1 | apply memWf_memZero | apply memWf_memPut | split), by simp [hx.2.1], by simp [hx.2.2.1], by first | exact hx.2.2.2 | exact Shadowed.agrees_of _ | rfl | simp [hx.2.2.2]⟩
    | intro _

theorem Kept.sleep {d : Dev} {r : Nat} (hk : Kept d) : Kept (d.sleep r) := by
  unfold Dev.sleep
  repeat' first
    | with_reducible assumption | with_reducible apply Kept.modRidge | with_reducible apply Kept.govern
    | with_reducible refine Kept.ite ?_ ?_ | exact fun x (hx : ridgeKept x) => hx

theorem Kept.wake {d : Dev} {r : Nat} {why : WakeCause} (hk : Kept d) : Kept (d.wake r why) := by
  unfold Dev.wake
  repeat' first
    | with_reducible assumption | with_reducible apply Kept.modRidge | with_reducible apply Kept.askWake
    | with_reducible refine Kept.ite ?_ ?_ | exact fun x (hx : ridgeKept x) => hx
    | exact fun x (hx : ridgeKept x) => ⟨by first | exact hx.1 | rfl | (dsimp only; repeat' first | exact hx.1 | apply memWf_memZero | apply memWf_memPut | split), by simp [hx.2.1], by simp [hx.2.2.1], by first | exact hx.2.2.2 | exact Shadowed.agrees_of _ | rfl | simp [hx.2.2.2]⟩
    | intro _ | split

theorem Kept.awake {d : Dev} {r : Nat} (hk : Kept d) : Kept (d.awake r) := by
  unfold Dev.awake
  repeat' first
    | with_reducible assumption | with_reducible apply Kept.modRidge | with_reducible apply Kept.govern
    | with_reducible refine Kept.ite ?_ ?_ | exact fun x (hx : ridgeKept x) => hx

theorem Kept.pllFail {d : Dev} {r : Nat} {core : Bool} (hk : Kept d) : Kept (d.pllFail r core) := by
  unfold Dev.pllFail
  repeat' first
    | with_reducible assumption | with_reducible apply Kept.modRidge | with_reducible apply Kept.ridgeEvent
    | with_reducible apply Kept.loseRidge | with_reducible refine Kept.ite ?_ ?_ | exact fun x (hx : ridgeKept x) => hx

theorem Kept.setPerst {d : Dev} {l : Lk} {v : Bool} (hk : Kept d) : Kept (d.setPerst l v) := by
  unfold Dev.setPerst
  repeat' first | with_reducible assumption | with_reducible apply Kept.modPins

theorem Kept.mqResume {d : Dev} (hk : Kept d) : Kept (d.mqResume) := by
  unfold Dev.mqResume
  repeat' first | with_reducible assumption | with_reducible apply Kept.mqDrain | with_reducible apply Kept.mqFetch

theorem Kept.hostWrite {d : Dev} {l : Lk} {offset : Nat} {f : Dev → Dev} (hk : Kept d) (hf : ∀ d, Kept d → Kept (f d)) : Kept
    (d.hostWrite l offset f) := by
  unfold Dev.hostWrite
  repeat' first
    | with_reducible assumption | with_reducible apply hf | with_reducible apply Kept.stampWrite
    | with_reducible apply Kept.ignoredWrite | with_reducible refine Kept.ite ?_ ?_

theorem Kept.modLevels {d : Dev} {r : Nat} {f : Levels → Levels} (hk : Kept d) : Kept (d.modLevels r f) := by
  unfold Dev.modLevels
  repeat' first
    | with_reducible assumption | with_reducible apply Kept.modRidge | with_reducible refine Kept.ite ?_ ?_
    | exact fun x (hx : ridgeKept x) => hx

theorem Kept.threshold {d : Dev} {r i : Nat} {j : Bool × Bool} (hk : Kept d) : Kept (d.threshold r i j) := by
  unfold Dev.threshold
  repeat' first
    | with_reducible assumption | with_reducible apply Kept.ridgeEvent | with_reducible apply Kept.modLevels
    | with_reducible refine Kept.ite ?_ ?_

theorem Kept.levelSample {d : Dev} {r : Nat} {core sram : BitVec 11} {temp : BitVec 12} (hk : Kept d) : Kept (d.levelSample r
    core sram temp) := by
  unfold Dev.levelSample
  repeat' first
    | with_reducible assumption | with_reducible apply Kept.modLevels | with_reducible apply Kept.threshold
    | with_reducible apply Kept.foldl | with_reducible refine Kept.ite ?_ ?_ | intro _

theorem Kept.restartSource {d : Dev} {r n : Nat} (hk : Kept d) : Kept (d.restartSource r n) := by
  unfold Dev.restartSource
  repeat' first
    | with_reducible assumption | with_reducible apply Kept.reach | with_reducible apply Kept.ridgeEvent
    | with_reducible apply Kept.modSrc | with_reducible apply Kept.calibrate | with_reducible refine Kept.ite ?_ ?_

theorem Kept.cleanSource {d : Dev} {r n : Nat} (hk : Kept d) : Kept (d.cleanSource r n) := by
  unfold Dev.cleanSource
  repeat' first
    | with_reducible assumption | with_reducible apply Kept.reach | with_reducible apply Kept.modSrc
    | with_reducible refine Kept.ite ?_ ?_

theorem Kept.rearm {d : Dev} {r n : Nat} (hk : Kept d) : Kept (d.rearm r n) := by
  unfold Dev.rearm
  repeat' first
    | with_reducible assumption | with_reducible apply Kept.ridgeEvent | with_reducible apply Kept.modSrc
    | with_reducible apply Kept.calibrate | with_reducible refine Kept.ite ?_ ?_

theorem Kept.modPerf {d : Dev} {u : Nat} {f : PerfUnit → PerfUnit} (hk : Kept d) : Kept (d.modPerf u f) := by
  unfold Dev.modPerf
  repeat' first
    | with_reducible assumption | with_reducible refine Kept.ite ?_ ?_ | intro _ | split | dsimp only
    | with_reducible apply Kept.parts | simp only [Kept.mk]

theorem Kept.rngData {d : Dev} {l : Lk} {s size : Nat} (hk : Kept d) : Kept (d.rngData l s size).2 := by
  unfold Dev.rngData
  repeat' first
    | with_reducible assumption | with_reducible apply Kept.modRng | with_reducible apply Kept.refillBuf
    | with_reducible apply Kept.service | with_reducible refine Kept.ite ?_ ?_ | intro _ | split | dsimp only

theorem Kept.rngDataRead {d : Dev} {l : Lk} {s size : Nat} (hk : Kept d) : Kept (d.rngDataRead l s size) := by
  unfold Dev.rngDataRead
  repeat' first | with_reducible assumption | with_reducible apply Kept.modAccess | with_reducible apply Kept.rngData

theorem Kept.setClass {d : Dev} {id : Nat} {v : BitVec 2} (hk : Kept d) : Kept (d.setClass id v) := by
  unfold Dev.setClass
  repeat' first
    | with_reducible assumption | with_reducible apply Kept.modTamp | with_reducible refine Kept.ite ?_ ?_
    | exact fun _ hx => hx
    | exact fun _ hx => ⟨hx.1, hx.2.1, by first | exact hx.2.2.1 | exact Shadowed.agrees_of _, by first | exact hx.2.2.2.1 | exact Shadowed.agrees_of _, by first | exact hx.2.2.2.2.1 | exact Shadowed.agrees_of _, by first | exact hx.2.2.2.2.2.1 | exact Shadowed.agrees_of _, by first | exact hx.2.2.2.2.2.2.1 | exact Shadowed.agrees_of _, by first | exact hx.2.2.2.2.2.2.2.1 | exact Shadowed.agrees_of _, by first | exact hx.2.2.2.2.2.2.2.2 | exact Shadowed.agrees_of _⟩

theorem Kept.classWrite {d : Dev} {id : Nat} {v : BitVec 2} (hk : Kept d) : Kept (d.classWrite id v) := by
  unfold Dev.classWrite
  repeat' first
    | with_reducible assumption | with_reducible apply Kept.pkgEvent | with_reducible apply Kept.supersede
    | with_reducible apply Kept.consumeOrder | with_reducible apply Kept.setClass | with_reducible refine Kept.ite ?_ ?_
    | intro _ | split

theorem Kept.classField {d : Dev} {id n : Nat} {a b : Option W64} (hk : Kept d) : Kept (d.classField id n a b) := by
  unfold Dev.classField
  repeat' first
    | with_reducible assumption | with_reducible apply Kept.modQuorum | with_reducible apply Kept.pkgEvent
    | with_reducible apply Kept.classWrite | with_reducible refine Kept.ite ?_ ?_ | intro _ | split

theorem Kept.classRegister {d : Dev} {perRidge : Bool} {a b : Option W64} (hk : Kept d) : Kept (d.classRegister perRidge a b)
    := by
  unfold Dev.classRegister
  repeat' first
    | with_reducible assumption | with_reducible apply Kept.persWrite | with_reducible apply Kept.classField
    | with_reducible apply Kept.foldl | with_reducible refine Kept.ite ?_ ?_ | intro _

theorem Kept.ctrlAfter {d : Dev} {v : W64} (hk : Kept d) : shadowsAgree { d with tamp := d.ctrlAfter v } := by
  have h := hk.2.2.1
  unfold Dev.ctrlAfter
  refine ⟨h.1, h.2.1, ?_⟩
  dsimp only
  split
  · refine ⟨h.2.2.1, h.2.2.2.1, h.2.2.2.2.1, Shadowed.agrees_of _, Shadowed.agrees_of _, ?_, Shadowed.agrees_of _⟩
    split
    · exact h.2.2.2.2.2.2.2.1
    · exact Shadowed.agrees_of _
  · split
    · refine ⟨h.2.2.1, h.2.2.2.1, h.2.2.2.2.1, ?_, ?_, h.2.2.2.2.2.2.2⟩
      · dsimp only
        split
        · exact h.2.2.2.2.2.1
        · exact Shadowed.agrees_of _
      · dsimp only
        split
        · exact Shadowed.agrees_of _
        · exact h.2.2.2.2.2.2.1
    · exact h.2.2

theorem Kept.tampCtrl {d : Dev} {l : Lk} {v : W64} (hk : Kept d) : Kept (d.tampCtrl l v) := by
  unfold Dev.tampCtrl
  repeat' first
    | with_reducible assumption | with_reducible apply Kept.modTamp | with_reducible apply Kept.ignoredWrite
    | with_reducible apply Kept.persWrite | with_reducible refine Kept.ite ?_ ?_ | dsimp only
    | exact fun _ hx => ⟨hx.1, hx.2.1, (Kept.ctrlAfter hk).2.2⟩

theorem Kept.setCacheMode {d : Dev} {l : Lk} {offset : Nat} {v : W64} (hk : Kept d) : Kept (d.setCacheMode l offset v) := by
  unfold Dev.setCacheMode
  repeat' first
    | with_reducible assumption | with_reducible apply Kept.ignoredWrite | with_reducible apply Kept.commission
    | with_reducible apply Kept.persWrite | with_reducible refine Kept.ite ?_ ?_ | intro _ | split | dsimp only
    | with_reducible apply Kept.parts | simp only [Kept.mk]

theorem Kept.setNeighbour {d : Dev} {l : Lk} {v : W64} (hk : Kept d) : Kept (d.setNeighbour l v) := by
  unfold Dev.setNeighbour
  repeat' first
    | with_reducible assumption | with_reducible apply Kept.ignoredWrite | with_reducible apply Kept.commission
    | with_reducible apply Kept.persWrite | with_reducible refine Kept.ite ?_ ?_ | intro _ | split | dsimp only
    | with_reducible apply Kept.parts | simp only [Kept.mk]

theorem Kept.newCeiling {d : Dev} {was : Nat} (hk : Kept d) : Kept (d.newCeiling was) := by
  unfold Dev.newCeiling
  repeat' first | with_reducible assumption | with_reducible apply Kept.pkgEvent | with_reducible apply Kept.govern

theorem Kept.setEnvelope {d : Dev} {l : Lk} {v : W64} (hk : Kept d) : Kept (d.setEnvelope l v) := by
  unfold Dev.setEnvelope
  repeat' first
    | with_reducible assumption | with_reducible apply Kept.modPower | with_reducible apply Kept.ignoredWrite
    | with_reducible apply Kept.persWrite | with_reducible apply Kept.newCeiling | with_reducible refine Kept.ite ?_ ?_
    | intro _ | split

theorem Kept.setCap {d : Dev} {v : W64} (hk : Kept d) : Kept (d.setCap v) := by
  unfold Dev.setCap
  repeat' first
    | with_reducible assumption | with_reducible apply Kept.modPower | with_reducible apply Kept.pkgEvent
    | with_reducible apply Kept.newCeiling | with_reducible refine Kept.ite ?_ ?_ | intro _ | split

theorem Kept.gateBlock {d : Dev} {r b : Nat} {v : Bool} (hk : Kept d) : Kept (d.gateBlock r b v) := by
  unfold Dev.gateBlock
  repeat' first
    | with_reducible assumption | with_reducible apply Kept.modRidge | with_reducible apply Kept.ridgeEvent
    | with_reducible apply Kept.modWorld | with_reducible apply Kept.claim | with_reducible refine Kept.ite ?_ ?_
    | exact fun x (hx : ridgeKept x) => hx
    | exact fun x (hx : ridgeKept x) => ⟨by first | exact hx.1 | rfl | (dsimp only; repeat' first | exact hx.1 | apply memWf_memZero | apply memWf_memPut | split), by simp [hx.2.1], by simp [hx.2.2.1], by first | exact hx.2.2.2 | exact Shadowed.agrees_of _ | rfl | simp [hx.2.2.2]⟩
    | exact fun x (hx : x.line.agrees = true) => hx

theorem Kept.gateWrite {d : Dev} {r : Nat} {v : W64} (hk : Kept d) : Kept (d.gateWrite r v) := by
  unfold Dev.gateWrite
  repeat' first
    | with_reducible assumption | with_reducible apply Kept.modRidge | with_reducible apply Kept.gateBlock
    | with_reducible apply Kept.foldl | with_reducible refine Kept.ite ?_ ?_ | exact fun x (hx : ridgeKept x) => hx
    | exact fun x (hx : ridgeKept x) => ⟨by first | exact hx.1 | rfl | (dsimp only; repeat' first | exact hx.1 | apply memWf_memZero | apply memWf_memPut | split), by simp [hx.2.1], by simp [hx.2.2.1], by first | exact hx.2.2.2 | exact Shadowed.agrees_of _ | rfl | simp [hx.2.2.2]⟩
    | intro _

theorem Kept.setTimeout {d : Dev} {l : Lk} {v : W64} (hk : Kept d) : Kept (d.setTimeout l v) := by
  unfold Dev.setTimeout
  repeat' first
    | with_reducible assumption | with_reducible apply Kept.ignoredWrite | with_reducible refine Kept.ite ?_ ?_ | intro _
    | split | dsimp only | with_reducible apply Kept.parts | simp only [Kept.mk]

theorem Kept.clearLat {d : Dev} {r : Nat} (hk : Kept d) : Kept (d.clearLat r) := by
  unfold Dev.clearLat
  repeat' first
    | with_reducible assumption | with_reducible apply Kept.modRidge | with_reducible refine Kept.ite ?_ ?_
    | exact fun x (hx : ridgeKept x) => hx

theorem Kept.msixWord {d : Dev} {l : Lk} {o : Nat} {v : BitVec 32} (hk : Kept d) : Kept (d.msixWord l o v) := by
  unfold Dev.msixWord
  repeat' first
    | with_reducible assumption | with_reducible apply Kept.modLink | with_reducible apply Kept.ignoredWrite
    | with_reducible apply Kept.msix | with_reducible apply Kept.unmask | with_reducible refine Kept.ite ?_ ?_

theorem Kept.writeSelect {d : Dev} {l : Lk} {off : Nat} {v : W64} (hk : Kept d) : Kept (d.writeSelect l off v) := by
  unfold Dev.writeSelect
  repeat' first
    | with_reducible assumption | with_reducible apply Kept.modLink | with_reducible apply Kept.ignoredWrite
    | with_reducible refine Kept.ite ?_ ?_

theorem Kept.writeLinkMq {d : Dev} {l : Lk} {off : Nat} {v : W64} (hk : Kept d) : Kept (d.writeLinkMq l off v) := by
  unfold Dev.writeLinkMq
  repeat' first
    | with_reducible assumption | with_reducible apply Kept.modMq | with_reducible apply Kept.ignoredWrite
    | with_reducible apply Kept.mqTail | with_reducible apply Kept.mqHead | with_reducible apply Kept.mqCtrl
    | with_reducible apply Kept.setTimeout | with_reducible refine Kept.ite ?_ ?_

theorem Kept.writePwr {d : Dev} {l : Lk} {off : Nat} {v : W64} (hk : Kept d) : Kept (d.writePwr l off v) := by
  unfold Dev.writePwr
  repeat' first
    | with_reducible assumption | with_reducible apply Kept.modPower | with_reducible apply Kept.ignoredWrite
    | with_reducible apply Kept.persWrite | with_reducible apply Kept.setEnvelope | with_reducible apply Kept.gateWrite
    | with_reducible refine Kept.ite ?_ ?_

theorem Kept.writeSource {d : Dev} {r n : Nat} {v : W64} (hk : Kept d) : Kept (d.writeSource r n v) := by
  unfold Dev.writeSource
  repeat' first
    | with_reducible assumption | with_reducible apply Kept.modSrc | with_reducible apply Kept.rearm
    | with_reducible refine Kept.ite ?_ ?_

theorem Kept.writeRng {d : Dev} {l : Lk} {off : Nat} {v : W64} (hk : Kept d) : Kept (d.writeRng l off v) := by
  unfold Dev.writeRng
  repeat' first
    | with_reducible assumption | with_reducible apply Kept.ignoredWrite | with_reducible apply Kept.setNeighbour
    | with_reducible apply Kept.writeSource | with_reducible refine Kept.ite ?_ ?_

theorem Kept.writeTamp {d : Dev} {l : Lk} {off : Nat} {v : W64} (hk : Kept d) : Kept (d.writeTamp l off v) := by
  unfold Dev.writeTamp
  repeat' first
    | with_reducible assumption | with_reducible apply Kept.modTamp | with_reducible apply Kept.modRidge
    | with_reducible apply Kept.ignoredWrite | with_reducible apply Kept.classRegister | with_reducible apply Kept.tampCtrl
    | with_reducible refine Kept.ite ?_ ?_ | exact fun x (hx : ridgeKept x) => hx
    | exact fun x (hx : ridgeKept x) => ⟨by first | exact hx.1 | rfl | (dsimp only; repeat' first | exact hx.1 | apply memWf_memZero | apply memWf_memPut | split), by simp [hx.2.1], by simp [hx.2.2.1], by first | exact hx.2.2.2 | exact Shadowed.agrees_of _ | rfl | simp [hx.2.2.2]⟩
    | exact fun _ hx => hx

theorem Kept.writeLogEvt {d : Dev} {l : Lk} {off : Nat} {v : W64} (hk : Kept d) : Kept (d.writeLogEvt l off v) := by
  unfold Dev.writeLogEvt
  repeat' first
    | with_reducible assumption | with_reducible apply Kept.modLog | with_reducible apply Kept.ignoredWrite
    | with_reducible refine Kept.ite ?_ ?_

theorem Kept.writePerf {d : Dev} {l : Lk} {off : Nat} {v : W64} (hk : Kept d) : Kept (d.writePerf l off v) := by
  unfold Dev.writePerf
  repeat' first
    | with_reducible assumption | with_reducible apply Kept.ignoredWrite | with_reducible apply Kept.modLevels
    | with_reducible apply Kept.modPerf | with_reducible refine Kept.ite ?_ ?_

theorem Kept.writeWorld {d : Dev} {l : Lk} {off : Nat} {v : W64} (hk : Kept d) : Kept (d.writeWorld l off v) := by
  unfold Dev.writeWorld
  repeat' first
    | with_reducible assumption | with_reducible apply Kept.ignoredWrite | with_reducible apply Kept.modWorld
    | with_reducible apply Kept.setCacheMode | with_reducible apply Kept.clearLat | with_reducible refine Kept.ite ?_ ?_
    | exact fun x (hx : x.line.agrees = true) => hx

theorem Kept.writeBar0 {d : Dev} {l : Lk} {off : Nat} {v : W64} (hk : Kept d) : Kept (d.writeBar0 l off v) := by
  unfold Dev.writeBar0
  repeat' first
    | with_reducible assumption | with_reducible apply Kept.ignoredWrite | with_reducible apply Kept.msixWord
    | with_reducible apply Kept.writeSelect | with_reducible apply Kept.writeLinkMq | with_reducible apply Kept.writePwr
    | with_reducible apply Kept.writeRng | with_reducible apply Kept.writeTamp | with_reducible apply Kept.writeLogEvt
    | with_reducible apply Kept.writePerf | with_reducible apply Kept.writeWorld | with_reducible refine Kept.ite ?_ ?_
    | intro _ | split

theorem Kept.writeBoth {d : Dev} {off : Nat} {a b : Option W64} (hk : Kept d) : Kept (d.writeBoth off a b) := by
  unfold Dev.writeBoth
  repeat' first
    | with_reducible assumption | with_reducible apply Kept.stampClass | with_reducible apply Kept.classRegister
    | with_reducible apply Kept.writeBar0 | with_reducible refine Kept.ite ?_ ?_ | intro _ | split

theorem Kept.writePart {d : Dev} {l : Lk} {off size : Nat} {v : BitVec 512} (hk : Kept d) : Kept (d.writePart l off size v) :=
    by
  unfold Dev.writePart
  repeat' first
    | with_reducible assumption | with_reducible apply Kept.ignoredWrite | with_reducible apply Kept.msixWord
    | with_reducible refine Kept.ite ?_ ?_

theorem Kept.bar0Write {d : Dev} {off size : Nat} {a b : Option (BitVec 512)} (hk : Kept d) : Kept (d.bar0Write off size a b)
    := by
  unfold Dev.bar0Write
  repeat' first
    | with_reducible assumption | with_reducible apply Kept.writeBoth | with_reducible apply Kept.writePart
    | with_reducible apply Kept.foldl | with_reducible refine Kept.ite ?_ ?_ | intro _ | split

theorem Kept.writePage {d : Dev} {l : Lk} {s o size : Nat} {v : W64} (hk : Kept d) : Kept (d.writePage l s o size v) := by
  unfold Dev.writePage
  repeat' first
    | with_reducible assumption | with_reducible apply Kept.portalDrop | with_reducible apply Kept.portalWrite
    | with_reducible apply Kept.invalWrite | with_reducible refine Kept.ite ?_ ?_

theorem Kept.bar2Write {d : Dev} {l : Lk} {off size : Nat} {v : BitVec 512} (hk : Kept d) : Kept (d.bar2Write l off size v) :=
    by
  unfold Dev.bar2Write
  repeat' first
    | with_reducible assumption | with_reducible apply Kept.portalDrop | with_reducible apply Kept.writePage
    | with_reducible apply Kept.foldl | with_reducible refine Kept.ite ?_ ?_ | intro _

theorem Kept.i3c {d : Dev} {f : Access → Access} (hk : Kept d) : Kept (d.i3c f) := by
  unfold Dev.i3c
  repeat' first | with_reducible assumption | with_reducible apply Kept.modAccess | with_reducible refine Kept.ite ?_ ?_

theorem Kept.writeI3c {d : Dev} {o : Nat} {v : W64} (hk : Kept d) : Kept (d.writeI3c o v) := by
  unfold Dev.writeI3c
  repeat' first
    | with_reducible assumption | with_reducible apply Kept.modLog | with_reducible apply Kept.setCap
    | with_reducible refine Kept.ite ?_ ?_

theorem Kept.loadScan {d : Dev} {code : BitVec 8} (hk : Kept d) : Kept (d.loadScan code) := by
  unfold Dev.loadScan
  repeat' first | with_reducible assumption | with_reducible apply Kept.modAccess

end Sys2Proof
end

