-- ==== Sys2Proof/Laws/Tables.lean ====
section
/-! SUPPORT. Reads after updates: sparse tables, ridges, seams, queues, jobs and links. -/

namespace Sys2Proof.Machine

@[simp] theorem assocGet_set_self {α : Type} (l : List (Nat × α)) (k : Nat) (v : α) :
    assocGet (assocSet l k v) k = some v := by
  induction l with
  | nil => simp [assocSet, assocGet]
  | cons e l ih =>
    simp only [assocSet]
    split_ifs with h1 h2
    · rw [assocGet, if_neg (by omega), ih]
    · simp [assocGet]
    · simp [assocGet]

theorem assocGet_set_other {α : Type} (l : List (Nat × α)) {k j : Nat} (v : α) (h : k ≠ j) :
    assocGet (assocSet l k v) j = assocGet l j := by
  induction l with
  | nil => simp [assocSet, assocGet, h]
  | cons e l ih =>
    simp only [assocSet]
    split_ifs with h1 h2
    · by_cases he : e.1 = j <;> simp [assocGet, he, ih]
    · have : e.1 ≠ j := by omega
      simp [assocGet, h, this]
    · simp [assocGet, h]

@[simp] theorem Dev.seam_modSeam_self (d : Dev) (n : Nat) (f : Seam → Seam) : (d.modSeam n f).seam n = f (d.seam n) := by
  show (assocGet (assocSet _ _ _) _).getD _ = _
  simp

theorem Dev.seam_modSeam_other (d : Dev) {n k : Nat} (f : Seam → Seam) (h : n ≠ k) : (d.modSeam n f).seam k = d.seam k := by
  show (assocGet (assocSet _ _ _) _).getD _ = _
  rw [assocGet_set_other _ _ h]; rfl

@[simp] theorem Dev.ridge_modRidge_self (d : Dev) (r : Nat) (f : Ridge → Ridge) (h : r < d.ridges.length) :
    (d.modRidge r f).ridge r = f (d.ridge r) := by
  simp [Dev.ridge, List.getD, h]

theorem Dev.ridge_modRidge_other (d : Dev) {r k : Nat} (f : Ridge → Ridge) (h : r ≠ k) :
    (d.modRidge r f).ridge k = d.ridge k := by
  simp [Dev.ridge, List.getD, h]

@[simp] theorem Dev.length_modRidge (d : Dev) (r : Nat) (f : Ridge → Ridge) :
    (d.modRidge r f).ridges.length = d.ridges.length := by simp

@[simp] theorem Dev.link_modLink_self (d : Dev) (l : Lk) (f : Link → Link) : (d.modLink l f).link l = f (d.link l) := by
  cases l <;> rfl

theorem Dev.link_modLink_other (d : Dev) (l : Lk) (f : Link → Link) :
    (d.modLink l f).link (lkOther l) = d.link (lkOther l) := by
  cases l <;> rfl

end Sys2Proof.Machine
end

