-- ==== Sys2Proof/Laws/Lamad.lean ====
section
/-! SUPPORT. How an instruction runs on a core: one lemma says what issuing it leaves, whatever it computes. -/

namespace Sys2Proof.Machine

-- one proof at a time: many proofs at once ask for too many threads
set_option Elab.async false

@[simp] theorem Core.modBank_deep (k : Core) (f : Bank → Bank) : (k.modBank f).deep = k.deep := by
  unfold Core.modBank; split <;> rfl

@[simp] theorem Core.modBank_pend (k : Core) (f : Bank → Bank) : (k.modBank f).pend = k.pend := by
  unfold Core.modBank; split <;> rfl

@[simp] theorem Core.modBank_cycle (k : Core) (f : Bank → Bank) : (k.modBank f).cycle = k.cycle := by
  unfold Core.modBank; split <;> rfl

@[simp] theorem Core.modBank_program (k : Core) (f : Bank → Bank) : (k.modBank f).program = k.program := by
  unfold Core.modBank; split <;> rfl

@[simp] theorem Core.modBank_modBank (k : Core) (f g : Bank → Bank) :
    (k.modBank f).modBank g = k.modBank fun b => g (f b) := by
  by_cases h : k.deep = true <;> simp [Core.modBank, h]

@[simp] theorem coreBank_modBank (k : Core) (f : Bank → Bank) : coreBank (k.modBank f) = f (coreBank k) := by
  by_cases h : k.deep = true <;> simp [coreBank, Core.modBank, h]

theorem Core.modBank_pend_with (k : Core) (f : Bank → Bank) (l : List Pend) :
    { k.modBank f with pend := l } = ({ k with pend := l } : Core).modBank f := by
  by_cases h : k.deep = true <;> simp [Core.modBank, h]

/-- Writes that land one after another. -/
theorem Core.foldl_put_deep (l : List Pend) (k : Core) :
    (l.foldl (fun k e => k.modBank fun b => b.put e.value e.dst) k).deep = k.deep := by
  induction l generalizing k with
  | nil => rfl
  | cons e l ih => simp [ih]

theorem Core.foldl_put_cycle (l : List Pend) (k : Core) :
    (l.foldl (fun k e => k.modBank fun b => b.put e.value e.dst) k).cycle = k.cycle := by
  induction l generalizing k with
  | nil => rfl
  | cons e l ih => simp [ih]

theorem Core.foldl_put_program (l : List Pend) (k : Core) :
    (l.foldl (fun k e => k.modBank fun b => b.put e.value e.dst) k).program = k.program := by
  induction l generalizing k with
  | nil => rfl
  | cons e l ih => simp [ih]

@[simp] theorem Core.land_deep (k : Core) (p : Pend → Bool) : (k.land p).deep = k.deep := by
  simp [Core.land, Core.foldl_put_deep]

@[simp] theorem Core.land_cycle (k : Core) (p : Pend → Bool) : (k.land p).cycle = k.cycle := by
  simp [Core.land, Core.foldl_put_cycle]

@[simp] theorem Core.land_program (k : Core) (p : Pend → Bool) : (k.land p).program = k.program := by
  simp [Core.land, Core.foldl_put_program]

@[simp] theorem Core.landDue_deep (k : Core) : k.landDue.deep = k.deep := by simp [Core.landDue]
@[simp] theorem Core.landDue_cycle (k : Core) : k.landDue.cycle = k.cycle := by simp [Core.landDue]
@[simp] theorem Core.landDue_program (k : Core) : k.landDue.program = k.program := by simp [Core.landDue]

/-- What an instruction finds: its core with the due writes landed, pc + 4 as the next address. -/
def Lam.ready (x : Lam) : Lam :=
  { x with core := x.core.landDue, npc := (coreBank x.core.landDue).pc + 4, extra := 0, wrote := [], fresh := [] }

theorem Lam.run_eq (x : Lam) (sem : Lam → Except Nat Lam) : x.run sem = (sem x.ready).bind fun y => .ok y.retire := rfl

theorem Lam.bank_eq (x : Lam) : x.bank = coreBank x.core := rfl

theorem Core.modBank_id (k : Core) : k.modBank id = k := by
  unfold Core.modBank
  split <;> rfl

/-- An instruction retires: what waited lands as `settle` says, and its own load waits. -/
theorem Lam.retire_core (x : Lam) : x.retire.core =
    { settle x.core id (x.wrote ++ x.fresh.map (·.dst)) x.npc (1 + x.extra) with
      pend := (settle x.core id (x.wrote ++ x.fresh.map (·.dst)) x.npc (1 + x.extra)).pend ++ x.fresh } := by
  have h2 : ∀ l : List Phys, ((x.core.pend.filter fun e => !(e.load && l.contains e.dst)).filter fun e => e.load) =
      x.core.pend.filter fun e => e.load && !(l.contains e.dst) := by
    intro l
    rw [List.filter_filter]
    apply List.filter_congr
    intro e _
    cases e.load <;> simp
  have h3 : ∀ l : List Phys, ((x.core.pend.filter fun e => !(e.load && l.contains e.dst)).filter fun e => !e.load) =
      x.core.pend.filter fun e => !e.load := by
    intro l
    rw [List.filter_filter]
    apply List.filter_congr
    intro e _
    cases e.load <;> simp
  simp only [Lam.retire, Core.land, h2, h3, settle, Core.modBank_id, Core.modBank_cycle, Nat.add_assoc]

theorem Lam.retire_eq (x : Lam) : x.retire = { x with core := x.retire.core } := rfl

/-- An instruction that is no load: what it leaves. -/
theorem Lam.run_noload (x : Lam) (sem : Lam → Except Nat Lam) {y : Lam} (h : sem x.ready = .ok y) (hf : y.fresh = []) :
    x.run sem = .ok { y with core := settle y.core id y.wrote y.npc (1 + y.extra) } := by
  rw [Lam.run_eq, h]
  show Except.ok _ = Except.ok _
  rw [Lam.retire_eq, Lam.retire_core, hf]
  simp

theorem settle_modBank (k : Core) (f : Bank → Bank) (dst : List Phys) (npc : W64) (n : Nat) :
    settle (k.modBank f) id dst npc n = settle k f dst npc n := by
  simp only [settle, Core.modBank_pend, Core.modBank_id]

/-- An instruction whose effect is on its bank alone, in one cycle. -/
theorem Lam.run_bank (x : Lam) (sem : Lam → Except Nat Lam) (f : Bank → Bank) (dst : List Phys) (npc : W64)
    (h : sem x.ready = .ok { x.ready.modBank f with wrote := dst, npc := npc }) :
    x.run sem =
      .ok { x with core := settle x.core.landDue f dst npc 1, npc := npc, extra := 0, wrote := dst, fresh := [] } := by
  rw [Lam.run_noload x sem h rfl,
    ← settle_modBank x.core.landDue f dst npc 1]
  rfl

/-! ## Fetching -/

/-- A fetch changes the instruction cache of its core, and nothing else. -/
theorem Dev.codeFetch_core (d : Dev) (r c : Nat) :
    ∃ i, (d.codeFetch r c).core r c = { d.core r c with icache := i } := by
  simp only [Dev.codeFetch, Dev.modCore, Dev.core, Dev.ridge, Dev.modRidge, List.getD, List.getElem?_modify]
  cases hr : d.ridges[r]? with
  | none => exact ⟨(Ridge.reset.cores[c]?.getD Core.reset).icache, rfl⟩
  | some x =>
    simp only [if_true, Option.map_eq_map, Option.map_some, Option.getD_some, List.getElem?_modify]
    cases hc : x.cores[c]? with
    | none => exact ⟨Core.reset.icache, rfl⟩
    | some k => exact ⟨k.icache.access (c == 0 || k.flush) k.deep false (d.codeAddr r c), rfl⟩

theorem Dev.codeFetch_deep (d : Dev) (r c : Nat) : ((d.codeFetch r c).core r c).deep = (d.core r c).deep := by
  obtain ⟨i, h⟩ := d.codeFetch_core r c
  rw [h]

theorem Dev.codeFetch_program (d : Dev) (r c : Nat) : ((d.codeFetch r c).core r c).program = (d.core r c).program := by
  obtain ⟨i, h⟩ := d.codeFetch_core r c
  rw [h]

theorem Dev.codeFetch_sram (d : Dev) (r c : Nat) : ((d.codeFetch r c).ridge r).sram = (d.ridge r).sram := by
  simp only [Dev.codeFetch, Dev.modCore, Dev.ridge, Dev.modRidge, List.getD, List.getElem?_modify]
  cases d.ridges[r]? <;> rfl

/-! ## Issuing -/

theorem Dev.lam_core (d : Dev) (r c : Nat) : (d.lam r c).core = d.core r c := rfl

/-- The core that an instruction finds. -/
theorem Dev.ready_core (d : Dev) (r c : Nat) : ((d.codeFetch r c).lam r c).ready.core = found d r c := rfl

/-- What a core that can issue does with the instruction. -/
theorem Dev.issue_issues {d : Dev} {r c : Nat} {i : Instr} (h : issues d r c i) (sem : Lam → Except Nat Lam)
    (post : Dev → Dev) : d.issue r c i sem post = d.runLam r c sem post := by
  obtain ⟨hs, hc, hn, ⟨hd, hr⟩ | ⟨hd, p, w, hp, h1, h2, h3, h4, h5⟩⟩ := h
  · simp [Dev.issue, hs, hc, hd, hr, hn]
  · have hi : (d.core r c).issuing = some p := by simp [Core.issuing, hp, hd, h1, h2]
    simp [Dev.issue, hs, hc, hd, Dev.surface, hi, h3, h4, hn, Nat.not_lt.2 h5]

/-- What an instruction leaves in the device, whatever it computed. -/
theorem Dev.putLam_takeDue (d : Dev) (r c : Nat) (x : Lam) :
    (((d.codeFetch r c).putLam r c x).takeDue r c) = retiredWith d r c x.core x.charge x.sram x.draws := rfl

/-- Issuing any instruction that completes. -/
theorem Dev.issue_ok {d : Dev} {r c : Nat} {i : Instr} (h : issues d r c i) {sem : Lam → Except Nat Lam} {y : Lam}
    (hs : sem ((d.codeFetch r c).lam r c).ready = .ok y) (post : Dev → Dev) :
    d.issue r c i sem post = (post ((d.codeFetch r c).putLam r c y.retire)).takeDue r c := by
  rw [Dev.issue_issues h, Dev.runLam, Lam.run_eq, hs]
  rfl

/-- Issuing any instruction that traps: a Deep core's trap goes to Keade's handler, a program ends. -/
theorem Dev.issue_trap {d : Dev} {r c : Nat} {i : Instr} (h : issues d r c i) {sem : Lam → Except Nat Lam} {code : Nat}
    (hs : sem ((d.codeFetch r c).lam r c).ready = .error code) (post : Dev → Dev) :
    d.issue r c i sem post =
      if (d.core r c).deep then (d.codeFetch r c).deepTrap r c code else (d.codeFetch r c).trapProgram r c code := by
  rw [Dev.issue_issues h, Dev.runLam, Lam.run_eq, hs]
  show (if ((d.codeFetch r c).core r c).deep then _ else _) = _
  rw [Dev.codeFetch_deep]

/-- Issuing an instruction whose effect is on its core alone, in one cycle, and that is no load. -/
theorem Dev.issue_core {d : Dev} {r c : Nat} {i : Instr} (h : issues d r c i) {sem : Lam → Except Nat Lam} {k : Core}
    {dst : List Phys} {npc : W64}
    (hs : sem ((d.codeFetch r c).lam r c).ready =
      .ok { ((d.codeFetch r c).lam r c).ready with core := k, wrote := dst, npc := npc }) :
    d.issue r c i sem = retired d r c (settle k id dst npc 1) 1 := by
  rw [Dev.issue_ok h hs, retired, ← d.codeFetch_sram r c]
  refine (Dev.putLam_takeDue d r c _).trans ?_
  rw [Lam.retire_eq, Lam.retire_core]
  simp [Lam.ready, Dev.lam]
  rfl

/-- Issuing an instruction whose effect is on its bank alone: the core settles, a program is charged one. -/
theorem Dev.issue_bank {d : Dev} {r c : Nat} {i : Instr} (h : issues d r c i) {sem : Lam → Except Nat Lam}
    {f : Bank → Bank} {dst : List Phys} {npc : W64}
    (hs : sem ((d.codeFetch r c).lam r c).ready =
      .ok { ((d.codeFetch r c).lam r c).ready.modBank f with wrote := dst, npc := npc }) :
    d.issue r c i sem = retired d r c (settle (found d r c) f dst npc 1) 1 := by
  rw [Dev.issue_core h hs, ← settle_modBank (found d r c) f dst npc 1]
  rfl

theorem Lam.modBank_congr (x : Lam) (f g : Bank → Bank) (h : f x.bank = g x.bank) : x.modBank f = x.modBank g := by
  have : x.core.modBank f = x.core.modBank g := by
    unfold Lam.bank at h
    unfold Core.modBank
    split_ifs at * <;> simp_all
  rw [Lam.modBank, Lam.modBank, this]

theorem Lam.modBank_id (x : Lam) : x.modBank id = x := by
  unfold Lam.modBank Core.modBank
  split_ifs <;> rfl

/-- A result written to the register that a number names. -/
theorem Lam.set_eq (x : Lam) (n : BitVec 6) (v : W64) :
    x.set n v = { x.modBank (fun b => writeReg b n v) with wrote := (x.bank.phys n).toList ++ x.wrote } := by
  rw [Lam.set]
  cases h : x.bank.phys n with
  | none =>
    have : x.modBank (fun b => writeReg b n v) = x.modBank id := Lam.modBank_congr _ _ _ (by simp [writeReg, h])
    rw [this, Lam.modBank_id]
    rfl
  | some p =>
    have : x.modBank (fun b => writeReg b n v) = x.modBank (fun b => b.put (v.setWidth 128) p) :=
      Lam.modBank_congr _ _ _ (by simp [writeReg, h])
    rw [this]
    rfl

/-- Issuing an instruction whose results are C and one register. -/
theorem Dev.issue_written {d : Dev} {r c : Nat} {i : Instr} (h : issues d r c i) {sem : Lam → Except Nat Lam}
    {rd : BitVec 6} {v : W64} {cy : Bool}
    (hs : sem ((d.codeFetch r c).lam r c).ready = .ok ((((d.codeFetch r c).lam r c).ready.setC cy).set rd v)) :
    d.issue r c i sem = written d r c rd v (some cy) := by
  apply Dev.issue_bank h
  rw [hs, Lam.set_eq]
  have hp : (((d.codeFetch r c).lam r c).ready.setC cy).bank.phys rd = (coreBank (found d r c)).phys rd := by
    rw [Lam.bank_eq]
    show (coreBank ((found d r c).modBank _)).phys rd = _
    rw [coreBank_modBank]; rfl
  rw [hp]
  unfold Lam.setC Lam.modBank
  rw [Core.modBank_modBank]
  rfl

/-- Issuing an instruction whose result is one register. -/
theorem Dev.issue_set {d : Dev} {r c : Nat} {i : Instr} (h : issues d r c i) {sem : Lam → Except Nat Lam}
    {rd : BitVec 6} {v : W64}
    (hs : sem ((d.codeFetch r c).lam r c).ready = .ok (((d.codeFetch r c).lam r c).ready.set rd v)) :
    d.issue r c i sem = written d r c rd v none := by
  apply Dev.issue_bank h
  rw [hs, Lam.set_eq]
  rfl

/-- Issuing an instruction that sets pc alone. -/
theorem Dev.issue_jumped {d : Dev} {r c : Nat} {i : Instr} (h : issues d r c i) {sem : Lam → Except Nat Lam}
    {pc : W64} (hs : sem ((d.codeFetch r c).lam r c).ready = .ok { ((d.codeFetch r c).lam r c).ready with npc := pc }) :
    d.issue r c i sem = jumped d r c pc := by
  apply Dev.issue_bank h
  rw [hs, Lam.modBank_id]
  rfl

/-- Issuing an instruction that leaves products to land later. -/
theorem Dev.issue_promised {d : Dev} {r c : Nat} {i : Instr} (h : issues d r c i) {sem : Lam → Except Nat Lam}
    {ps : List Pend}
    (hs : sem ((d.codeFetch r c).lam r c).ready = .ok { ((d.codeFetch r c).lam r c).ready with
      core := { found d r c with pend := (found d r c).pend ++ ps }
      wrote := ps.reverse.flatMap fun p => p.dst.halves }) :
    d.issue r c i sem = promised d r c ps := by
  rw [Dev.issue_core h hs]
  rfl

end Sys2Proof.Machine
end

