-- ==== Sys2Proof/Tests/Slice0.lean ====
section
/-! SUPPORT. The model's own tests: well-formedness refuses one term for each check; a word of every family of Lamad
instructions, written out from 10:Tables 10.3 and 10.4, decodes to its instruction; single steps of small states; and for every
statement of Obligations.lean a state and operands that meet its hypotheses. -/

namespace Sys2Proof.Tests

-- one proof at a time: many proofs at once ask for too many threads
set_option Elab.async false

open Machine Claims

/-! ## Well-formedness -/

theorem test_wf_accepts : (Instr.add 7 3 58 0 16).wf = true ∧ (Instr.ntt 7 32).wf = true ∧ (Instr.nop 8191 3).wf = true ∧
    (Instr.registerWrite .a 0x20FFFF8 8 ⟨0, none⟩).wf = true ∧ (Instr.descend 0 1 1).wf = true := by decide

theorem test_wf_refuses_register : (Instr.add 0 1 59 0 0).wf = false ∧ (Instr.accclr 0 1 4).wf = false := by decide
theorem test_wf_refuses_core : (Instr.add 0 4 0 0 0).wf = false ∧ (Instr.add 8 0 0 0 0).wf = false := by decide
theorem test_wf_refuses_block : (Instr.ntt 8 0).wf = false ∧ (Instr.ntt 0 33).wf = false := by decide
theorem test_wf_refuses_ridge : (Instr.ridgeLost 8).wf = false := by decide
theorem test_wf_refuses_queue : (Instr.nop 8192 0).wf = false ∧ (Instr.nop 0 4).wf = false := by decide
theorem test_wf_refuses_seam : (Instr.seamDestroyDrained 8192).wf = false := by decide
theorem test_wf_refuses_portal : (Instr.sqTailWrite .a 0 4 8 0).wf = false ∧ (Instr.sqTailWrite .a 8192 0 8 0).wf = false ∧
    (Instr.sqTailWrite .a 0 0 2 0).wf = false ∧ (Instr.cqHeadWrite .b 0 6 0).wf = false ∧
    (Instr.prefetchInvalWrite .b 8192 8 0).wf = false ∧ (Instr.rngDataRead .a 0 1).wf = false := by decide
theorem test_wf_refuses_reads : (Instr.dmaReadCompletion (.ring 8192 0) .poisoned).wf = false ∧
    (Instr.dmaReadTimeout (.ring 0 4)).wf = false := by decide
theorem test_wf_refuses_spine : (Instr.spineTransferReceive 8 0 true 0).wf = false ∧
    (Instr.neighbourSeedBlock 0 8).wf = false ∧ (Instr.ridgeWakeRequest 0 (.dispatcher 8)).wf = false ∧
    (Instr.eventToWriter (some 8)).wf = false := by decide
theorem test_wf_refuses_events : (Instr.tamperEvent ⟨[⟨640, 0⟩], []⟩).wf = false ∧ (Instr.vigilTamperEvent 640).wf = false ∧
    (Instr.tamperConditionCleared 640).wf = false ∧ (Instr.vigilSampleWindow [640]).wf = false ∧
    (Instr.evtPendingClear 10 0).wf = false := by decide
theorem test_wf_refuses_sources : (Instr.srcRearm 0 2).wf = false ∧ (Instr.entropyWindow 0 2 0).wf = false ∧
    (Instr.sourceRestartTimer 0 2).wf = false ∧ (Instr.sourceCleanTimer 0 2).wf = false := by decide
theorem test_wf_refuses_units : (Instr.clusterIdleGate 0 7).wf = false ∧ (Instr.clusterWakeDone 0 7).wf = false ∧
    (Instr.persWordWrite 1024 0).wf = false ∧ (Instr.perfCfgWrite 64 0).wf = false ∧ (Instr.perfSnap 64).wf = false ∧
    (Instr.perfClear 64).wf = false := by decide
theorem test_wf_refuses_writes : (Instr.registerWrite .a 0x2100000 8 ⟨0, none⟩).wf = false ∧
    (Instr.registerWrite .a 0 65 ⟨0, none⟩).wf = false ∧ (Instr.registerWrite .a 0 0 ⟨0, some 0⟩).wf = false := by decide
theorem test_wf_refuses_service : (Instr.descend 0 1 0).wf = false := by decide

/-! ## Decoding

Each word is written as the fields of 10:Table 10.3, from bit 31 down. -/

theorem test_decode_integer :
    Lamad.decode 1 2 0b000000_100000_010001_001010_00000000#32 = some (.add 1 2 32 17 10) ∧
    Lamad.decode 1 2 0b000000_000001_000010_000011_00000011#32 = some (.subb 1 2 1 2 3) ∧
    Lamad.decode 1 2 0b000000_000001_000010_000011_00001001#32 = some (.sar 1 2 1 2 3) ∧
    Lamad.decode 1 2 0b000000_000001_000010_000011_00001100#32 = some (.cmpltu 1 2 1 2 3) ∧
    Lamad.decode 1 2 0b000000_000001_000010_000011_00001101#32 = none := by decide
theorem test_decode_immediate :
    Lamad.decode 0 1 0b000001_100000_010001_11111111111110#32 = some (.addi 0 1 32 17 0x3FFE) ∧
    Lamad.decode 0 1 0b000100_000001_000010_00000000000101#32 = some (.xori 0 1 1 2 5) ∧
    Lamad.decode 0 1 0b000101_000001_000010_000000_01_101010#32 = some (.shri 0 1 1 2 42) ∧
    Lamad.decode 0 1 0b000101_000001_000010_000000_10_111111#32 = some (.sari 0 1 1 2 63) ∧
    Lamad.decode 0 1 0b000101_000001_000010_000000_11_000000#32 = none ∧
    Lamad.decode 0 1 0b000110_000101_11_00_1000000000000001#32 = some (.movz 0 1 5 3 0x8001) ∧
    Lamad.decode 0 1 0b000111_000101_01_00_0000000000000010#32 = some (.movk 0 1 5 1 2) := by decide
theorem test_decode_products :
    Lamad.decode 0 1 0b001000_000000_000010_000011_00000001#32 = some (.muls 0 1 2 3) ∧
    Lamad.decode 0 1 0b001001_000000_000010_000011_00001110#32 = some (.macc 0 1 14 2 3) ∧
    Lamad.decode 0 1 0b001010_000011_000000_000101_00000000#32 = some (.accsh 0 1 3 5) ∧
    Lamad.decode 0 1 0b001010_110010_000000_000000_00000001#32 = some (.accclr 0 1 50) := by decide
theorem test_decode_memory :
    Lamad.decode 0 1 0b010000_000111_001000_101_11111111111#32 = some (.ld 0 1 7 8 5 0x7FF) ∧
    Lamad.decode 0 1 0b010001_000111_001000_010_00000000001#32 = some (.lds 0 1 7 8 2 1) ∧
    Lamad.decode 0 1 0b010010_000111_001000_001_00000000011#32 = some (.st 0 1 7 8 1 3) ∧
    Lamad.decode 0 1 0b010011_110_000_00_010101_000000_00_00_00#32 = some (.sload 0 1 6 21) ∧
    Lamad.decode 0 1 0b010011_110_011_01_000001_000010_10_11_00#32 = some (.sderive 0 1 6 3 1 2 2 3) ∧
    Lamad.decode 0 1 0b010011_000_011_10_000111_000000_00_00_00#32 = some (.slimit 0 1 7 3) := by decide
theorem test_decode_control :
    Lamad.decode 0 1 0b011000_000001_000010_11111111111111#32 = some (.beq 0 1 1 2 0x3FFF) ∧
    Lamad.decode 0 1 0b011101_000001_000010_00000000000001#32 = some (.bgeu 0 1 1 2 1) ∧
    Lamad.decode 0 1 0b011110_10000000000000000000000001#32 = some (.jmp 0 1 0x2000001) ∧
    Lamad.decode 0 1 0b011111_00000000000000000000000010#32 = some (.call 0 1 2) ∧
    Lamad.decode 0 1 0b100000_000000_000111_000000_00000000#32 = some (.jr 0 1 7) ∧
    Lamad.decode 0 1 0b100000_000000_000111_000000_00000001#32 = some (.callr 0 1 7) ∧
    Lamad.decode 0 1 0b100000_000000_000000_000000_00000010#32 = some (.ret 0 1) ∧
    Lamad.decode 0 1 0b010111_000000_000000_000000_00000000#32 = none := by decide
theorem test_decode_system :
    Lamad.decode 0 1 0b101000_000001_000010_000011_00000000#32 = some (.jsub 0 1 1 2 3) ∧
    Lamad.decode 0 1 0b101000_000001_000010_000000_00000001#32 = some (.jwait 0 1 1 2) ∧
    Lamad.decode 0 1 0b101000_000001_000010_000000_00000010#32 = some (.jpoll 0 1 1 2) ∧
    Lamad.decode 0 1 0b101100_000000_000000_00000000000111#32 = some (.descend 0 1 7) ∧
    Lamad.decode 0 1 0b101100_000000_000000_00000000000000#32 = some (.exit 0 1) ∧
    Lamad.decode 0 1 0b101101_000000_000000_00000000000000#32 = some (.ascend 0 1) ∧
    Lamad.decode 0 1 0b101110_000000_000000_000000_00000000#32 = some (.lamadNop 0 1) ∧
    Lamad.decode 0 1 0b101110_000001_000000_000000_00000010#32 = some (.rdcyc 0 1 1) ∧
    Lamad.decode 0 1 0b111110_00001_000010_000011_000100_101#32 = some (.customX 0 1 1 2 3 4 5) ∧
    Lamad.decode 0 1 0b110000_000000_000000_000000_00000000#32 = none := by decide

/-- 04:Table 4.4: CRC-32C of the nine digits, the check value that its standard gives. -/
theorem test_crc32c : crc32c (ascii "123456789") = 0xE3069283 := by decide +kernel

/-! ## Small states -/

/-- A ridge in service with every engine, its entropy sources running, its cores 1 to 3 in the Surface world. -/
def upRidge : Ridge := { Ridge.reset with
  inService := true, power := 2, engines := List.replicate 33 { Engine.reset with inService := true }
  world := { World.reset with line := .of 128, deepUp := true }
  rng := { Rng.reset with
    src0 := { Source.reset with state := 3 }, src1 := { Source.reset with state := 3 }, int := ⟨1, 0, 0⟩, host := ⟨1, 0, 0⟩ }
  spine := { SpinePort.reset with up := 7, key := some 0 }
  kdu := some 0
  cores := [Core.reset, { Core.reset with deep := false }, { Core.reset with deep := false }, { Core.reset with deep := false }] }

def upLink : Link := { Link.reset with up := true, bme := true, pasidEn := true, width := 8, speed := 5 }

def onQueue : Queue := { Queue.blank with state := .running, base := 0x10000, log2 := 6, weight := 1, burst := 1 }

/-- Seam 0: ACTIVE on both links, home ridge 0, mirror ridge 1, queue 0 RUNNING. -/
def onSeam : Seam :=
  ⟨{ SeamEntry.blank with
      state := .active, links := 3, pasidValid := true, home := .of 0, mirror := .of 1, epoch := .of 1, weight := 1, burst := 1
      slotQuota := 16, keyQuota := 16, progQuota := 16 },
    { SeamRun.blank with
      queues := [onQueue, Queue.blank, Queue.blank, Queue.blank], cq := some ⟨0x20000, 6, 0, 0, 0⟩ }⟩

/-- A UJ840-8 in SERVICE after power-up step 10. -/
def awake : Dev := { Dev.reset with
  mode := .of 3, boot := ⟨10, 0, false, 0, 0, false⟩, ridges := List.replicate 8 upRidge, linkA := upLink, linkB := upLink
  seams := [(0, onSeam)], unsealed := true, trained := true
  vigil := { Dev.reset.vigil with vsalt := some 0, current := some ⟨.service, 0, false, 1⟩ }, modeCopy := some ⟨.service, 0, false, 1⟩ }

/-- A machine with no command waiting. -/
def at' (d : Dev) : State := ⟨[], d⟩

theorem test_awake : awake.live = .service ∧ awake.fetching = true ∧ (∀ r < 8, awake.serves r = true) := by decide +kernel

/-! ## Lamad -/

/-- A program of one word, at pc 0 of core 1 of ridge 1. -/
def program (w : BitVec 32) : Program :=
  { job := 9, image := ⟨[], 0, [], 0, [], [w], [], 0, 256, 0⟩, budget := 100, cycles := 5, inBase := 0x900000, inLen := 16
    outBase := 0x900010, outLen := 16, spillBase := 0x900020, imageBase := 0x900120, imageLen := 0, stageBase := 0, table := []
    tickets := List.replicate 8 none, paused := false, ending := none }

/-- `awake` with core 1 of ridge 1 as `f` makes it. -/
def withCore (f : Core → Core) : Dev := awake.modCore 1 1 f

/-- `awake` with a program of one word on that core, its banks changed by `f`. -/
def running (w : BitVec 32) (f : Bank → Bank) : Dev :=
  withCore fun k => { k with surface := f k.surface, program := some (program w) }

/-- A bank with a LINEAR segment of 16 eight-byte elements, writable, in selector 1, and g1 = 3, g2 = 2. -/
def bank1 (b : Bank) : Bank := { b with
  g := [0, 3, 2] ++ List.replicate 13 0
  sel := [⟨0, 0, 0, false, 0⟩, ⟨0x900000, 16, 3, true, 0⟩] ++ List.replicate 6 ⟨0, 0, 0, false, 0⟩ }

/-- A core in Deep issues any instruction. -/
theorem witness_issues_deep (i : Instr) (h : Lamad.namesReserved i = false) : issues awake 0 0 i :=
  ⟨by decide +kernel, by decide, h, .inl (by decide +kernel)⟩

/-- A program issues the instruction at its pc. -/
theorem issues_word (w : BitVec 32) (f : Bank → Bank) (i : Instr)
    (h : (running w f).serves 1 = true ∧ ((running w f).core 1 1).deep = false ∧ Lamad.namesReserved i = false ∧
      ((running w f).core 1 1).program = some (program w) ∧ (program w).word ((running w f).core 1 1).surface.pc = some w ∧
      Lamad.decode 1 1 w = some i ∧ ((running w f).core 1 1).surface.chargeOf i ≤ 100) : issues (running w f) 1 1 i :=
  ⟨h.1, by decide, h.2.2.1, .inr ⟨h.2.1, _, w, h.2.2.2.1, rfl, rfl, h.2.2.2.2.1, h.2.2.2.2.2.1, h.2.2.2.2.2.2⟩⟩

theorem witness_ArithmeticResults : issues (running (Lamad.encR 0 1 2 3 0) bank1) 1 1 (IntOp.instr .add 1 1 1 2 3) ∧
    issues (running (Lamad.encI 5 1 2 0x7F) bank1) 1 1 (ImmOp.instr .shri 1 1 1 2 63) :=
  ⟨issues_word _ _ _ (by decide +kernel), issues_word _ _ _ (by decide +kernel)⟩

theorem witness_ProductsLandLater : issues (running (Lamad.encR 9 0 1 2 14) bank1) 1 1 (.macc 1 1 14 1 2) ∧
    (∃ acc n, acc < 4 ∧ (n : BitVec 6).toNat = 51 + 2 * acc ∧ issues (running (Lamad.encR 0xA 57 0 1 0) bank1) 1 1 (.accsh 1 1 n 1)) :=
  ⟨issues_word _ _ _ (by decide +kernel), 3, 57, by decide, by decide, issues_word _ _ _ (by decide +kernel)⟩

theorem witness_BranchesAndCounters : issues (running (Lamad.encB 0x1A 1 2 0x3FFF) bank1) 1 1 (.blt 1 1 1 2 0x3FFF) ∧
    issues (running (Lamad.encJ 0x1E 0x3FFFFFF) bank1) 1 1 (.jmp 1 1 0x3FFFFFF) ∧
    issues (running (Lamad.encR 0x2E 1 0 0 1) bank1) 1 1 (.rdbud 1 1 1) :=
  ⟨issues_word _ _ _ (by decide +kernel), issues_word _ _ _ (by decide +kernel), issues_word _ _ _ (by decide +kernel)⟩

/-- The last element of the segment, index 3 + 12. -/
theorem witness_LoadsAndStores :
    let d := running (Lamad.encM 0x12 2 1 1 12) bank1
    issues d 1 1 (.st 1 1 2 1 1 12) ∧ memWf (d.ridge 1).sram = true ∧
      (segment d 1 1 1).addr (accessIndex d 1 1 1 12) true = .ok 0x900078 ∧ sideOk d 1 1 0x900078 8 ∧
    let e := running (Lamad.encM 0x11 2 1 1 12) bank1
    issues e 1 1 (.lds 1 1 2 1 1 12) ∧ (segment e 1 1 1).addr (accessIndex e 1 1 1 12) false = .ok 0x900078 ∧
      sideOk e 1 1 0x900078 8 :=
  ⟨issues_word _ _ _ (by decide +kernel), by decide +kernel, by decide +kernel, ⟨.inr (by decide +kernel), by decide +kernel⟩,
    issues_word _ _ _ (by decide +kernel), by decide +kernel, ⟨.inr (by decide +kernel), by decide +kernel⟩⟩

/-- One element past the end; a store without write access; the last byte below the waterline. -/
theorem witness_AccessTraps :
    let past := running (Lamad.encM 0x10 2 1 1 13) bank1
    let ro := running (Lamad.encM 0x12 2 1 0 0) fun b => { b with sel := List.replicate 8 ⟨0x900000, 16, 3, false, 0⟩ }
    let below := running (Lamad.encM 0x10 2 1 0 0) fun b => { b with sel := List.replicate 8 ⟨0x7FFFFF, 16, 0, false, 0⟩ }
    issues past 1 1 (.ld 1 1 2 1 1 13) ∧ (segment past 1 1 1).addr (accessIndex past 1 1 1 13) false = .error 0x10 ∧
      issues ro 1 1 (.st 1 1 2 1 0 0) ∧ (segment ro 1 1 0).addr (accessIndex ro 1 1 1 0) true = .error 0x11 ∧
      issues below 1 1 (.ld 1 1 2 1 0 0) ∧ (segment below 1 1 0).addr (accessIndex below 1 1 1 0) false = .ok 0x7FFFFF ∧
      0x7FFFFF < (below.ridge 1).lineByte ∧ (below.core 1 1).deep = false :=
  ⟨issues_word _ _ _ (by decide +kernel), by decide +kernel, issues_word _ _ _ (by decide +kernel), by decide +kernel,
    issues_word _ _ _ (by decide +kernel), by decide +kernel, by decide +kernel, by decide +kernel⟩

/-- Deep code whose segments are empty; a load of it traps to Keade's handler. -/
theorem witness_AccessTraps_deep : issues awake 0 0 (.ld 0 0 2 1 0 0) ∧
    (segment awake 0 0 0).addr (accessIndex awake 0 0 1 0) false = .error 0x10 ∧ (awake.core 0 0).deep = true :=
  ⟨witness_issues_deep _ (by decide), by decide +kernel, by decide +kernel⟩

/-- The last index of a segment of each mode; SDERIVE of the whole segment in each mode, and of one element more. -/
theorem witness_SegmentsAndSelectors :
    (⟨0, 16, 3, false, 0⟩ : Seg).addr 15 false = .ok 120 ∧ (⟨0, 16, 3, false, 1⟩ : Seg).addr 17 false = .ok 8 ∧
    (⟨0, 16, 3, false, 2⟩ : Seg).addr 1 false = .ok 64 ∧ (⟨0, 16, 3, false, 2⟩ : Seg).addr 16 false = .error 0x10 ∧
    derives ⟨0, 16, 3, true, 0⟩ 0 16 0 3 ∧ derives ⟨0, 16, 3, true, 0⟩ 0 16 1 3 ∧ ¬derives ⟨0, 16, 3, true, 0⟩ 0 17 0 3 ∧
    issues (running (Lamad.encS 0x13 6 1 1 1 2 0 3) bank1) 1 1 (.sderive 1 1 6 1 1 2 0 3) ∧
    issues (running (Lamad.encS 0x13 6 0 0 31 0 0 0) bank1) 1 1 (.sload 1 1 6 31) :=
  ⟨by rfl, by rfl, by rfl, by rfl, ⟨rfl, by decide, .inl ⟨rfl, by decide⟩⟩,
    ⟨rfl, by decide, .inr ⟨.inl rfl, by decide, by decide, 4, rfl⟩⟩, fun h => absurd h.2.1 (by decide),
    issues_word _ _ _ (by decide +kernel), issues_word _ _ _ (by decide +kernel)⟩

/-- CALL with seven and with eight frames resident, RET with two and none or one spilled. -/
theorem witness_CallsAndFrames :
    let call := fun (res : BitVec 4) => running (Lamad.encJ 0x1F 5) fun b => { b with res := res }
    let full := call 8
    let ret := fun (n : BitVec 10) => running (Lamad.encR 0x20 0 0 0 2) fun b => { b with spilled := n }
    (issues (call 7) 1 1 (.call 1 1 5) ∧ (coreBank (found (call 7) 1 1)).res ≠ 8) ∧
    (issues full 1 1 (.call 1 1 5) ∧ (coreBank (found full 1 1)).res = 8 ∧ (full.core 1 1).program.isSome = true ∧
      sideOk full 1 1 0x900020 128 ∧ memWf (full.ridge 1).sram = true) ∧
    (issues (ret 0) 1 1 (.ret 1 1) ∧ (coreBank (found (ret 0) 1 1)).res = 2 ∧ (coreBank (found (ret 0) 1 1)).spilled = 0) ∧
    issues (ret 1) 1 1 (.ret 1 1) ∧ (coreBank (found (ret 1) 1 1)).spilled ≠ 0 ∧ sideOk (ret 1) 1 1 0x900020 128 ∧
      (coreBank (found (ret 1) 1 1)).w.length = 128 :=
  ⟨⟨issues_word _ _ _ (by decide +kernel), by decide +kernel⟩,
    ⟨issues_word _ _ _ (by decide +kernel), by decide +kernel, by decide +kernel, ⟨.inr (by decide +kernel), by decide +kernel⟩,
      by decide +kernel⟩,
    ⟨issues_word _ _ _ (by decide +kernel), by decide +kernel, by decide +kernel⟩,
    issues_word _ _ _ (by decide +kernel), by decide +kernel, ⟨.inr (by decide +kernel), by decide +kernel⟩, by decide +kernel⟩

/-- The spill area of 256 bytes takes the second frame and no third. -/
theorem witness_CallsAndFrames_room :
    let call := fun (n : BitVec 10) => running (Lamad.encJ 0x1F 5) fun b => { b with res := 8, spilled := n }
    let room := fun (d : Dev) => (d.core 1 1).program.elim 0 (·.image.spill)
    (issues (call 1) 1 1 (.call 1 1 5) ∧ 128 * (1 + 1) ≤ room (call 1) ∧ sideOk (call 1) 1 1 (0x900020 + 128 * 1) 128) ∧
    issues (call 2) 1 1 (.call 1 1 5) ∧ room (call 2) < 128 * (2 + 1) :=
  ⟨⟨issues_word _ _ _ (by decide +kernel), by decide +kernel, ⟨.inr (by decide +kernel), by decide +kernel⟩⟩,
    issues_word _ _ _ (by decide +kernel), by decide +kernel⟩

/-- The job of the program. -/
def programJob : JobRec :=
  ⟨9, { seam := 0, queue := 0, gen := 0, index := 0, head := Desc.ofBytes [], desc := Desc.ofBytes [], elem := 0, chained := false
        phase := .program, ridge := 1, blk := 30, parts := [], keyA := none, keyB := none, inp := .none, aux := .none
        result := none },
    { arrival := 0, granted := 0, started := 0, draining := none, ns := 0, partsDone := [], waitFrom := none, written := 0
      streamed := 0, replayed := false, unreplayable := false, reran := false, slot := none, room := 0
      created := [], handle := 0, prev := none, consumed := [], pins := [], discarded := false
      link := none, prog := none }⟩

/-- A core of `d` that runs `p`. -/
theorem issues_program (d : Dev) (p : Program) (w : BitVec 32) (i : Instr) (hp : (d.core 1 1).program = some p)
    (h : d.serves 1 = true ∧ (d.core 1 1).deep = false ∧ Lamad.namesReserved i = false ∧ p.paused = false ∧ p.ending = none ∧
      p.word (d.core 1 1).surface.pc = some w ∧ Lamad.decode 1 1 w = some i ∧ (d.core 1 1).surface.chargeOf i ≤ p.budget) :
    issues d 1 1 i :=
  ⟨h.1, by decide, h.2.2.1, .inr ⟨h.2.1, p, w, hp, h.2.2.2.1, h.2.2.2.2.1, h.2.2.2.2.2.1, h.2.2.2.2.2.2.1, h.2.2.2.2.2.2.2⟩⟩

/-- JSUB of a block of one opcode at index 3 of selector 1; tickets `ts`. -/
def submitting (op : Nat) (ts : List (Option Ticket)) : Dev :=
  { (running (Lamad.encR 0x28 2 1 1 0) bank1).modCore 1 1 (fun k => { k with
      program := some { program (Lamad.encR 0x28 2 1 1 0) with tickets := ts } }) with jobs := [programJob] }.modRidge 1
    fun y => { y with sram := memPut [] 0x900018 (leBytes 2 op) }

/-- A ticket whose request runs, or has ended. -/
def ticket (ended : Option (BitVec 16 × BitVec 32 × BitVec 32 × W64)) : Ticket :=
  ⟨0, ⟨0x900000, 16, 3, true, 0⟩, 8, 0x900010, ended, true⟩

/-- JWAIT on the ticket that g1 names. -/
def waiting (ts : List (Option Ticket)) : Dev :=
  (running (Lamad.encR 0x28 2 1 0 1) bank1).modCore 1 1 fun k => { k with
    program := some { program (Lamad.encR 0x28 2 1 0 1) with tickets := ts } }

theorem witness_ProgramRequests :
    let free := submitting 0x0F01 (List.replicate 8 none)
    let full := submitting 0 (List.replicate 8 (some (ticket none)))
    let bad := running (Lamad.encR 0x28 2 1 0 0) bank1
    (issues full 1 1 (.jsub 1 1 2 1 1) ∧ ((full.core 1 1).program.elim false fun p => p.tickets.all (·.isSome)) = true) ∧
    (issues free 1 1 (.jsub 1 1 2 1 1) ∧ ((free.jsubPlan 1 1 1 1).toOption.bind (·.desc)).map (·.op) = some 0x0F01 ∧
      (free.job? 9).isSome = true ∧ (free.ridge 1).cores.length = 4 ∧ requestOp 0x0F01 = false) ∧
    (issues bad 1 1 (.jsub 1 1 2 1 0) ∧ (match bad.jsubPlan 1 1 1 0 with | .error c => c == 0x16 | _ => false) = true) ∧
    (let none' := waiting (List.replicate 8 none)
     let runs := waiting (List.replicate 8 (some (ticket none)))
     let ended := waiting (List.replicate 8 (some (ticket (some (0, 0, 0, 0)))))
     (issues none' 1 1 (.jwait 1 1 2 1) ∧ ticketOf none' 1 1 1 = none) ∧
     (issues runs 1 1 (.jwait 1 1 2 1) ∧ ticketOf runs 1 1 1 = some (ticket none)) ∧
     issues ended 1 1 (.jwait 1 1 2 1) ∧ ticketOf ended 1 1 1 = some (ticket (some (0, 0, 0, 0))) ∧
       (ticket none).block.addr 14 true = .ok 0x900070 ∧ (ticket none).block.addr 15 true = .ok 0x900078 ∧
       sideOk ended 1 1 0x900070 8 ∧ sideOk ended 1 1 0x900078 8) :=
  ⟨⟨issues_program _ _ (Lamad.encR 0x28 2 1 1 0) _ rfl (by decide +kernel), by decide +kernel⟩,
    ⟨issues_program _ _ (Lamad.encR 0x28 2 1 1 0) _ rfl (by decide +kernel), by decide +kernel, by decide +kernel,
      by decide +kernel, by decide +kernel⟩,
    ⟨issues_word _ _ _ (by decide +kernel), by decide +kernel⟩,
    ⟨issues_program _ _ (Lamad.encR 0x28 2 1 0 1) _ rfl (by decide +kernel), by decide +kernel⟩,
    ⟨issues_program _ _ (Lamad.encR 0x28 2 1 0 1) _ rfl (by decide +kernel), by decide +kernel⟩,
    issues_program _ _ (Lamad.encR 0x28 2 1 0 1) _ rfl (by decide +kernel), by decide +kernel, by decide +kernel,
      by decide +kernel, ⟨.inr (by decide +kernel), by decide +kernel⟩, ⟨.inr (by decide +kernel), by decide +kernel⟩⟩

theorem at_word (w : BitVec 32) (f : Bank → Bank)
    (h : (running w f).serves 1 = true ∧ ((running w f).core 1 1).deep = false ∧
      ((running w f).core 1 1).program = some (program w) ∧ (program w).word ((running w f).core 1 1).surface.pc = some w) :
    atWord (running w f) 1 1 (program w) w := ⟨h.1, h.2.1, h.2.2.1, rfl, rfl, h.2.2.2⟩

/-- The ends of a program: EXIT with g2 = 16 and 17 bytes, DESCEND 7, ASCEND, major 0x30, a custom and a reserved word. -/
theorem witness_ProgramsEnd :
    (let exit := fun (n : W64) => running (Lamad.encI 0x2C 0 0 0) fun b => { b with g := b.g.set 2 n }
     atWord (exit 16) 1 1 (program (Lamad.encI 0x2C 0 0 0)) (Lamad.encI 0x2C 0 0 0) ∧
      atWord (exit 17) 1 1 (program (Lamad.encI 0x2C 0 0 0)) (Lamad.encI 0x2C 0 0 0)) ∧
    Lamad.decode 1 1 (Lamad.encI 0x2C 0 0 0) = some (.exit 1 1) ∧
    (atWord (running (Lamad.encI 0x2C 0 0 7) id) 1 1 (program (Lamad.encI 0x2C 0 0 7)) (Lamad.encI 0x2C 0 0 7) ∧
      Lamad.decode 1 1 (Lamad.encI 0x2C 0 0 7) = some (.descend 1 1 7)) ∧
    (atWord (running (Lamad.encR 0x30 0 0 0 0) id) 1 1 (program (Lamad.encR 0x30 0 0 0 0)) (Lamad.encR 0x30 0 0 0 0) ∧
      (Lamad.encR 0x30 0 0 0 0).extractLsb' 26 6 = 0x30) ∧
    (atWord (running (Lamad.encX 0x3E 1 0 0 0 0) id) 1 1 (program (Lamad.encX 0x3E 1 0 0 0 0)) (Lamad.encX 0x3E 1 0 0 0 0) ∧
      Lamad.decode 1 1 (Lamad.encX 0x3E 1 0 0 0 0) = some (.customX 1 1 1 0 0 0 0)) ∧
    (atWord (running (Lamad.encR 0 63 0 0 0) id) 1 1 (program (Lamad.encR 0 63 0 0 0)) (Lamad.encR 0 63 0 0 0) ∧
      reservedWord 1 1 (Lamad.encR 0 63 0 0 0) = true) ∧
    ((awake.ridge 1).power = 2 ∧ (awake.ridge 1).world.restarting = false) :=
  ⟨⟨at_word _ _ (by decide +kernel), at_word _ _ (by decide +kernel)⟩, by decide, ⟨at_word _ _ (by decide +kernel), by decide⟩,
    ⟨at_word _ _ (by decide +kernel), by decide⟩, ⟨at_word _ _ (by decide +kernel), by decide⟩,
    ⟨at_word _ _ (by decide +kernel), by decide⟩, by decide +kernel⟩

/-- A program that has spent its budget. -/
theorem witness_BudgetExhausted :
    let d := withCore fun k => { k with program := some { program 0 with budget := 0 } }
    atWord d 1 1 { program 0 with budget := 0 } 0 ∧ (0 : Nat) < (Lamad.decode 1 1 0).elim 1 (d.core 1 1).surface.chargeOf :=
  ⟨⟨by decide +kernel, by decide +kernel, rfl, rfl, rfl, by decide +kernel⟩, by decide +kernel⟩

theorem witness_CrossingsOfWorlds :
    (awake.serves 1 = true ∧ (awake.ridge 1).power = 2 ∧ (awake.ridge 1).world.restarting = false ∧
      (awake.core 1 1).deep = false ∧ (awake.core 1 1).program = none ∧ (awake.core 1 0).deep = true) ∧
    deepRuns awake 1 0 ∧ (awake.core 1 0).resume = none ∧
    let d := withCore fun k => { k with deep := true, resume := some 8 }
    deepRuns d 1 1 ∧ (d.core 1 1).resume = some 8 :=
  ⟨by decide +kernel, ⟨by decide +kernel, by decide +kernel, by decide +kernel, by decide, by decide +kernel⟩, by decide +kernel,
    ⟨by decide +kernel, by decide +kernel, by decide +kernel, by decide, by decide +kernel⟩, by decide +kernel⟩

/-- A Surface core with a product on its way, and with nothing pending. -/
theorem witness_CrossingsOfWorlds_interrupt :
    let d := withCore fun k => { k with pend := [⟨.ph, 1, false, 3⟩] }
    (d.serves 1 = true ∧ (d.ridge 1).power = 2 ∧ (d.ridge 1).world.restarting = false ∧ (d.core 1 1).deep = false ∧
      (d.core 1 1).landDue.pend ≠ [] ∧ 1 < d.ridges.length ∧ 1 < (d.ridge 1).cores.length) ∧
    (awake.core 1 1).due = [] ∧ (awake.core 1 1).landDue.pend = [] := by decide +kernel

/-- The micro-operations of slot 1: one ADD whose registers are put in from rd, ra and rb. -/
def addSlot : List W64 := [BitVec.ofNat 64 (0x7 * 2 ^ 32) ||| (Lamad.encR 0x00 1 2 3 0x00).setWidth 64]

/-- An active image that lists `addSlot`. -/
def listing : Dev := { awake with
  decode := [[], addSlot], fw := { awake.fw with active := 0, slot0 := some ⟨1, 0, true, [], [(1, sha384 (slotBytes addSlot))]⟩ } }

theorem witness_DeepInstructions :
    deepRuns awake 1 0 ∧ (awake.core 1 0).pend = [] ∧ awake.decode.getD 1 [] = [] ∧
    (deepRuns listing 1 0 ∧ listing.decode.getD 1 [] = addSlot ∧ listing.slotListed 1 addSlot = true ∧
      Lamad.namesReserved (.add 1 0 1 2 3) = false) ∧
    ({ listing with fw := awake.fw } : Dev).slotListed 1 addSlot = false :=
  ⟨⟨by decide +kernel, by decide +kernel, by decide +kernel, by decide, by decide +kernel⟩, by decide +kernel, by decide +kernel,
    ⟨⟨by decide +kernel, by decide +kernel, by decide +kernel, by decide, by decide +kernel⟩, by decide +kernel,
      by simp [Dev.slotListed, listing, Firmware.slot], by decide⟩, by decide +kernel⟩

/-! ## Engines -/

/-- A resident key of 32 bytes. -/
def key : KeyMat := ⟨0, 0, true, false, 0, List.replicate 32 1, List.replicate 65 2⟩

/-- A descriptor of an opcode and PARAM; OUT_LEN 4096. -/
def desc (op param : Nat) : Desc :=
  { Desc.ofBytes [] with opcode := BitVec.ofNat 16 op, param := BitVec.ofNat 16 param, outLen := 4096 }

/-- Job 9 of seam 0 on engine `b` of ridge 0, both reads arrived. -/
def jobOn (x : Desc) (b : Nat) (inp : List Byte) : JobRec := { programJob with
  job := { programJob.job with
    desc := x, head := x, phase := .engine, ridge := 0, blk := b, keyA := some key, keyB := some key, inp := .got inp
    aux := .got [] } }

/-- `awake` with the job's engine running it: keys, input and AUX in its operand RAM. -/
def working (j : JobRec) : Dev :=
  { awake.modEngine 0 j.job.blk fun e => { e with
      running := some 9
      ram := { e.ram with
        keyA := j.job.keyA, keyB := j.job.keyB, inp := j.job.inp.bytes?.getD [], aux := j.job.aux.bytes?.getD [] } } with
    jobs := [j] }

/-- What `ready` asks of the device. -/
def found? (j : JobRec) : Bool :=
  let d := partsRun (working j) j
  ((working j).ridge 0 |>.engine j.job.blk).running == some 9 &&
    ((working j).ridge 0 |>.engine j.job.blk).ram == { OpRam.zero with keyA := some key, keyB := some key, inp := List.replicate 256 2 } &&
    d.partsEnded 9 (j.job.classes.drop 1) && d.drawable 0 j.job.desc.draws

theorem ready (op b : Nat) (x : Desc) (hx : x.op = op) (h : found? (jobOn x b (List.replicate 256 2)) = true) :
    let j := jobOn x b (List.replicate 256 2)
    EngineReady (working j) 0 b op j (List.replicate 256 2) [] := by
  simp only [found?, Bool.and_eq_true, beq_iff_eq] at h
  obtain ⟨⟨⟨h1, h2⟩, h3⟩, h4⟩ := h
  have h2 : ((working (jobOn x b (List.replicate 256 2))).ridge 0 |>.engine b).ram = _ := h2
  exact ⟨h1, rfl, rfl, rfl, rfl, hx, Option.some_ne_none _, Option.some_ne_none _,
    by rw [h2]; exact ⟨rfl, rfl⟩, by rw [h2]; exact ⟨rfl, rfl⟩, by rw [h2]; rfl, h3, h4⟩

/-- Every operation of an engine: its opcode, a PARAM, a block of its class. -/
def operations : List (Nat × Nat × Nat) :=
  [(0x0101, 1, 15), (0x0102, 1, 0), (0x0106, 0, 0), (0x0104, 1, 0), (0x0103, 1, 0), (0x0105, 1, 0), (0x0107, 0, 0), (0x0201, 1, 0),
    (0x0202, 0x10, 0), (0x0203, 0, 0), (0x0204, 0x100, 0), (0x0301, 0, 0), (0x0302, 0, 0), (0x0304, 0, 0), (0x0303, 64, 0),
    (0x0401, 0, 16), (0x0402, 0, 17), (0x0411, 0, 17), (0x0412, 0, 17), (0x0501, 0, 26), (0x0502, 0, 29), (0x0601, 0, 18),
    (0x0602, 0, 21), (0x0603, 0, 18), (0x0604, 0, 18)] ++
  [(0x0701, 1, 22), (0x0702, 2, 25), (0x0703, 0, 26), (0x0704, 1, 22), (0x0705, 1, 22), (0x0901, 0, 18), (0x0801, 0, 0),
    (0x0807, 0, 0), (0x0A01, 0, 0), (0x0A02, 0, 0), (0x0A03, 0, 0), (0x0F10, 0, 0), (0x0F11, 0, 0), (0x0F12, 3, 16),
    (0x0F13, 2, 16), (0x0F14, 1, 16)]

/-- RsaOperations, WeierstrassCurves, EdwardsAndMontgomery, LatticeAndHashBased, AesOperations, HashesAndKdfs,
RandomAndNewKeys, HybridOperations, PrimitivesAndNtt: each operation's engine is ready, with keys in operand RAM. -/
theorem witness_engines : ∀ t ∈ operations,
    let j := jobOn (desc t.1 t.2.1) t.2.2 (List.replicate 256 2)
    EngineReady (working j) 0 t.2.2 t.1 j (List.replicate 256 2) [] ∧ j.job.keyA = some key ∧ j.job.keyB = some key := by
  have h : ∀ t ∈ operations, (desc t.1 t.2.1).op = t.1 ∧
      found? (jobOn (desc t.1 t.2.1) t.2.2 (List.replicate 256 2)) = true := by decide +kernel
  intro t ht
  exact ⟨ready _ _ _ (h t ht).1 (h t ht).2, rfl, rfl⟩

/-- ML-KEM-512 inline keys: the second block's last coefficient is q. -/
theorem witness_LatticeAndHashBased :
    let aux : List Byte := List.replicate 766 0 ++ [0x10, 0xD0] ++ List.replicate 32 0
    3329 ≤ field aux (384 * 1 + 3 * 127) 3 / 4096 ∧ ∀ m < 128, field aux (3 * m) 3 % 4096 < 3329 ∧ field aux (3 * m) 3 / 4096 < 3329 := by
  decide +kernel

/-- The two sides of every point check of 06:R150, on P-256: a lone zero, a coordinate of p, the pair of zeros, off the curve. -/
theorem witness_WeierstrassCurves :
    let lp := awake.lp 0 0x201
    lp = 32 ∧ ([0] : List Byte).length = 1 ∧ ([4] ++ List.replicate 64 0 : List Byte).length = 1 + 2 * lp ∧
      beNat (slice ([4] ++ List.replicate 64 0) 1 lp) = 0 := by decide +kernel

/-- A seam that has its blob key, and a key that asks for a blob. -/
theorem witness_EngineSealsOutput :
    let e := awake.keadeEntry 5 (some 0) 0 0x8001 (.blobKey (List.replicate 32 1) (List.replicate 8 2) 1 1 false)
    let d := awake.modRidge 0 fun y => { y with store := [e] }
    d.blobKey 0 = some (List.replicate 32 1, List.replicate 8 2, 1, 1, false) ∧ tBlob (1#64 <<< 35) = true ∧ tBlob 0 = false := by
  decide +kernel

/-- Seeds of a curve, of SLH-DSA, of a symmetric key, of ML-KEM and of ML-DSA. -/
theorem witness_RandomAndNewKeys : isCurve 0x201 = true ∧ isSlh 0x501 = true ∧ isSymmetric 0x12 = true ∧ isCurve 0x12 = false ∧
    isSlh 0x12 = false ∧ isKem 0x401 = true ∧ isMldsa 0x411 = true := by decide

/-- Coefficients at the top of each prime's range. -/
theorem witness_PrimitivesAndNtt : (List.replicate 256 3328).length = 256 ∧ (∀ v ∈ List.replicate 256 3328, v < 3329) ∧
    (∀ v ∈ List.replicate 256 8380416, v < 8380417) := by decide +kernel

/-! ## The journey of a descriptor -/

/-- `awake` with seam 0 as `f` makes it. -/
def withSeam (f : Seam → Seam) : Dev := awake.modSeam 0 f

def withQueue (k : Queue) : Seam → Seam := fun x => { x with run := { x.run with queues := x.run.queues.set 0 k } }

/-- The tail rule at its bounds: an index equal to the tail, one a full ring past the head, and one more; a wrapped head. -/
theorem witness_IndexWrites :
    ((awake.link .a).up = true ∧ awake.boot.step = 10 ∧ awake.live ≠ .zeroized ∧ (awake.seam 0).entry.state ≠ .free ∧
      (awake.seam 0).entry.binds .a = true ∧ awake.pins.inVigil = false ∧ (awake.seam 0).run.takeover = false) ∧
    (awake.seam 1).entry.state = .free ∧
    (let k := { onQueue with head := 0xFFFFFFF0, tail := 0xFFFFFFF8 }
     (k.tail - k.head).toNat ≤ ((0xFFFFFFF8 : BitVec 32) - k.head).toNat ∧ ((0x30 : BitVec 32) - k.head).toNat ≤ 2 ^ k.log2 ∧
      2 ^ k.log2 < ((0x31 : BitVec 32) - k.head).toNat) ∧
    ((withSeam fun x => { x with run := { x.run with takeover := true } }).seam 0).run.takeover = true ∧
    (let d := withSeam fun x => { x with
       entry := { x.entry with state := .frozen }
       run := { x.run with snapshot := some ⟨[onQueue], none⟩ } }
     (d.seam 0).entry.state = .frozen ∧ (d.seam 0).run.snapshot = some ⟨[onQueue], none⟩ ∧ (d.seam 0).entry.saved = false) ∧
    (∃ c, (awake.seam 0).run.cq = some c ∧ ((0 : BitVec 32) - c.head).toNat ≤ (c.write - c.head).toNat ∧
      (c.write - c.head).toNat < ((1 : BitVec 32) - c.head).toNat) :=
  ⟨by decide +kernel, by decide +kernel, by decide +kernel, by decide +kernel, by decide +kernel,
    ⟨⟨0x20000, 6, 0, 0, 0⟩, by decide +kernel, by decide, by decide⟩⟩

def prefetched (op : Nat) : Fetched := ⟨0, desc op 0, none, true, 0⟩

theorem witness_DescriptorsEnter :
    (((withSeam (withQueue { onQueue with reading := true, tail := 9 })).seam 0).queue 0).reading = true := by decide +kernel

/-- A queue whose first descriptor is a NOP, or a FENCE; one refused at its fetch checks. -/
theorem witness_Grants :
    (awake.fetching = true ∧ awake.serves 0 = true ∧ (awake.ridge 0).power = 2) ∧
    (let d := withSeam (withQueue { onQueue with tail := 1, prefetch := [prefetched 0] })
     d.queueReady 0 0 = some (prefetched 0) ∧
      (((d.grantDecision (d.homeOf 0)).endFailed.seam 0).queue 0).head = (prefetched 0).index + 1) ∧
    (let d := withSeam (withQueue { onQueue with tail := 1, prefetch := [prefetched 1] })
     d.queueReady 0 0 = some (prefetched 1) ∧
      (((d.grantDecision (d.homeOf 0)).endFailed.seam 0).queue 0).head = (prefetched 1).index + 1) ∧
    ((match awake.stage2 0 (desc 0x0701 1) 0 none with | .ok _ => true | .error _ => false) = true) ∧
    ((match awake.stage2 0 (desc 0x0601 0) 0 none with | .ok _ => false | .error _ => true) = true) ∧
    nextAfter 7 [0, 3, 7] (fun n => n != 0) = some 3 ∧ ([0, 3, 7] : List Nat).Pairwise (· < ·) := by decide +kernel

/-- Dispatcher 0 of `awake`, whose next grant is the descriptor that queue 0 of seam 0 holds. -/
def turning (op : Nat) : Dev := withSeam fun y => { y with run := { y.run with
  credit := 1, bleft := 1
  queues := y.run.queues.set 0 { onQueue with tail := 1, prefetch := [prefetched op], credit := 1, bleft := 1 } } }

theorem turn_of (d : Dev) (f : Fetched) (jobs : d.jobs = [])
    (h : (d.fetching = true ∧ d.serves 0 = true ∧ (d.ridge 0).power = 2) ∧ (d.homeOf 0 = 0 ∧ d.homedOn 0 = [0]) ∧
      (d.seamReady 0 = true ∧ (d.ridge 0).arb.cur.toNat = 0) ∧
      (0 < (d.seam 0).run.credit ∧ (d.seam 0).run.credit ≤ (d.seam 0).entry.weight.toNat ∧ 0 < (d.seam 0).run.bleft) ∧
      ((d.seam 0).run.cur = 0 ∧ d.queueReady 0 0 = some f ∧ f.index = ((d.seam 0).queue 0).head) ∧
      (∀ k < 4, k ≠ 0 → d.queueReady 0 k = none) ∧ (0 < ((d.seam 0).queue 0).credit ∧ 0 < ((d.seam 0).queue 0).bleft)) :
    Turn d 0 0 0 f :=
  ⟨h.1, by simp [jobs], h.2.1, h.2.2.1, h.2.2.2.1, ⟨by decide, h.2.2.2.2.1⟩, h.2.2.2.2.2.1, h.2.2.2.2.2.2⟩

theorem witness_Turn : (Turn (turning 0) 0 0 0 (prefetched 0) ∧ (prefetched 0).bad = none ∧ (prefetched 0).desc.op = 0) ∧
    Turn (turning 1) 0 0 0 (prefetched 1) ∧ (prefetched 1).bad = none ∧ (prefetched 1).desc.op = 1 :=
  ⟨⟨turn_of _ _ (by decide +kernel) (by decide +kernel), by decide, by decide⟩,
    turn_of _ _ (by decide +kernel) (by decide +kernel), by decide, by decide⟩

def reading (f : Job → Job) : JobRec :=
  { jobOn (desc 0x0701 1) 22 [] with job := f (jobOn (desc 0x0701 1) 22 []).job }

theorem witness_ReadsAndWrites :
    (let j := reading fun x => { x with inp := .waiting, aux := .waiting }
     (working j).job? 9 = some j ∧ j.job.inp = .waiting ∧ j.job.aux = .waiting) ∧
    (let j := reading fun x => { x with phase := .chainRead, elem := 63 }
     (working j).job? 9 = some j ∧ j.job.phase = .chainRead ∧ 63 ≤ j.job.elem) ∧
    awake.outstanding (.ring 0 0) = false ∧ awake.readLink (.ring 0 0) = some .a ∧
    (let w : HostWrite := ⟨.mqCompletion 3, none, 0, []⟩
     let d := awake.modLink .b fun x => { x with unacked := [w] }
     (d.link .b).unacked = [w]) := by decide +kernel

/-- HYBRID_KEM waits for AUX, whose template stage 2 then takes or refuses. -/
theorem witness_ReadsAndWrites_template :
    let j : JobRec := { reading fun x => { x with aux := .waiting } with job := { (reading fun x => { x with aux := .waiting }).job with
      desc := desc 0x0A03 0 } }
    let d := working j
    (d.job? 9 = some j ∧ j.job.aux = .waiting ∧ j.job.desc.op = 0x0A03) ∧
    (match d.stage2Late 0 j.job.desc 0x200000000012 j.job.keyA j.job.keyB 0 with | .ok e => e.1 | .error _ => false) = true ∧
    (match d.stage2Late 0 j.job.desc 0 j.job.keyA j.job.keyB 0 with | .ok _ => false | .error _ => true) = true := by
  decide +kernel

/-- RSA_SIGN_PKCS1 on drill 0: its hash part finds SHA-2 core 22, or, with no hash core in service, waits. -/
theorem witness_PartsInTurn :
    let j := jobOn (desc 0x0101 1) 0 []
    let d := working j
    let full := d.modRidge 0 fun x => { x with engines := x.engines.map fun e => { e with inService := e.running == some 9 } }
    (d.job? 9 = some j ∧ d.jobs = [j] ∧ j.job.parts = [] ∧ (j.job.classes.drop 1)[j.tail.partsDone.length]? = some .sha2 ∧
      d.pickEngine 0 .sha2 = some 22 ∧ ((d.ridge 0).engine 22).running = none ∧ ((d.ridge 0).engine 22).slot = none ∧
      (d.ridge 0).gated.getLsbD (clusterOf 22) = false ∧ (j.job.classes.drop 1).length = j.tail.partsDone.length + 1 ∧
      22 < (d.ridge 0).engines.length) ∧
    full.pickEngine 0 .sha2 = none ∧ full.job? 9 = some j ∧ full.jobs = [j] := by decide +kernel

/-- HASH on SHA-2 core 22, its result in operand RAM. -/
def ending (res : Result) : Dev :=
  let d := working (reading id)
  d.modEngine 0 22 fun e => { e with ram := { e.ram with out := some res } }

/-- A result to write, none, and a key; a link with PASID and without, and no link; a failed check with its source armed and
off, and one that has run twice; a removal with a job and without. -/
theorem witness_EngineEnds :
    let res : Result := ⟨⟨0, 0, 4⟩, [1, 2, 3, 4], 10, none⟩
    let j := reading id
    let d := ending res
    (((d.ridge 0).engine 22).running = some 9 ∧ d.job? 9 = some j ∧ ((d.ridge 0).engine 22).ram.out = some res ∧
      j.job.phase = .engine ∧ j.job.ridge = 0 ∧ j.job.blk = 22 ∧ j.tail.prog = none ∧ j.tail.discarded = false ∧
      (d.seam 0).entry.state ≠ .faulted ∧ res.out.drop j.tail.streamed ≠ [] ∧ res.key = none) ∧
    (d.jobLink 0 none = some .a ∧ (d.link .a).pasidEn = true ∧
      ((d.modLink .a fun x => { x with pasidEn := false }).link .a).pasidEn = false ∧
      ((d.modLink .a fun x => { x with up := false }).modLink .b fun x => { x with up := false }).jobLink 0 none = none) ∧
    (let u (d : Dev) := (d.reach (j.tail.started + res.ns)).injection 0 22
     (u d).job? 9 = none ∧ ((u { d with tamp := { d.tamp with classRidge := .of 0 } }).job? 9).map (·.tail.reran) = some false ∧
      ((u { d with tamp := { d.tamp with classRidge := .of 0 }, jobs := [{ j with tail := { j.tail with reran := true } }] }).job?
        9).map (·.tail.reran) = some true) ∧
    (awake.serves 0 = true ∧ ((awake.ridge 0).engine 29).inService = true ∧ ((awake.ridge 0).engine 29).running = none ∧
      ((awake.ridge 0).engine 29).slot = none) ∧
    (d.serves 0 = true ∧ ((d.ridge 0).engine 22).inService = true ∧ ((d.ridge 0).engine 22).slot = none ∧
      ((d.modRidge 0 fun x => x.modEng 22 fun e => { e with inService := false }).ridgeEvent 0 16 (22 + 256)).job? 9 = some j) := by
  decide +kernel

/-- A key that stands prepared, with output still to write and with none, with and without a link; and one committed. -/
theorem witness_KeyCommits :
    let j (p : Phase) (out : List Byte) : JobRec := { reading fun x => { x with phase := p, result := some ⟨done, out, 1, none⟩ } with
      tail := { programJob.tail with slot := some 3 } }
    let d := working (j .prepared [7])
    (d.job? 9 = some (j .prepared [7]) ∧ (j .prepared [7]).tail.slot = some 3 ∧ (j .prepared [7]).tail.discarded = false ∧
      (j .prepared [7]).tail.prog = none ∧ (d.seam 0).entry.state ≠ .faulted ∧ d.linkUpFor 0 = true ∧
      d.jobLink 0 none = some .a ∧ (d.link .a).pasidEn = true) ∧
    ((working (j .prepared [])).job? 9 = some (j .prepared []) ∧ (working (j .committed [])).job? 9 = some (j .committed [])) ∧
    ((d.modEntry 0 fun e => { e with state := .faulted }).seam 0).entry.state = .faulted := by decide +kernel

/-! ## Deep services and programs -/

/-- A Deep service under way on ridge 0. -/
def serving (x : Desc) (inp : List Byte) : JobRec :=
  { jobOn x 0 inp with job := { (jobOn x 0 inp).job with phase := .deepRun } }

theorem witness_services : ∀ op ∈ [0x0210, 0x0802, 0x0803, 0x0804, 0x0805, 0x0806], let j := serving (desc op 0) []
    ServiceReady { awake with jobs := [j] } 0 op j [] [] ∧ j.job.keyA = some key ∧ j.job.keyB = some key := by
  have h : ∀ op ∈ [0x0210, 0x0802, 0x0803, 0x0804, 0x0805, 0x0806],
      let j := serving (desc op 0) []
      let d := { awake with jobs := [j] }
      d.keadeRuns 0 = true ∧ d.drawable 0 j.job.desc.draws = true ∧ j.job.desc.op = op := by decide +kernel
  intro t ht
  exact ⟨⟨rfl, rfl, rfl, (h t ht).2.2, (h t ht).1, rfl, rfl, (h t ht).2.1⟩, rfl, rfl⟩

theorem witness_ServicesStart :
    let d := awake.modWorld 0 fun w => { w with waiting := [9], running := [(1, 0), (2, 0), (3, 0)] }
    (d.ridge 0).world.waiting = [9] ∧ d.keadeRuns 0 = true ∧ (d.ridge 0).world.deepUp = true ∧
      (d.ridge 0).world.running.length < 4 := by decide +kernel

/-- A block one byte short, one with a wrong cofactor, and a formed one whose p fails the first check. -/
theorem witness_CurvesLoad :
    let block := fun (l h : Byte) => ([l, h, 0, 0] ++ List.replicate (6 * l.toNat) 0 : List Byte)
    (Curve.ofBytes (block 8 1)).len = 8 ∧ (block 8 1).length = 4 + 6 * 8 ∧ (Curve.ofBytes (block 8 9)).cofactor = 9 ∧
      (Curve.ofBytes (block 80 8)).cofactor = 8 ∧ (Curve.ofBytes (block 8 1)).reject.isSome = true := by decide +kernel

/-- Templates that merge: an invalid one, and a valid one that the outer EXPORTABLE narrows, with a key of its length and one
too short. -/
theorem witness_WrappedKeys :
    (let t := mergeTemplate 0x200300000012 0x200100000012
     tAlg 0x200300000012 = tAlg 0x200100000012 ∧ templateOk t false = false) ∧
    (let t := mergeTemplate 0x200100000012 0x200000000012
     templateOk t false = true ∧ tExportable t = false ∧ awake.encodingOk 0 t (List.replicate 32 0) = true ∧
      awake.encodingOk 0 t (List.replicate 31 0) = false) := by decide +kernel

/-- A curve that the seam holds, and none in the other slots. -/
theorem witness_OtherServices :
    let e := awake.keadeEntry 2 (some 0) 16 0x0210 (.curve ⟨8, 1, 7, 0, 0, 0, 0, 5⟩)
    let d := awake.modRidge 0 fun y => { y with store := [e] }
    d.curve 0 15 ≠ none ∧ d.curve 0 14 = none ∧ d.curveUsed 0 0x2CF = false := by decide +kernel

/-- A RUN_PROGRAM whose image has arrived, for core 1 of ridge 1. -/
theorem witness_ProgramsStart :
    let j : JobRec := { programJob with job := { programJob.job with aux := .got [0], inp := .got [] } }
    let d := { awake with jobs := [j] }
    d.programJob 1 1 = some (j, [0], []) ∧ headerOk [0] = false ∧
      ((d.purgePrograms 0).ridge 1).world.restarting = false := by decide +kernel

/-! ## The management queue -/

/-- MQ command 0, started, its reads returned. -/
def command (x : Desc) (inp : List Byte) : MqCmd := ⟨0, x, none, true, false, .got inp, .got []⟩

/-- `awake` in a mode, seam 0 in a state, with that command. -/
def commanded (m : Mode) (st : SeamState) (x : Desc) (inp : List Byte) : Dev :=
  { withSeam fun y => { y with entry := { y.entry with state := st } } with
    mode := .of m.bits, mq := { MQ.reset with enable := true, state := 1, cmds := [command x inp] } }

theorem command_ready (op : Nat) (m : Mode) (st : SeamState) (x : Desc) (inp : List Byte)
    (h : (commanded m st x inp).mqUp = true ∧ x.op = op ∧ (commanded m st x inp).modeRefusal x = none) :
    CommandReady (commanded m st x inp) 0 op x inp [] := ⟨h.1, ⟨_, rfl, rfl, rfl, rfl, rfl, rfl⟩, h.2.1, h.2.2⟩

/-- A descriptor whose KEY_A and KEY_B hold numbers. -/
def descAB (op param a b : Nat) : Desc := { desc op param with keyA := BitVec.ofNat 64 a, keyB := BitVec.ofNat 64 b }

/-- A mode and a seam state that accept each command. -/
def accepted : List (Desc × Mode × SeamState) :=
  [(desc 0x8001 0, .service, .free), (desc 0x8002 0, .service, .faulted), (desc 0x8003 0, .service, .faulted),
    (desc 0x8004 0, .service, .frozen), (desc 0x8005 0, .service, .active), (desc 0x8006 0, .service, .active),
    (desc 0x8007 0, .service, .frozen), (desc 0x8008 0, .service, .free), (desc 0x8009 0, .service, .frozen),
    (desc 0x8010 0, .service, .active), (desc 0x8011 0, .service, .active), (desc 0x8012 0, .service, .active),
    (desc 0x8020 1, .blank, .free), (desc 0x8021 0, .locked, .active), (desc 0x8021 1, .locked, .active),
    (desc 0x8022 0, .commission, .free), (desc 0x8030 0, .zeroized, .free), (desc 0x8031 0x71D, .commission, .free)] ++
  [(desc 0x8040 0, .commission, .free), (desc 0x8040 1, .service, .active), (desc 0x8041 0, .service, .active),
    (descAB 0x8050 0 1 2, .service, .active), (descAB 0x8050 0 1 1, .freeze, .active), (desc 0x8051 0, .freeze, .active),
    (desc 0x8052 0, .freeze, .free), (desc 0x0805 1, .locked, .active), (desc 0x0805 2, .freeze, .active)]

/-- Every command of the MQ is ready somewhere. -/
theorem witness_commands : ∀ t ∈ accepted, CommandReady (commanded t.2.1 t.2.2 t.1 []) 0 t.1.op t.1 [] [] := by
  have h : ∀ t ∈ accepted, (commanded t.2.1 t.2.2 t.1 []).mqUp = true ∧
      (commanded t.2.1 t.2.2 t.1 []).modeRefusal t.1 = none := by decide +kernel
  intro t ht
  exact command_ready _ _ _ _ _ ⟨(h t ht).1, rfl, (h t ht).2⟩

/-- The tail rule of the MQ at its bounds, ENABLE both ways, a size of 4 and of 12, and a command that may start. -/
theorem witness_MqRegisters :
    let on := { awake with mq := { MQ.reset with enable := true, state := 1, head := 3, tail := 5 } }
    ((on.link .a).up = true ∧ (5 - on.mq.head).toNat ≤ (5 - on.mq.head : BitVec 32).toNat ∧ (19 - on.mq.head : BitVec 32).toNat = 16 ∧
      on.mq.enable = true ∧ awake.mq.enable = false ∧ (0x2C4 : W64).getLsbD 9 = true ∧ (0xC4 : W64).getLsbD 9 = false) ∧
    (let c := { command (desc 0x8030 0) [] with started := false }
     let d := { awake with mq := { on.mq with cmds := [c] } }
     d.mqCmd 0 = some c ∧ d.mqUp = true ∧ c.mayStart (d.mq.cmds.takeWhile fun x => !(x.named 0)) = true ∧
       d.modeRefusal c.desc = none) := by decide +kernel

/-- A create block that passes, and one whose weight is 0; a seam whose commands wait for nothing more. -/
theorem witness_SeamLifecycle :
    let block := ([1, 0xFF, 0xFF, 1, 1, 0, 16, 0, 16, 0, 0, 0, 16, 0, 0, 0] ++ List.replicate 112 0 : List Byte)
    let d := commanded .service .free (desc 0x8001 0) []
    d.drawable d.boss .internal = true ∧ blockFault (d.createChecks 0 block) = none ∧
    (blockFault (d.createChecks 0 (List.replicate 128 0))).isSome = true ∧
    (blockFault (shareChecks (List.replicate 16 0))) = none ∧
    (let e := withSeam fun y => { y with run := { y.run with destroying := some 0, resetting := some 1 } }
     (e.seam 0).run.destroying = some 0 ∧ (e.seam 0).run.resetting = some 1 ∧ (e.seam 0).run.inflight = 0) ∧
    (∀ j ∈ awake.seamJobs 0, j.job.gen ≠ (awake.seam 0).entry.gen + 1) ∧ (awake.seam 0).run.anyQueue = true := by decide +kernel

theorem witness_SeamFreezing :
    let d := withSeam fun y => { y with run := { y.run with freezing := some 0, snapshot := some ⟨[onQueue], none⟩ } }
    (d.seam 0).run.freezing = some 0 ∧ (d.seam 0).run.inflight = 0 ∧ (d.seam 0).run.snapshot = some ⟨[onQueue], none⟩ ∧
      (d.seam 0).entry.state = .active := by decide +kernel

/-- The armed order of a RANGE_FREEZE. -/
def order (kind : Nat) (st : OrderState) (body : List Byte) : Order :=
  { num := 1, kind := kind, seam := 0, body := body, state := st, counted := [], needed := 1, nonce := [], nonceExpiry := 600
    oldNonces := [], deadline := 3600, result := 0 }

def ordered (d : Dev) (o : Order) : Dev := { d with quorum := { d.quorum with orders := [o] } }

theorem witness_RangeCommands :
    let x := descAB 0x8050 0 1 0
    let d := commanded .service .active x []
    (d.authorised 1 0x0B 0 [0] = false ∧ (ordered d (order 0x0B .armed [0])).authorised 1 0x0B 0 [0] = true) ∧
    (let e := ordered { d with mq := { d.mq with freeze := some 0 } } (order 0x0B .armed [0])
     e.mq.freeze = some 0 ∧ (e.mqCmd 0).map (·.desc) = some x ∧ e.jobs = [] ∧ e.live = .service) ∧
    ({ awake with seams := [] } : Dev).usedSeams = [] := by decide +kernel

theorem witness_QueueCommands :
    ((awake.seam 0).queue 0).state = .running ∧ ((awake.seam 0).queue 1).state = .none ∧ awake.queueCount < 16384 ∧
    blockFault (queueChecks (leBytes 8 0x10000 ++ leBytes 8 0x20000 ++ [6, 6, 1, 1] ++ List.replicate 12 0) false) = none ∧
    (let k := { onQueue with state := .shutting, shutCmd := some 0 }
     let d := withSeam (withQueue k)
     ((d.seam 0).queue 0) = k ∧ k.head = k.tail ∧ d.queueJobs 0 0 = [] ∧ (d.seam 0).run.heldWrites = []) ∧
    (let k := { onQueue with state := .shutting, tail := 1 }
     k.head ≠ k.tail ∧ ((withSeam (withQueue k)).seam 0).run.creditFree = true) := by decide +kernel

theorem witness_Orders :
    (awake.openFault 1 0 [] = some 0x20 ∧ awake.order 1 = none) ∧
    (∀ st ∈ [OrderState.pending, .armed, .superseded, .lapsed], (ordered awake (order 5 st [])).order 1 = some (order 5 st [])) ∧
    (ordered awake (order 5 .pending [])).tokenFault (order 5 .pending []) [] = some 0x28 ∧
    awake.drawable awake.boss .internal = true := by decide +kernel

theorem witness_MarksTestsAndFirmware :
    (awake.mq.barrier = none ∧
      (let d := { awake with mq := { MQ.reset with barrier := some (0x80, 0), cmds := [command (desc 0x8030 0) []] } }
       d.serves 7 = true ∧ d.mq.barrier = some (0x80, 0) ∧ (0x80 : BitVec 8).getLsbD 7 = true ∧
         (0x80 &&& ~~~(1#8 <<< 7) : BitVec 8) = 0)) ∧
    (let d := { awake with mq := { MQ.reset with selftest := [(0, 7, 29)] } }
     d.mq.selftest = [(0, 7, 29)] ∧ ((d.ridge 7).engine 29).running = none ∧ d.mqUp = true) ∧
    (awake.staged = none ∧
      (let d := { awake with fw := { awake.fw with staged := true, slot1 := some ⟨2, 0, true, [], []⟩ }
                             mq := { MQ.reset with activate := some ⟨0, 1, 8, 0, false⟩ } }
       d.staged = some ⟨2, 0, true, [], []⟩ ∧ d.nextActivated ⟨0, 1, 8, 0, false⟩ = some 7 ∧ d.keadeRuns 7 = true)) := by
  decide +kernel

/-! ## Links, ridges, supplies -/

theorem witness_LinksComeAndGo :
    ((awake.link .a).up = true ∧ awake.jobs = [] ∧ (awake.link .b).up = true ∧ (awake.link .b).bme = true ∧
      lkOf awake.mq.link = .a ∧ (awake.seam 0).entry.links = 3) ∧
    (let d := withSeam fun y => { y with entry := { y.entry with links := 1 } }
     (d.seam 0).entry.binds .a = true ∧ (d.seam 0).entry.binds .b = false ∧ (d.seam 1).entry.binds .a = false ∧
       d.usedSeams.filter (· == 0) = [0] ∧ ∀ q < 4, ((d.seam 0).queue q).reading = false) ∧
    (let d := awake.modLink .a fun x => { x with up := false, bme := false }
     (d.link .a).up = false ∧ 4 ≤ d.boot.step ∧ (d.ridge 0).lost = false ∧ d.pins.mainPower = true) ∧
    (let d := awake.modLink .a fun x => { x with pba := 1#64 <<< 63, msix := List.replicate 64 ⟨0, 0, false⟩ }
     ∀ v < 64, ((d.link .a).pba.getLsbD v = true ↔ v = 63)) := by decide +kernel

/-- Every seam but 0 of `awake` is free. -/
theorem awake_seam (m : Nat) : awake.seam m = if m = 0 then onSeam else Seam.blank := by
  by_cases h : m = 0
  · subst h; rfl
  · simp only [h, if_false]
    show (assocGet [(0, onSeam)] m).getD Seam.blank = _
    simp [assocGet, Ne.symm h]

/-- Seam 0 of `awake`, bound to link A alone. -/
def single : Dev := withSeam fun y => { y with entry := { y.entry with links := 1 } }

theorem single_seam (m : Nat) :
    single.seam m = if m = 0 then { onSeam with entry := { onSeam.entry with links := 1 } } else Seam.blank := by
  by_cases h : m = 0
  · subst h; rfl
  · simp only [h, if_false]
    show (assocGet [(0, _)] m).getD Seam.blank = _
    simp [assocGet, Ne.symm h]

/-- Link A, which binds seam 0 of `awake` with both links, and seam 0 of `single` alone. -/
theorem witness_LinksComeAndGo_bound : (∀ m, (awake.seam m).entry.binds .a = true → (awake.seam m).entry.links = 3) ∧
    (∀ m, (awake.seam m).entry.links = 3 → (awake.seam m).entry.state ≠ .free ∧ (awake.seam m).entry.state ≠ .faulted) ∧
    (∀ m, (single.seam m).entry.binds .a = true ↔ m = 0) ∧ (awake.link .a).pasidEn = true := by
  refine ⟨fun m h => ?_, fun m h => ?_, fun m => ?_, by decide +kernel⟩
  · rw [awake_seam] at h ⊢; split at h <;> simp_all <;> revert h <;> decide
  · rw [awake_seam] at h ⊢; split at h <;> simp_all <;> revert h <;> decide
  · rw [single_seam]; split <;> simp_all <;> decide

/-- Ridge 7 serves and holds no seam; ridge 1 is home of a seam whose takeover waits, and of one that is copied. -/
theorem witness_RidgesAreLost :
    (awake.serves 7 = true ∧ awake.homeOf 0 ≠ 7 ∧ awake.mirrorOf 0 ≠ 7 ∧ awake.jobs = [] ∧ awake.mq.selftest = [] ∧
      awake.mq.barrier = none ∧ 7 < awake.ridges.length) ∧
    (awake.mirrorOf 0 ≠ awake.homeOf 0 ∧ awake.serves (awake.mirrorOf 0) = true) ∧
    (let d := withSeam fun y => { y with run := { y.run with takeover := true, remirror := some 2 } }
     (d.seam 0).run.takeover = true ∧ (d.seam 0).run.queues.length = 4 ∧ (d.seam 0).run.heldPortal = [] ∧
       (d.seam 0).run.remirror = some 2 ∧ d.serves 2 = true) ∧
    (hops 3 7 = 1 ∧ 3 ^^^ 7 = 2 ^ 2 ∧ awake.trained = true ∧ awake.classOfId (64 + 72 * 7 + 9) ≠ 0) := by decide +kernel

/-- Ridge 7 of `awake` is home and mirror of no seam. -/
theorem witness_RidgesAreLost_idle : (∀ m, (awake.seam m).entry.state ≠ .free → awake.homeOf m ≠ 7 ∧ awake.mirrorOf m ≠ 7) ∧
    (∀ m x, (m, x) ∈ awake.seams → awake.seam m = x) := by
  refine ⟨fun m h => ?_, fun m x h => ?_⟩
  · by_cases hm : m = 0
    · subst hm; decide +kernel
    · exact absurd (by rw [awake_seam, if_neg hm]; rfl) h
  · have : (m, x) = (0, onSeam) := List.mem_singleton.mp h
    cases this; rw [awake_seam, if_pos rfl]

/-- Transfers between neighbours and over two hops, of a source of class L and of class N, with and without a resend before. -/
theorem witness_RidgesAreLost_spine :
    (awake.trained = true ∧ awake.keyed = true ∧ awake.populated 3 = true ∧ awake.populated 7 = true ∧ (awake.ridge 3).lost = false ∧
      (awake.ridge 7).lost = false ∧ 3 ^^^ 7 = 2 ^ 2 ∧ hops 3 7 = 1 ∧ hops 0 7 ≠ 1 ∧ awake.classOfId (64 + 72 * 7 + 9) ≠ 0) ∧
    (({ awake with tamp := { awake.tamp with classRidge := .of 0 } } : Dev).classOfId (64 + 72 * 7 + 9) = 0) ∧
    ((awake.modRidge 7 fun x => { x with spine := { x.spine with retry := [3] } }).ridge 7).spine.retry.contains 3 = true ∧
    (let d := awake.modEntry 0 fun e => { e with mirror := .of 0 }
     (d.seam 0).run.remirror = none ∧ (d.seam 0).entry.state ≠ .free ∧ d.homeOf 0 = d.mirrorOf 0 ∧ d.serves 0 = true ∧
       d.mirrorFor 0 0 ≠ none) ∧
    (awake.modRidge 5 fun x => { x with inService := false, power := 3 }).serves 5 = false := by decide +kernel

theorem witness_SuppliesComeAndGo :
    (awake.pins.mainPower = true ∧ awake.pins.cut = false ∧ awake.pins.inVigil = false ∧ awake.boot.step = 10) ∧
    (let d := awake.modPins fun p => { p with cut := true, inVigil := true }
     d.pins.cut = true ∧ d.pins.inVigil = true ∧ d.pins.pfwLow = false) ∧
    (let d := awake.modPower fun p => { p with pers := [(3, ⟨5, ⟨4, 1⟩, ⟨4, 1⟩, true, some 0⟩)] }
     (assocGet d.power.pers 3).isSome = true ∧ (d.pers 3).waits = true) ∧
    ({ awake with mode := .of 0 } : Dev).live = .factory := by decide +kernel

/-- A power-up with both slots valid, and every self-test passed. -/
def facts : BootFacts := ⟨(true, true), 0, [], [], [], [], [], true⟩

theorem witness_PowerUpRuns :
    (let d := Dev.reset.modPins fun p => { p with pfwLow := true }
     d.pins.cut = false ∧ d.boot.step = 0 ∧ d.boot.romHold = false ∧ d.pins.pfwLow = true ∧
       d.vigil.current = some ⟨.blank, 0, false, 0⟩ ∧ d.modeCopy = d.vigil.current ∧ d.vigil.log = [] ∧ d.pins.held = []) ∧
    (let d := Dev.reset.modBoot fun b => { b with step := 4 }
     d.boot.step = 4 ∧ d.boot.romHold = false ∧ d.pins.pfwLow = false ∧ d.pins.mainPower = true ∧ d.populated 7 = true) ∧
    (let d := Dev.reset.modBoot fun b => { b with step := 9, scrub := true }
     d.boot.step = 9 ∧ d.boot.scrub = true) := by decide +kernel

/-- Power-up with a valid image: sources that pass, and sources that all fail. -/
theorem witness_PowerUpRuns_sources :
    let d := Dev.reset.modBoot fun b => { b with step := 4 }
    let dead : BootFacts := { facts with sourceFails := (List.range 8).flatMap fun r => [(r, 0), (r, 1)] }
    let e := fun f => (d.bootRidges f).bootSources f
    (d.bootSlot facts = some 0 ∧ ((e facts).ridge (e facts).boss).rng.int.state ≠ 0 ∧ facts.measDiffers = [] ∧ facts.katFails = []) ∧
    d.bootSlot dead = some 0 ∧ ((e dead).ridge (e dead).boss).rng.int.state = 0 ∧ (e dead).boot.step = 7 := by decide +kernel

theorem witness_TamperResponses :
    (awake.pins.inVigil = false ∧ awake.pins.mainPower = true ∧ 3 ≤ awake.boot.step) ∧
    (awake.isSource 21 = true ∧ awake.fusedOff 21 = false ∧ awake.isLive 21 = false ∧ awake.isSource 577 = true ∧
      awake.isSource 22 = false ∧ awake.isSource 639 = false) ∧
    (idle awake ∧ ∀ m ∈ [Mode.commission, .freeze, .factory, .blank, .locked, .zeroized],
      ({ awake with mode := .of m.bits } : Dev).live = m) ∧
    (awake.modPins fun p => { p with tamperOut := some 5 }).pins.tamperOut = some 5 :=
  ⟨by decide +kernel, by decide +kernel, ⟨⟨by decide +kernel, by decide +kernel⟩, by decide +kernel⟩, by decide +kernel⟩

/-- An ORDER_TOKEN of the cycle of a class L event is spared by its cut. -/
theorem witness_TamperResponses_orders :
    let c := command (desc 0x8021 0) []
    let d := { awake with mq := { MQ.reset with enable := true, state := 1, cmds := [c] } }
    d.jobs = [] ∧ c.waiting = false ∧ c.started = true ∧ c.index.toNat ∈ [0] ∧ c.bad = none ∧ c.desc.opcode.toNat = 0x8021 ∧
      d.live = .service ∧ ({ d with mode := .of 4 } : Dev).live = .freeze ∧ (awake.raising [⟨20, 0⟩]).map (·.id) = [20] := by
  decide +kernel

/-- A device in VIGIL without main power, a full log, and the last cell. -/
theorem witness_VigilWatches :
    let d := awake.modPins fun p => { p with mainPower := false, inVigil := true }
    (d.pins.inVigil = true ∧ d.vigil.cellA = true ∧ d.watched 0 = true ∧ d.isLive 0 = false ∧ d.isLive 18 = false) ∧
    ((List.replicate 32 (⟨3, 1, 0, 0, .service⟩ : VRec)).length = 32 ∧
      ∀ y ∈ List.replicate 32 (⟨3, 1, 0, 0, .service⟩ : VRec), y.cls ≠ 0) ∧
    (let e := d.modTamp fun t => { t with vigilMode := .of 1 }
     e.tamp.vigilMode.val = 1 ∧ 0 < e.ridges.length ∧ e.watched 67 = true) := by decide +kernel

/-! ## Registers -/

/-- A raise, a lowering with and without its order, a value below the floor, a fused-off source, two links that differ. -/
theorem witness_ClassWrites :
    (awake.boot.step = 10 ∧ awake.fusedOff 21 = false ∧ (awake.classOfId 21).toNat = 2 ∧ (awake.classOfId 19).toNat = 0) ∧
    (let e := ordered awake (order 7 .armed [21, 0, 1, 0])
     ∃ o ∈ e.quorum.orders, o.state = .armed ∧ o.kind = 7 ∧ field o.body 0 2 = 21 ∧ field o.body 2 1 = 1) ∧
    (awake.modTamp fun t => { t with fuseoff := .of (BitVec.allOnes 12) }).fusedOff 15 = true ∧
    (1 : W64).extractLsb' 0 2 ≠ (2 : W64).extractLsb' 0 2 :=
  by decide +kernel

theorem witness_ConfigurationWrites :
    ((awake.link .a).up = true ∧ awake.boot.step = 10 ∧ 0 < awake.fuses.ridges ∧
      ({ awake with mode := .of 2 } : Dev).live = .commission) ∧
    ((1000 : W64).extractLsb' 0 10).toNat = 1000 ∧ 1000 < ((1001 : W64).extractLsb' 0 10).toNat ∧
    ((awake.modPower fun p => { p with pers := [(1024, ⟨5, ⟨4, 1⟩, ⟨4, 1⟩, true, some 0⟩)] }).pers 1024).waits = true := by decide +kernel

theorem witness_WritesByAddress : (awake.link .b).up = true ∧ awake.boot.step = 10 ∧ awake.idExists 639 = true ∧
    (0xC2008 % 8 = 0 ∧ 0xC2000 < 0xC2008) ∧ (8191 < 8192 ∧ 0x100000 + 0x1000 * 8191 + 0xC0 < 0x2100000) := by decide +kernel

/-! ## Power, monitors, events -/

theorem witness_CeilingsAndGates :
    (6 % 128 = 6 ∧ 56 ≤ 56 ∧ (awake.link .a).up = true ∧ 2 ≤ awake.boot.step ∧ awake.access.instruction ≠ 3) ∧
    (let d := awake.modWorld 7 fun w => { w with claim := 1#33 <<< 32 }
     d.populated 7 = true ∧ (d.ridge 7).world.claim.getLsbD 32 = true ∧ (d.ridge 7).gateReq = 0 ∧
       ((0x100000000 : W64).extractLsb' 0 33) = (0 : BitVec 33) ^^^ (1#33 <<< 32)) := by decide +kernel

theorem witness_SleepAndWake :
    (awake.serves 7 = true ∧ (awake.ridge 7).power = 2 ∧ awake.power.sleepUs ≠ 0 ∧ (awake.ridge 7).waking = 0 ∧
      (∀ e ∈ (awake.ridge 7).engines, e.running = none ∧ e.slot = none ∧ e.testing = false) ∧
      (∀ k ∈ (awake.ridge 7).cores, k.program = none ∧ k.borrowed = false) ∧ awake.homedOn 7 = [] ∧ awake.boss ≠ 7) ∧
    (let d := awake.modRidge 7 fun x => { x with power := 0, waking := 64 }
     d.serves 7 = true ∧ (d.ridge 7).power = 0 ∧ (d.ridge 7).waking.getLsbD 6 = true) ∧
    (let d := awake.modRidge 7 fun x => { x with power := 1, pllFails := 1 }
     d.serves 7 = true ∧ (d.ridge 7).power = 1 ∧ (d.ridge 7).pllFails ≠ 0) := by decide +kernel

def event : Event := ⟨639, 2, 7, none, some 0, 1000⟩

/-- A full REP field, a record that takes the event, one that is sealed. -/
theorem witness_EventsReachTheLog :
    let d := awake.modRidge 0 fun y => { y with events := ⟨[event], 3⟩ }
    (d.ridge 0).events.q = [event] ∧ 5 ≤ d.boot.step ∧ (d.ridge 0).lost = false ∧ d.log.recs = [] ∧
    (let x : LogRec := ⟨0, 0, 639, 2, 0xFFFE, 7, 0, none, 0, false⟩
     x.id = event.id ∧ x.detail = event.detail ∧ x.seam = event.seam ∧ x.rep ≠ 0xFFFF) := by decide +kernel

/-- A queue that dropped two events has a place again. -/
theorem witness_EventsReachTheLog_drops :
    let d := awake.modRidge 0 fun y => { y with events := ⟨[event, event], 2⟩ }
    (d.ridge 0).events.q = event :: [event] ∧ (d.ridge 0).events.drops ≠ 0 ∧
      ([event].filter fun x => x.cls == 0).length + max ([event].filter fun x => x.cls != 0).length 16 < 64 ∧
      (640 / 64 = 10 ∧ 9 < 10) := by decide +kernel

/-- A reading that equals a threshold, one beyond it, one 2 °C inside. -/
theorem witness_MonitorsAndCapture :
    (awake.populated 7 = true ∧ 7 ≤ awake.boot.step ∧ awake.pins.inVigil = false) ∧
    (let y := (awake.ridge 7).levels
     ¬(y.tHigh.toInt < (0x1A4 : BitVec 12).toInt) ∧ y.tHigh.toInt < (0x1A5 : BitVec 12).toInt ∧
       (0x19C : BitVec 12).toInt + 8 ≤ y.tHigh.toInt) ∧
    (awake.perfUnit 63).snap = false := by decide +kernel

/-! ## Entropy -/

/-- A window of ones: both health tests fail it; an alternating one passes both. -/
theorem witness_EntropyAndSeeds :
    (awake.populated 7 = true ∧ (awake.ridge 7).lost = false ∧ (awake.ridge 7).rng.src0.state = 3) ∧
    (let ones := List.replicate 1024 true
     795 ≤ ones.countP (· == true) ∧ ones = [] ++ List.replicate 41 true ++ List.replicate 983 true ∧
       (List.replicate 983 true).length < 1024) ∧
    (let d := awake.modRidge 7 fun y => { y with rng := { y.rng with src1 := { y.rng.src1 with state := 4, failedAt := 5 } } }
     (d.ridge 7).rng.src1.state = 4 ∧ d.serves 7 = true) ∧
    (let d := awake.modRidge 0 fun y => { y with rng := { y.rng with
        src0 := { y.rng.src0 with state := 4 }, src1 := { y.rng.src1 with state := 5 }, int := ⟨2, 0, 0⟩ } }
     (d.serves 0 = true ∧ d.neighbour = true ∧ (d.ridge 0).rng.int.state ≠ 1 ∧ (d.ridge 0).rng.pool = []) ∧
       hops 0 1 = 1 ∧ (d.ridge 1).rng.int.state = 1 ∧ (d.ridge 1).rng.src0.state = 3 ∧
       ∀ k < 1, hops 0 k ≠ 1) ∧
    (let d := awake.modRidge 1 fun y => { y with rng := { y.rng with askedBy := [0], pool := [3] } }
     0 ∈ (d.ridge 1).rng.askedBy ∧ (d.ridge 1).rng.pool = [3]) ∧
    (let d := awake.modRidge 0 fun y => { y with rng := { y.rng with buf := [7] } }
     d.live = .service ∧ (d.ridge (d.homeOf 0)).rng.buf = [7] ∧ (d.seam 0).entry.binds .b = true) := by decide +kernel

/-! ## Sideband, the Deep side, the whole block -/

theorem witness_SidebandAndScan :
    (awake.pins.mainPower = true ∧ awake.pins.inVigil = false ∧ 2 ≤ awake.boot.step ∧ awake.access.instruction ≠ 3) ∧
    (0xFF8 : BitVec 16).toNat < 0x1000 ∧ (0x1148 : BitVec 16).toNat = 0x1100 + 8 * 9 ∧
    (∃ t, ({ awake with quorum := { awake.quorum with permitEnd := some 5 } } : Dev).quorum.permitEnd = some t ∧ awake.clock < t) :=
  ⟨by decide +kernel, by decide, by decide, ⟨5, rfl, by decide +kernel⟩⟩

/-- Two faults of the last 10 s, a restarting ridge, a claim with a deferred request, the waterline at both its bounds. -/
theorem witness_DeepRestarts :
    (awake.serves 7 = true ∧ (awake.ridge 7).power = 2 ∧ (awake.ridge 7).world.restarting = false ∧ awake.deepJobs 7 = [] ∧
      (awake.ridge 7).world.claim = 0) ∧
    (let d := { awake.modWorld 7 fun w => { w with faults := [10000000001, 10000000000] } with clock := 20000000000 }
     (d.clock :: (d.ridge 7).world.faults.filter fun t => decide (d.clock < t + 10000000000)).length = 2) ∧
    (let d := awake.modWorld 7 fun w => { w with
        restarting := true, claim := 1#33 <<< 32, claimed := [(32, 5)], deferPending := 1#33 <<< 32 }
     (d.ridge 7).world.restarting = true ∧ (d.ridge 7).world.claim.getLsbD 32 = true ∧
       (d.ridge 7).world.deferPending.getLsbD 32 = true ∧ assocGet (d.ridge 7).world.claimed 32 = some 5) ∧
    (∀ n ∈ [95, 97, 191, 193],
      ((awake.modWorld 7 fun w => { w with line := .of (BitVec.ofNat 9 n) }).ridge 7).world.line.val.toNat = n) := by decide +kernel

/-- A program's core in Deep with a resume address when the Deep side of its ridge restarts. -/
theorem witness_DeepRestarts_resume :
    let d := (withCore fun k => { k with deep := true, resume := some 8 }).modWorld 1 fun w => { w with restarting := true }
    d.serves 1 = true ∧ (d.ridge 1).world.restarting = true ∧ (d.ridge 1).cores.length = 4 ∧ (d.core 1 1).deep = true ∧
      (d.core 1 1).resume = some 8 ∧ (d.core 1 1).pend = [] ∧ (d.core 1 1).surface.g.length = 16 ∧
      (d.core 1 1).deepBank.g.length = 16 ∧ (d.core 1 2).deep = false ∧ 1 < d.ridges.length := by decide +kernel

/-- A claim whose deferred request is the governor's, and one whose is the host's; Deep spill in the granule below the
waterline. -/
theorem witness_ClaimsAndLine :
    (let d := awake.modWorld 7 fun w => { w with
        claim := 1#33 <<< 5, claimed := [(5, 0)], deferPending := 1#33 <<< 5, deferValue := 1#33 <<< 5 }
     (d.ridge 7).world.claim.getLsbD 5 = true ∧ (d.ridge 7).world.deferPending.getLsbD 5 = true ∧
       (d.ridge 7).world.deferValue.getLsbD 5 = true ∧ 7 < d.ridges.length) ∧
    (let d := awake.modRidge 7 fun x => { x with cores := x.cores.map fun k => { k with spillBase := 127 * 65536, spillLen := 128 } }
     d.serves 7 = true ∧ (d.ridge 7).power = 2 ∧ (d.ridge 7).world.deepUp = true ∧ (d.ridge 7).world.line.val.toNat = 128 ∧
       ∃ k ∈ (d.ridge 7).cores, 0 < k.spillLen ∧ k.spillBase < (127 + 1) * 65536 ∧ 127 * 65536 < k.spillBase + k.spillLen) ∧
    (∀ a ∈ (awake.ridge 7).areas, ¬(0 < a.2 ∧ a.1 < (128 + 1) * 65536 ∧ 128 * 65536 < a.1 + a.2)) := by decide +kernel

/-- Every kind of Lamad encoding has a well-formed instruction. -/
theorem witness_LamadDecodeEncode : ∀ i ∈ [Instr.sari 7 3 58 58 63, .movk 7 3 58 3 0xFFFF, .macc 7 3 15 58 58, .accsh 7 3 57 58,
    .st 7 3 58 58 7 0x7FF, .sderive 7 3 7 7 58 58 3 3, .bgeu 7 3 58 58 0x3FFF, .call 7 3 0x3FFFFFF, .jsub 7 3 58 58 7,
    .descend 7 3 0x3FFF, .customX 7 3 31 63 63 63 7],
    i.wf = true ∧ i.site = some (7, 3) ∧ (Lamad.encode i).isSome = true := by decide

theorem witness_KeptByStep : Kept awake :=
  ⟨by unfold eightRidges; decide +kernel, by unfold ridgeKept; decide +kernel, by unfold shadowsAgree; decide +kernel,
    by unfold entryKept; decide +kernel⟩

/-! ## Single steps -/

/-- The device after one command. -/
def after (d : Dev) (c : Instr) : Dev :=
  match step ⟨[c], d⟩ with
  | .next s => s.dev
  | _ => d

/-- 10:R229: the carry out of all ones and one; the result in g5. -/
theorem test_add_carry :
    let d := awake.modCore 0 0 fun k => { k with deepBank := { k.deepBank with g := [0, BitVec.allOnes 64, 1] ++ List.replicate 13 0 } }
    let k := (after d (.add 0 0 5 1 2)).core 0 0
    k.deepBank.g.getD 5 9 = 0 ∧ k.deepBank.c = true ∧ k.deepBank.pc = 4 := by decide +kernel

/-- 10:Table 10.1: g0 reads zero and discards what is written. -/
theorem test_g0_discards :
    ((after (awake.modCore 0 0 fun k => { k with deepBank := { k.deepBank with g := 0 :: 7 :: List.replicate 14 0 } })
      (.or 0 0 0 1 1)).core 0 0).deepBank.g.getD 0 9 = 0 := by decide +kernel

/-- 10:R233: a product of −1 and 1 lands three cycles later: not yet after two NOPs. -/
theorem test_muls_lands :
    let d := awake.modCore 0 0 fun k => { k with deepBank := { k.deepBank with g := [0, BitVec.allOnes 64, 1] ++ List.replicate 13 0 } }
    let d := after (after (after d (.muls 0 0 1 2)) (.lamadNop 0 0)) (.lamadNop 0 0)
    ((d.core 0 0).deepBank.ph = 0) ∧ ((d.core 0 0).landDue.deepBank.ph = BitVec.allOnes 64) := by decide +kernel

/-- 18:R396: version 0, part 0x0840, manufacturer 0x1D3, and a one. -/
theorem test_idcode : (after awake .trstAssert).access.scanOut = 0x008403A7 ∧ (after awake .trstAssert).access.instruction = 1 := by
  decide +kernel

/-- 13:Table 13.1, 02:R37: the lid mesh is class Z and destroys VSALT; the crystal is class L and locks. -/
theorem test_lid_mesh : (after awake (.tamperEvent ⟨[⟨21, 0⟩], []⟩)).live = .zeroized ∧
    (after awake (.tamperEvent ⟨[⟨21, 0⟩], []⟩)).vigil.vsalt = none ∧ (after awake (.tamperEvent ⟨[⟨20, 0⟩], []⟩)).live = .locked ∧
    (after awake (.tamperEvent ⟨[⟨19, 0⟩], []⟩)).live = .service := by decide +kernel

/-- 16:R358: 5 W and 57 W are refused on a UJ840-8, 50 W is not. -/
theorem test_envelope : (after awake (.pwrEnvelopeWrite .a 5)).power.envelope = 56 ∧
    (after awake (.pwrEnvelopeWrite .a 57)).power.envelope = 56 ∧ (after awake (.pwrEnvelopeWrite .a 50)).power.envelope = 50 := by
  decide +kernel

/-- 04:R87: a queue of 64 takes an index of 64 and not of 65. -/
theorem test_tail_rule : (((after awake (.sqTailWrite .a 0 0 4 64)).seam 0).queue 0).tail = 64 ∧
    (((after awake (.sqTailWrite .a 0 0 4 65)).seam 0).queue 0).tail = 0 ∧
    (((after awake (.sqTailWrite .a 0 0 4 65)).seam 0).queue 0).tailDrops = 1 := by decide +kernel

/-- 13:R301: a raise needs no order, a lowering does. -/
theorem test_class_write : (after awake (.tampClassWrite false (some 0x910_5555_AAAB) none)).classOfId 0 = 2 ∧
    (after awake (.tampClassWrite false (some 0x990_5555_AAAA) none)).classOfId 19 = 2 ∧
    (after awake (.tampClassWrite false (some 0x910_5555_AAA9) none)).classOfId 0 = 2 := by decide +kernel

/-- 11:R261: the waterline stops at 96 and 192 granules. -/
theorem test_waterline :
    let d := fun (n : BitVec 9) => awake.modWorld 3 fun w => { w with line := .of n }
    ((after (d 191) (.waterlineMove 3 true)).ridge 3).world.line.val = 192 ∧
    ((after (d 192) (.waterlineMove 3 true)).ridge 3).world.line.val = 192 ∧
    ((after (d 96) (.waterlineMove 3 false)).ridge 3).world.line.val = 96 := by decide +kernel

/-- 03:R74: a dual-homed seam keeps its state when one of its links is lost, 03:R75: a single-homed one is FAULTED. -/
theorem test_link_lost : ((after awake (.linkLost .a true)).seam 0).entry.state = .active ∧
    ((after (awake.modEntry 0 fun e => { e with links := 1 }) (.linkLost .a true)).seam 0).entry.state = .faulted := by
  decide +kernel

/-- An empty queue lets 5 ns pass (log 17). -/
theorem test_idle : step ⟨[], Dev.reset⟩ = .next ⟨[], { Dev.reset with clock := 5 }⟩ := by rfl

/-- The base point of each built-in curve lies on it (06:Table 6.3; log 35). -/
theorem test_base_points : ∀ a ∈ [0x201, 0x202, 0x203, 0x204, 0x205, 0x206, 0x207],
    (CurveNums.of (namedCurve a)).on ((namedCurve a).getD 3 0) ((namedCurve a).getD 4 0) = true := by decide +kernel

/-- The field widths and cofactors of 06:Table 6.3. -/
theorem test_field_bits : [0x201, 0x202, 0x203, 0x204, 0x205, 0x206, 0x207].map (fun a =>
    ((CurveNums.of (namedCurve a)).p.log2 + 1, (CurveNums.of (namedCurve a)).h)) =
      [(256, 1), (384, 1), (521, 1), (256, 1), (256, 1), (384, 1), (512, 1)] := by decide +kernel

/-- A mixed load with every block busy and both links at full width. -/
def allBusy : Dev :=
  let link := { (awake.link .a) with up := true, width := 8, speed := 5, pm := 0 }
  { (awake.modRidges fun x => { x with
      power := 2, engines := x.engines.map fun e => { e with running := some 1 }
      cores := x.cores.map fun k => { k with borrowed := true } }) with linkA := link, linkB := link }

/-- 16:R359: every block of a UJ840-8 busy charges 56.0 W. -/
theorem test_full_charge : allBusy.charge = 56000 := by decide +kernel

/-- 16:Table 16.3: drill 15 of ridge 7 is throttled first, drill 4 of it last; with drills 5 to 15 of ridges 0 to 6 and 4 to 15 of
ridge 7 throttled the charge is 39.98 W, and before that last one above 40 W. -/
theorem test_throttle_order : allBusy.nextDrill (fun _ => 0) = some (7, 15) ∧
    allBusy.nextDrill (fun _ => 0xFFE0) = some (7, 4) ∧ allBusy.chargeBut (fun _ => 0xFFE0) = 40160 ∧
    allBusy.chargeBut (fun r => if r = 7 then 0xFFF0 else 0xFFE0) = 39980 := by decide +kernel

/-- 16:R361: a bulk unit is throttled when one drill and one lattice unit are left, all its cores together. -/
theorem test_throttle_bulk :
    allBusy.nextThrottled (fun r => if r = 0 then 0x2FFFE else 0x3FFFF) = some (7, (List.range 12).map (18 + ·)) := by
  decide +kernel

/-- 18:R393: the static address is 0x48 plus the straps, until SETDASA gives a dynamic one. -/
theorem test_i3c_address :
    ({ awake with fuses := { awake.fuses with i3cAddr := 2 } }).i3cAddress = 0x4A ∧
    (after awake (.setdasa 0x11)).i3cAddress = 0x11 := by decide +kernel

end Sys2Proof.Tests
end

section
/-! ## What updates of the device amount to together -/

namespace Sys2Proof.Machine

theorem assocSet_assocSet {α : Type} (l : List (Nat × α)) (k : Nat) (u v : α) :
    assocSet (assocSet l k u) k v = assocSet l k v := by
  induction l with
  | nil => simp [assocSet]
  | cons e l ih =>
    rcases Nat.lt_trichotomy e.1 k with h | h | h
    · simp [assocSet, h, ih]
    · simp [assocSet, h]
    · simp [assocSet, Nat.lt_asymm h, Nat.ne_of_gt h]

theorem Dev.modSeam_modSeam (d : Dev) (n : Nat) (f g : Seam → Seam) :
    (d.modSeam n f).modSeam n g = d.modSeam n fun x => g (f x) := by
  show { d with seams := assocSet (assocSet d.seams n (f (d.seam n))) n (g ((d.modSeam n f).seam n)) } = _
  rw [Dev.seam_modSeam_self, assocSet_assocSet]
  rfl

@[simp] theorem Dev.seam_modRun_self (d : Dev) (n : Nat) (f : SeamRun → SeamRun) :
    (d.modRun n f).seam n = { d.seam n with run := f (d.seam n).run } := d.seam_modSeam_self n _

@[simp] theorem Dev.seam_modRun_entry (d : Dev) (n : Nat) (f : SeamRun → SeamRun) (k : Nat) :
    ((d.modRun n f).seam k).entry = (d.seam k).entry := by
  by_cases h : n = k
  · subst h; simp
  · exact congrArg Seam.entry (d.seam_modSeam_other _ h)

@[simp] theorem Dev.homeOf_modRun (d : Dev) (n : Nat) (f : SeamRun → SeamRun) (k : Nat) : (d.modRun n f).homeOf k = d.homeOf k := by
  simp [Dev.homeOf]

@[simp] theorem Dev.mirrorOf_modRun (d : Dev) (n : Nat) (f : SeamRun → SeamRun) (k : Nat) :
    (d.modRun n f).mirrorOf k = d.mirrorOf k := by
  simp [Dev.mirrorOf]

@[simp] theorem Dev.seam_modEntry_self (d : Dev) (n : Nat) (f : SeamEntry → SeamEntry) :
    (d.modEntry n f).seam n = { d.seam n with entry := f (d.seam n).entry } := d.seam_modSeam_self n _

theorem Dev.modRun_modRun (d : Dev) (n : Nat) (f g : SeamRun → SeamRun) :
    (d.modRun n f).modRun n g = d.modRun n fun x => g (f x) := d.modSeam_modSeam n _ _

/-- A change to a seam's running part is what it makes of the part that stands there. -/
theorem Dev.modRun_congr (d : Dev) (n : Nat) {f g : SeamRun → SeamRun} (h : f (d.seam n).run = g (d.seam n).run) :
    d.modRun n f = d.modRun n g := by
  show { d with seams := assocSet d.seams n { d.seam n with run := f (d.seam n).run } } = _
  rw [h]
  rfl

/-- A change to a seam's table entry is what it makes of the entry that stands there. -/
theorem Dev.modEntry_congr (d : Dev) (n : Nat) {f g : SeamEntry → SeamEntry} (h : f (d.seam n).entry = g (d.seam n).entry) :
    d.modEntry n f = d.modEntry n g := by
  show { d with seams := assocSet d.seams n { d.seam n with entry := f (d.seam n).entry } } = _
  rw [h]
  rfl

theorem Dev.modRidge_modRidge (d : Dev) (r : Nat) (f g : Ridge → Ridge) :
    (d.modRidge r f).modRidge r g = d.modRidge r fun x => g (f x) := by
  show { d with ridges := (d.ridges.modify r f).modify r g } = { d with ridges := d.ridges.modify r fun x => g (f x) }
  rw [List.modify_modify_eq]
  rfl

/-- What stands in a ridge after each of a list of ridges that satisfy a test has changed. -/
theorem Dev.ridge_foldl_modRidge (p : Nat → Prop) [DecidablePred p] (f : Nat → Ridge → Ridge) {ns : List Nat} (hn : ns.Nodup)
    (d : Dev) {k : Nat} (hk : k < d.ridges.length) :
    (ns.foldl (fun d n => if p n then d.modRidge n (f n) else d) d).ridge k =
      if k ∈ ns ∧ p k then f k (d.ridge k) else d.ridge k := by
  induction ns generalizing d with
  | nil => simp
  | cons n ns ih =>
    obtain ⟨hne, hns⟩ := List.nodup_cons.1 hn
    rw [List.foldl_cons, ih hns _ (by split <;> simpa using hk)]
    by_cases hp : p n
    · rw [if_pos hp]
      by_cases h : n = k
      · subst h
        simp [hne, hp, hk]
      · simp [d.ridge_modRidge_other (f n) h, Ne.symm h]
    · rw [if_neg hp]
      by_cases h : n = k
      · subst h
        simp [hp]
      · simp [Ne.symm h]

/-! ## Jobs and engines after an update -/

theorem Dev.num_of_job? {d : Dev} {n : Nat} {j : JobRec} (h : d.job? n = some j) : j.num = n := by
  simpa using List.find?_some h

/-- A change that keeps a job's number is found under it. -/
theorem Dev.job?_modJob {d : Dev} {n : Nat} {j : JobRec} {f : JobRec → JobRec} (hf : ∀ y, (f y).num = y.num)
    (h : d.job? n = some j) : (d.modJob n f).job? n = some (f j) := by
  have hp : ((fun y : JobRec => y.num == n) ∘ fun y => if y.num = n then f y else y) = fun y => y.num == n := by
    funext y
    by_cases hy : y.num = n <;> simp [hy, hf]
  show (d.jobs.map fun y => if y.num = n then f y else y).find? _ = _
  rw [List.find?_map, hp, show d.jobs.find? (fun y => y.num == n) = some j from h, Option.map_some, if_pos (Dev.num_of_job? h)]

theorem Dev.modJob_congr {d : Dev} {n : Nat} {f g : JobRec → JobRec} (h : ∀ y ∈ d.jobs, y.num = n → f y = g y) :
    d.modJob n f = d.modJob n g := by
  have : (d.jobs.map fun y => if y.num = n then f y else y) = d.jobs.map fun y => if y.num = n then g y else y :=
    List.map_congr_left fun y hy => by by_cases hn : y.num = n <;> simp [hn, h y hy]
  simp [Dev.modJob, this]

theorem Dev.modJob_id (d : Dev) (n : Nat) : (d.modJob n fun y => y) = d := by
  simp [Dev.modJob]

@[simp] theorem Dev.ridge_modJob (d : Dev) (n : Nat) (f : JobRec → JobRec) (r : Nat) : (d.modJob n f).ridge r = d.ridge r := rfl

@[simp] theorem Dev.job?_modRidge (d : Dev) (r : Nat) (f : Ridge → Ridge) (n : Nat) : (d.modRidge r f).job? n = d.job? n := rfl

theorem Ridge.engine_modEng (x : Ridge) (b c : Nat) (f : Engine → Engine) :
    (x.modEng b f).engine c = if b = c ∧ c < x.engines.length then f (x.engine c) else x.engine c := by
  by_cases hc : c < x.engines.length
  · by_cases h : b = c <;> simp [Ridge.modEng, Ridge.engine, List.getD, h, hc]
  · simp [Ridge.modEng, Ridge.engine, List.getD, hc]

/-- Taking or freeing sampler banks changes nothing else of an engine (07:R163). -/
theorem Ridge.engine_foldl_bank (v : Option Nat) (cs : List Nat) (x : Ridge) (b : Nat) :
    ∃ bank, (cs.foldl (fun x c => x.modEng c fun e => { e with bank := v }) x).engine b = { x.engine b with bank := bank } := by
  induction cs generalizing x with
  | nil => exact ⟨_, rfl⟩
  | cons c cs ih =>
    obtain ⟨bank, h⟩ := ih (x.modEng c fun e => { e with bank := v })
    refine ⟨bank, ?_⟩
    rw [List.foldl_cons, h, Ridge.engine_modEng]
    split <;> rfl

theorem Ridge.length_foldl_bank (v : Option Nat) (cs : List Nat) (x : Ridge) :
    (cs.foldl (fun x c => x.modEng c fun e => { e with bank := v }) x).engines.length = x.engines.length := by
  induction cs generalizing x with
  | nil => rfl
  | cons c cs ih => rw [List.foldl_cons, ih]; simp [Ridge.modEng]

theorem Ridge.length_start (x : Ridge) (b n : Nat) (m : OpRam) (buffer : List Byte) :
    (x.start b n m buffer).engines.length = x.engines.length :=
  (Ridge.length_foldl_bank _ _ _).trans (by simp [Ridge.modEng])

/-- An engine on which a job has started. -/
theorem Ridge.engine_start {x : Ridge} {b : Nat} (hb : b < x.engines.length) (n : Nat) (m : OpRam) (buffer : List Byte) :
    ∃ bank, (x.start b n m buffer).engine b =
      { x.engine b with running := some n, ram := m, buffer := buffer, perms := 0, bank := bank } := by
  obtain ⟨bank, h⟩ := Ridge.engine_foldl_bank (some n) (pairedCores b)
    (x.modEng b fun e => { e with running := some n, ram := m, buffer := buffer, perms := 0 }) b
  refine ⟨bank, h.trans ?_⟩
  rw [Ridge.engine_modEng, if_pos ⟨rfl, hb⟩]

/-- An engine wiped of the job that ran on it, with none in its input slot (01:R29). -/
theorem Ridge.engine_wipe {x : Ridge} {b n : Nat} (hb : b < x.engines.length) (hr : (x.engine b).running = some n)
    (hs : (x.engine b).slot = none) : ∃ bank, (x.wipe b n).engine b =
      { x.engine b with running := none, ram := .zero, buffer := [], perms := 0, bank := bank } := by
  unfold Ridge.wipe
  simp only [hr, beq_self_eq_true, if_true]
  obtain ⟨bank, h⟩ := Ridge.engine_foldl_bank none (pairedCores b) (x.modEng b fun e =>
    let e := if e.slot = some n then { e with slot := none, slotRam := .zero } else e
    if e.running = some n then { e with running := none, ram := .zero, buffer := [], perms := 0 } else e) b
  refine ⟨bank, h.trans ?_⟩
  rw [Ridge.engine_modEng, if_pos ⟨rfl, hb⟩]
  simp [hr, hs]

theorem Dev.promote_of_no_slot {d : Dev} {r b : Nat} (h : ((d.ridge r).engine b).slot = none) : d.promote r b = d := by
  simp only [Dev.promote, h]
  cases ((d.ridge r).engine b).running <;> rfl

/-- An engine whose input slot stands empty takes no other job when it lets go of one. -/
theorem Dev.release_of_no_slot {d : Dev} {r b n : Nat} (h : (((d.modRidge r fun x => x.wipe b n).ridge r).engine b).slot = none) :
    d.release r b n = d.modRidge r fun x => x.wipe b n := by
  simp only [Dev.release, Dev.promote_of_no_slot h, ite_self]

end Sys2Proof.Machine
end

section
/-! ## Ridges that are lost (01:R19, R21, 14:R323 to R328) -/

namespace Sys2Proof.Machine

/-! ### Fencing a ridge -/

theorem Dev.spineDown_apart (d : Dev) (r : Nat) : (d.spineDown r).apart = d.apart := by
  refine foldl_same Dev.apart (fun d n => ?_) _ _
  split <;> rfl

/-- Fencing a ridge touches the ridges alone. -/
theorem Dev.fence_apart (d : Dev) (r : Nat) : (d.fence r).apart = d.apart := Dev.spineDown_apart _ r

@[simp] theorem Dev.fence_mq (d : Dev) (r : Nat) : (d.fence r).mq = d.mq := Dev.mq_of_apart (d.fence_apart r)
@[simp] theorem Dev.fence_linkA (d : Dev) (r : Nat) : (d.fence r).linkA = d.linkA := Dev.linkA_of_apart (d.fence_apart r)
@[simp] theorem Dev.fence_linkB (d : Dev) (r : Nat) : (d.fence r).linkB = d.linkB := Dev.linkB_of_apart (d.fence_apart r)

/-- A ridge already marked lost is fenced to the same. -/
theorem Dev.fence_modRidge_lost (d : Dev) (r : Nat) :
    (d.modRidge r fun x => { x with inService := false, lost := true }).fence r = d.fence r := by
  unfold Dev.fence
  rw [Dev.modRidge_modRidge]

theorem hops_self (r : Nat) : hops r r = 0 := by
  simp [hops, bitsOf]

/-- Silence on the spine leaves the lost ridge as it is but for its own connections. -/
theorem Dev.ridge_spineDown_self (d : Dev) {r : Nat} (hr : r < d.ridges.length) :
    (d.spineDown r).ridge r = { d.ridge r with spine := { (d.ridge r).spine with up := 0 } } := by
  unfold Dev.spineDown Dev.ridgeNums
  rw [Dev.ridge_foldl_modRidge _ _ List.nodup_range _ (by simpa using hr), if_neg (by simp [hops_self]),
    Dev.ridge_modRidge_self _ _ _ hr]

/-- The port of a neighbour that leads to a ridge is the bit of the cube's axis between them (01:R17). -/
theorem portBit_of_neighbour : ∀ n < 8, ∀ r < 8, hops n r = 1 → 1#3 <<< (Nat.xor n r).log2 = BitVec.ofNat 3 (n ^^^ r) := by
  decide

theorem Dev.ridge_spineDown_other (d : Dev) {r n : Nat} (hn : n ∈ d.ridgeNums) (hl : n < d.ridges.length) (h8 : n < 8) (hr : r < 8)
    (hne : n ≠ r) : (d.spineDown r).ridge n = { d.ridge n with spine := { (d.ridge n).spine with
      up := (d.ridge n).spine.up &&& (if hops n r = 1 then ~~~(BitVec.ofNat 3 (n ^^^ r)) else BitVec.allOnes 3) } } := by
  unfold Dev.spineDown Dev.ridgeNums
  rw [Dev.ridge_foldl_modRidge _ _ List.nodup_range _ (by simpa using hl), Dev.ridge_modRidge_other _ _ hne.symm]
  by_cases h : hops n r = 1
  · rw [if_pos ⟨hn, h⟩, if_pos h, portBit_of_neighbour n h8 r hr h]
  · rw [if_neg fun hc => h hc.2, if_neg h, BitVec.and_allOnes]

theorem Dev.ridge_fence_other (d : Dev) {r n : Nat} (hn : n < d.fuses.ridges) (hl : n < d.ridges.length) (h8 : n < 8) (hr : r < 8)
    (hne : n ≠ r) : (d.fence r).ridge n = { d.ridge n with spine := { (d.ridge n).spine with
      up := (d.ridge n).spine.up &&& (if hops n r = 1 then ~~~(BitVec.ofNat 3 (n ^^^ r)) else BitVec.allOnes 3) } } := by
  unfold Dev.fence
  rw [Dev.ridge_spineDown_other _ (by simpa [Dev.ridgeNums] using hn) (by simpa using hl) h8 hr hne,
    Dev.ridge_modRidge_other _ _ hne.symm]

/-! ### A ridge that holds no seam and no job -/

theorem Dev.loseRidge_of_not_stands {d : Dev} {r : Nat} (h : d.stands r = false) (cause : Nat) : d.loseRidge r cause = d := by
  simp [Dev.loseRidge, h]

theorem Dev.stands_iff (d : Dev) (r : Nat) : d.stands r = true ↔
    d.serves r = true ∨ (d.populated r = true ∧ (d.ridge r).power = 3 ∧ (d.ridge r).lost = false) := by
  simp [Dev.stands, and_assoc]

theorem Dev.linkLoss_of_down {d : Dev} {l : Lk} (h : (d.link l).up = false) (cause : Nat) : d.linkLoss l cause = d := by
  simp [Dev.linkLoss, h]

theorem Dev.barrierAck_of_none {d : Dev} (h : d.mq.barrier = none) (r : Nat) : d.barrierAck r = d := by
  simp [Dev.barrierAck, h]

/-- A seam in use is not FREE, where each seam is listed once. -/
theorem Dev.state_of_mem_usedSeams {d : Dev} (h : ∀ m x, (m, x) ∈ d.seams → d.seam m = x) {m : Nat} (hm : m ∈ d.usedSeams) :
    (d.seam m).entry.state ≠ .free := by
  obtain ⟨e, he, rfl⟩ := List.mem_map.1 hm
  obtain ⟨he, hs⟩ := List.mem_filter.1 he
  rw [h e.1 e.2 he]
  simpa using hs

/-- The device when a ridge that held nothing has been fenced: no neighbour seed is asked for it any more, and once it is a
ridge of the persistent registers and the log, the other one goes on alone (12:R289, 15:R341, 16:R367). -/
def Dev.without (d : Dev) (r : Nat) : Dev :=
  let e := (d.fence r).modRidges fun x => { x with rng := { x.rng with askedBy := x.rng.askedBy.filter (· != r) } }
  if r < 2 then (e.modPower fun p => { p with unmirrored := true }).modLog fun g => g.alone (1 - r) else e

@[simp] theorem Dev.without_mq (d : Dev) (r : Nat) : (d.without r).mq = d.mq := by unfold Dev.without; split <;> simp
@[simp] theorem Dev.without_link (d : Dev) (r : Nat) (l : Lk) : (d.without r).link l = d.link l := by
  unfold Dev.without; split <;> cases l <;> simp [Dev.link]

/-- What a ridge's loss comes to when no seam, job, self-test, barrier or link depends on it. -/
theorem Dev.loseRidge_of_idle {d : Dev} {r : Nat} (hs : d.stands r = true)
    (hm : ∀ m ∈ d.usedSeams, d.homeOf m ≠ r ∧ d.mirrorOf m ≠ r) (hj : ∀ j ∈ d.jobs, j.job.ridge ≠ r)
    (ht : ∀ t ∈ d.mq.selftest, t.2.1 ≠ r) (hb : d.mq.barrier = none) (ha : r = 0 → (d.link .a).up = false)
    (hl : r = 1 → (d.link .b).up = false) (cause : Nat) :
    d.loseRidge r cause = (d.without r).pkgEvent 34 (r + 256 * cause) := by
  have hhomed : d.homedOn r = [] := List.filter_eq_nil_iff.2 fun m h => by simpa using (hm m h).1
  have hmirrored : (d.usedSeams.filter fun m => d.mirrorOf m == r && d.homeOf m != r) = [] :=
    List.filter_eq_nil_iff.2 fun m h => by simp [(hm m h).2]
  have hjobs : (d.jobs.filter fun j => j.job.ridge == r) = [] := List.filter_eq_nil_iff.2 fun j h => by simpa using hj j h
  have htests : (d.mq.selftest.filter fun t => t.2.1 == r) = [] := List.filter_eq_nil_iff.2 fun t h => by simpa using ht t h
  unfold Dev.loseRidge
  rw [if_pos hs, hhomed, hmirrored, hjobs]
  extract_lets noSeams noJobs marked taken unmirrored swept fenced unasked alone logged tested linked
  have halone : alone = d.without r := by
    have hfenced : fenced = d.fence r := d.fence_modRidge_lost r
    simp only [alone, unasked, hfenced, Dev.without]
  have hlogged : logged = (d.without r).pkgEvent 34 (r + 256 * cause) := by rw [Nat.mul_comm, ← halone]
  have htested : tested = logged := by
    have : logged.mq = d.mq := by simp [hlogged]
    simp only [tested, this, htests, List.foldl_nil]
  have hlinked : linked = logged := by
    simp only [linked, htested]
    split
    · exact Dev.linkLoss_of_down (by simp [hlogged, ha ‹_›]) 1
    · split
      · exact Dev.linkLoss_of_down (by simp [hlogged, hl ‹_›]) 1
      · rfl
  rw [hlinked, Dev.barrierAck_of_none (by simpa [hlogged] using hb), hlogged]

/-! ### A seam whose home ridge is gone -/

theorem Dev.seamJobs_eq_nil {d : Dev} {m : Nat} (h : ∀ j ∈ d.jobs, j.job.seam ≠ m) : d.seamJobs m = [] :=
  List.filter_eq_nil_iff.2 fun j hj => by simp [h j hj]

theorem Dev.seamFault_jobs (d : Dev) (m cause : Nat) : (d.seamFault m cause).jobs = d.jobs := by
  unfold Dev.seamFault; split <;> simp

/-- Nothing is swept for a seam without jobs. -/
theorem Dev.homeGone_of_no_jobs {d : Dev} {m : Nat} (h : ∀ j ∈ d.jobs, j.job.seam ≠ m) : d.homeGone m =
    if d.mirrorOf m ≠ d.homeOf m ∧ d.serves (d.mirrorOf m) = true then
      d.modRun m fun x => { x with takeover := true, remirror := none }
    else d.seamFault m 0 := by
  have hn : (d.jobs.filter fun j => j.job.seam == m) = [] := List.filter_eq_nil_iff.2 fun j hj => by simpa using h j hj
  have hf : (d.seamFault m 0).seamJobs m = [] := Dev.seamJobs_eq_nil (by simpa [Dev.seamFault_jobs] using h)
  simp [Dev.homeGone, hn, hf]

/-! ### The takeover -/

/-- A queue as the new home ridge takes it up: what the mirror has recorded, and of the prefetched descriptors those that stood
there, are read no more (14:R326). -/
def Queue.takenOver (k : Queue) : Queue :=
  { k with reported := k.head, reading := false, prefetch := k.prefetch.takeWhile fun f => f.mirrored }

/-- Without jobs, no grant of a queue is unrecorded. -/
theorem Dev.unrecorded_of_no_jobs {d : Dev} {m q : Nat} (h : d.queueJobs m q = []) (n : Nat) : d.unrecorded m q n = 0 := by
  induction n with
  | zero => rfl
  | succ n ih => simp [Dev.unrecorded, h, ih]

theorem Dev.takeQueue_of_no_jobs {d : Dev} {m q : Nat} (h : d.queueJobs m q = []) :
    d.takeQueue m q = d.modQueue m q Queue.takenOver := by
  simp [Dev.takeQueue, Dev.unrecorded_of_no_jobs h, h]
  rfl

/-- The queues of a seam without jobs are taken up one by one. -/
theorem Dev.foldl_takeQueue_of_no_jobs {m : Nat} (qs : List Nat) {d : Dev} (h : ∀ j ∈ d.jobs, j.job.seam ≠ m) :
    qs.foldl (fun d q => d.takeQueue m q) d =
      qs.foldl (fun d q => d.modQueue m q Queue.takenOver) d := by
  induction qs generalizing d with
  | nil => rfl
  | cons q qs ih =>
    rw [List.foldl_cons, Dev.takeQueue_of_no_jobs (by simp [Dev.queueJobs, Dev.seamJobs_eq_nil h])]
    exact ih h

theorem foldl_modify_four {α : Type} {l : List α} (h : l.length = 4) (f : α → α) :
    (List.range 4).foldl (fun l i => l.modify i f) l = l.map f := by
  obtain ⟨a, b, c, e, rfl⟩ := List.length_eq_four.1 h
  rfl

/-- A change to each of a seam's four queues. -/
theorem Dev.foldl_modQueue {d : Dev} {m : Nat} (h : (d.seam m).run.queues.length = 4) (f : Queue → Queue) :
    (List.range 4).foldl (fun d q => d.modQueue m q f) d = d.modRun m fun x => { x with queues := x.queues.map f } :=
  calc (List.range 4).foldl (fun d q => d.modQueue m q f) d
      = d.modRun m fun x => { x with queues := (List.range 4).foldl (fun l i => l.modify i f) x.queues } := by
        show (((d.modQueue m 0 f).modQueue m 1 f).modQueue m 2 f).modQueue m 3 f = _
        simp only [Dev.modQueue, Dev.modRun_modRun]
        rfl
    _ = _ := Dev.modRun_congr d m (by rw [foldl_modify_four h])

theorem Dev.deliverPortal_of_none {d : Dev} {m : Nat} (h : (d.seam m).run.heldPortal = []) :
    d.deliverPortal m = d.modRun m fun x => { x with heldPortal := [] } := by
  simp [Dev.deliverPortal, h]

theorem Dev.takeOver_of_none {d : Dev} {m : Nat} (h : (d.seam m).run.takeover = false) : d.takeOver m = d := by
  simp [Dev.takeOver, h]

/-- The takeover of a seam without jobs and without held portal writes. -/
theorem Dev.takeOver_of_no_jobs {d : Dev} {m : Nat} (ht : (d.seam m).run.takeover = true) (hj : ∀ j ∈ d.jobs, j.job.seam ≠ m)
    (hq : (d.seam m).run.queues.length = 4) (hp : (d.seam m).run.heldPortal = []) :
    d.takeOver m = (((d.modEntry m fun e => { e with home := .of e.mirror.val }).modRun m fun x => { x with
      takeover := false, queues := x.queues.map Queue.takenOver }).unmirror m).fetchSeam m := by
  unfold Dev.takeOver
  rw [if_pos ht]
  extract_lets new home taken resumed delivered ns replayed
  have hhome : home = d.modEntry m fun e => { e with home := .of e.mirror.val } :=
    Dev.modEntry_congr d m (by simp [new, Dev.mirrorOf])
  have hrun : (home.seam m).run = (d.seam m).run := by simp [hhome]
  have htaken : taken = home.modRun m fun x => { x with queues := x.queues.map Queue.takenOver } := by
    simp only [taken]
    rw [Dev.foldl_takeQueue_of_no_jobs (d := home) _ (by simpa [hhome] using hj), Dev.foldl_modQueue (by rwa [hrun])]
  have hheld : (resumed.seam m).run.heldPortal = [] := by simp [resumed, htaken, hrun, hp]
  have hdelivered : delivered = home.modRun m fun x => { x with takeover := false, queues := x.queues.map Queue.takenOver } := by
    simp only [delivered, Dev.deliverPortal_of_none hheld, resumed, htaken, Dev.modRun_modRun]
    exact Dev.modRun_congr home m (by simp [hrun, hp])
  have hreplayed : replayed = delivered := by
    have hns : ns = [] := by simp [ns, Dev.seamJobs_eq_nil (d := delivered) (m := m) (by simpa [hdelivered, hhome] using hj)]
    simp only [replayed, hns, List.foldl_nil]
  rw [hreplayed, hdelivered, hhome]

/-! ### A seam without a mirror -/

theorem leastBy_mem {key : Nat → Nat} {l : List Nat} {n : Nat} (h : leastBy key l = some n) : n ∈ l := by
  induction l generalizing n with
  | nil => cases h
  | cons x xs ih =>
    unfold leastBy at h
    split at h
    · simp_all
    · next y hy =>
      split_ifs at h
      · exact Option.some.inj h ▸ List.mem_cons_of_mem x (ih hy)
      · exact Option.some.inj h ▸ List.mem_cons_self

/-- A mirror is chosen among the other ridges in service (03:R66). -/
theorem Dev.mirrorFor_serves {d : Dev} {m home fresh n : Nat} (h : d.mirrorFor m home fresh = some n) :
    n ≠ home ∧ d.serves n = true := by
  simp only [Dev.mirrorFor] at h
  split at h
  · next r hr =>
    have := (List.mem_filter.1 (leastBy_mem hr)).2
    simp_all
  · have := (List.mem_filter.1 (leastBy_mem h)).2
    simp_all

theorem Dev.unmirror_entry (d : Dev) (m : Nat) : ((d.unmirror m).seam m).entry =
    { (d.seam m).entry with mirror := .of (BitVec.ofNat 3 (d.homeOf m)) } := by
  simp [Dev.unmirror]

theorem Dev.unmirror_remirror (d : Dev) (m : Nat) : ((d.unmirror m).seam m).run.remirror =
    (d.modEntry m fun e => { e with mirror := .of (BitVec.ofNat 3 (d.homeOf m)) }).mirrorFor m (d.homeOf m) := by
  simp [Dev.unmirror]

theorem Dev.mirrorOf_unmirror (d : Dev) (m : Nat) : (d.unmirror m).mirrorOf m = d.homeOf m := by
  simp [Dev.mirrorOf, Dev.unmirror_entry, Dev.homeOf, Shadowed.of]

/-- The copy that an unmirrored seam waits for runs to another ridge in service (14:R328). -/
theorem Dev.remirror_unmirror {d : Dev} {m n : Nat} (h : ((d.unmirror m).seam m).run.remirror = some n) :
    d.serves n = true ∧ n ≠ d.homeOf m := by
  rw [Dev.unmirror_remirror] at h
  obtain ⟨hne, hs⟩ := Dev.mirrorFor_serves h
  exact ⟨hs, hne⟩

theorem Dev.copyTarget_of_some {d : Dev} {m n : Nat} (h : (d.seam m).run.remirror = some n) : d.copyTarget m = some n := by
  simp [Dev.copyTarget, h]

theorem Dev.copyTarget_of_none {d : Dev} {m : Nat} (h : (d.seam m).run.remirror = none) : d.copyTarget m =
    if (d.seam m).entry.state ≠ .free ∧ d.homeOf m = d.mirrorOf m ∧ d.serves (d.homeOf m) = true then
      d.mirrorFor m (d.homeOf m) else none := by
  simp [Dev.copyTarget, h, and_assoc]

theorem Dev.copyDone_of_none {d : Dev} {m : Nat} (h : d.copyTarget m = none) : d.copyDone m = d := by
  simp [Dev.copyDone, h]

/-- The granules in use on a ridge do not depend on what runs on a seam. -/
theorem Dev.granulesUsed_modRun (d : Dev) (m : Nat) (f : SeamRun → SeamRun) (r : Nat) :
    (d.modRun m f).granulesUsed r = d.granulesUsed r := by
  have hres : (d.modRun m f).reserved r = d.reserved r := by
    funext j
    simp [Dev.reserved, Dev.holders]
  simp [Dev.granulesUsed, hres, Dev.ridge]

@[simp] theorem Dev.homeOf_checkFull (d : Dev) (r before m : Nat) : (d.checkFull r before).homeOf m = d.homeOf m := by
  simp only [Dev.checkFull]; split <;> simp [Dev.homeOf]

@[simp] theorem Dev.homeOf_modRidge (d : Dev) (r : Nat) (f : Ridge → Ridge) (m : Nat) : (d.modRidge r f).homeOf m = d.homeOf m := rfl

theorem Dev.copyDone_of_lost {d : Dev} {m n : Nat} (h : d.copyTarget m = some n) (hs : d.serves n = false) :
    d.copyDone m = (d.modRun m fun x => { x with remirror := none }).unmirror m := by
  simp only [Dev.copyDone, h]
  exact if_neg (ne_true_of_eq_false hs)

/-- A copy that is done: the new mirror holds the seam's entries, MIRROR names it, and event +39 says so. -/
theorem Dev.copyDone_of_serves {d : Dev} {m n : Nat} (h : d.copyTarget m = some n) (hs : d.serves n = true) :
    d.copyDone m = (((((d.modRun m fun x => { x with remirror := none }).modRidge n fun x => { x with
      store := (x.store.filter fun e => e.owner != some m) ++
        (d.ridge (d.homeOf m)).store.filter fun e => e.owner == some m }).checkFull n (d.granulesUsed n)).modEntry m fun e =>
          { e with mirror := .of (BitVec.ofNat 3 n) }).ridgeEvent (d.homeOf m) 39 1 (some m)) := by
  simp only [Dev.copyDone, h]
  rw [if_pos (show (d.modRun m _).serves n = true from hs), Dev.granulesUsed_modRun, Dev.homeOf_checkFull, Dev.homeOf_modRidge,
    Dev.homeOf_modRun]
  rfl

/-! ### Spine transfers -/

/-- A transfer can travel between two ridges: the spine has trained and is keyed, and both stand on it (01:R19, R20). -/
def Dev.travels (d : Dev) (src dst : Nat) : Prop :=
  d.trained = true ∧ d.keyed = true ∧ d.populated src = true ∧ d.populated dst = true ∧ src ≠ dst ∧
    (d.ridge src).lost = false ∧ (d.ridge dst).lost = false

theorem Dev.transfer_of_stuck {d : Dev} {src dst : Nat} (h : ¬d.travels src dst) (authentic : Bool) (latency : Nat) :
    d.transfer src dst authentic latency = d := by
  unfold Dev.transfer
  exact if_neg fun hc => h (by simpa [Dev.travels, and_assoc] using hc)

theorem Dev.spineSend_of_ne (d : Dev) {src dst : Nat} (h : src ≠ dst) : d.spineSend src dst =
    d.modRidge src fun x => { x with spine := { x.spine with seqs := x.spine.seqs.modify dst (· + 1) } } := by
  simp [Dev.spineSend, h]

/-- The device once the source has used up a sequence number of that direction (01:R19). -/
abbrev Dev.sent (d : Dev) (src dst : Nat) : Dev :=
  d.modRidge src fun x => { x with spine := { x.spine with seqs := x.spine.seqs.modify dst (· + 1) } }

/-- What an authentic transfer leaves. -/
theorem Dev.transfer_of_authentic {d : Dev} {src dst : Nat} (h : d.travels src dst) (latency : Nat) :
    d.transfer src dst true latency =
      if hops src dst = 1 then
        ((d.sent src dst).modSpine dst fun p => { p with retry := p.retry.filter (· != src) }).modSpine dst fun p =>
          p.measure (Nat.xor src dst).log2 latency
      else (d.sent src dst).modSpine dst fun p => { p with retry := p.retry.filter (· != src) } := by
  have hne : src ≠ dst := h.2.2.2.2.1
  unfold Dev.transfer
  rw [if_pos (by simpa [Dev.travels, and_assoc] using h), Dev.spineSend_of_ne _ hne]
  rfl

theorem Dev.transfer_far {d : Dev} {src dst : Nat} (h : d.travels src dst) (hh : hops src dst ≠ 1) (latency : Nat) :
    d.transfer src dst true latency =
      (d.sent src dst).modSpine dst fun p => { p with retry := p.retry.filter (· != src) } := by
  rw [Dev.transfer_of_authentic h, if_neg hh]

/-- Two ridges along axis `k` of the cube are neighbours, and the port between them has that number (01:R17). -/
theorem hops_of_axis {src dst k : Nat} (hk : k < 3) (h : src ^^^ dst = 2 ^ k) :
    hops src dst = 1 ∧ (Nat.xor src dst).log2 = k := by
  have hx : Nat.xor src dst = 2 ^ k := h
  refine ⟨?_, by rw [hx, Nat.log2_two_pow]⟩
  unfold hops
  rw [hx]
  interval_cases k <;> rfl

theorem Dev.modSpine_modSpine (d : Dev) (r : Nat) (f g : SpinePort → SpinePort) :
    (d.modSpine r f).modSpine r g = d.modSpine r fun p => g (f p) := d.modRidge_modRidge r _ _

theorem Dev.transfer_near {d : Dev} {src dst k : Nat} (h : d.travels src dst) (hk : k < 3) (hx : src ^^^ dst = 2 ^ k)
    (latency : Nat) : d.transfer src dst true latency =
      (d.sent src dst).modSpine dst fun p => { p with retry := p.retry.filter (· != src) }.measure k latency := by
  obtain ⟨hh, hlog⟩ := hops_of_axis hk hx
  rw [Dev.transfer_of_authentic h, if_pos hh, hlog, Dev.modSpine_modSpine]

/-- The device once the destination has discarded a transfer, and spine integrity has raised there (01:R21). -/
def Dev.spineFailed (d : Dev) (src dst : Nat) : Dev :=
  ((d.sent src dst).modSpine dst fun p => { p with authFails := satInc p.authFails }).tamper [⟨ridgeId dst 9, 0⟩]

/-- What a transfer that fails leaves: its class decides, and then whether it is the first failure. -/
theorem Dev.transfer_of_fails {d : Dev} {src dst : Nat} (h : d.travels src dst) (latency : Nat) :
    d.transfer src dst false latency =
      if (d.sent src dst).classOfId (ridgeId dst 9) ≠ 0 then d.spineFailed src dst
      else if (d.ridge dst).spine.retry.contains src then
        ((d.spineFailed src dst).modSpine dst fun p => { p with retry := p.retry.filter (· != src) }).loseRidge dst 4
      else ((d.spineFailed src dst).modSpine dst fun p => { p with retry := p.retry ++ [src] }).modSpine src fun p =>
        { p with resends := satInc p.resends } := by
  have hne : src ≠ dst := h.2.2.2.2.1
  unfold Dev.transfer
  rw [if_pos (by simpa [Dev.travels, and_assoc] using h), Dev.spineSend_of_ne _ hne,
    ← show (d.sent src dst).ridge dst = d.ridge dst from d.ridge_modRidge_other _ hne]
  rfl

/-! ### The commands of the spine and of ridges -/

theorem leaves_loseRidge {s : State} {r : Nat} {f : Nat → Dev} (h : ∀ cause, s.dev.loseRidge r cause = f cause) :
    leaves (.ridgeLost r) s (f 1) ∧ leaves (.spineSilence r) s (f 2) ∧ leaves (.thermalTrip r) s (f 3) := by
  rw [← h, ← h, ← h]
  exact ⟨rfl, rfl, rfl⟩

theorem leaves_ridgeTakeoverDone {s : State} {m : Nat} {e : Dev} (h : s.dev.takeOver m = e) : leaves (.ridgeTakeoverDone m) s e :=
  h ▸ rfl

theorem leaves_remirrorCopyDone {s : State} {m : Nat} {e : Dev} (h : s.dev.copyDone m = e) : leaves (.remirrorCopyDone m) s e :=
  h ▸ rfl

theorem leaves_spineTransferReceive {s : State} {src dst latency : Nat} {authentic : Bool} {e : Dev}
    (h : s.dev.transfer src dst authentic latency = e) : leaves (.spineTransferReceive src dst authentic latency) s e := h ▸ rfl

/-- A fenced ridge is out of service and holds nothing but its key store. -/
theorem Dev.ridge_fence_self (d : Dev) {r : Nat} (hr : r < d.ridges.length) :
    let x := (d.fence r).ridge r
    x.inService = false ∧ x.lost = true ∧ x.power = 3 ∧ x.sram = [] ∧ x.cache = [] ∧ x.kdu = none ∧ x.spine.key = none ∧
      x.rng.pool = [] ∧ x.rng.buf = [] ∧ x.rng.int.state = 0 ∧ x.rng.host.state = 0 ∧ x.engines = List.replicate 33 Engine.reset ∧
      x.cores = List.replicate 4 Core.reset ∧ x.store = (d.ridge r).store ∧ x.world.deepUp = false := by
  unfold Dev.fence
  rw [Dev.ridge_spineDown_self _ (by simpa using hr), Dev.ridge_modRidge_self _ _ _ hr]
  simp [Rng.wipe]

end Sys2Proof.Machine

open Sys2Proof Machine

/-- Settles O41: a ridge's loss, its fence, the takeover and the mirrors of its seams, and failing spine transfers, each by what
the model does there. -/
theorem Sys2Proof.ridgesAreLost : Obligations.RidgesAreLost := by
  intro s r d lost stands
  refine ⟨fun h => ?_, fun h hm hlisted hj ht hb ha hl hr => ?_, fun hr => ?_, fun m hj => ?_, fun m => ?_, fun m => ?_,
    fun dst latency => ?_⟩
  · exact leaves_loseRidge fun cause => Dev.loseRidge_of_not_stands (by simpa using mt (d.stands_iff r).1 h) cause
  · exact leaves_loseRidge fun cause => Dev.loseRidge_of_idle ((d.stands_iff r).2 h)
      (fun m hu => hm m (Dev.state_of_mem_usedSeams hlisted hu)) hj ht hb ha hl cause
  · simpa only [and_assoc] using And.intro (d.ridge_fence_self hr)
      (fun n hn hl h8 hr8 hne => d.ridge_fence_other (n := n) hn hl h8 hr8 hne)
  · rw [Dev.homeGone_of_no_jobs hj]
    refine ⟨fun hne hs => if_pos ⟨hne, hs⟩, fun h => if_neg ?_, fun h => ?_, fun h hq hp => ?_⟩
    · rcases h with h | h <;> simp [h]
    · exact leaves_ridgeTakeoverDone (Dev.takeOver_of_none h)
    · exact leaves_ridgeTakeoverDone (Dev.takeOver_of_no_jobs h hj hq hp)
  · exact ⟨d.mirrorOf_unmirror m, fun n h => Dev.remirror_unmirror h⟩
  · extract_lets target
    have ht : d.copyTarget m = target := by
      simp only [target]
      split
      · next n h => exact Dev.copyTarget_of_some h
      · next h => exact Dev.copyTarget_of_none h
    rw [← ht]
    refine ⟨fun h => ?_, fun n h => ⟨fun hs => ?_, fun hs => ?_⟩⟩
    · exact leaves_remirrorCopyDone (Dev.copyDone_of_none h)
    · exact leaves_remirrorCopyDone (Dev.copyDone_of_lost h hs)
    · exact leaves_remirrorCopyDone (Dev.copyDone_of_serves h hs)
  · intro travels sent port receives again failed
    refine ⟨fun h => ⟨?_, ?_⟩, fun h hh => ?_, fun k hk h hx => ?_, fun h hc => ?_, fun h hc => ⟨fun ha => ?_, fun ha => ?_⟩⟩
    · exact leaves_spineTransferReceive (Dev.transfer_of_stuck h true latency)
    · exact leaves_spineTransferReceive (Dev.transfer_of_stuck h false latency)
    · exact leaves_spineTransferReceive (Dev.transfer_far h hh latency)
    · exact leaves_spineTransferReceive (Dev.transfer_near h hk hx latency)
    · exact leaves_spineTransferReceive ((Dev.transfer_of_fails h latency).trans (if_pos hc))
    · exact leaves_spineTransferReceive ((Dev.transfer_of_fails h latency).trans ((if_neg (not_not.2 hc)).trans (if_pos ha)))
    · exact leaves_spineTransferReceive ((Dev.transfer_of_fails h latency).trans
        ((if_neg (not_not.2 hc)).trans (if_neg (ne_true_of_eq_false ha))))
end

section
/-! ## Parts of a job, one after another (01:R404; log 36) -/

namespace Sys2Proof.Machine

/-- A job without parts has none on an engine. -/
theorem Dev.partRuns_of_no_parts {d : Dev} {n : Nat} {j : JobRec} (h : d.job? n = some j) (hp : j.job.parts = []) :
    d.partRuns n = false := by
  simp [Dev.partRuns, h, hp]

theorem Dev.partRuns_of_one {d : Dev} {n b : Nat} {j : JobRec} (h : d.job? n = some j) (hp : j.job.parts = [b])
    (hr : ((d.ridge j.job.ridge).engine b).running = some n) : d.partRuns n = true := by
  simp [Dev.partRuns, h, hp, Dev.runsOn, hr]

theorem Dev.runParts_of_idle {d : Dev} {n : Nat} {cs : List EClass} (h : (d.givePart n cs).partRuns n = false) (k : Nat) :
    d.runParts n cs (k + 1) = d.givePart n cs := by
  simp [Dev.runParts, h]

theorem Dev.runParts_of_runs {d : Dev} {n : Nat} {cs : List EClass} (h : (d.givePart n cs).partRuns n = true) (k : Nat) :
    d.runParts n cs (k + 1) = ((d.givePart n cs).endPart n).runParts n cs k := by
  simp [Dev.runParts, h]

/-- No further part is given once one of each class has ended. -/
theorem Dev.givePart_of_ended {d : Dev} {n : Nat} {cs : List EClass} {j : JobRec} (h : d.job? n = some j)
    (hc : cs.length ≤ j.tail.partsDone.length) : d.givePart n cs = d := by
  simp [Dev.givePart, h, List.getElem?_eq_none hc]

/-- A job whose parts have all ended stays as it is. -/
theorem Dev.runParts_of_ended {d : Dev} {n : Nat} {cs : List EClass} {j : JobRec} (h : d.job? n = some j) (hp : j.job.parts = [])
    (hc : cs.length ≤ j.tail.partsDone.length) (k : Nat) : d.runParts n cs k = d := by
  cases k with
  | zero => rfl
  | succ k =>
    have hg := Dev.givePart_of_ended h hc
    rw [Dev.runParts_of_idle (by rw [hg]; exact Dev.partRuns_of_no_parts h hp), hg]

/-- The end of a part: its engine is wiped and free, the part has ended, and the wait before it counts. -/
theorem Dev.endPart_of_one {d : Dev} {n b : Nat} {j : JobRec} (hj : d.job? n = some j) (hp : j.job.parts = [b])
    (hl : j.job.ridge < d.ridges.length) (hb : b < (d.ridge j.job.ridge).engines.length)
    (hr : ((d.ridge j.job.ridge).engine b).running = some n) (hs : ((d.ridge j.job.ridge).engine b).slot = none) :
    let t := d.endPart n
    ((t.ridge j.job.ridge).engine b).running = none ∧ ((t.ridge j.job.ridge).engine b).ram = OpRam.zero ∧
      ∃ k, t.job? n = some k ∧ k.tail.partsDone = j.tail.partsDone ++ [b] ∧ k.job.parts = [] ∧ k.tail.waitFrom = none ∧
        j.tail.ns ≤ k.tail.ns := by
  obtain ⟨bank, he⟩ := Ridge.engine_wipe hb hr hs
  have hwiped : ((d.modRidge j.job.ridge fun x => x.wipe b n).ridge j.job.ridge).engine b = _ :=
    (congrArg (Ridge.engine · b) (Dev.ridge_modRidge_self d _ _ hl)).trans he
  have hrel : d.release j.job.ridge b n = d.modRidge j.job.ridge fun x => x.wipe b n :=
    Dev.release_of_no_slot (by rw [hwiped]; exact hs)
  simp only [Dev.endPart, hj, hp, List.foldl_cons, List.foldl_nil, hrel, Dev.ridge_modJob, hwiped]
  refine ⟨trivial, trivial, _, Dev.job?_modJob (fun _ => rfl) hj, ?_⟩
  simp [hp]
  omega

section
variable {d : Dev} {j : JobRec} {cs : List EClass} {c : EClass} (hj : d.job? j.num = some j)
  (hu : ∀ y ∈ d.jobs, y.num = j.num → y = j) (hp : j.job.parts = []) (hc : cs[j.tail.partsDone.length]? = some c)

include hj hu hp hc in
/-- A part that finds no engine waits, since the moment it began to. -/
theorem Dev.givePart_of_none (hb : d.pickEngine j.job.ridge c = none) : d.givePart j.num cs =
    d.modJob j.num fun y => { y with tail := { y.tail with waitFrom := some (y.tail.waitFrom.getD d.clock) } } := by
  simp only [Dev.givePart, hj, hc, hp, hb, List.isEmpty_nil, if_true]
  refine Dev.modJob_congr fun y hy hn => ?_
  simp [hu y hy hn, hp]

variable {b : Nat} (hr : ((d.ridge j.job.ridge).engine b).running = none)
  (hg : (d.ridge j.job.ridge).gated.getLsbD (clusterOf b) = false) (hne : b ≠ j.job.blk)

include hj hu hne in
theorem Dev.startJob_part (m : OpRam) : d.startJob j.job.ridge b j.num m =
    d.modRidge j.job.ridge fun x => x.start b j.num m (j.job.buffered b) := by
  simp only [Dev.startJob, hj]
  refine (Dev.modJob_congr fun y hy hn => ?_).trans (Dev.modJob_id _ j.num)
  simp [hu y hy hn, hne.symm]

include hj hu hr hg hne in
/-- A job starts on an engine of another class: nothing of the job changes, and no key crosses the spine. -/
theorem Dev.assign_part : ∃ m buffer, d.assign j.job.ridge b j.num =
    d.modRidge j.job.ridge fun x => x.start b j.num m buffer := by
  have hm : j.job.operands (j.job.blk == b) = { OpRam.zero with seq := some j.job.desc.opcode } := by
    simp [Job.operands, hne.symm]
  refine ⟨{ OpRam.zero with seq := some j.job.desc.opcode }, j.job.buffered b, ?_⟩
  rw [← Dev.startJob_part hj hu hne]
  simp [Dev.assign, hj, hm, hr, hg, OpRam.zero]

variable (hl : j.job.ridge < d.ridges.length) (hb : b < (d.ridge j.job.ridge).engines.length)

include hj hu hp hc hr hg hne hl hb in
/-- A part that finds an idle engine of an ungated cluster runs there. -/
theorem Dev.givePart_of_some (hpick : d.pickEngine j.job.ridge c = some b) : ∃ m buffer, d.givePart j.num cs =
    (d.modRidge j.job.ridge fun x => x.start b j.num m buffer).modJob j.num fun y => { y with
      job := { y.job with parts := [b] } } := by
  obtain ⟨m, buffer, hassign⟩ := Dev.assign_part hj hu hr hg hne
  refine ⟨m, buffer, ?_⟩
  simp only [Dev.givePart, hj, hc, hp, hpick, List.isEmpty_nil, if_true, hassign]
  refine (Dev.modJob_congr fun y hy hn => ?_).trans (Dev.modJob_id _ j.num)
  obtain ⟨bank, he⟩ := Ridge.engine_start hb j.num m buffer
  have hruns : ((d.modRidge j.job.ridge fun x => x.start b j.num m buffer).modJob j.num fun y => { y with
      job := { y.job with parts := [b] } }).runsOn j.job.ridge b j.num = true := by
    simp [Dev.runsOn, hl, he]
  have hparts : y.job.parts = [b] := by
    obtain ⟨z, -, rfl⟩ := List.mem_map.1 hy
    split at hn
    · rw [if_pos ‹_›]
    · exact absurd hn ‹_›
  simp [hparts, hruns]

include hj hu hp hc hr hg hne hl hb in
/-- The job and its part's engine while the part runs. -/
theorem Dev.givePart_runs (hpick : d.pickEngine j.job.ridge c = some b) (hs : ((d.ridge j.job.ridge).engine b).slot = none) :
    let e := d.givePart j.num cs
    e.job? j.num = some { j with job := { j.job with parts := [b] } } ∧
      ((e.ridge j.job.ridge).engine b).running = some j.num ∧ ((e.ridge j.job.ridge).engine b).slot = none ∧
      j.job.ridge < e.ridges.length ∧ b < (e.ridge j.job.ridge).engines.length := by
  obtain ⟨m, buffer, hgive⟩ := Dev.givePart_of_some hj hu hp hc hr hg hne hl hb hpick
  obtain ⟨bank, he⟩ := Ridge.engine_start hb j.num m buffer
  rw [hgive]
  exact ⟨Dev.job?_modJob (fun _ => rfl) hj, by simp [hl, he], by simp [hl, he, hs], by simpa using hl,
    by simpa [hl, Ridge.length_start] using hb⟩

include hj hu hp hc in
theorem Dev.runParts_of_none (hb : d.pickEngine j.job.ridge c = none) (k : Nat) : d.runParts j.num cs (k + 1) =
    d.modJob j.num fun y => { y with tail := { y.tail with waitFrom := some (y.tail.waitFrom.getD d.clock) } } := by
  have hgive := Dev.givePart_of_none hj hu hp hc hb
  rw [Dev.runParts_of_idle, hgive]
  rw [hgive]
  exact Dev.partRuns_of_no_parts (Dev.job?_modJob (fun _ => rfl) hj) hp

include hj hu hp hc hr hg hne hl hb in
/-- The last part of a job, on an idle engine of an ungated cluster: it runs there and leaves it wiped. -/
theorem Dev.runParts_of_last (hpick : d.pickEngine j.job.ridge c = some b) (hs : ((d.ridge j.job.ridge).engine b).slot = none)
    (hlen : cs.length = j.tail.partsDone.length + 1) (i : Nat) :
    let t := d.runParts j.num cs (i + 1)
    ((t.ridge j.job.ridge).engine b).running = none ∧ ((t.ridge j.job.ridge).engine b).ram = OpRam.zero ∧
      ∃ k, t.job? j.num = some k ∧ k.tail.partsDone = j.tail.partsDone ++ [b] ∧ k.job.parts = [] ∧ k.tail.waitFrom = none ∧
        j.tail.ns ≤ k.tail.ns := by
  obtain ⟨hgiven, hrunning, hslot, hridge, hengine⟩ := Dev.givePart_runs hj hu hp hc hr hg hne hl hb hpick hs
  have hpart := Dev.endPart_of_one hgiven rfl hridge hengine hrunning hslot
  obtain ⟨hfree, hzero, k, hk, hdone, hparts, hwait, hns⟩ := hpart
  rw [Dev.runParts_of_runs (Dev.partRuns_of_one hgiven rfl hrunning),
    Dev.runParts_of_ended hk hparts (by simp [hdone, hlen])]
  exact ⟨hfree, hzero, k, hk, hdone, hparts, hwait, hns⟩

end

/-! ## The end of an engine's work (01:R29, R30, R405, 06:R145, R154) -/

/-! ### Output -/

theorem Dev.emit_of_written {d : Dev} {j : JobRec} {out : List Byte} (h : out.drop j.tail.streamed = []) :
    d.emit j out = (d, none) := by
  simp [Dev.emit, Dev.emitAt, h]

section
variable {d : Dev} {j : JobRec} {out : List Byte} (hrest : out.drop j.tail.streamed ≠ []) (hprog : j.tail.prog = none)
  (hdisc : j.tail.discarded = false) (hfault : (d.seam j.job.seam).entry.state ≠ .faulted)

include hrest hprog hdisc hfault

/-- What is not yet written of an output leaves through the job's link. -/
theorem Dev.emit_of_link {l : Lk} (hl : d.jobLink j.job.seam j.tail.link = some l) (hp : (d.link l).pasidEn = true) :
    d.emit j out = (((d.spineSend j.job.ridge (lkRidge l)).send l ⟨.output j.num, some (d.seam j.job.seam).entry.pasid,
      j.job.desc.outAddr + BitVec.ofNat 64 j.tail.streamed, out.drop j.tail.streamed⟩).modJob j.num fun y =>
        { y with tail := { y.tail with link := some (y.tail.link.getD l) } }, none) := by
  simp [Dev.emit, Dev.emitAt, hrest, hprog, hdisc, hfault, hl, hp]

/-- It does not leave through a function without PASID (03:R59). -/
theorem Dev.emit_of_no_pasid {l : Lk} (hl : d.jobLink j.job.seam j.tail.link = some l) (hp : (d.link l).pasidEn = false) :
    d.emit j out = (d, some (refuse stPasidFault 0x22)) := by
  simp [Dev.emit, Dev.emitAt, hrest, hprog, hdisc, hfault, hl, hp]

theorem Dev.emit_of_no_link (hl : d.jobLink j.job.seam j.tail.link = none) :
    d.emit j out = (d, some (refuse stWriteFault 0x22)) := by
  simp [Dev.emit, Dev.emitAt, hrest, hprog, hdisc, hfault, hl]

end

/-- A job that has its result, with the time that it took. -/
def Dev.withResult (d : Dev) (n : Nat) (res : Result) : Dev :=
  d.modJob n fun y => { y with job := { y.job with result := some res }, tail := { y.tail with ns := y.tail.ns + res.ns } }

theorem Dev.endWork_of_key {d : Dev} {n : Nat} {j : JobRec} {res : Result} {k : NewKey} (hj : d.job? n = some j)
    (hk : res.key = some k) : d.endWork n res = (d.withResult n res).prepare n k := by
  simp [Dev.endWork, hj, hk, Dev.withResult]

/-- A job's work ends with its element once its output has left. -/
theorem Dev.endWork_of_emits {d e : Dev} {n : Nat} {j : JobRec} {res : Result} (hj : d.job? n = some j) (hk : res.key = none)
    (he : (d.withResult n res).emit j res.out = (e, none)) : d.endWork n res = (e.rollback j).elementEnd n res.verdict := by
  unfold Dev.withResult at he
  simp [Dev.endWork, hj, hk, he]

/-- A job whose output cannot leave ends with the failure. -/
theorem Dev.endWork_of_stuck {d e : Dev} {n : Nat} {j : JobRec} {res : Result} {v : Verdict} (hj : d.job? n = some j)
    (hk : res.key = none) (he : (d.withResult n res).emit j res.out = (e, some v)) :
    d.endWork n res = (e.rollback j).finish n v true := by
  unfold Dev.withResult at he
  simp [Dev.endWork, hj, hk, he]

/-! ### JOB_END -/

section
variable {d : Dev} {r b : Nat} {j : JobRec} {out : Result} (hr : ((d.ridge r).engine b).running = some j.num)
  (hj : d.job? j.num = some j) (ho : ((d.ridge r).engine b).ram.out = some out) (hp : j.job.phase = .engine)
  (hridge : j.job.ridge = r) (hblk : j.job.blk = b)

include hr hj ho hp hridge hblk

/-- The result that stands in the engine of a job. -/
theorem Dev.computed_of_own : d.computed r b = some (j, out) := by
  simp [Dev.computed, hr, hj, ho, hp, hridge, hblk]

/-- What an end of the engine works with: the result, with the time by which samplers delayed it (07:R163), at its deadline. -/
theorem Dev.jobEnd_of_own (checkOk wiped : Bool) : d.jobEnd r b checkOk wiped =
    (let res : Result := { out with ns := out.ns + engNs (26 * ((d.ridge r).engine b).perms) }
     let t := d.reach (j.tail.started + res.ns)
     if checkOk then (if wiped then t else t.removeEngine r b 1).endWork j.num res else t.checkFails j.num r b res) := by
  cases checkOk <;> simp [Dev.jobEnd, Dev.computed_of_own hr hj ho hp hridge hblk, hblk, Engine.delay]

end

/-! ### A failed result check -/

theorem Dev.checkFails_of_gone {d : Dev} {n r b : Nat} {res : Result}
    (h : (d.injection r (BitVec.ofNat 16 b)).job? n = none) : d.checkFails n r b res = d.injection r (BitVec.ofNat 16 b) := by
  simp [Dev.checkFails, h]

theorem Dev.checkFails_of_reran {d : Dev} {n r b : Nat} {res : Result} {k : JobRec}
    (h : (d.injection r (BitVec.ofNat 16 b)).job? n = some k) (hk : k.tail.reran = true) :
    d.checkFails n r b res = ((d.injection r (BitVec.ofNat 16 b)).removeEngine r b 3).abortJob n stAbortTamper false := by
  simp [Dev.checkFails, h, hk]

/-- After its first failed check the job runs once more from its start, with fresh values (06:R145). -/
theorem Dev.checkFails_of_first {d : Dev} {n r b : Nat} {res : Result} {k : JobRec}
    (h : (d.injection r (BitVec.ofNat 16 b)).job? n = some k) (hk : k.tail.reran = false) :
    d.checkFails n r b res = ((((d.injection r (BitVec.ofNat 16 b)).ridgeEvent r 18 b).modEngine r k.job.blk fun e => { e with
      ram := { e.ram with blind := none, out := none } }).modJob n fun y => { y with tail := { y.tail with
        reran := true, started := (d.injection r (BitVec.ofNat 16 b)).clock, partsDone := [], streamed := 0
        ns := y.tail.ns + res.ns } }) := by
  simp [Dev.checkFails, h, hk]

/-! ### An engine that leaves service -/

/-- An engine out of service and wiped, with the sampler banks that it used (06:R154, 07:R177), and event +16. -/
def Dev.withoutEngine (d : Dev) (r b cause : Nat) : Dev :=
  (d.modRidge r fun x => (pairedCores b).foldl (fun x c => x.modEng c fun e => { e with bank := none })
    (x.modEng b fun e => { e.wiped with inService := false, slot := none, readback := cause == 1 })).ridgeEvent r 16
      (b + cause * 256)

theorem Dev.removeEngine_of_no_slot {d : Dev} {r b : Nat} (h : ((d.ridge r).engine b).inService = true)
    (hs : ((d.ridge r).engine b).slot = none) (cause : Nat) : d.removeEngine r b cause = d.withoutEngine r b cause := by
  simp [Dev.removeEngine, h, hs, Dev.withoutEngine]

section
variable {d : Dev} {r b cause : Nat} (hserves : d.serves r = true) (hin : ((d.ridge r).engine b).inService = true)
  (h1 : 1 ≤ cause) (h4 : cause ≤ 4) (hb : b < 30)

include hserves hin h1 h4 hb

theorem Dev.engineFault_of_idle (h : ((d.ridge r).engine b).running = none) :
    d.engineFault r b cause = d.removeEngine r b cause := by
  simp [Dev.engineFault, hserves, hin, h1, h4, hb, h]

/-- The job that ran on an engine that leaves service takes another one (01:R405; log 26). -/
theorem Dev.engineFault_of_running {j : JobRec} (hr : ((d.ridge r).engine b).running = some j.num)
    (hj : (d.removeEngine r b cause).job? j.num = some j) (hblk : j.job.blk = b) (hp : j.job.phase = .engine) :
    d.engineFault r b cause =
      ((((((d.removeEngine r b cause).modEngine r b fun e => { e with running := none, perms := 0 }).modJob j.num fun y =>
        { y with job := { y.job with parts := y.job.parts.filter (· != b) } }).releaseAll j).modJob j.num fun y =>
          { y with job := { y.job with result := none, parts := [] } })).rePlace j.num := by
  simp [Dev.engineFault, hserves, hin, h1, h4, hb, hr, hj, hblk, hp]

end

/-! ### The commands -/

theorem leaves_jobEnd {s : State} {r b : Nat} {checkOk wiped : Bool} {e : Dev} (h : s.dev.jobEnd r b checkOk wiped = e) :
    leaves (.jobEnd r b checkOk wiped) s e := h ▸ rfl

theorem leaves_engineFaultRemoval {s : State} {r b cause : Nat} {e : Dev} (h : s.dev.engineFault r b cause = e) :
    leaves (.engineFaultRemoval r b cause) s e := h ▸ rfl

end Sys2Proof.Machine

open Sys2Proof Machine Claims

/-- The parts of a job, one after another. -/
theorem Sys2Proof.Claims.partsInTurn : Claims.PartsInTurn := by
  intro d j c hj hu hp hc
  exact ⟨fun hb => Dev.runParts_of_none hj hu hp hc hb _,
    fun b hpick hr hs hg hne hl hb hlen => Dev.runParts_of_last hj hu hp hc hr hg hne hl hb hpick hs hlen _⟩

/-- The end of an engine's work. -/
theorem Sys2Proof.Claims.engineEnds : Claims.EngineEnds := by
  intro s r b d e
  refine ⟨fun j out hr hj ho hp hridge hblk => ?_, fun cause hserves hin h1 h4 hb => ?_⟩
  · intro n m res t ended rest u
    have hend := fun checkOk wiped => Dev.jobEnd_of_own hr hj ho hp hridge hblk checkOk wiped
    have hlink : ∀ l, (t.withResult n res).link l = d.link l := fun l => by cases l <;> rfl
    refine ⟨fun wiped => leaves_jobEnd (hend true wiped), fun k hk => Dev.endWork_of_key (d := t) hj hk, fun hk hrest => ?_,
      fun hk hrest hprog hdisc hfault => ⟨fun l hl => ⟨fun hpasid => ?_, fun hpasid => ?_⟩, fun hl => ?_⟩,
      fun wiped hu => ?_, fun wiped k hu hk => ?_, fun wiped k hu hk => ?_⟩
    · exact Dev.endWork_of_emits (d := t) hj hk (Dev.emit_of_written hrest)
    · rw [← hridge]
      exact Dev.endWork_of_emits (d := t) hj hk
        (Dev.emit_of_link (d := t.withResult n res) hrest hprog hdisc hfault hl (by rwa [hlink]))
    · exact Dev.endWork_of_stuck (d := t) hj hk
        (Dev.emit_of_no_pasid (d := t.withResult n res) hrest hprog hdisc hfault hl (by rwa [hlink]))
    · exact Dev.endWork_of_stuck (d := t) hj hk
        (Dev.emit_of_no_link (d := t.withResult n res) hrest hprog hdisc hfault hl)
    · exact leaves_jobEnd ((hend false wiped).trans (Dev.checkFails_of_gone hu))
    · exact leaves_jobEnd ((hend false wiped).trans (Dev.checkFails_of_reran hu hk))
    · exact leaves_jobEnd ((hend false wiped).trans (Dev.checkFails_of_first hu hk))
  · refine ⟨fun hs => Dev.removeEngine_of_no_slot hin hs cause, fun hr => ?_, fun j hs hr hj hblk hp => ?_⟩
    · exact leaves_engineFaultRemoval (Dev.engineFault_of_idle hserves hin h1 h4 hb hr)
    · have hgone := Dev.removeEngine_of_no_slot hin hs cause
      refine leaves_engineFaultRemoval ((Dev.engineFault_of_running hserves hin h1 h4 hb hr (hgone ▸ hj) hblk hp).trans ?_)
      rw [hgone]
      rfl

/-- Settles O26: the parts of a job, and the end of an engine's work. -/
theorem Sys2Proof.enginesEnd : Obligations.EnginesEnd := ⟨Claims.partsInTurn, Claims.engineEnds⟩
end

section
/-! ## Commands of the management queue that are ready -/

namespace Sys2Proof.Machine

/-- What a ready command of Keade's comes to (04:R114, 03:R403). -/
theorem Dev.command_of_ready {d : Dev} {n op : Nat} {x : Desc} {inp aux : List Byte} (h : Claims.CommandReady d n op x inp aux)
    (f : Dev → Desc → List Byte → List Byte → Dev) : d.command n op f = f d x inp aux := by
  obtain ⟨hup, ⟨c, hc, hstarted, hwaiting, rfl, hinp, haux⟩, rfl, haccepted⟩ := h
  simp [Dev.command, hc, hstarted, hwaiting, hup, hinp, haux, haccepted]

end Sys2Proof.Machine
end

section
/-! ## MARK, SELFTEST, FW_STAGE and FW_ACTIVATE (02:R51 to R53, 14:R333, 15:R345) -/

namespace Sys2Proof.Machine

/-! ### MARK -/

theorem getLsbD_bit {n k r : Nat} (hr : r < n) : (1#n <<< k).getLsbD r = decide (r = k) := by
  rw [BitVec.getLsbD_shiftLeft, BitVec.getLsbD_one]
  by_cases h : r = k
  · simp [h ▸ hr, h, Nat.zero_lt_of_lt hr]
  · rcases Nat.lt_or_ge r k with hk | hk
    · simp [h, hk]
    · simp [h, show r - k ≠ 0 by omega]

/-- The mask of a list of ridges. -/
theorem getLsbD_foldl_bit (ns : List Nat) (m : BitVec 8) {r : Nat} (hr : r < 8) :
    (ns.foldl (fun m k => m ||| 1#8 <<< k) m).getLsbD r = (m.getLsbD r || decide (r ∈ ns)) := by
  induction ns generalizing m with
  | nil => simp
  | cons k ns ih => rw [List.foldl_cons, ih, BitVec.getLsbD_or, getLsbD_bit hr]; simp [Bool.or_assoc]

theorem Dev.mem_ridgeNums_of_serves {d : Dev} {r : Nat} (h : d.serves r = true) : r ∈ d.ridgeNums := by
  simp only [Dev.serves, Dev.populated, Bool.and_eq_true, decide_eq_true_eq] at h
  exact List.mem_range.2 h.1.1

/-- The ridges to which MARK's barrier goes. -/
def Dev.barrierMask (d : Dev) : BitVec 8 := (d.ridgeNums.filter d.serves).foldl (fun m r => m ||| (1#8 <<< r)) 0

theorem Dev.getLsbD_barrierMask (d : Dev) {r : Nat} (hr : r < 8) : d.barrierMask.getLsbD r = true ↔ d.serves r = true := by
  rw [Dev.barrierMask, getLsbD_foldl_bit _ _ hr]
  simpa using Dev.mem_ridgeNums_of_serves

theorem Dev.startMark_of_none {d : Dev} (h : d.mq.barrier = none) (n : Nat) :
    d.startMark n = (d.cmdWaits n).modMq fun q => { q with barrier := some (d.barrierMask, n) } := by
  simp [Dev.startMark, h, Dev.barrierMask]

section
variable {d : Dev} {r c : Nat} {left : BitVec 8} (hr : r < 8) (hb : d.mq.barrier = some (left, c)) (hl : left.getLsbD r = true)
include hr hb hl

theorem Dev.barrierAck_of_left (h : left &&& ~~~(1#8 <<< r) ≠ 0) :
    d.barrierAck r = (d.flushEvents (some r)).modMq fun q => { q with barrier := some (left &&& ~~~(1#8 <<< r), c) } := by
  simp only [Dev.barrierAck, hb, hr, hl, decide_true, Bool.and_true, if_true, if_neg h]

/-- The last acknowledgement of a barrier makes the MARK record (15:R345). -/
theorem Dev.barrierAck_of_last {m : MqCmd} (h : left &&& ~~~(1#8 <<< r) = 0)
    (hm : (((d.flushEvents (some r)).flushEvents none).modMq fun q => { q with barrier := none }).mqCmd c = some m) :
    d.barrierAck r =
      (let t := ((d.flushEvents (some r)).flushEvents none).modMq fun q => { q with barrier := none }
       Claims.ends (t.markRecord (m.desc.keyA.setWidth 32)) c 0x0000 t.log.next) := by
  simp only [Dev.barrierAck, hb, hr, hl, decide_true, Bool.and_true, if_true, if_pos h, hm]
  rfl

end

/-! ### SELFTEST -/

theorem Dev.startTest_of_malformed {d : Dev} {x : Desc} (h : d.serves (x.p 8 3) = false ∨ 30 ≤ x.p 0 6) (n : Nat) :
    d.startTest n x = Claims.ends d n 0x0101 0x35 := by
  rw [Dev.startTest, if_pos (by simpa using h)]
  rfl

theorem Dev.startTest_of_engine {d : Dev} {x : Desc} (hs : d.serves (x.p 8 3) = true) (hk : x.p 0 6 < 30) (n : Nat) :
    d.startTest n x = ((d.modEngine (x.p 8 3) (x.p 0 6) fun e => { e with testing := true }).cmdWaits n).modMq fun q =>
      { q with selftest := q.selftest ++ [(n, x.p 8 3, x.p 0 6)] } := by
  rw [Dev.startTest, if_neg (by simpa [hs] using hk)]

/-- Only the low 32 bits of an event's DETAIL count. -/
theorem Dev.pkgEvent_detail (d : Dev) (id n : Nat) : d.pkgEvent id (BitVec.ofNat 32 n).toNat = d.pkgEvent id n := by
  rw [Dev.pkgEvent, BitVec.ofNat_toNat, BitVec.setWidth_eq]
  rfl

/-- An engine without a job in its input slot leaves service without touching the MQ. -/
theorem Dev.removeEngine_mq {d : Dev} {r b : Nat} (h : ((d.ridge r).engine b).slot = none) (cause : Nat) :
    (d.removeEngine r b cause).mq = d.mq := by
  cases hs : ((d.ridge r).engine b).inService
  · simp [Dev.removeEngine, hs]
  · simp [Dev.removeEngine_of_no_slot hs h, Dev.withoutEngine]

/-- The engine whose test is over, by its result. -/
def Dev.tested (d : Dev) (r b : Nat) (pass : Bool) : Dev :=
  if pass then d.modEngine r b fun e => { e with
    inService := e.inService || e.readback, readback := false
    ram := .zero, slotRam := .zero, buffer := [], bank := none, perms := 0 }
  else d.removeEngine r b 2

theorem Dev.tested_mq {d : Dev} {r b : Nat} (h : ((d.ridge r).engine b).slot = none) (pass : Bool) :
    (d.tested r b pass).mq = d.mq := by
  cases pass
  · exact Dev.removeEngine_mq h 2
  · rfl

section
variable {d : Dev} {r b c : Nat} (ht : d.mq.selftest = [(c, r, b)]) (hrun : ((d.ridge r).engine b).running = none)
  (hslot : ((d.ridge r).engine b).slot = none) (hup : d.mqUp = true)
include ht hrun hslot hup

theorem Dev.endTest_of_free (pass : Bool) :
    let e := (d.modMq fun q => { q with selftest := q.selftest.erase (c, r, b) }).tested r b pass
    let detail := b + r * 256 + if pass then 0 else 65536
    d.endTest r b pass = Claims.ends ((e.modEngine r b fun x => { x with
      testing := e.mq.selftest.any fun t => t.2.1 == r && t.2.2 == b }).pkgEvent 51 detail) c 0x0000 (BitVec.ofNat 32 detail) := by
  simp only [Dev.endTest, ht, hrun, hslot, hup, List.find?_cons_of_pos, BEq.rfl, Bool.and_self, Option.isSome_none, Bool.not_true,
    Bool.or_self, Bool.false_eq_true, if_false]
  rfl

/-- The end of the only test under way: no other keeps the engine under test. -/
theorem Dev.endTest_of_only (pass : Bool) :
    let detail := BitVec.ofNat 32 (b + r * 256 + if pass then 0 else 65536)
    d.endTest r b pass = Claims.ends ((((d.modMq fun q => { q with selftest := [] }).tested r b pass).modEngine r b fun x =>
      { x with testing := false }).pkgEvent 51 detail.toNat) c 0x0000 detail := by
  have hnone : ((d.modMq fun q => { q with selftest := [] }).tested r b pass).mq.selftest = [] :=
    congrArg MQ.selftest (Dev.tested_mq (d := d.modMq fun q => { q with selftest := [] }) hslot pass)
  have herase : (d.modMq fun q => { q with selftest := q.selftest.erase (c, r, b) }) = d.modMq fun q => { q with selftest := [] } := by
    simp [Dev.modMq, ht]
  have hend := Dev.endTest_of_free ht hrun hslot hup pass
  simpa only [herase, hnone, List.any_nil, Dev.pkgEvent_detail] using hend

end

/-! ### FW_STAGE -/

/-- The boot ROM needs a countersignature on the image that it starts (02:R45). -/
theorem Dev.counterNeeded_iff (d : Dev) : d.counterNeeded = true ↔ d.live = .service ∨ d.live = .freeze ∨ d.live = .locked ∨
    (d.live = .commission ∧ ((d.fw.slot d.fw.active).map (·.counter)).getD false = true) := by
  cases h : d.live <;> simp [Dev.counterNeeded, h]

theorem Dev.fwStage_of_error {d : Dev} {b : List Byte} {v : Verdict} (h : d.stageImage b = .error v) (n : Nat) :
    d.fwStage n b = d.mqComplete n v := by
  simp [Dev.fwStage, h]

section
variable {d : Dev} {b : List Byte} {i : FwImage} (h : d.stageImage b = .ok i)
include h

theorem Dev.fwStage_of_unsigned (hr : d.boot.romHold = true) (hn : d.counterNeeded = true) (hi : i.counter = false) (n : Nat) :
    d.fwStage n b = Claims.ends d n 0x0802 0x32 := by
  simp only [Dev.fwStage, h, hr, hn, hi, Bool.and_self, Bool.not_false, if_true]
  rfl

/-- A staged image goes into the slot that is not active; a boot ROM that waited for one goes on (02:R50, R51). -/
theorem Dev.fwStage_of_staged (hc : d.boot.romHold = true → d.counterNeeded = true → i.counter = true) (n : Nat) :
    d.fwStage n b =
      (let slot := d.fw.other
       let t := Claims.ends (((d.setSlot slot (some i)).modFw fun f => { f with staged := true }).pkgEvent 49 (slot * 2)) n 0x0000 0
       if d.boot.romHold then t.modBoot fun y => { y with romHold := false, slot := slot } else t) := by
  have hgo : (d.boot.romHold && d.counterNeeded && !i.counter) = false := by
    cases hr : d.boot.romHold <;> cases hn : d.counterNeeded <;> simp_all
  simp only [Dev.fwStage, h, hgo, Bool.false_eq_true, if_false]
  rfl

end

/-- The length of a signature block that has one of the two TYPEs (10:R245). -/
theorem blockLen_of_typ {t : Nat} (h : t = 1 ∨ t = 2) : blockLen t = some (if t = 1 then 96 else 3309) := by
  rcases h with rfl | rfl <;> rfl

theorem blockLen_isNone (t : Nat) : (blockLen t).isNone = true ↔ ¬(t = 1 ∨ t = 2) := by
  unfold blockLen
  split_ifs <;> simp_all

section
variable {d : Dev} {x : Desc} {b : List Byte}

theorem Dev.fwCounter_of_malformed (h : ¬(field b 1 1 = 0 ∧ ((SigBlock.at' b 0).typ = 1 ∨ (SigBlock.at' b 0).typ = 2) ∧
    b.length = 4 + (SigBlock.at' b 0).len)) (n : Nat) : d.fwCounter n x b = Claims.ends d n 0x0101 0x30 := by
  rw [Dev.fwCounter, if_pos (by rw [blockLen_isNone]; tauto)]
  rfl

variable (hrest : field b 1 1 = 0) (htyp : (SigBlock.at' b 0).typ = 1 ∨ (SigBlock.at' b 0).typ = 2)
  (hlen : b.length = 4 + (SigBlock.at' b 0).len)
include hrest htyp hlen

theorem Dev.fwCounter_of_badLength (h : (SigBlock.at' b 0).len ≠ if (SigBlock.at' b 0).typ = 1 then 96 else 3309) (n : Nat) :
    d.fwCounter n x b = Claims.ends d n 0x0103 0x34 := by
  have hne : blockLen (SigBlock.at' b 0).typ ≠ some (SigBlock.at' b 0).len := by
    rw [blockLen_of_typ htyp]
    simpa using Ne.symm h
  rw [Dev.fwCounter, if_neg (by rw [blockLen_isNone]; tauto), if_pos (.inl hne)]
  rfl

variable (hsized : (SigBlock.at' b 0).len = if (SigBlock.at' b 0).typ = 1 then 96 else 3309)
include hsized

/-- A block of its form and length passes the checks that precede the key's (02:R51). -/
theorem SigBlock.passes_form : ¬(field b 1 1 ≠ 0 ∨ (blockLen (SigBlock.at' b 0).typ).isNone ∨ b.length ≠ 4 + (SigBlock.at' b 0).len) ∧
    ¬(blockLen (SigBlock.at' b 0).typ ≠ some (SigBlock.at' b 0).len ∨ maxImage < b.length) := by
  have hshort : b.length ≤ maxImage := by
    rw [hlen, hsized]
    split <;> decide
  rw [blockLen_isNone, blockLen_of_typ htyp, ← hsized]
  exact ⟨by tauto, by simpa using hshort⟩

theorem Dev.fwCounter_of_missing (h : d.csKey = none ∨ d.fw.slot (x.keyB.toNat % 2) = none) (n : Nat) :
    d.fwCounter n x b = Claims.ends d n 0x0802 0x37 := by
  obtain ⟨hform, hlength⟩ := SigBlock.passes_form hrest htyp hlen hsized
  rw [Dev.fwCounter, if_neg hform, if_neg hlength]
  rcases h with h | h
  · rw [h]; rfl
  · rw [h]; cases d.csKey <;> rfl

variable {k : KeyRecord} {i : FwImage} (hk : d.csKey = some k) (hi : d.fw.slot (x.keyB.toNat % 2) = some i)
include hk hi

theorem Dev.fwCounter_of_false (h : (SigBlock.at' b 0).verifies k i.part = false) (n : Nat) :
    d.fwCounter n x b = Claims.ends d n 0x0302 0x32 := by
  obtain ⟨hform, hlength⟩ := SigBlock.passes_form hrest htyp hlen hsized
  simp only [Dev.fwCounter, if_neg hform, if_neg hlength, hk, hi, h, Bool.false_eq_true, if_false]
  rfl

theorem Dev.fwCounter_of_verified (h : (SigBlock.at' b 0).verifies k i.part = true) (n : Nat) :
    d.fwCounter n x b = Claims.ends (d.setSlot (x.keyB.toNat % 2) (some { i with counter := true })) n 0x0000 0 := by
  obtain ⟨hform, hlength⟩ := SigBlock.passes_form hrest htyp hlen hsized
  simp only [Dev.fwCounter, if_neg hform, if_neg hlength, hk, hi, h, if_true]
  rfl

end

/-! ### FW_ACTIVATE -/

theorem Dev.activateStart_of_none {d : Dev} (h : d.staged = none) (n : Nat) (x : Desc) :
    d.activateStart n x = Claims.ends d n 0x0801 0 := by
  simp only [Dev.activateStart, h]
  rfl

/-- The start of an activation of a staged image, by its order and countersignature (02:R52). -/
theorem Dev.activateStart_of_staged {d : Dev} {i : FwImage} (h : d.staged = some i) (n : Nat) (x : Desc) :
    d.activateStart n x =
      (let num := x.keyA.toNat % 2 ^ 32
       if !d.authorised num 0x0A 0 ([BitVec.ofNat 8 d.fw.other, 0, 0, 0] ++ leBytes 48 i.meas.toNat) then Claims.ends d n 0x0801 0
       else if !i.counter then Claims.ends d n 0x0802 0x36
       else if d.mq.activate.isSome then d
       else (d.cmdWaits n).modMq fun q => { q with activate := some ⟨n, num, 8, 0, false⟩ }) := by
  simp only [Dev.activateStart, Dev.stagedBody, h, Option.map_some]
  rfl

/-- The next ridge to restart is the highest in-service one below the last (14:R333). -/
theorem Dev.nextActivated_highest {d : Dev} {a : Activation} {k : Nat} (h : d.nextActivated a = some k) :
    d.serves k = true ∧ k < a.last ∧ ∀ y, d.serves y = true → y < a.last → y ≤ k := by
  obtain ⟨ys, hys⟩ := List.getLast?_eq_some_iff.1 h
  have hmem : ∀ y, y ∈ ys ++ [k] ↔ y ∈ d.ridgeNums ∧ d.serves y = true ∧ y < a.last := fun y => by rw [← hys]; simp
  have hsorted : (ys ++ [k]).Pairwise (· < ·) := hys ▸ List.pairwise_lt_range.filter _
  obtain ⟨-, hk, hlast⟩ := (hmem k).1 (by simp)
  refine ⟨hk, hlast, fun y hy hlt => ?_⟩
  rcases List.mem_append.1 ((hmem y).2 ⟨Dev.mem_ridgeNums_of_serves hy, hy, hlt⟩) with h | h
  · exact Nat.le_of_lt ((List.pairwise_append.1 hsorted).2.2 y h k (by simp))
  · exact Nat.le_of_eq (List.mem_singleton.1 h)

/-- A ridge that measures the staged image as expected has restarted on it. -/
theorem Dev.activateRidge_of_pass {d : Dev} {a : Activation} {i : FwImage} {r : Nat} (ha : d.mq.activate = some a)
    (hi : d.staged = some i) (hr : d.nextActivated a = some r) (hk : d.keadeRuns r = true) :
    d.activateRidge r true =
      (let g : Dev := { d with draws := d.draws + 1 }
       let u := (g.stopDeep r (some a.cmd)).modWorld r fun w => { w with expected := i.meas, restarts := satInc w.restarts }
       let b := { a with last := r, moved := true }
       let t := (u.remeasure r 6 i.meas true).modMq fun q => { q with activate := some b }
       if t.nextActivated b = none then t.activateEnd b else t) := by
  simp only [Dev.activateRidge, ha, hi, hr, hk, Dev.draw, if_true, decide_true, Bool.and_true, Option.isNone_iff_eq_none]

/-! ### The commands -/

section
variable {s : State} {n : Nat} {x : Desc} {inp b : List Byte}

theorem leaves_mark (h : Claims.CommandReady s.dev n 0x8030 x inp b) : leaves (.mark n) s (s.dev.startMark n) :=
  Dev.command_of_ready h (fun d _ _ _ => d.startMark n) ▸ rfl

theorem leaves_selftest (h : Claims.CommandReady s.dev n 0x8031 x inp b) : leaves (.selftest n) s (s.dev.startTest n x) :=
  Dev.command_of_ready h (fun d x _ _ => d.startTest n x) ▸ rfl

theorem leaves_fwStageImage (h : Claims.CommandReady s.dev n 0x8040 x inp b) (hf : x.p 0 1 = 0) :
    leaves (.fwStageImage n) s (s.dev.fwStage n b) :=
  (Dev.command_of_ready h fun d x _ aux => if x.p 0 1 = 0 then d.fwStage n aux else d).trans (if_pos hf) ▸ rfl

theorem leaves_fwStageCountersign (h : Claims.CommandReady s.dev n 0x8040 x inp b) (hf : x.p 0 1 = 1) :
    leaves (.fwStageCountersign n) s (s.dev.fwCounter n x b) :=
  (Dev.command_of_ready h fun d x _ aux => if x.p 0 1 = 1 then d.fwCounter n x aux else d).trans (if_pos hf) ▸ rfl

theorem leaves_fwActivate (h : Claims.CommandReady s.dev n 0x8041 x inp b) :
    leaves (.fwActivate n) s (s.dev.activateStart n x) :=
  Dev.command_of_ready h (fun d x _ _ => d.activateStart n x) ▸ rfl

end

theorem leaves_markBarrierAck {s : State} {r : Nat} {e : Dev} (hr : s.dev.serves r = true) (h : s.dev.barrierAck r = e) :
    leaves (.markBarrierAck r) s e :=
  (if_pos (c := s.dev.serves r = true) (t := s.dev.barrierAck r) (e := s.dev) hr).trans h ▸ rfl

theorem leaves_selftestEngineFree {s : State} {r b : Nat} {pass : Bool} {e : Dev} (h : s.dev.endTest r b pass = e) :
    leaves (.selftestEngineFree r b pass) s e := h ▸ rfl

theorem leaves_fwActivateRidge {s : State} {r : Nat} {pass : Bool} {e : Dev} (h : s.dev.activateRidge r pass = e) :
    leaves (.fwActivateRidge r pass) s e := h ▸ rfl

end Sys2Proof.Machine

open Sys2Proof Machine Claims

/-- Settles O39: MARK, SELFTEST, FW_STAGE and FW_ACTIVATE. -/
theorem Sys2Proof.marksTestsAndFirmware : Obligations.MarksTestsAndFirmware := by
  intro s n x inp b d
  refine ⟨fun h hb => ?mark, fun r left c hserves hr hb hl => ⟨fun hrest => ?ack, fun m hrest hm => ?last⟩,
    fun h => ⟨fun hbad => ?malformed, fun hserves hk => ?test⟩, fun r k pass c ht hrun hslot hup => ?tested,
    fun h hf => ⟨fun v hv => ?refused, fun i hi hr hn hc => ?unsigned, fun i hi hc => ?staged⟩,
    fun h hf => ⟨fun hform => ?formless, ?sizeless, ?missing, ?judged⟩,
    fun h => ⟨fun hnone => ?nothing, fun i hi => ⟨fun horder => ?unordered, fun horder hc => ?countersign, fun horder hc ha => ?activates⟩⟩,
    fun a i r ha hi hr hk => ⟨fun k => Dev.nextActivated_highest, ?ridge⟩⟩
  case mark =>
    exact ⟨d.barrierMask, fun r => d.getLsbD_barrierMask, Dev.startMark_of_none hb n ▸ leaves_mark h⟩
  case ack => exact leaves_markBarrierAck hserves (Dev.barrierAck_of_left hr hb hl hrest)
  case last => exact leaves_markBarrierAck hserves (Dev.barrierAck_of_last hr hb hl hrest hm)
  case malformed => exact Dev.startTest_of_malformed hbad n ▸ leaves_selftest h
  case test => exact Dev.startTest_of_engine hserves hk n ▸ leaves_selftest h
  case tested => exact leaves_selftestEngineFree (Dev.endTest_of_only ht hrun hslot hup pass)
  case refused => exact Dev.fwStage_of_error hv n ▸ leaves_fwStageImage h hf
  case unsigned => exact Dev.fwStage_of_unsigned hi hr (d.counterNeeded_iff.2 hn) hc n ▸ leaves_fwStageImage h hf
  case staged =>
    have hstage := leaves_fwStageImage h hf
    rw [Dev.fwStage_of_staged hi (fun hr hn => hc hr (d.counterNeeded_iff.1 hn))] at hstage
    exact hstage
  case formless => exact Dev.fwCounter_of_malformed hform n ▸ leaves_fwStageCountersign h hf
  case sizeless =>
    rintro ⟨hrest, htyp, hlen⟩ hsized
    exact Dev.fwCounter_of_badLength hrest htyp hlen hsized n ▸ leaves_fwStageCountersign h hf
  case missing =>
    rintro ⟨hrest, htyp, hlen⟩ hsized hmissing
    exact Dev.fwCounter_of_missing hrest htyp hlen hsized hmissing n ▸ leaves_fwStageCountersign h hf
  case judged =>
    rintro k i ⟨hrest, htyp, hlen⟩ hsized hk hi
    exact ⟨fun hv => Dev.fwCounter_of_false hrest htyp hlen hsized hk hi hv n ▸ leaves_fwStageCountersign h hf,
      fun hv => Dev.fwCounter_of_verified hrest htyp hlen hsized hk hi hv n ▸ leaves_fwStageCountersign h hf⟩
  case nothing => exact Dev.activateStart_of_none hnone n x ▸ leaves_fwActivate h
  case unordered =>
    have hstart := (Dev.activateStart_of_staged hi n x).trans (if_pos (by simpa using horder))
    exact hstart ▸ leaves_fwActivate h
  case countersign =>
    have hstart := (Dev.activateStart_of_staged hi n x).trans ((if_neg (by simpa using horder)).trans (if_pos (by simp [hc])))
    exact hstart ▸ leaves_fwActivate h
  case activates =>
    have hstart := (Dev.activateStart_of_staged hi n x).trans
      ((if_neg (by simpa using horder)).trans ((if_neg (by simp [hc])).trans (if_neg (by simp [ha]))))
    exact hstart ▸ leaves_fwActivate h
  case ridge => exact leaves_fwActivateRidge (Dev.activateRidge_of_pass ha hi hr hk)
end

section
/-! ## Randomness that Keade draws, and what of the device it leaves -/

namespace Sys2Proof.Machine

/-! ### Drawing and storing touch the ridges alone -/

theorem Dev.drained_apart (d : Dev) (r : Nat) (x : Rng) : (d.drained r x).apart = d.apart := by
  have hone : ∀ (d : Dev) (p q : Prop) [Decidable p] [Decidable q] (m n : Nat),
      (if p then d.ridgeEvent r 63 m else if q then d.ridgeEvent r 63 n else d).apart = d.apart := by
    intro d p q _ _ m n
    split_ifs <;> simp [Dev.ridgeEvent_apart]
  exact (hone _ _ _ _ _).trans (hone _ _ _ _ _)

theorem Dev.rngStep_apart (d : Dev) (r : Nat) (f : Rng → Rng) : (d.rngStep r f).apart = d.apart :=
  Dev.drained_apart (d.modRng r f) r _

theorem Dev.generate_apart (d : Dev) (r : Nat) (host : Bool) (n : Nat) : (d.generate r host n).apart = d.apart :=
  (Dev.rngStep_apart _ _ _).trans (Dev.rngStep_apart _ _ _)

@[simp] theorem Dev.generate_draws (d : Dev) (r : Nat) (host : Bool) (n : Nat) : (d.generate r host n).draws = d.draws :=
  Dev.draws_of_apart (d.generate_apart r host n)

@[simp] theorem Dev.generate_mq (d : Dev) (r : Nat) (host : Bool) (n : Nat) : (d.generate r host n).mq = d.mq :=
  Dev.mq_of_apart (d.generate_apart r host n)

theorem Dev.checkFull_apart (d : Dev) (r before : Nat) : (d.checkFull r before).apart = d.apart := by
  simp only [Dev.checkFull]
  split
  · exact Dev.ridgeEvent_apart _ _ _ _ _
  · rfl

theorem Dev.addEntry_apart (d : Dev) (rs : List Nat) (e : Entry) : (d.addEntry rs e).apart = d.apart := by
  unfold Dev.addEntry
  refine foldl_same Dev.apart (fun d r => ?_) _ _
  exact Dev.checkFull_apart _ _ _

@[simp] theorem Dev.storeEntry_draws (d : Dev) (rs : List Nat) (e : Entry) : (d.storeEntry rs e).draws = d.draws + 1 := by
  rw [Dev.storeEntry, Dev.draws_of_apart (Dev.addEntry_apart _ _ _), Dev.drawNonce, Dev.generate_draws]
  rfl

@[simp] theorem Dev.storeEntry_mq (d : Dev) (rs : List Nat) (e : Entry) : (d.storeEntry rs e).mq = d.mq := by
  rw [Dev.storeEntry, Dev.mq_of_apart (Dev.addEntry_apart _ _ _), Dev.drawNonce, Dev.generate_mq]
  rfl

/-! ### A completion of the MQ takes one draw -/

@[simp] theorem Dev.msix_draws (d : Dev) (l : Lk) (v : Nat) : (d.msix l v).draws = d.draws := by
  simp only [Dev.msix]
  split <;> simp

@[simp] theorem Dev.vector_draws (d : Dev) (l : Lk) (v : Nat) : (d.vector l v).draws = d.draws := by
  unfold Dev.vector
  split
  · exact Dev.msix_draws _ _ _
  · rfl

@[simp] theorem Dev.mqWrite_draws (d : Dev) (m : MqDone) : (d.mqWrite m).draws = d.draws := by
  unfold Dev.mqWrite
  split_ifs <;> simp

@[simp] theorem Dev.mqFault_draws (d : Dev) (cause : Nat) : (d.mqFault cause).draws = d.draws := by
  unfold Dev.mqFault
  split <;> simp

@[simp] theorem Dev.mqDrain_draws (d : Dev) (n : Nat) : (d.mqDrain n).draws = d.draws := by
  induction n generalizing d with
  | zero => rfl
  | succ n ih =>
    unfold Dev.mqDrain
    split
    · rfl
    · split_ifs <;> simp [ih]

/-- The core time that a completed command took is one more draw (04:Table 4.7, log 38). -/
theorem Dev.mqComplete_draws {d : Dev} {n : Nat} {c : MqCmd} (h : d.mqCmd n = some c) (v : Verdict) (out : List Byte) :
    (d.mqComplete n v out).draws = d.draws + 1 := by
  simp [Dev.mqComplete, show d.mq.cmds.find? (MqCmd.named n) = some c from h]

theorem Dev.cmdDone_draws {d : Dev} {n : Nat} {c : MqCmd} (h : d.mqCmd n = some c) (x : Desc) (out : List Byte) (detail : Nat) :
    (d.cmdDone n x out detail).draws = d.draws + 1 := by
  unfold Dev.cmdDone
  split
  · exact Dev.mqComplete_draws h _ _
  · exact Dev.mqComplete_draws h _ _

end Sys2Proof.Machine
end

section
/-! ## KEY_ATTEST form 2: the draws of a receive key (05:R136, 08:R209) -/

namespace Sys2Proof.Machine

@[simp] theorem length_slice (b : List Byte) (o n : Nat) : (slice b o n).length = n := by
  simp [slice]

/-- The body of the entry that holds a receive key. -/
theorem body_receive {e : Entry} {k : Nat} {a b c d : List Byte} (h : e.payload =
    .receive (randomBytes k 16) (slice a 0 64) (slice b 0 1568) (slice c 0 48) (slice d 0 97)) : e.body = 1793 := by
  simp [Entry.body, h, randomBytes]

/-- The device once the receive key of a KEY_ATTEST has been drawn: its identifier, its two secret keys. -/
def Dev.receiveDrawn (d : Dev) : Dev :=
  let g := d.generate d.boss false 1
  { g with draws := g.draws + 3 }

section
variable {d : Dev} {n : Nat} {x : Desc} (hform : x.p 0 2 = 2) (hdraw : d.drawable d.boss .internal = true)
  (hkeys : d.receiveDrawn.receiveKeys = [])
  (hroom : d.receiveDrawn.storeRoom d.receiveDrawn.deviceHolders 1793 none = true)
include hform hdraw hkeys hroom

/-- A first receive key that has room is stored, and its command completes with a record. -/
theorem Dev.attestMigration_of_room (nonce : List Byte) : ∃ e out,
    d.attestMigration n x nonce = (d.receiveDrawn.storeEntry d.receiveDrawn.deviceHolders e).cmdDone n x out := by
  rw [Dev.attestMigration, if_pos (by simp [hform, hdraw])]
  simp -zeta only [Dev.draw]
  extract_lets id dk ek curve secret pt drawn items kept entry
  have hkept : kept = d.receiveDrawn := by simp only [kept, show drawn = d.receiveDrawn from rfl, hkeys]
  have hbody : entry.body = 1793 := body_receive rfl
  rw [hbody, hkept, if_pos hroom]
  exact ⟨_, _, rfl⟩

/-- Such a receive key takes four draws, and the completion of its command a fifth. -/
theorem Dev.attestMigration_draws {c : MqCmd} (hc : d.mqCmd n = some c) (nonce : List Byte) :
    (d.attestMigration n x nonce).draws = d.draws + 5 := by
  obtain ⟨e, out, h⟩ := Dev.attestMigration_of_room (n := n) hform hdraw hkeys hroom nonce
  have hheld : (d.receiveDrawn.storeEntry d.receiveDrawn.deviceHolders e).mqCmd n = some c := by
    rw [Dev.mqCmd, Dev.storeEntry_mq]
    exact (congrArg (fun q : MQ => q.cmds.find? _) (Dev.generate_mq _ _ _ _)).trans hc
  rw [h, Dev.cmdDone_draws hheld, Dev.storeEntry_draws]
  simp [Dev.receiveDrawn]

end

theorem leaves_unique {c : Instr} {s : State} {d e : Dev} (hd : leaves c s d) (he : leaves c s e) : d = e := by
  have h : (Host.Outcome.next ⟨s.pending, d⟩ : Host.Outcome State Fault Refusal) = .next ⟨s.pending, e⟩ := hd.symm.trans he
  injection h with h
  injection h

theorem leaves_keyAttestMigration {s : State} {n : Nat} {x : Desc} {inp b : List Byte}
    (h : Claims.CommandReady s.dev n 0x0805 x inp b) : leaves (.keyAttestMigration n) s (s.dev.attestMigration n x inp) :=
  Dev.command_of_ready h (fun d x inp _ => d.attestMigration n x inp) ▸ rfl

/-- A KEY_ATTEST of form 2 without a nonce. -/
def migrationDesc : Desc := ⟨0x0805, 0, 0, 0, 2, 0, 0, 0, 0, 0x10000, 0, 0, 0, 0⟩

/-- A UJ840-8 in SERVICE whose Keade has it before it: command 0, started. -/
def attesting : Dev := { Tests.awake with mq := { MQ.reset with cmds := [⟨0, migrationDesc, none, true, false, .none, .none⟩] } }

theorem attesting_ready : Claims.CommandReady attesting 0 0x0805 migrationDesc [] [] where
  up := by decide +kernel
  held := ⟨_, rfl, rfl, rfl, rfl, rfl, rfl⟩
  opcode := by decide
  accepted := by decide +kernel

end Sys2Proof.Machine

open Sys2Proof Machine Claims

/-- Refutes O36: a KEY_ATTEST of form 2 that stores its receive key takes five draws, the four of the key, its entry's nonce and
the record and the one of the core time of its completion (log 38), where the statement counts four. -/
theorem Sys2Proof.not_rangeCommands : ¬ Obligations.RangeCommands := by
  intro h
  have hdraw : attesting.drawable attesting.boss .internal = true := by decide +kernel
  have hroom : ∀ r ∈ attesting.deviceHolders, attesting.granulesUsed r + granulesOf 1793 ≤ 655360 := by decide +kernel
  obtain ⟨-, -, -, -, -, hattest⟩ := h ⟨[], attesting⟩ 0 migrationDesc [] []
  obtain ⟨t, ht, hdraws, -⟩ := (hattest attesting_ready hdraw).2 (by decide) hroom
  have hfive : (attesting.attestMigration 0 migrationDesc []).draws = attesting.draws + 5 :=
    Dev.attestMigration_draws (by decide) hdraw (by decide +kernel) (by decide +kernel) rfl []
  rw [leaves_unique ht (leaves_keyAttestMigration attesting_ready), hfive] at hdraws
  exact absurd hdraws (by decide)
end

section
/-! ## What events, orders that lapse and mode changes leave (02:R36, 09:R222, 15) -/

namespace Sys2Proof.Machine

/-! ### Events touch the event queues alone -/

/-- A ridge without its event queue. -/
def Ridge.quiet (x : Ridge) : Ridge := { x with events := ⟨[], 0⟩ }

/-- The device without its event queues and its log. -/
def Dev.quiet (d : Dev) : Dev := { d with ridges := d.ridges.map Ridge.quiet, log := LogBlock.reset }

theorem map_modify_of_same {α β : Type} {f : α → α} {g : α → β} (h : ∀ x, g (f x) = g x) (l : List α) (n : Nat) :
    (l.modify n f).map g = l.map g := by
  refine List.ext_getElem? fun i => ?_
  rw [List.getElem?_map, List.getElem?_map, List.getElem?_modify]
  split
  · simp [Function.comp_def, h]
  · simp

theorem Dev.modRidge_quiet {f : Ridge → Ridge} (h : ∀ x, (f x).quiet = x.quiet) (d : Dev) (r : Nat) :
    (d.modRidge r f).quiet = d.quiet := by
  simp [Dev.quiet, Dev.modRidge, map_modify_of_same h]

theorem Dev.raise_quiet (d : Dev) (src : Option Nat) (id : Nat) (c : BitVec 2) (x : BitVec 32) (s : Option Nat) :
    (d.raise src id c x s).quiet = d.quiet := by
  cases src with
  | none => rfl
  | some r =>
    refine Dev.modRidge_quiet ?_ d r
    exact fun _ => rfl

theorem Dev.ridgeEvent_quiet (d : Dev) (r off x : Nat) (s : Option Nat) : (d.ridgeEvent r off x s).quiet = d.quiet := by
  unfold Dev.ridgeEvent
  split
  · exact d.raise_quiet _ _ _ _ _
  · rfl

theorem Dev.pkgEvent_quiet (d : Dev) (id x : Nat) (s : Option Nat) : (d.pkgEvent id x s).quiet = d.quiet :=
  d.raise_quiet _ _ _ _ _

/-- What a ridge is but for its event queue. -/
theorem Dev.ridge_quiet (d : Dev) (r : Nat) : d.quiet.ridge r = (d.ridge r).quiet := by
  cases h : d.ridges[r]? <;> simp [Dev.quiet, Dev.ridge, List.getD, h, Ridge.quiet, Ridge.reset]

theorem Dev.ridge_of_quiet {d e : Dev} (h : d.quiet = e.quiet) (r : Nat) : (d.ridge r).quiet = (e.ridge r).quiet := by
  rw [← d.ridge_quiet, ← e.ridge_quiet, h]

theorem Dev.length_of_quiet {d e : Dev} (h : d.quiet = e.quiet) : d.ridges.length = e.ridges.length := by
  simpa [Dev.quiet] using congrArg (fun d : Dev => d.ridges.length) h

/-! ### Orders and the test port beside -/

/-- The device without its event queues, its log, its orders and its test port. -/
def Dev.still (d : Dev) : Dev := { d.quiet with quorum := Dev.reset.quorum, access := Dev.reset.access }

theorem Dev.still_of_quiet {d e : Dev} (h : d.quiet = e.quiet) : d.still = e.still := by
  unfold Dev.still
  rw [h]

theorem Dev.setOrder_still (d : Dev) (n : Nat) (st : OrderState) : (d.setOrder n st).still = d.still :=
  (Dev.still_of_quiet (Dev.pkgEvent_quiet _ _ _ _)).trans rfl

theorem Dev.lapse_still (d : Dev) (p : Order → Bool) : (d.lapse p).still = d.still := by
  unfold Dev.lapse
  refine foldl_same Dev.still (fun d o => ?_) _ _
  exact d.setOrder_still o.num .lapsed

theorem Dev.closeExtest_still (d : Dev) : d.closeExtest.still = d.still := by
  unfold Dev.closeExtest
  split <;> rfl

/-- The mode record of a mode, and DEV.MODE (02:R36). -/
def Dev.inMode (d : Dev) (m : Mode) (prior : BitVec 3) (exported : Bool) : Dev :=
  (((d.propose m prior exported).copyRecord).commitRecord).showMode m prior exported

/-- A mode change is the new record, and beside it only events, orders that lapse, the permit and the test port. -/
theorem Dev.changeMode_still (d : Dev) (m : Mode) (prior : BitVec 3) (exported : Bool) :
    (d.changeMode m prior exported).still = (d.inMode m prior exported).still := by
  have hlapsed : ((((d.inMode m prior exported).pkgEvent 32 (m.bits.toNat + d.mode.val.toNat * 16)).lapse fun o =>
      !kindOpens o.kind o.release m)).still = (d.inMode m prior exported).still :=
    (Dev.lapse_still _ _).trans (Dev.still_of_quiet (Dev.pkgEvent_quiet _ _ _ _))
  refine Eq.trans ?_ hlapsed
  simp only [Dev.changeMode]
  split_ifs
  · exact Dev.closeExtest_still _
  · rfl
  · exact Dev.closeExtest_still _

section
variable (d : Dev) (m : Mode) (p : BitVec 3) (x : Bool)

@[simp] theorem Dev.changeMode_mode : (d.changeMode m p x).mode = .of m.bits := (congrArg Dev.mode (d.changeMode_still m p x) :)
@[simp] theorem Dev.changeMode_prior : (d.changeMode m p x).prior = .of p := (congrArg Dev.prior (d.changeMode_still m p x) :)
@[simp] theorem Dev.changeMode_exported : (d.changeMode m p x).exported = x := (congrArg Dev.exported (d.changeMode_still m p x) :)
@[simp] theorem Dev.changeMode_vigil : (d.changeMode m p x).vigil = (d.inMode m p x).vigil :=
  (congrArg Dev.vigil (d.changeMode_still m p x) :)
@[simp] theorem Dev.changeMode_fuses : (d.changeMode m p x).fuses = d.fuses := (congrArg Dev.fuses (d.changeMode_still m p x) :)
@[simp] theorem Dev.changeMode_pins : (d.changeMode m p x).pins = d.pins := (congrArg Dev.pins (d.changeMode_still m p x) :)
@[simp] theorem Dev.changeMode_boot : (d.changeMode m p x).boot = d.boot := (congrArg Dev.boot (d.changeMode_still m p x) :)
@[simp] theorem Dev.changeMode_jobs : (d.changeMode m p x).jobs = d.jobs := (congrArg Dev.jobs (d.changeMode_still m p x) :)
@[simp] theorem Dev.changeMode_mq : (d.changeMode m p x).mq = d.mq := (congrArg Dev.mq (d.changeMode_still m p x) :)
@[simp] theorem Dev.changeMode_tamp : (d.changeMode m p x).tamp = d.tamp := (congrArg Dev.tamp (d.changeMode_still m p x) :)

theorem Dev.ridge_changeMode (r : Nat) : ((d.changeMode m p x).ridge r).quiet = (d.ridge r).quiet := by
  have h : (d.changeMode m p x).still.ridge r = d.still.ridge r := by rw [Dev.changeMode_still]; rfl
  rw [← Dev.ridge_quiet, ← Dev.ridge_quiet]
  exact h

@[simp] theorem Dev.length_changeMode : (d.changeMode m p x).ridges.length = d.ridges.length := by
  have h : (d.changeMode m p x).still.ridges.length = d.still.ridges.length := by rw [Dev.changeMode_still]; rfl
  simpa [Dev.still, Dev.quiet] using h

end

theorem Mode.ofBits_bits (m : Mode) : Mode.ofBits m.bits = m := by
  cases m <;> decide

@[simp] theorem Dev.changeMode_live (d : Dev) (m : Mode) (p : BitVec 3) (x : Bool) : (d.changeMode m p x).live = m := by
  rw [Dev.live, Dev.changeMode_mode]
  exact m.ofBits_bits

theorem Dev.ridge_modRidges (d : Dev) (f : Ridge → Ridge) {r : Nat} (hr : r < d.ridges.length) :
    (d.modRidges f).ridge r = if d.populated r then f (d.ridge r) else d.ridge r := by
  simp [Dev.modRidges, Dev.ridge, Dev.populated, List.getD, hr]

@[simp] theorem Dev.length_modRidges (d : Dev) (f : Ridge → Ridge) : (d.modRidges f).ridges.length = d.ridges.length := by
  simp [Dev.modRidges]

end Sys2Proof.Machine
end

section
/-! ## Supplies that come and go (02:R48, 12:R294, 16:R362 to R366, 18:R389) -/

namespace Sys2Proof.Machine

/-! ### The persistent registers at a power cut -/

theorem assocGet_map {α β : Type} (f : α → β) (l : List (Nat × α)) (k : Nat) :
    assocGet (l.map fun e => (e.1, f e.2)) k = (assocGet l k).map f := by
  induction l with
  | nil => rfl
  | cons e l ih => by_cases h : e.1 = k <;> simp [assocGet, h, ih]

theorem Dev.persFlush_pers (d : Dev) {k : Nat} (hk : (assocGet d.power.pers k).isSome = true) (hw : (d.pers k).waits = true) :
    d.persFlush.pers k = d.persSave (d.pers k) := by
  obtain ⟨p, hp⟩ := Option.isSome_iff_exists.1 hk
  have hflush : d.persFlush.power.pers = d.power.pers.map fun e => (e.1, if e.2.waits then d.persSave e.2 else e.2) :=
    List.map_congr_left fun e _ => by split <;> rfl
  have hpers : d.pers k = p := by simp [Dev.pers, hp]
  rw [hpers] at hw ⊢
  rw [Dev.pers, hflush, assocGet_map (fun p : Pers => if p.waits then d.persSave p else p), hp]
  simp [hw]

/-! ### The device in VIGIL -/

theorem Dev.seam_map_offline (d : Dev) (k : Nat) :
    ((assocGet (d.seams.map fun e => (e.1, e.2.offline)) k).getD Seam.blank) = (d.seam k).offline := by
  rw [assocGet_map, Dev.seam]
  cases assocGet d.seams k <;> rfl

theorem Dev.seam_volatileReset (d : Dev) (k : Nat) : d.volatileReset.seam k = (d.seam k).offline := d.seam_map_offline k

/-- The ridges after a loss of the supplies: ridge 0 shows the conditions that the Vigil domain watches. -/
theorem Dev.enterVigil_ridges (d : Dev) (cut main : Bool) : (d.enterVigil cut main).ridges =
    (d.ridges.map Ridge.offline).modify 0 fun x => { x with live := (d.ridge 0).live &&& 0x18 } := rfl

/-- A ridge that has lost its supplies. -/
def Ridge.isDark (x : Ridge) : Prop :=
  x.inService = false ∧ x.cores = List.replicate 4 Core.reset ∧ x.cache = [] ∧ x.sram = [] ∧ x.kdu = none ∧
    x.spine = SpinePort.reset ∧ x.engines = List.replicate 33 Engine.reset

theorem Dev.mem_enterVigil_ridges {d : Dev} {cut main : Bool} {x : Ridge} (hx : x ∈ (d.enterVigil cut main).ridges) :
    ∃ y live, x = { Ridge.offline y with live := live } := by
  rw [Dev.enterVigil_ridges] at hx
  obtain ⟨i, hi⟩ := List.mem_iff_getElem?.1 hx
  rw [List.getElem?_modify, List.getElem?_map] at hi
  cases hy : d.ridges[i]? with
  | none => simp [hy] at hi
  | some y =>
    rw [hy] at hi
    split at hi
    · exact ⟨y, _, (Option.some.inj hi).symm⟩
    · exact ⟨y, 0, (Option.some.inj hi).symm⟩

theorem Dev.enterVigil_isDark (d : Dev) (cut main : Bool) : ∀ x ∈ (d.enterVigil cut main).ridges, x.isDark := by
  intro x hx
  obtain ⟨y, live, rfl⟩ := Dev.mem_enterVigil_ridges hx
  exact ⟨rfl, rfl, rfl, rfl, rfl, rfl, rfl⟩

theorem Dev.enterVigil_dark (d : Dev) (cut main : Bool) : Claims.dark (d.enterVigil cut main) := by
  refine ⟨rfl, rfl, Mode.ofBits_bits .vigil, rfl, rfl, rfl, rfl, rfl, rfl, rfl, d.enterVigil_isDark cut main, fun e he => ?_⟩
  obtain ⟨x, -, rfl⟩ := List.mem_map.1 (show e ∈ d.power.pers.map _ from he)
  exact ⟨rfl, rfl⟩

/-- The key store survives (02:R48). -/
theorem Dev.store_enterVigil (d : Dev) (cut main : Bool) (r : Nat) : ((d.enterVigil cut main).ridge r).store = (d.ridge r).store := by
  simp only [Dev.ridge, Dev.enterVigil_ridges, List.getD, List.getElem?_modify, List.getElem?_map]
  cases d.ridges[r]? with
  | none => split <;> rfl
  | some x => split <;> rfl

/-- A power cut ends in VIGIL, with what the links were handed (14:R332, 16:R362). -/
theorem Dev.powerCut_eq (d : Dev) : ∃ (e : Dev) (a b : List HostWrite), d.powerCut =
    (((e.enterVigil true true).modPower fun p => { p with pfw := true }).modLink .a fun x => { x with unacked := a }).modLink .b
      fun x => { x with unacked := b } := ⟨_, _, _, rfl⟩

theorem Dev.powerCut_dark (d : Dev) : Claims.dark d.powerCut ∧ d.powerCut.pins.cut = true ∧ d.powerCut.pins.mainPower = true ∧
    d.powerCut.power.pfw = true := by
  obtain ⟨e, a, b, h⟩ := d.powerCut_eq
  rw [h]
  exact ⟨e.enterVigil_dark true true, rfl, rfl, rfl⟩

/-! ### The pins -/

theorem Dev.pfwFalls_of_early {d : Dev} (h : d.pins.mainPower = false ∨ d.pins.cut = true ∨ d.pins.inVigil = true ∨
    (d.boot.step < 5 ∧ d.boot.romHold = false)) : d.pfwFalls = d.modPins fun p => { p with pfwLow := true } := by
  refine if_neg fun hc => ?_
  simp only [Dev.modPins_boot, Bool.and_eq_true, Bool.or_eq_true, Bool.not_eq_true'] at hc
  obtain ⟨⟨⟨hmain, hcut⟩, hvigil⟩, hstep⟩ := hc
  rcases h with h | h | h | ⟨h, hrom⟩
  · exact absurd (h.symm.trans hmain) (by decide)
  · exact absurd (h.symm.trans hcut) (by decide)
  · exact absurd (h.symm.trans hvigil) (by decide)
  · rcases hstep with hstep | hstep
    · exact absurd (of_decide_eq_true hstep) (by simpa using h)
    · exact absurd (hrom.symm.trans hstep) (by decide)

section
variable {d : Dev}

theorem Dev.pfwFalls_of_running (hmain : d.pins.mainPower = true) (hcut : d.pins.cut = false) (hvigil : d.pins.inVigil = false)
    (hstep : 5 ≤ d.boot.step ∨ d.boot.romHold = true) :
    d.pfwFalls = (d.modPins fun p => { p with pfwLow := true }).powerCut := by
  refine if_pos ?_
  simpa [Dev.modPins, hmain, hcut, hvigil] using hstep

theorem Dev.porFalls_of_unpowered (h : d.pins.mainPower = false) : d.porFalls = d := by
  simp [Dev.porFalls, h]

theorem Dev.porFalls_of_vigil (h : d.pins.mainPower = true) (hv : d.pins.inVigil = true) :
    d.porFalls = d.modPins fun p => { p with porLow := true } := by
  simp [Dev.porFalls, h, hv]

theorem Dev.porFalls_of_running (h : d.pins.mainPower = true) (hv : d.pins.inVigil = false) :
    d.porFalls = (d.volatileReset.modVigil fun v => { v with held := d.mode.val }).modPins fun p => { p with porLow := true } := by
  simp [Dev.porFalls, h, hv]

theorem Dev.mainLost_of_unpowered (h : d.pins.mainPower = false) : d.mainLost = d := by
  simp [Dev.mainLost, h]

theorem Dev.mainLost_of_vigil (h : d.pins.mainPower = true) (hv : d.pins.inVigil = true) :
    d.mainLost = (d.modPower fun p => { p with pfw := false }).modPins fun p =>
      { p with mainPower := false, cut := false, porLow := false } := by
  simp [Dev.mainLost, h, hv]

/-- The device as main power leaves it: where no pin told of the loss, every ridge has seen its rail below range (18:R388). -/
def Dev.unpowered (d : Dev) : Dev :=
  if d.pins.porLow || d.pins.pfwLow then d else (d.tamper (d.ridgeNums.map fun r => (⟨ridgeId r 1, 0⟩ : TamperHit))).flushAll

theorem Dev.mainLost_of_running (h : d.pins.mainPower = true) (hv : d.pins.inVigil = false) :
    d.mainLost = (d.unpowered.enterVigil false false).modPins fun p => { p with porLow := false } := by
  simp only [Dev.mainLost, h, hv, Bool.not_true, Bool.false_eq_true, if_false]
  rfl

theorem Dev.unpowered_of_warned (h : d.pins.porLow = true ∨ d.pins.pfwLow = true) : d.unpowered = d :=
  if_pos (by simpa using h)

end

/-! ### The shipment fuse -/

/-- FACTORY becomes BLANK (02:R37). -/
def Dev.shipped (d : Dev) : Dev := { d with fuses := { d.fuses with shipped := true } }.changeMode .blank

/-- No source of a ridge takes the test pattern (12:R294). -/
def Ridge.noPattern (x : Ridge) : Ridge := { x with rng := { x.rng with
  src0 := { x.rng.src0 with tpsel := false }, src1 := { x.rng.src1 with tpsel := false } } }

theorem Dev.shipped_noPattern (d : Dev) {r : Nat} (hp : d.populated r = true) (hr : r < d.ridges.length) :
    ((d.shipped.modRidges Ridge.noPattern).ridge r).rng.src0.tpsel = false ∧
      ((d.shipped.modRidges Ridge.noPattern).ridge r).rng.src1.tpsel = false := by
  have hridge : (d.shipped.modRidges Ridge.noPattern).ridge r = (d.shipped.ridge r).noPattern := by
    rw [Dev.ridge_modRidges _ _ (by simpa [Dev.shipped] using hr), if_pos]
    simpa [Dev.shipped, Dev.populated] using hp
  rw [hridge]
  exact ⟨rfl, rfl⟩

/-! ### The commands -/

section
variable {s : State} {e : Dev}

theorem leaves_pfwAssert (h : s.dev.pfwFalls = e) : leaves .pfwAssert s e := h ▸ rfl
theorem leaves_porAssert (h : s.dev.porFalls = e) : leaves .porAssert s e := h ▸ rfl
theorem leaves_mainPowerLost (h : s.dev.mainLost = e) : leaves .mainPowerLost s e := h ▸ rfl

/-- What an instruction comes to, by an equation for what it makes of the device. -/
theorem leaves_of {c : Instr} {d : Dev} (hc : exec c s = .next ⟨s.pending, d⟩) (h : d = e) : leaves c s e := h ▸ hc

theorem leaves_feedRecoveryTimeout (hcut : s.dev.pins.cut = true) (hvigil : s.dev.pins.inVigil = true)
    (hmain : s.dev.pins.mainPower = true) (hpfw : s.dev.pins.pfwLow = false) :
    leaves .feedRecoveryTimeout s (s.dev.modPins fun p => { p with cut := false }) := by
  refine leaves_of rfl (if_pos ?_)
  simp [hcut, hvigil, hmain, hpfw]

theorem leaves_shipmentFuseBlown_same (h : s.dev.live ≠ .factory ∨ s.dev.pins.mainPower = false) :
    leaves .shipmentFuseBlown s s.dev := by
  refine leaves_of rfl (if_neg ?_)
  simpa [imp_iff_not_or] using h

theorem leaves_shipmentFuseBlown (h : s.dev.live = .factory) (hmain : s.dev.pins.mainPower = true) :
    leaves .shipmentFuseBlown s (s.dev.shipped.modRidges Ridge.noPattern) := by
  refine leaves_of rfl (if_pos ?_)
  simp [h, hmain]

end

end Sys2Proof.Machine

open Sys2Proof Machine Claims

/-- Settles O42: the supplies and the shipment fuse. -/
theorem Sys2Proof.suppliesComeAndGo : Obligations.SuppliesComeAndGo := by
  intro s d low
  refine ⟨rfl, fun h => leaves_pfwAssert (Dev.pfwFalls_of_early h), fun hmain hcut hvigil hstep => ?cut,
    fun k hk hw => ?flush, fun h => ⟨leaves_porAssert (Dev.porFalls_of_unpowered h), leaves_mainPowerLost (Dev.mainLost_of_unpowered h)⟩,
    fun h hv => ⟨leaves_porAssert (Dev.porFalls_of_vigil h hv), leaves_mainPowerLost (Dev.mainLost_of_vigil h hv)⟩,
    fun h hv => ⟨⟨_, leaves_porAssert (Dev.porFalls_of_running h hv), ?reset⟩,
      ⟨_, leaves_mainPowerLost (Dev.mainLost_of_running h hv), ?vigil⟩⟩,
    leaves_feedRecoveryTimeout, leaves_shipmentFuseBlown_same,
    fun h hmain => ⟨_, leaves_shipmentFuseBlown h hmain, ?shipment⟩⟩
  case cut => exact ⟨_, leaves_pfwAssert (Dev.pfwFalls_of_running hmain hcut hvigil hstep), Dev.powerCut_dark _⟩
  case flush =>
    intro p written
    have hp : p = d.persSave (d.pers k) := d.persFlush_pers hk hw
    rw [hp]
    exact ⟨rfl, rfl, rfl, rfl⟩
  case reset =>
    refine ⟨rfl, rfl, rfl, rfl, rfl, rfl, rfl, rfl, rfl, rfl, rfl, rfl, rfl, rfl, rfl, rfl, rfl, rfl, rfl, fun k => ?_⟩
    have hseam : ((d.volatileReset.modVigil fun v => { v with held := d.mode.val }).modPins fun p =>
      { p with porLow := true }).seam k = (d.seam k).offline := d.seam_volatileReset k
    rw [hseam]
    exact ⟨rfl, rfl, rfl⟩
  case vigil =>
    refine ⟨d.unpowered.enterVigil_dark false false, rfl, rfl, fun hwarned => ?_⟩
    rw [Dev.unpowered_of_warned hwarned]
    exact ⟨rfl, rfl, rfl, rfl, rfl, d.store_enterVigil false false⟩
  case shipment =>
    exact ⟨Dev.changeMode_live _ _ _ _, Dev.changeMode_fuses _ _ _ _, fun r hp hr => d.shipped_noPattern hp hr⟩
end

section
/-! ## Tamper events with main power present (13:R296, R298, R304, R305) -/

namespace Sys2Proof.Machine

/-! ### Which hits raise -/

theorem Dev.armed_iff (d : Dev) (i : Nat) : d.armed i = true ↔ i < 64 ∨
    (((i - 64) % 72 = 7 → 7 ≤ d.boot.step) ∧ ((i - 64) % 72 = 8 → 4 ≤ d.boot.step) ∧ ((i - 64) % 72 = 9 → 6 ≤ d.boot.step)) := by
  simp only [Dev.armed, Bool.or_eq_true, decide_eq_true_eq]
  refine or_congr_right ?_
  split
  next h => simp [h]
  next h => simp [h]
  next h => simp [h]
  next h7 h8 h9 => exact iff_of_true rfl ⟨fun h => (h7 h).elim, fun h => (h8 h).elim, fun h => (h9 h).elim⟩

theorem Dev.mem_raising {d : Dev} {hits : List TamperHit} {h : TamperHit} : h ∈ d.raising hits ↔ h.id < 640 ∧
    (d.isSource h.id = true ∧ d.armed h.id = true ∧ d.fusedOff h.id = false ∧ d.isLive h.id = false) ∧
      hits.find? (fun x => x.id == h.id) = some h := by
  simp only [Dev.raising, List.mem_filterMap, List.mem_range]
  constructor
  · rintro ⟨id, hlt, hid⟩
    split at hid
    next hc =>
      obtain rfl : h.id = id := by simpa using List.find?_some hid
      exact ⟨hlt, by simpa [and_assoc] using hc, hid⟩
    next => simp at hid
  · rintro ⟨hlt, hc, hfind⟩
    exact ⟨h.id, hlt, by rw [if_pos (by simpa [and_assoc] using hc), hfind]⟩

/-- The hits that raise stand in ascending ID (13:R304). -/
theorem Dev.raising_pairwise (d : Dev) (hits : List TamperHit) : (d.raising hits).Pairwise fun a b => a.id < b.id := by
  have hid : ∀ {id : Nat} {h : TamperHit}, (if d.isSource id && d.armed id && !d.fusedOff id && !d.isLive id then
      hits.find? fun x => x.id == id else none) = some h → h.id = id := by
    intro id h hc
    split at hc
    next => simpa using List.find?_some hc
    next => simp at hc
  refine List.pairwise_filterMap.2 (List.pairwise_lt_range.imp fun {i j} hij a ha b hb => ?_)
  rw [hid ha, hid hb]
  exact hij

theorem Dev.exists_raising_iff (d : Dev) (hits : List TamperHit) {i : Nat} (hi : i < 640) :
    (∃ h ∈ d.raising hits, h.id = i) ↔ (∃ h ∈ hits, h.id = i) ∧ d.isSource i = true ∧ d.armed i = true ∧
      d.fusedOff i = false ∧ d.isLive i = false := by
  constructor
  · rintro ⟨h, hmem, rfl⟩
    obtain ⟨-, hc, hfind⟩ := Dev.mem_raising.1 hmem
    exact ⟨⟨h, List.mem_of_find?_eq_some hfind, rfl⟩, hc⟩
  · rintro ⟨⟨h, hmem, rfl⟩, hc⟩
    obtain ⟨x, hx⟩ := Option.isSome_iff_exists.1 (List.find?_isSome (p := fun x : TamperHit => x.id == h.id).2 ⟨h, hmem, by simp⟩)
    have hxid : x.id = h.id := by simpa using List.find?_some hx
    exact ⟨x, Dev.mem_raising.2 ⟨hxid ▸ hi, hxid ▸ hc, hxid ▸ hx⟩, hxid⟩

/-! ### The spine cycle of a detection (01:R18; log 18) -/

theorem Dev.clock_le_ownCycle (d : Dev) (last : Option Nat) : d.clock ≤ (d.ownCycle last).clock := by
  unfold Dev.ownCycle Dev.spineCycle
  split
  · show d.clock ≤ 5 * (d.clock / 5 + 1)
    omega
  · exact Nat.le_refl _

/-- A command's own cycle is later than the one that it must not share. -/
theorem Dev.lt_ownCycle {d : Dev} {c : Nat} (h : c ≤ d.clock / 5) : c < (d.ownCycle (some c)).clock / 5 := by
  unfold Dev.ownCycle Dev.spineCycle
  split
  next heq =>
    have : c = d.clock / 5 := Option.some.inj heq
    show c < 5 * (d.clock / 5 + 1) / 5
    omega
  next hne =>
    have : c ≠ d.clock / 5 := fun hc => hne (congrArg some hc)
    omega

theorem Dev.stampTamper_later (d : Dev) : d.clock ≤ d.stampTamper.clock ∧
    ∀ c, d.stamps.classWrite = some c ∨ d.stamps.order = some c ∨ d.stamps.tamper = some c → c ≤ d.clock / 5 →
      c < d.stampTamper.clock / 5 := by
  have h1 := d.clock_le_ownCycle d.stamps.classWrite
  have h2 := (d.ownCycle d.stamps.classWrite).clock_le_ownCycle d.stamps.order
  have h3 := ((d.ownCycle d.stamps.classWrite).ownCycle d.stamps.order).clock_le_ownCycle d.stamps.tamper
  have hclock : d.stampTamper.clock = (((d.ownCycle d.stamps.classWrite).ownCycle d.stamps.order).ownCycle d.stamps.tamper).clock := rfl
  rw [hclock]
  refine ⟨by omega, fun c hc hle => ?_⟩
  rcases hc with hc | hc | hc
  · have := Dev.lt_ownCycle hle
    rw [hc] at h1 h2 h3 ⊢
    omega
  · have := Dev.lt_ownCycle (d := d.ownCycle d.stamps.classWrite) (c := c) (by omega)
    rw [hc] at h2 h3 ⊢
    omega
  · have := Dev.lt_ownCycle (d := (d.ownCycle d.stamps.classWrite).ownCycle d.stamps.order) (c := c) (by omega)
    rw [hc] at h3 ⊢
    omega

/-! ### Recording a source -/

/-- The fields of a tamper event's DETAIL do not overlap (13:R314). -/
theorem tamperDetail_eq (reading : BitVec 16) (cls : BitVec 2) (m : Mode) :
    tamperDetail reading cls m false = BitVec.ofNat 32 (reading.toNat + cls.toNat * 65536 + m.bits.toNat * 2 ^ 24) := by
  have hr := reading.isLt
  have hc := cls.isLt
  have hb := m.bits.isLt
  have hlow : reading.toNat ||| cls.toNat <<< 16 = reading.toNat + cls.toNat * 65536 := by
    rw [Nat.lor_comm, ← Nat.shiftLeft_add_eq_or_of_lt hr, Nat.shiftLeft_eq]
    omega
  have hall : (reading.toNat + cls.toNat * 65536) ||| m.bits.toNat <<< 24 =
      reading.toNat + cls.toNat * 65536 + m.bits.toNat * 2 ^ 24 := by
    rw [Nat.lor_comm, ← Nat.shiftLeft_add_eq_or_of_lt (by omega), Nat.shiftLeft_eq]
    omega
  refine BitVec.eq_of_toNat_eq ?_
  have hcls : cls.toNat <<< 16 % 2 ^ 32 = cls.toNat <<< 16 := Nat.mod_eq_of_lt (by rw [Nat.shiftLeft_eq]; omega)
  have hmode : m.bits.toNat <<< 24 % 2 ^ 32 = m.bits.toNat <<< 24 := Nat.mod_eq_of_lt (by rw [Nat.shiftLeft_eq]; omega)
  simp only [tamperDetail, Bool.false_eq_true, if_false, BitVec.toNat_or, BitVec.toNat_shiftLeft,
    BitVec.toNat_setWidth, BitVec.toNat_ofNat]
  rw [Nat.mod_eq_of_lt (show reading.toNat < 2 ^ 32 by omega), Nat.mod_eq_of_lt (show cls.toNat < 2 ^ 32 by omega),
    Nat.mod_eq_of_lt (show m.bits.toNat < 2 ^ 32 by omega), hcls, hmode, hlow, hall, Nat.mod_eq_of_lt (by omega)]
  exact Nat.or_zero _

@[simp] theorem Dev.markSource_live (d : Dev) (id : Nat) : (d.markSource id).live = d.live := by
  unfold Dev.markSource
  split <;> rfl

@[simp] theorem Dev.markSource_clock (d : Dev) (id : Nat) : (d.markSource id).clock = d.clock := by
  unfold Dev.markSource
  split <;> rfl

@[simp] theorem Dev.markSupply_tamp (d : Dev) (id : Nat) (ok : Bool) : (d.markSupply id ok).tamp = d.tamp := rfl

theorem Dev.recordSource_eq (d : Dev) (h : TamperHit) : d.recordSource h (d.classOfId h.id) = Claims.recorded d h := by
  have hreports : reports h.id = decide (h.id ≥ 64 ∧ (h.id - 64) % 72 ∈ [3, 4, 7]) := by
    simp [reports]
  have hreading : (if reports h.id then h.reading else 0).toNat =
      if h.id ≥ 64 ∧ (h.id - 64) % 72 ∈ [3, 4, 7] then h.reading.toNat else 0 := by
    simp only [hreports, decide_eq_true_eq]
    split <;> rfl
  have hlive : ((d.markSource h.id).markSupply h.id false).live = d.live := d.markSource_live h.id
  simp only [Dev.recordSource, Claims.recorded, tamperDetail_eq, hreading, hlive]
  rfl

/-- Recording a source changes the class of none. -/
theorem Dev.recorded_tamp (d : Dev) (h : TamperHit) : (Claims.recorded d h).tamp.fuseoff = d.tamp.fuseoff ∧
    (Claims.recorded d h).tamp.classPkg = d.tamp.classPkg ∧ (Claims.recorded d h).tamp.classRidge = d.tamp.classRidge := by
  have hmark : (d.markSource h.id).tamp.fuseoff = d.tamp.fuseoff ∧ (d.markSource h.id).tamp.classPkg = d.tamp.classPkg ∧
      (d.markSource h.id).tamp.classRidge = d.tamp.classRidge := by
    unfold Dev.markSource
    split <;> exact ⟨rfl, rfl, rfl⟩
  simpa [Claims.recorded] using hmark

theorem Dev.classOfId_congr {d e : Dev} (h : e.tamp.fuseoff = d.tamp.fuseoff ∧ e.tamp.classPkg = d.tamp.classPkg ∧
    e.tamp.classRidge = d.tamp.classRidge) (id : Nat) : e.classOfId id = d.classOfId id := by
  obtain ⟨hf, hp, hr⟩ := h
  unfold Dev.classOfId Dev.fusedOff
  rw [hf, hp, hr]

/-- Every source of a cycle is recorded with the class that it had before them. -/
theorem Dev.foldl_recordSource {d : Dev} {cls : Nat → BitVec 2} (hcls : ∀ id, d.classOfId id = cls id) (hs : List TamperHit) :
    hs.foldl (fun e h => e.recordSource h (cls h.id)) d = hs.foldl Claims.recorded d := by
  induction hs generalizing d with
  | nil => rw [List.foldl_nil, List.foldl_nil]
  | cons h hs ih =>
    have hfirst : d.recordSource h (cls h.id) = Claims.recorded d h := hcls h.id ▸ d.recordSource_eq h
    rw [List.foldl_cons, List.foldl_cons, hfirst]
    exact ih fun id => (Dev.classOfId_congr (d.recorded_tamp h) id).trans (hcls id)

/-! ### The class that acts -/

theorem highest_spec (cs : List (BitVec 2)) (m : BitVec 2) :
    let x := cs.foldl (fun a b => if a.toNat < b.toNat then b else a) m
    m.toNat ≤ x.toNat ∧ (∀ c ∈ cs, c.toNat ≤ x.toNat) ∧ (x = m ∨ x ∈ cs) := by
  induction cs generalizing m with
  | nil => simp
  | cons c cs ih =>
    obtain ⟨hm, hall, hmem⟩ := ih (if m.toNat < c.toNat then c else m)
    simp only [List.foldl_cons, List.mem_cons]
    by_cases h : m.toNat < c.toNat
    · simp only [if_pos h] at hm hall hmem ⊢
      exact ⟨by omega, by rintro x (rfl | hx); exacts [hm, hall x hx], .inr hmem⟩
    · simp only [if_neg h] at hm hall hmem ⊢
      exact ⟨hm, by rintro x (rfl | hx); exacts [by omega, hall x hx], hmem.imp_right .inr⟩

/-- The highest class of a list, which is N for none. -/
theorem highest_eq {cs : List (BitVec 2)} {x : BitVec 2} (hall : ∀ c ∈ cs, c.toNat ≤ x.toNat) (hx : x = 0 ∨ x ∈ cs) :
    highest cs = x := by
  obtain ⟨-, hle, hmem⟩ := highest_spec cs 0
  have hge : x.toNat ≤ (highest cs).toNat := by
    rcases hx with rfl | hx
    · exact Nat.zero_le _
    · exact hle x hx
  have hle' : (highest cs).toNat ≤ x.toNat := by
    rcases hmem with h | h
    · rw [show highest cs = 0 from h]; exact Nat.zero_le _
    · exact hall _ h
  exact BitVec.eq_of_toNat_eq (Nat.le_antisymm hle' hge)

/-! ### A cycle of detections -/

/-- The device once the sources of a cycle have been recorded, in the cycle that is theirs. -/
def Dev.seen (d : Dev) (hs : List TamperHit) : Dev := hs.foldl Claims.recorded (if hs = [] then d else d.stampTamper)

theorem Dev.tamper_of_unwatched {d : Dev} (h : ¬(d.pins.inVigil = false ∧ d.pins.mainPower = true)) (hits : List TamperHit)
    (orders : List Nat) : d.tamper hits orders = d := by
  refine if_pos ?_
  cases hv : d.pins.inVigil <;> cases hm : d.pins.mainPower <;> simp_all

/-- What the hits of a cycle come to: held before step 3 of a power-up, later answered at once (13:R304, R307). -/
theorem Dev.tamper_of_watched {d : Dev} (hv : d.pins.inVigil = false) (hm : d.pins.mainPower = true) (hits : List TamperHit)
    (orders : List Nat) : d.tamper hits orders =
      if d.boot.step < 3 then (d.seen (d.raising hits)).modPins fun p => { p with
        held := p.held ++ (d.raising hits).map fun h => (h.id, d.classOfId h.id) }
      else (d.seen (d.raising hits)).respond (highest ((d.raising hits).map fun h => d.classOfId h.id)) orders := by
  have hstart : (if (d.raising hits).isEmpty then d else d.stampTamper) = if d.raising hits = [] then d else d.stampTamper := by
    simp only [List.isEmpty_iff]
  have hstep : (if d.raising hits = [] then d else d.stampTamper).boot = d.boot := by split <;> simp
  have hclass : ∀ id, (if d.raising hits = [] then d else d.stampTamper).classOfId id = d.classOfId id := fun id =>
    Dev.classOfId_congr (by split <;> simp) id
  simp only [Dev.tamper, hv, hm, hstart, hstep, hclass, Dev.foldl_recordSource hclass, Bool.not_true, Bool.or_self,
    Bool.false_eq_true, if_false]
  rfl

/-! ### What a cut leaves (13:R305, R306) -/

theorem Dev.notEnded_of_no_jobs {d : Dev} (h : d.jobs = []) : d.notEnded = [] := by
  simp [Dev.notEnded, h]

theorem Dev.abortCmds_of_spared {d : Dev} {spared : List Nat} (h : ∀ c ∈ d.mq.cmds, c.started = true → c.index.toNat ∈ spared)
    (st : BitVec 16) : d.abortCmds st spared = d.stopWaiting := by
  have hnone : (d.mq.cmds.filter fun c => c.started && !spared.contains c.index.toNat) = [] :=
    List.filter_eq_nil_iff.2 fun c hc => by simpa using h c hc
  rw [Dev.abortCmds, hnone]
  rfl

theorem Dev.refuseWaiting_of_none {d : Dev} (h : ∀ c ∈ d.mq.cmds, c.waiting = false) (spared : List Nat) :
    d.refuseWaiting spared = d := by
  have hnone : (d.mq.cmds.filter fun c => c.waiting && spared.contains c.index.toNat) = [] :=
    List.filter_eq_nil_iff.2 fun c hc => by simp [h c hc]
  rw [Dev.refuseWaiting, hnone]
  rfl

/-- With no job under way, no command that waits and every started one spared, a cut ends nothing that is under way. -/
theorem Dev.cut_of_spared {d : Dev} {orders : List Nat} (hj : d.jobs = []) (hc : ∀ c ∈ d.mq.cmds, c.waiting = false ∧
    (c.started = true → c.index.toNat ∈ orders ∧ c.bad = none ∧
      c.desc.opcode.toNat ∈ [0x8007, 0x8021, 0x8041, 0x8050, 0x8051, 0x8052])) (st : BitVec 16) (hold : Bool) :
    d.cut st hold orders = (d.stamp fun t c => { t with cut := c }).stopWaiting := by
  have hspared : ∀ c ∈ d.mq.cmds, c.started = true → c.index.toNat ∈
      (d.mq.cmds.filter fun c => c.executesOrder && orders.contains c.index.toNat).map fun c => c.index.toNat := by
    intro c hmem hs
    obtain ⟨horder, hbad, hop⟩ := (hc c hmem).2 hs
    refine List.mem_map_of_mem (List.mem_filter.2 ⟨hmem, ?_⟩)
    rw [MqCmd.executesOrder, hs, hbad, List.contains_iff_mem.2 hop, List.contains_iff_mem.2 horder]
    rfl
  unfold Dev.cut
  extract_lets spared t
  rw [show t.notEnded = [] from Dev.notEnded_of_no_jobs hj, show t.abortJobs [] st hold = t from rfl,
    Dev.abortCmds_of_spared (d := t) hspared, Dev.refuseWaiting_of_none (d := t.stopWaiting) fun c hmem => (hc c hmem).1]

theorem Dev.cut_of_idle {d : Dev} (h : Claims.idle d) (st : BitVec 16) (hold : Bool) (orders : List Nat) :
    d.cut st hold orders = (d.stamp fun t c => { t with cut := c }).stopWaiting :=
  Dev.cut_of_spared h.1 (by simp [h.2]) st hold

theorem Dev.cut_idle_keeps {d : Dev} (h : Claims.idle d) (st : BitVec 16) (hold : Bool) (orders : List Nat) :
    let t := d.cut st hold orders
    t.live = d.live ∧ t.prior = d.prior ∧ t.vigil = d.vigil ∧ t.pins = d.pins := by
  rw [Dev.cut_of_idle h]
  exact ⟨rfl, rfl, rfl, rfl⟩

/-! ### The responses (13:R298, R304) -/

theorem Dev.respond_zero (d : Dev) (orders : List Nat) : d.respond 0 orders = d := rfl

theorem Dev.respond_one (d : Dev) (orders : List Nat) : d.respond 1 orders = d.respondL orders := rfl

theorem Dev.respond_two (d : Dev) {cls : BitVec 2} (h : 2 ≤ cls.toNat) (orders : List Nat) :
    d.respond cls orders = d.respondZ orders := by
  have hone : cls ≠ 1 := by rintro rfl; simp at h
  rw [Dev.respond, if_neg hone, if_pos h]

/-- TAMPER_OUT_N is driven for class L where OUT_ON_L asks for it (13:R299). -/
def Dev.outOnL (d : Dev) : Dev := if d.tamp.outOnL.val = 1 then d.driveOut else d

theorem Dev.respondL_of_settled {d : Dev} (h : d.live ∈ [.locked, .zeroized, .vigil]) (orders : List Nat) :
    d.respondL orders = d := by
  simp only [List.mem_cons, List.not_mem_nil, or_false] at h
  rcases h with h | h | h <;> simp only [Dev.respondL, h]

section
variable {d : Dev} (orders : List Nat)

theorem Dev.respondL_of_service (h : d.live = .service) :
    d.respondL orders = (d.outOnL.changeMode .locked 3).cut 0x0702 true orders := by
  simp only [Dev.respondL, h]
  rfl

theorem Dev.respondL_of_freeze (h : d.live = .freeze) :
    d.respondL orders = (d.outOnL.changeMode .locked 4 d.outOnL.exported).cut 0x0702 true orders := by
  simp only [Dev.respondL, h]
  rfl

theorem Dev.respondL_of_commission (h : d.live = .commission) :
    d.respondL orders = (d.outOnL.discardCommission.changeMode .blank).cut 0x0702 true orders := by
  simp only [Dev.respondL, h]
  rfl

theorem Dev.respondL_of_uncommissioned (h : d.live = .factory ∨ d.live = .blank) :
    d.respondL orders = d.outOnL.cut 0x0702 true orders := by
  rcases h with h | h <;> simp only [Dev.respondL, h] <;> rfl

end

theorem Dev.outOnL_idle {d : Dev} (h : Claims.idle d) : Claims.idle d.outOnL := by
  unfold Dev.outOnL
  split <;> exact h

@[simp] theorem Dev.outOnL_live (d : Dev) : d.outOnL.live = d.live := by
  unfold Dev.outOnL
  split <;> rfl

theorem Dev.changeMode_idle {d : Dev} (h : Claims.idle d) (m : Mode) (p : BitVec 3) (x : Bool) :
    Claims.idle (d.changeMode m p x) := by
  simpa [Claims.idle] using h

/-- A change of mode and a cut with nothing under way: DEV.MODE, PRIOR and the record are the new mode's. -/
theorem Dev.cut_changeMode {d : Dev} (h : Claims.idle d) (m : Mode) (p : BitVec 3) (x : Bool) (st : BitVec 16) (hold : Bool)
    (orders : List Nat) :
    let t := (d.changeMode m p x).cut st hold orders
    t.live = m ∧ t.prior = .of p ∧ t.vigil = (d.inMode m p x).vigil := by
  obtain ⟨hlive, hprior, hvigil, -⟩ := Dev.cut_idle_keeps (Dev.changeMode_idle h m p x) st hold orders
  exact ⟨hlive.trans (d.changeMode_live m p x), hprior.trans (d.changeMode_prior m p x), hvigil.trans (d.changeMode_vigil m p x)⟩

/-! ### Firedamp (13:R305, 08:Table 8.10) -/

theorem memRead_memZero_within (m : List Host.Cell) {n a : Nat} (h : a < n) : memRead (memZero m 0 n) a = 0 := by
  induction m with
  | nil => rfl
  | cons c m ih =>
    by_cases hc : c.1 < n
    · simpa [memZero, hc] using ih
    · have hne : c.1 ≠ a := by omega
      simpa [memZero, hc, memRead, hne] using ih

/-- What a ridge holds no more after Firedamp. -/
def Ridge.isWiped (x : Ridge) : Prop :=
  x.cache = [] ∧ x.kdu = none ∧ x.spine.key = none ∧ (∀ u ∈ x.engines, u.ram = .zero ∧ u.slotRam = .zero ∧ u.buffer = []) ∧
    x.rng.int.state = 0 ∧ x.rng.host.state = 0 ∧ ∀ a, a < x.lineByte → memRead x.sram a = 0

theorem Ridge.firedamp_isWiped (x : Ridge) : x.firedamp.isWiped := by
  refine ⟨rfl, rfl, rfl, fun u hu => ?_, rfl, rfl, fun a ha => memRead_memZero_within x.sram ha⟩
  obtain ⟨e, -, rfl⟩ := List.mem_map.1 hu
  exact ⟨rfl, rfl, rfl⟩

@[simp] theorem Dev.firedampWipe_pins (d : Dev) : d.firedampWipe.pins = d.pins := rfl
@[simp] theorem Dev.firedampWipe_vigil (d : Dev) : d.firedampWipe.vigil = d.vigil := rfl
@[simp] theorem Dev.firedampWipe_live (d : Dev) : d.firedampWipe.live = d.live := rfl
@[simp] theorem Dev.firedampWipe_unsealed (d : Dev) : d.firedampWipe.unsealed = false := rfl

theorem Dev.modPins_id (d : Dev) : (d.modPins fun p => p) = d := rfl

/-- The device before the cut of class Z: TAMPER_OUT_N driven, every sleeping ridge woken (13:R299, R308). -/
def Dev.alarmed (d : Dev) : Dev := d.driveOut.wakeAll

/-- Class Z erases VSALT and makes the mode ZEROIZED (13:R305). -/
def Dev.zeroizing (d : Dev) : Dev :=
  (d.alarmed.eraseVsalt.changeMode .zeroized).modPins fun p => { p with firedamp := true, zeroOut := true }

section
variable {d : Dev} (orders : List Nat)

theorem Dev.respondZ_of_uncommissioned (h : d.live = .factory ∨ d.live = .blank) :
    d.respondZ orders = (d.alarmed.cut 0x0702 false orders).firedampWipe := by
  have hlive : d.driveOut.wakeAll.live = d.live := rfl
  rcases h with h | h <;> simp only [Dev.respondZ, hlive, h] <;> rfl

theorem Dev.respondZ_of_zeroized (h : d.live = .zeroized) :
    d.respondZ orders = d.alarmed.firedampWipe.modPins fun p => { p with firedamp := true } := by
  have hlive : d.driveOut.wakeAll.live = d.live := rfl
  simp only [Dev.respondZ, hlive, h]
  rfl

theorem Dev.respondZ_of_commissioned (h : d.live ∈ [.commission, .service, .freeze, .locked]) :
    d.respondZ orders = (d.zeroizing.cut 0x0702 false orders).firedampWipe := by
  have hlive : d.driveOut.wakeAll.live = d.live := rfl
  simp only [List.mem_cons, List.not_mem_nil, or_false] at h
  rcases h with h | h | h | h <;> simp only [Dev.respondZ, hlive, h] <;> rfl

/-- The modes that hold what commissioning has set. -/
theorem mem_commissioned {m : Mode} (hu : ¬(m = .factory ∨ m = .blank)) (hz : m ≠ .zeroized) (hv : m ≠ .vigil) :
    m ∈ [.commission, .service, .freeze, .locked] := by
  cases m <;> simp_all

/-- Class Z ends in Firedamp on every ridge, in every mode but VIGIL. -/
theorem Dev.respondZ_firedamp (h : d.live ≠ .vigil) : ∃ w f, d.respondZ orders = (Dev.firedampWipe w).modPins f := by
  by_cases hu : d.live = .factory ∨ d.live = .blank
  · exact ⟨_, _, (Dev.respondZ_of_uncommissioned orders hu).trans (Dev.modPins_id _).symm⟩
  by_cases hz : d.live = .zeroized
  · exact ⟨_, _, Dev.respondZ_of_zeroized orders hz⟩
  · exact ⟨_, _, (Dev.respondZ_of_commissioned orders (mem_commissioned hu hz h)).trans (Dev.modPins_id _).symm⟩

end

/-- What class Z leaves of a ridge. -/
theorem Dev.respondZ_wiped {d : Dev} (h : d.live ≠ .vigil) (orders : List Nat) : (d.respondZ orders).unsealed = false ∧
    ∀ r, (d.respondZ orders).populated r = true → r < (d.respondZ orders).ridges.length →
      ((d.respondZ orders).ridge r).isWiped := by
  obtain ⟨w, f, hw⟩ := Dev.respondZ_firedamp orders h
  rw [hw]
  refine ⟨rfl, fun r hp hr => ?_⟩
  have hr : r < w.ridges.length := by simpa [Dev.firedampWipe] using hr
  have hridge : ((Dev.firedampWipe w).modPins f).ridge r = (w.ridge r).firedamp :=
    (w.ridge_modRidges Ridge.firedamp hr).trans (if_pos hp)
  rw [hridge]
  exact Ridge.firedamp_isWiped _

section
variable {d : Dev} (h : Claims.idle d) (orders : List Nat)
include h

/-- Class Z with nothing under way, before commissioning: the mode stays (02:R37). -/
theorem Dev.respondZ_idle_uncommissioned (hl : d.live = .factory ∨ d.live = .blank) :
    (d.respondZ orders).pins = d.driveOut.pins ∧ (d.respondZ orders).live = d.live := by
  rw [Dev.respondZ_of_uncommissioned orders hl]
  obtain ⟨hlive, -, -, hpins⟩ := Dev.cut_idle_keeps (d := d.alarmed) h 0x0702 false orders
  rw [Dev.firedampWipe_pins, Dev.firedampWipe_live, hpins, hlive]
  exact ⟨rfl, rfl⟩

theorem Dev.respondZ_idle_commissioned (hl : d.live ∈ [.commission, .service, .freeze, .locked]) :
    (d.respondZ orders).pins = { d.driveOut.pins with firedamp := true, zeroOut := true } ∧
      (d.respondZ orders).live = .zeroized ∧ (d.respondZ orders).vigil.vsalt = none := by
  rw [Dev.respondZ_of_commissioned orders hl]
  obtain ⟨hlive, -, hvigil, hpins⟩ := Dev.cut_idle_keeps (d := d.zeroizing)
    (Dev.changeMode_idle (d := d.alarmed.eraseVsalt) h .zeroized 0 false) 0x0702 false orders
  have hpins' : d.zeroizing.pins = { d.driveOut.pins with firedamp := true, zeroOut := true } := by
    simp only [Dev.zeroizing, Dev.modPins, Dev.changeMode_pins]
    rfl
  have hvigil' : d.zeroizing.vigil.vsalt = none := by
    simp only [Dev.zeroizing, Dev.modPins_vigil, Dev.changeMode_vigil]
    rfl
  have hlive' : d.zeroizing.live = .zeroized := Dev.changeMode_live _ _ _ _
  rw [Dev.firedampWipe_pins, Dev.firedampWipe_live, Dev.firedampWipe_vigil, hpins, hlive, hvigil]
  exact ⟨hpins', hlive', hvigil'⟩

end

/-- Class Z with nothing under way: TAMPER_OUT_N, the mode, Firedamp and VSALT (13:R299, R305). -/
theorem Dev.respondZ_idle {d : Dev} (h : Claims.idle d) (hvigil : d.live ≠ .vigil) (orders : List Nat) :
    let z := d.respondZ orders
    z.pins.tamperOut = d.driveOut.pins.tamperOut ∧ (d.live = .factory ∨ d.live = .blank → z.live = d.live) ∧
      (d.live ∈ [.commission, .service, .freeze, .locked, .zeroized] → z.live = .zeroized ∧ z.pins.firedamp = true) ∧
      (d.live ∈ [.commission, .service, .freeze, .locked] → z.vigil.vsalt = none ∧ z.pins.zeroOut = true) := by
  intro z
  by_cases hu : d.live = .factory ∨ d.live = .blank
  · obtain ⟨hpins, hlive⟩ := Dev.respondZ_idle_uncommissioned h orders hu
    refine ⟨congrArg Pins.tamperOut hpins, fun _ => hlive, ?_, ?_⟩ <;> rcases hu with hu | hu <;> simp [hu]
  by_cases hz : d.live = .zeroized
  · have hrespond : z = _ := Dev.respondZ_of_zeroized orders hz
    rw [hrespond]
    exact ⟨rfl, fun hc => absurd hc hu, fun _ => ⟨hz, rfl⟩, by simp [hz]⟩
  · have hc := mem_commissioned hu hz hvigil
    obtain ⟨hpins, hlive, hvsalt⟩ := Dev.respondZ_idle_commissioned h orders hc
    exact ⟨(congrArg Pins.tamperOut hpins :), fun hc => absurd hc hu, fun _ => ⟨hlive, (congrArg Pins.firedamp hpins :)⟩,
      fun _ => ⟨hvsalt, (congrArg Pins.zeroOut hpins :)⟩⟩

/-! ### Conditions that clear, and the hourly check (13:R296, R299, R312) -/

/-- The supply that a cleared source tells of is whole again; the loss of both cells and the capacitor's are ended otherwise. -/
theorem Dev.restoreSupply_eq (d : Dev) (id : Nat) : (if id = 18 ∨ id = 19 then d else d.markSupply id true) =
    d.modVigil fun v => { v with
      cellA := if id = 16 then true else v.cellA, cellB := if id = 17 then true else v.cellB
      xtalOk := if id = 20 then true else v.xtalOk } := by
  by_cases h16 : id = 16
  · subst h16; rfl
  by_cases h17 : id = 17
  · subst h17; rfl
  by_cases h20 : id = 20
  · subst h20; rfl
  by_cases h : id = 18 ∨ id = 19
  · simp only [if_pos h, if_neg h16, if_neg h17, if_neg h20]
    rfl
  · obtain ⟨h18, h19⟩ := not_or.1 h
    simp only [if_neg h, if_neg h16, if_neg h17, if_neg h20, Dev.markSupply]

theorem Dev.clearSource_eq (d : Dev) (id : Nat) : d.clearSource id = Claims.cleared d id :=
  Dev.restoreSupply_eq _ id

/-! ### The commands -/

theorem leaves_tamperEvent {s : State} {hits : List TamperHit} {orders : List Nat} {e : Dev} (h : s.dev.tamper hits orders = e) :
    leaves (.tamperEvent ⟨hits, orders⟩) s e := h ▸ rfl

theorem leaves_tamperConditionCleared {s : State} {id : Nat} (h : s.dev.isSource id = true) :
    leaves (.tamperConditionCleared id) s (Claims.cleared s.dev id) :=
  leaves_of rfl ((if_pos h).trans (s.dev.clearSource_eq id))

theorem leaves_tamperConditionCleared_same {s : State} {id : Nat} (h : s.dev.isSource id = false) :
    leaves (.tamperConditionCleared id) s s.dev :=
  leaves_of rfl (if_neg (by simp [h]))

/-- TAMPER_OUT_N returns high when its time is over (13:R299). -/
def Dev.outExpires (d : Dev) : Dev :=
  match d.pins.tamperOut with
  | some t => (d.reach t).modPins fun p => { p with tamperOut := none }
  | none => d

theorem Dev.outExpires_of_none {d : Dev} (h : d.pins.tamperOut = none) : d.outExpires = d := by
  simp only [Dev.outExpires, h]

theorem Dev.outExpires_of_some {d : Dev} {t : Nat} (h : d.pins.tamperOut = some t) :
    d.outExpires = (d.modPins fun p => { p with tamperOut := none }).reach t := by
  simp only [Dev.outExpires, h]
  rfl

theorem leaves_tamperOutExpiry {s : State} {e : Dev} (h : s.dev.outExpires = e) : leaves .tamperOutExpiry s e := leaves_of rfl h

theorem leaves_vholdCheck_same {s : State} (h : ¬(s.dev.pins.inVigil = false ∧ s.dev.pins.mainPower = true)) (pass : Bool) :
    leaves (.vholdCheck pass) s s.dev := by
  refine leaves_of rfl (if_neg ?_)
  simpa [and_comm] using h

section
variable {s : State} (hv : s.dev.pins.inVigil = false) (hm : s.dev.pins.mainPower = true)
include hv hm

theorem leaves_vholdCheck_pass :
    leaves (.vholdCheck true) s ((Claims.cleared s.dev 19).modVigil fun v => { v with vholdOk := true }) :=
  leaves_of rfl ((if_pos (by simp [hv, hm])).trans (congrArg (Dev.markSupply · 19 true) (s.dev.clearSource_eq 19)))

theorem leaves_vholdCheck_fail :
    leaves (.vholdCheck false) s ((s.dev.modVigil fun v => { v with vholdOk := false }).tamper [⟨19, 0⟩]) :=
  have hfails : s.dev.markSupply 19 false = s.dev.modVigil fun v => { v with vholdOk := false } := rfl
  leaves_of rfl ((if_pos (by simp [hv, hm])).trans (congrArg (Dev.tamper · [⟨19, 0⟩]) hfails))

end

end Sys2Proof.Machine

open Sys2Proof Machine Claims

/-- Settles O44: tamper events with main power present, by what is recorded of them and what the highest class does. -/
theorem Sys2Proof.tamperResponses : Obligations.TamperResponses := by
  intro s hits orders d hs armed seen out watching
  refine ⟨d.raising_pairwise hits, fun i hi => ?raises, ⟨rfl, d.stampTamper_later⟩,
    fun h => leaves_tamperEvent (Dev.tamper_of_unwatched h hits orders), fun ⟨hv, hm⟩ hstep => ?held,
    fun ⟨hv, hm⟩ hstep cls hall hcls => ?acts, fun e => ⟨e.respond_zero orders, fun h => e.respondL_of_settled h orders,
      fun hj hc hold => ?spared, ⟨e.respondL_of_service orders, e.respondL_of_freeze orders, e.respondL_of_commission orders,
        e.respondL_of_uncommissioned orders⟩, fun hidle => ?idle, fun cls htwo hvigil => ?firedamp⟩,
    fun id => ⟨leaves_tamperConditionCleared_same, leaves_tamperConditionCleared⟩, fun h => ?quiet, fun t h => ?expires,
    leaves_vholdCheck_same, fun ⟨hv, hm⟩ => ⟨leaves_vholdCheck_pass hv hm, leaves_vholdCheck_fail hv hm⟩⟩
  case raises =>
    rw [d.exists_raising_iff hits hi, d.armed_iff]
  case held => exact leaves_tamperEvent ((Dev.tamper_of_watched hv hm hits orders).trans (if_pos hstep))
  case acts =>
    have hhighest : highest (hs.map fun h => d.classOfId h.id) = cls :=
      highest_eq (by simpa using hall) (hcls.imp_right fun h => by simpa using h)
    have hact := (Dev.tamper_of_watched hv hm hits orders).trans (if_neg (Nat.not_lt.2 hstep))
    rw [hhighest] at hact
    exact leaves_tamperEvent hact
  case spared =>
    rw [Dev.cut_of_spared hj hc]
    rfl
  case idle =>
    refine ⟨fun h => ?service, fun h => ?freeze, fun h => ?commission, fun h => ?same⟩
    case service =>
      rw [e.respond_one, e.respondL_of_service orders h]
      obtain ⟨hlive, hprior, -⟩ := Dev.cut_changeMode (Dev.outOnL_idle hidle) .locked 3 false 0x0702 true orders
      exact ⟨hlive, congrArg Shadowed.val hprior⟩
    case freeze =>
      rw [e.respond_one, e.respondL_of_freeze orders h]
      obtain ⟨hlive, hprior, -⟩ := Dev.cut_changeMode (Dev.outOnL_idle hidle) .locked 4 e.outOnL.exported 0x0702 true orders
      exact ⟨hlive, congrArg Shadowed.val hprior⟩
    case commission =>
      rw [e.respond_one, e.respondL_of_commission orders h]
      obtain ⟨hlive, -, hvigil⟩ := Dev.cut_changeMode (d := e.outOnL.discardCommission) (Dev.outOnL_idle hidle) .blank 0 false 0x0702
        true orders
      exact ⟨hlive, congrArg Vigil.vsalt hvigil⟩
    case same =>
      rw [e.respond_one, e.respondL_of_uncommissioned orders h]
      exact (Dev.cut_idle_keeps (Dev.outOnL_idle hidle) 0x0702 true orders).1.trans e.outOnL_live
  case firedamp =>
    intro z
    have hz : z = e.respondZ orders := e.respond_two htwo orders
    rw [hz]
    exact ⟨fun hidle => Dev.respondZ_idle hidle hvigil orders, e.respondZ_wiped hvigil orders⟩
  case quiet => exact leaves_tamperOutExpiry (Dev.outExpires_of_none h)
  case expires => exact leaves_tamperOutExpiry (Dev.outExpires_of_some h)
end

section
/-! ## Links that are lost and rise (03:R73 to R75, 14:R329, R330, R402) -/

namespace Sys2Proof.Machine

/-! ### Folds that change nothing, or act once -/

theorem foldl_of_fixed {α : Type} {f : Dev → α → Dev} {d : Dev} {l : List α} (h : ∀ x ∈ l, f d x = d) : l.foldl f d = d := by
  induction l with
  | nil => rfl
  | cons x l ih =>
    rw [List.foldl_cons, h x List.mem_cons_self]
    exact ih fun y hy => h y (List.mem_cons_of_mem x hy)

/-- A fold in which one element alone acts. -/
theorem foldl_of_only {f : Dev → Nat → Dev} {d : Dev} {l : List Nat} {v : Nat} (hv : v ∈ l) (hn : l.Nodup)
    (hbefore : ∀ w ∈ l, w ≠ v → f d w = d) (hafter : ∀ w ∈ l, w ≠ v → f (f d v) w = f d v) : l.foldl f d = f d v := by
  obtain ⟨a, b, rfl⟩ := List.append_of_mem hv
  have hne : ∀ w ∈ a ++ b, w ≠ v := fun w hw hwv => (List.nodup_middle.1 hn).notMem (hwv ▸ hw)
  rw [List.foldl_append, foldl_of_fixed fun w hw => hbefore w (by simp [hw]) (hne w (by simp [hw])), List.foldl_cons]
  exact foldl_of_fixed fun w hw => hafter w (by simp [hw]) (hne w (by simp [hw]))

/-! ### Counters -/

theorem satInc_zero {w : Nat} (v : BitVec w) : satInc v 0 = v := by
  simp [satInc, v.isLt]

theorem satInc_satInc {w : Nat} (v : BitVec w) (a b : Nat) : satInc (satInc v a) b = satInc v (a + b) := by
  by_cases h : v.toNat + a < 2 ^ w
  · have hsum : (v + BitVec.ofNat w a).toNat = v.toNat + a := by
      rw [BitVec.toNat_add, BitVec.toNat_ofNat, Nat.add_mod_mod, Nat.mod_eq_of_lt h]
    rw [show satInc v a = v + BitVec.ofNat w a from if_pos h, satInc, satInc, hsum, Nat.add_assoc, BitVec.add_assoc, BitVec.ofNat_add]
  · have hfull : satInc (BitVec.allOnes w) b = BitVec.allOnes w := by
      unfold satInc
      split
      next hb =>
        have : b = 0 := by rw [BitVec.toNat_allOnes] at hb; omega
        simp [this]
      next => rfl
    rw [show satInc v a = BitVec.allOnes w from if_neg h, hfull]
    exact (if_neg (by omega)).symm

/-! ### What a link that is not the one lost shows -/

theorem lkOther_lkOther (l : Lk) : lkOther (lkOther l) = l := by cases l <;> rfl

theorem lkOther_ne (l : Lk) : lkOther l ≠ l := by cases l <;> decide

theorem eq_or_eq_lkOther (k l : Lk) : k = l ∨ k = lkOther l := by cases k <;> cases l <;> simp [lkOther]

@[simp] theorem Dev.link_modLink_lkOther (d : Dev) (l : Lk) (f : Link → Link) :
    (d.modLink l f).link (lkOther l) = d.link (lkOther l) := by cases l <;> rfl

@[simp] theorem Dev.link_modLink_of_lkOther (d : Dev) (l : Lk) (f : Link → Link) :
    (d.modLink (lkOther l) f).link l = d.link l := by cases l <;> rfl

@[simp] theorem Dev.modLink_seam (d : Dev) (l : Lk) (f : Link → Link) (m : Nat) : (d.modLink l f).seam m = d.seam m := by
  cases l <;> rfl

@[simp] theorem Dev.modLink_usedSeams (d : Dev) (l : Lk) (f : Link → Link) : (d.modLink l f).usedSeams = d.usedSeams := by
  cases l <;> rfl

theorem Dev.modLink_modLink (d : Dev) (l : Lk) (f g : Link → Link) :
    (d.modLink l f).modLink l g = d.modLink l fun x => g (f x) := by cases l <;> rfl

theorem Dev.modLink_comm (d : Dev) (l : Lk) (f g : Link → Link) :
    (d.modLink l f).modLink (lkOther l) g = (d.modLink (lkOther l) g).modLink l f := by cases l <;> rfl

theorem Dev.modLink_congr (d : Dev) (l : Lk) {f g : Link → Link} (h : f (d.link l) = g (d.link l)) :
    d.modLink l f = d.modLink l g := by
  cases l
  · exact congrArg (fun x => { d with linkA := x }) h
  · exact congrArg (fun x => { d with linkB := x }) h

theorem Dev.modLink_self (d : Dev) (l : Lk) {f : Link → Link} (h : f (d.link l) = d.link l) : d.modLink l f = d :=
  (d.modLink_congr l (g := fun x => x) h).trans (by cases l <;> rfl)

theorem Dev.raise_modLink (d : Dev) (l : Lk) (f : Link → Link) (src : Option Nat) (id : Nat) (c : BitVec 2) (x : BitVec 32)
    (s : Option Nat) : (d.modLink l f).raise src id c x s = (d.raise src id c x s).modLink l f := by
  cases l <;> cases src <;> rfl

/-! ### The seam of a write -/

theorem Dev.seam_congr {d e : Dev} (h : e.seams = d.seams) (m : Nat) : e.seam m = d.seam m := by
  simp only [Dev.seam, h]

theorem Dev.writeSeam_congr {d e : Dev} (hs : e.seams = d.seams) (hj : e.jobs = d.jobs) (l : Lk) (w : HostWrite) :
    e.writeSeam l w = d.writeSeam l w := by
  unfold Dev.writeSeam Dev.job? Dev.seamsWhere Dev.usedSeams Dev.seam
  rw [hs, hj]

/-- A write that stood on a lost link goes again on the other: its seam is bound to both and not FAULTED (14:R402). -/
def Dev.reissues (d : Dev) (l : Lk) (w : HostWrite) : Bool :=
  match d.writeSeam l w with
  | some m => (d.seam m).entry.links == 3 && (d.seam m).entry.state != .faulted
  | none => false

theorem Dev.reissues_congr {d e : Dev} (hs : e.seams = d.seams) (hj : e.jobs = d.jobs) (l : Lk) (w : HostWrite) :
    e.reissues l w = d.reissues l w := by
  unfold Dev.reissues
  simp only [Dev.writeSeam_congr hs hj, Dev.seam_congr hs]

/-- A link that takes over writes: they follow its own, each counts, and it leaves L1 (14:R402, 16:R359). -/
def Link.takes (y : Link) (ws : List HostWrite) : Link := { y with
  unacked := y.unacked ++ ws, reissued := satInc y.reissued ws.length, pm := if ws ≠ [] ∧ y.pm = 1 then 0 else y.pm }

theorem Link.takes_nil (y : Link) : y.takes [] = y := by
  simp [Link.takes, satInc_zero]

theorem Link.takes_takes (y : Link) (w : HostWrite) (ws : List HostWrite) : (y.takes [w]).takes ws = y.takes (w :: ws) := by
  by_cases h : y.pm = 1#2 <;> simp [Link.takes, satInc_satInc, Nat.add_comm, h]

@[simp] theorem Link.takes_carries (y : Link) (ws : List HostWrite) : (y.takes ws).carries = y.carries := rfl
@[simp] theorem Link.takes_pasidEn (y : Link) (ws : List HostWrite) : (y.takes ws).pasidEn = y.pasidEn := rfl

/-- One write of a lost link. -/
def Dev.reissueOne (l : Lk) (d : Dev) (w : HostWrite) : Dev :=
  match d.writeSeam l w with
  | none => d
  | some s =>
    if (d.seam s).entry.dual && (d.seam s).entry.state != .faulted then
      let o := lkOther l
      if !(d.link o).carries then d.holdWrite s w
      else if w.pasid.isSome && !(d.link o).pasidEn then d.writeWithheld s w
      else (d.send o w).modLink o fun x => { x with reissued := satInc x.reissued }
    else d

theorem Dev.reissue_eq_foldl (d : Dev) (l : Lk) : d.reissue l = (d.link l).unacked.foldl (Dev.reissueOne l) d := rfl

theorem Dev.reissueOne_of_false {d : Dev} {l : Lk} {w : HostWrite} (h : d.reissues l w = false) : d.reissueOne l w = d := by
  unfold Dev.reissues at h
  unfold Dev.reissueOne
  split
  · rfl
  next s hs =>
    rw [hs] at h
    exact if_neg (ne_true_of_eq_false h)

theorem Dev.reissueOne_of_true {d : Dev} {l : Lk} {w : HostWrite} (h : d.reissues l w = true)
    (hc : (d.link (lkOther l)).carries = true) (hp : (d.link (lkOther l)).pasidEn = true) :
    d.reissueOne l w = d.modLink (lkOther l) fun y => y.takes [w] := by
  unfold Dev.reissues at h
  unfold Dev.reissueOne
  split
  next hs => simp [hs] at h
  next s hs =>
    rw [hs] at h
    simp only [if_pos (show ((d.seam s).entry.dual && (d.seam s).entry.state != .faulted) = true from h), hc, hp, Bool.not_true,
      Bool.and_false, Bool.false_eq_true, if_false, Dev.send, Dev.modLink_modLink]
    simp [Link.takes]

/-- The writes that stood on a lost link go again on the other one, in order. -/
theorem Dev.foldl_reissueOne {l : Lk} {p : HostWrite → Bool} (ws : List HostWrite) {d : Dev} (hr : ∀ w, d.reissues l w = p w)
    (hc : (d.link (lkOther l)).carries = true) (hp : (d.link (lkOther l)).pasidEn = true) :
    ws.foldl (Dev.reissueOne l) d = d.modLink (lkOther l) fun y => y.takes (ws.filter p) := by
  induction ws generalizing d with
  | nil => exact (d.modLink_self _ (Link.takes_nil _)).symm
  | cons w ws ih =>
    cases hw : p w
    · rw [List.foldl_cons, Dev.reissueOne_of_false ((hr w).trans hw), ih hr hc hp, List.filter_cons_of_neg (by simp [hw])]
    · rw [List.foldl_cons, Dev.reissueOne_of_true ((hr w).trans hw) hc hp, ih, Dev.modLink_modLink,
        List.filter_cons_of_pos hw]
      · simp only [Link.takes_takes]
      · exact fun w => (Dev.reissues_congr (by simp) (by simp) l w).trans (hr w)
      · simpa using hc
      · simpa using hp

theorem Dev.reissue_of_carries {d : Dev} {l : Lk} (hc : (d.link (lkOther l)).carries = true)
    (hp : (d.link (lkOther l)).pasidEn = true) :
    d.reissue l = d.modLink (lkOther l) fun y => y.takes ((d.link l).unacked.filter (d.reissues l)) := by
  rw [Dev.reissue_eq_foldl, Dev.foldl_reissueOne _ (fun _ => rfl) hc hp]

theorem Dev.reissue_of_none {d : Dev} {l : Lk} (h : ∀ w, d.reissues l w = false) : d.reissue l = d := by
  rw [Dev.reissue_eq_foldl]
  exact foldl_of_fixed fun w _ => Dev.reissueOne_of_false (h w)

/-! ### Reads that go on -/

theorem Dev.endFailed_of_none {d : Dev} (h : ∀ j ∈ d.jobs, j.job.failedRead = none) : d.endFailed = d :=
  foldl_of_fixed fun j hj => by simp [Dev.endIfFailed, h j hj]

/-- A read of a seam that is bound to both links goes on over the one that carries DMA. -/
theorem Dev.readFault_of_other {d : Dev} {l : Lk} {m : Nat} (h3 : (d.seam m).entry.links = 3) (hl : (d.link l).carries = false)
    (hc : (d.link (lkOther l)).carries = true) (hp : (d.link (lkOther l)).pasidEn = true) : d.readFault m = none := by
  have hlink : d.dmaLink m = some (lkOther l) := by
    rcases eq_or_eq_lkOther (lkOf (d.seam m).entry.pref) l with h | h <;>
      simp [Dev.dmaLink, h3, h, hl, hc]
  simp [Dev.readFault, hlink, hp]

theorem Dev.loseReads_of_dual {d : Dev} {j : JobRec} (h3 : (d.seam j.job.seam).entry.links = 3)
    (h : d.readFault j.job.seam = none) : d.loseReads j = d := by
  simp [Dev.loseReads, SeamEntry.dual, h3, h]

theorem Dev.loseRing_of_none {d : Dev} {m : Nat} (h : d.readFault m = none) : d.loseRing m = d := by
  simp [Dev.loseRing, h]

/-- A seam of a lost link alone that reads nothing and has no job loses no read. -/
theorem Dev.loseRing_of_idle {d : Dev} {m : Nat} (hj : d.seamJobs m = []) (hq : ∀ q, ((d.seam m).queue q).reading = false) :
    d.loseRing m = d := by
  simp only [Dev.loseRing]
  split
  · rfl
  · rw [foldl_of_fixed (d := d) fun q _ => by simp [hq q], hj]
    rfl

theorem Dev.mqLinkLost_of_elsewhere {d : Dev} {l : Lk} (h : lkOf d.mq.link = lkOther l) : d.mqLinkLost l = d :=
  if_neg (h ▸ lkOther_ne l)

/-- The MQ of a lost link that waits for no read of its commands: state 2, and what it had sent is held again (04:R113). -/
theorem Dev.mqLinkLost_of_here {d : Dev} {l : Lk} (h : lkOf d.mq.link = l)
    (hc : ∀ c ∈ d.mq.cmds, c.inp ≠ .waiting ∧ c.aux ≠ .waiting) :
    d.mqLinkLost l = (d.mqFault 2).modMq fun q => { q with held := q.sent ++ q.held, sent := [], reading := false } := by
  have hcmds : (d.mqFault 2).mq.cmds = d.mq.cmds := by
    unfold Dev.mqFault
    split <;> simp
  have hnone : ((d.mqFault 2).mq.cmds.filter fun c => c.inp == .waiting || c.aux == .waiting) = [] :=
    List.filter_eq_nil_iff.2 fun c hmem => by simpa using hc c (hcmds ▸ hmem)
  rw [Dev.mqLinkLost, if_pos h]
  simp only [Dev.modMq, hnone, List.map_nil, List.foldl_nil]

/-! ### A lost link -/

/-- A link that has left L0: the loss is counted, and the other link's ridge says so (03:R74). -/
def Dev.linkDown (d : Dev) (l : Lk) (cause : Nat) : Dev :=
  (d.modLink l fun x => { x with
    up := false, pm := 2, width := 0, speed := 0, losses := satInc x.losses, unacked := [] }).raise
    (some (lkRidge (lkOther l))) 35 0 (BitVec.ofNat 32 (lkBit l + 4 * cause))

section
variable (d : Dev) (l : Lk) (cause : Nat)

@[simp] theorem Dev.linkDown_seams : (d.linkDown l cause).seams = d.seams := by simp [Dev.linkDown]
@[simp] theorem Dev.linkDown_seam (m : Nat) : (d.linkDown l cause).seam m = d.seam m := by simp [Dev.linkDown]
@[simp] theorem Dev.linkDown_usedSeams : (d.linkDown l cause).usedSeams = d.usedSeams := by simp [Dev.linkDown]
@[simp] theorem Dev.linkDown_jobs : (d.linkDown l cause).jobs = d.jobs := by simp [Dev.linkDown]
@[simp] theorem Dev.linkDown_mq : (d.linkDown l cause).mq = d.mq := by simp [Dev.linkDown]
@[simp] theorem Dev.link_linkDown_other : (d.linkDown l cause).link (lkOther l) = d.link (lkOther l) := by simp [Dev.linkDown]
@[simp] theorem Dev.link_linkDown_unacked : ((d.linkDown l cause).link l).unacked = [] := by simp [Dev.linkDown]
@[simp] theorem Dev.link_linkDown_carries : ((d.linkDown l cause).link l).carries = false := by simp [Dev.linkDown, Link.carries]

end

theorem Dev.reissue_of_ready {d : Dev} {l : Lk} (h : (∀ w, d.reissues l w = false) ∨
    ((d.link (lkOther l)).carries = true ∧ (d.link (lkOther l)).pasidEn = true)) :
    d.reissue l = d.modLink (lkOther l) fun y => y.takes ((d.link l).unacked.filter (d.reissues l)) := by
  rcases h with h | ⟨hc, hp⟩
  · rw [Dev.reissue_of_none h, List.filter_eq_nil_iff.2 fun w _ => by simp [h w]]
    exact (d.modLink_self _ (Link.takes_nil _)).symm
  · exact Dev.reissue_of_carries hc hp

theorem Dev.reissues_of_no_dual {d : Dev} (h : ∀ m, (d.seam m).entry.links ≠ 3) (l : Lk) (w : HostWrite) :
    d.reissues l w = false := by
  unfold Dev.reissues
  split
  · rw [beq_eq_false_iff_ne.2 (h _)]
    rfl
  · rfl

/-- A link that gets back what it has handed on, and lets it go again, is as it was. -/
theorem Dev.modLink_unacked_cancel {d : Dev} {l : Lk} (h : (d.link l).unacked = []) (ws : List HostWrite) (f : Link → Link) :
    (((d.modLink l fun x => { x with unacked := ws }).modLink (lkOther l) f).modLink l fun x => { x with unacked := [] }) =
      d.modLink (lkOther l) f := by
  rw [Dev.modLink_comm, Dev.modLink_modLink]
  refine Dev.modLink_self _ _ ?_
  rw [Dev.link_modLink_of_lkOther, ← h]

theorem Dev.mem_seamsWhere_dual {d : Dev} {m : Nat} (h : m ∈ d.seamsWhere fun e => e.dual) : (d.seam m).entry.links = 3 :=
  beq_iff_eq.1 (List.mem_filter.1 h).2

/-- A lost link to which no seam is bound alone: the writes of seams bound to both go again on the other one, which, where there
are any, carries DMA (14:R402). -/
theorem Dev.linkLoss_of_no_lone {d : Dev} {l : Lk} (hup : (d.link l).up = true)
    (hlone : ∀ m, (d.seam m).entry.binds l = true → (d.seam m).entry.links = 3) (hquiet : ∀ j ∈ d.jobs, j.job.failedRead = none)
    (hgo : (∀ m, (d.seam m).entry.links ≠ 3) ∨ ((d.link (lkOther l)).carries = true ∧ (d.link (lkOther l)).pasidEn = true))
    (cause : Nat) : d.linkLoss l cause = ((d.linkDown l cause).modLink (lkOther l) fun y =>
      y.takes ((d.link l).unacked.filter (d.reissues l))).mqLinkLost l := by
  unfold Dev.linkLoss
  rw [if_pos hup]
  extract_lets ws fallen t lone dual faulted reissued js ended rings
  have ht : t = d.linkDown l cause := by simp only [t, fallen, Dev.linkDown, Nat.mul_comm]
  have hnone : lone = [] := List.filter_eq_nil_iff.2 fun m _ => by
    have := hlone m
    simp_all [SeamEntry.dual]
  have hfaulted : faulted = d.linkDown l cause := by simp only [faulted, hnone, List.foldl_nil, ht]
  have hreissued : reissued = (d.linkDown l cause).modLink (lkOther l) fun y => y.takes (ws.filter (d.reissues l)) := by
    have hsame : ∀ w, (faulted.modLink l fun x => { x with unacked := ws }).reissues l w = d.reissues l w :=
      fun w => Dev.reissues_congr (by simp [hfaulted]) (by simp [hfaulted]) l w
    have hready := Dev.reissue_of_ready (d := faulted.modLink l fun x => { x with unacked := ws }) (l := l)
      (hgo.imp (fun h w => (hsame w).trans (Dev.reissues_of_no_dual h l w)) fun h => by simpa [hfaulted] using h)
    simp only [reissued, hready, funext hsame, Dev.link_modLink_self]
    rw [Dev.modLink_unacked_cancel (by simp [hfaulted]), hfaulted]
  have hread : ∀ m ∈ dual, (reissued.seam m).entry.links = 3 ∧ reissued.readFault m = none := by
    intro m hm
    have h3 : (d.seam m).entry.links = 3 := by
      have := Dev.mem_seamsWhere_dual hm
      rwa [ht, Dev.linkDown_seam] at this
    obtain ⟨hc, hp⟩ := hgo.resolve_left fun h => h m h3
    rw [hreissued]
    exact ⟨by simpa using h3, Dev.readFault_of_other (l := l) (by simpa using h3) (by simp) (by simpa using hc) (by simpa using hp)⟩
  have hjs : js.foldl (fun d j => d.loseReads j) reissued = reissued := foldl_of_fixed fun j hj => by
    have hm : j.job.seam ∈ dual := by simpa [js, hnone] using (List.mem_filter.1 hj).2
    exact Dev.loseReads_of_dual (hread _ hm).1 (hread _ hm).2
  have hended : ended = reissued := by
    simp only [ended, hjs]
    exact Dev.endFailed_of_none (by simpa [hreissued] using hquiet)
  have hrings : rings = reissued := by
    simp only [rings, hended, hnone, List.nil_append]
    exact foldl_of_fixed fun m hm => Dev.loseRing_of_none (hread m hm).2
  rw [hrings, hreissued]

/-- A lost link, and its seam FAULTED, with the completions discarded that stood on it. -/
def Dev.faultLone (d : Dev) (l : Lk) (m cause : Nat) : Dev :=
  (((d.linkDown l cause).modRun m fun y => { y with
    discards := satInc y.discards ((d.link l).unacked.filter fun w => w.kind == .completion m).length }).modEntry m fun e =>
      { e with state := .faulted }).pkgEvent 38 0 (some m)

theorem Dev.faultLone_links (d : Dev) (l : Lk) (m cause k : Nat) :
    ((d.faultLone l m cause).seam k).entry.links = (d.seam k).entry.links := by
  by_cases h : m = k
  · subst h
    simp [Dev.faultLone]
  · have hother := fun (e : Dev) f => e.seam_modSeam_other f h
    simp only [Dev.faultLone, Dev.pkgEvent_seam, Dev.modEntry, Dev.modRun, hother, Dev.linkDown_seam]

theorem Dev.faultLone_link (d : Dev) (l : Lk) (m cause : Nat) : (d.faultLone l m cause).link l = (d.linkDown l cause).link l :=
  (Dev.pkgEvent_link _ _ _ _ _).trans (by cases l <;> rfl)

/-- A lost link to which one active seam alone is bound, which reads nothing and has no job: the seam is FAULTED, and its
completions on that link count as discarded (03:R75, 14:R402). -/
theorem Dev.linkLoss_of_lone {d : Dev} {l : Lk} {m : Nat} (hup : (d.link l).up = true) (hquiet : ∀ j ∈ d.jobs, j.job.failedRead = none)
    (hbound : ∀ k, (d.seam k).entry.binds l = true ↔ k = m) (hlone : (d.seam m).entry.links ≠ 3)
    (hactive : (d.seam m).entry.state = .active) (hused : d.usedSeams.filter (· == m) = [m]) (hj : ∀ j ∈ d.jobs, j.job.seam ≠ m)
    (hq : ∀ q, ((d.seam m).queue q).reading = false) (cause : Nat) :
    d.linkLoss l cause = (d.faultLone l m cause).mqLinkLost l := by
  unfold Dev.linkLoss
  rw [if_pos hup]
  extract_lets ws fallen t lone dual faulted reissued js ended rings
  have ht : t = d.linkDown l cause := by simp only [t, fallen, Dev.linkDown, Nat.mul_comm]
  have hnodual : ∀ k, (d.seam k).entry.links ≠ 3 := by
    intro k hk
    have hb : (d.seam k).entry.binds l = true := by
      cases l <;> simp [SeamEntry.binds, hk]
    exact hlone ((hbound k).1 hb ▸ hk)
  have hmine : lone = [m] := by
    rw [← hused]
    simp only [lone, Dev.seamsWhere, ht, Dev.linkDown_usedSeams, Dev.linkDown_seam]
    refine List.filter_congr fun k _ => ?_
    have hdual : (d.seam k).entry.dual = false := beq_eq_false_iff_ne.2 (hnodual k)
    rw [hdual, Bool.not_false, Bool.and_true, Bool.eq_iff_iff, hbound k]
    simp
  have hnone : dual = [] := List.filter_eq_nil_iff.2 fun k _ => by
    have hdual : (d.seam k).entry.dual = false := beq_eq_false_iff_ne.2 (hnodual k)
    simp [ht, hdual]
  have hfaulted : faulted = d.faultLone l m cause := by
    simp only [faulted, hmine, List.foldl_cons, List.foldl_nil, ht]
    exact if_pos (by simpa [Dev.dropLone, Dev.discard] using hactive)
  have hjobs : faulted.jobs = d.jobs := by simp [hfaulted, Dev.faultLone]
  have hreissued : reissued = faulted := by
    have hlinks : ∀ k, ((faulted.modLink l fun x => { x with unacked := ws }).seam k).entry.links ≠ 3 := fun k => by
      rw [Dev.modLink_seam, hfaulted, Dev.faultLone_links]
      exact hnodual k
    have hnothing : (faulted.link l).unacked = [] := by simp [hfaulted, Dev.faultLone_link]
    simp only [reissued, Dev.reissue_of_none fun w => Dev.reissues_of_no_dual hlinks l w, Dev.modLink_modLink]
    exact faulted.modLink_self l (by rw [← hnothing])
  have hjs : js = [] := List.filter_eq_nil_iff.2 fun j hmem => by
    rw [hreissued, hjobs] at hmem
    simp [hmine, hnone, hj j hmem]
  have hended : ended = faulted := by
    simp only [ended, hjs, List.foldl_nil, hreissued]
    exact Dev.endFailed_of_none (hjobs ▸ hquiet)
  have hrings : rings = faulted := by
    simp only [rings, hended, hmine, hnone, List.append_nil, List.foldl_cons, List.foldl_nil]
    refine Dev.loseRing_of_idle (Dev.seamJobs_eq_nil (hjobs ▸ hj)) fun q => ?_
    rw [hfaulted]
    simpa [Dev.faultLone, Seam.queue] using hq q
  rw [hrings, hfaulted]

/-- A lost link to which no seam is bound. -/
theorem Dev.linkLoss_of_unbound {d : Dev} {l : Lk} (hup : (d.link l).up = true) (h : ∀ m, ¬(d.seam m).entry.binds l = true)
    (hquiet : ∀ j ∈ d.jobs, j.job.failedRead = none) (cause : Nat) : d.linkLoss l cause = (d.linkDown l cause).mqLinkLost l := by
  have hnodual : ∀ m, (d.seam m).entry.links ≠ 3 := fun m h3 => h m (by cases l <;> simp [SeamEntry.binds, h3])
  have hnone : (d.link l).unacked.filter (d.reissues l) = [] :=
    List.filter_eq_nil_iff.2 fun w _ => by simp [Dev.reissues_of_no_dual hnodual]
  rw [Dev.linkLoss_of_no_lone hup (fun m hm => absurd hm (h m)) hquiet (.inl hnodual), hnone, Dev.modLink_self _ _ (Link.takes_nil _)]

/-! ### A link that rises -/

theorem Dev.unmask_of_disabled {d : Dev} {l : Lk} (h : (d.link l).msixEn = false) : d.unmask l = d := by
  simp [Dev.unmask, h]

theorem Dev.linkServes_of_no_bme {d : Dev} {l : Lk} (h : (d.link l).bme = false) : d.linkServes l = d := by
  simp [Dev.linkServes, Link.carries, h]

theorem Dev.mqResume_of_disabled {d : Dev} (hh : d.mq.held = []) (he : d.mq.enable = false) : d.mqResume = d := by
  have hdrain : d.mqDrain d.mq.held.length = d := by rw [hh]; rfl
  rw [Dev.mqResume, hdrain]
  simp [Dev.mqFetch, he]

/-- A link at L0, and event 35 that says so (03:R73). -/
def Dev.risen (d : Dev) (l : Lk) (width speed : Nat) : Dev :=
  (d.modLink l fun x => { x with up := true, width := width, speed := speed, pm := 0 }).raise
    (some (lkRidge l)) 35 0 (BitVec.ofNat 32 (lkBit l + 2))

/-- Without Bus Master Enable and MSI-X, and with the MQ disabled, a link that rises starts nothing. -/
theorem Dev.risen_idle {d : Dev} {l : Lk} (hb : (d.link l).bme = false) (hm : (d.link l).msixEn = false) (hh : d.mq.held = [])
    (he : d.mq.enable = false) (width speed : Nat) :
    ((((d.risen l width speed).unmask l).linkServes l).govern).mqResume = (d.risen l width speed).govern := by
  have hlink : (d.risen l width speed).link l = { d.link l with up := true, width := width, speed := speed, pm := 0 } := by
    simp [Dev.risen]
  rw [Dev.unmask_of_disabled (by rw [hlink]; exact hm), Dev.linkServes_of_no_bme (by rw [hlink]; exact hb)]
  exact Dev.mqResume_of_disabled (by simpa [Dev.risen] using hh) (by simpa [Dev.risen] using he)

/-! ### Held writes -/

/-- The writes of a list leave through a link, one after another. -/
theorem Dev.foldl_send (ws : List HostWrite) (d : Dev) (k : Lk) (m : Nat) :
    ((ws.foldl (fun d w => d.send k w) d).link k).unacked = (d.link k).unacked ++ ws ∧
      (ws.foldl (fun d w => d.send k w) d).seam m = d.seam m := by
  induction ws generalizing d with
  | nil => simp
  | cons w ws ih =>
    obtain ⟨hlink, hseam⟩ := ih (d.send k w)
    rw [List.foldl_cons, hlink, hseam]
    exact ⟨by simp [Dev.send], by simp [Dev.send]⟩

/-- Two folds agree whose steps agree as long as an invariant holds. -/
theorem foldl_congr_of_invariant {α : Type} {f g : Dev → α → Dev} {p : Dev → Prop} (hp : ∀ d x, p d → p (g d x))
    (hfg : ∀ d x, p d → f d x = g d x) (l : List α) {d : Dev} (hd : p d) : l.foldl f d = l.foldl g d := by
  induction l generalizing d with
  | nil => rfl
  | cons x l ih => rw [List.foldl_cons, List.foldl_cons, hfg d x hd, ih (hp d x hd)]

@[simp] theorem Dev.modRun_link (d : Dev) (m : Nat) (f : SeamRun → SeamRun) (k : Lk) : (d.modRun m f).link k = d.link k := by
  cases k <;> rfl

/-- The writes held for a seam that is not FAULTED leave in order over its link, where PASID is enabled (13:R305). -/
theorem Dev.releaseHeld_of_serves {d : Dev} {m : Nat} {k : Lk} (hk : d.dmaLink m = some k) (hs : (d.seam m).entry.state ≠ .faulted)
    (hp : (d.link k).pasidEn = true) : d.releaseHeld m =
      (d.seam m).run.heldWrites.foldl (fun d w => d.send k w) (d.modRun m fun x => { x with heldWrites := [] }) := by
  simp only [Dev.releaseHeld, hk]
  refine foldl_congr_of_invariant (p := fun e : Dev => (e.seam m).entry.state ≠ .faulted ∧ (e.link k).pasidEn = true)
    (fun e w he => ?_) (fun e w he => ?_) _ ⟨by simpa using hs, by simpa using hp⟩
  · simpa [Dev.send] using he
  · rw [if_neg he.1, if_neg (by simp [he.2])]

theorem Dev.releaseHeld_sends {d : Dev} {m : Nat} {k : Lk} (hk : d.dmaLink m = some k) (hs : (d.seam m).entry.state ≠ .faulted)
    (hp : (d.link k).pasidEn = true) : ((d.releaseHeld m).link k).unacked = (d.link k).unacked ++ (d.seam m).run.heldWrites ∧
      ((d.releaseHeld m).seam m).run.heldWrites = [] := by
  obtain ⟨hlink, hseam⟩ := Dev.foldl_send (d.seam m).run.heldWrites (d.modRun m fun x => { x with heldWrites := [] }) k m
  rw [Dev.releaseHeld_of_serves hk hs hp, hlink, hseam]
  exact ⟨by simp, by simp⟩

/-! ### Bus Master Enable (14:R330) -/

theorem Dev.mem_usedSeams {d : Dev} {m : Nat} (h : (d.seam m).entry.state ≠ .free) : m ∈ d.usedSeams := by
  cases hm : assocGet d.seams m with
  | none => exact absurd (by rw [Dev.seam, hm]; rfl) h
  | some x =>
    rw [Dev.seam, hm, Option.getD_some] at h
    exact List.mem_map.2 ⟨(m, x), List.mem_filter.2 ⟨assocGet_mem hm, by simpa using h⟩, rfl⟩

/-- A write of a seam that is bound to both links. -/
def Dev.ofDual (d : Dev) (l : Lk) (w : HostWrite) : Bool :=
  match d.writeSeam l w with
  | some m => (d.seam m).entry.links == 3
  | none => false

section
variable {d : Dev} {l : Lk} (hlive : ∀ m, (d.seam m).entry.links = 3 → (d.seam m).entry.state ≠ .free ∧
  (d.seam m).entry.state ≠ .faulted)
include hlive

theorem Dev.reissues_eq_ofDual (w : HostWrite) : d.reissues l w = d.ofDual l w := by
  unfold Dev.reissues Dev.ofDual
  cases d.writeSeam l w with
  | none => rfl
  | some m =>
    by_cases h : (d.seam m).entry.links = 3
    · simp [h, (hlive m h).2]
    · show ((d.seam m).entry.links == 3 && (d.seam m).entry.state != .faulted) = ((d.seam m).entry.links == 3)
      rw [beq_eq_false_iff_ne.2 h]
      rfl

theorem Dev.contains_seamsWhere_dual (m : Nat) :
    (d.seamsWhere fun e => e.dual).contains m = ((d.seam m).entry.links == 3) := by
  rw [Bool.eq_iff_iff, List.contains_iff_mem, beq_iff_eq]
  exact ⟨Dev.mem_seamsWhere_dual, fun h => List.mem_filter.2 ⟨Dev.mem_usedSeams (hlive m h).1, beq_iff_eq.2 h⟩⟩

end

/-- A function without Bus Master Enable, and event 35 (14:R330). -/
def Dev.bmeOut (d : Dev) (l : Lk) : Dev :=
  (d.modLink l fun x => { x with bme := false }).raise (some (lkRidge l)) 35 0 (BitVec.ofNat 32 (lkBit l + 12))

/-- A cleared Bus Master Enable moves the writes of seams bound to both links to the other one, which carries DMA; what the others
have written stays (14:R330). -/
theorem Dev.bmeOff_of_other {d : Dev} {l : Lk} (hbme : (d.link l).bme = true) (hquiet : ∀ j ∈ d.jobs, j.job.failedRead = none)
    (hc : (d.link (lkOther l)).carries = true) (hp : (d.link (lkOther l)).pasidEn = true)
    (hlive : ∀ m, (d.seam m).entry.links = 3 → (d.seam m).entry.state ≠ .free ∧ (d.seam m).entry.state ≠ .faulted) :
    d.bmeOff l = ((d.bmeOut l).modLink (lkOther l) fun y => y.takes ((d.link l).unacked.filter (d.ofDual l))).modLink l fun x =>
      { x with unacked := x.unacked.filter fun w => !(d.ofDual l w) } := by
  unfold Dev.bmeOff
  rw [if_pos hbme]
  extract_lets fallen t dual mine reissued js ended
  have ht : t = d.bmeOut l := rfl
  have hseams : t.seams = d.seams := by simp [t, fallen]
  have hjobs : t.jobs = d.jobs := by simp [t, fallen]
  have hseam : ∀ m, t.seam m = d.seam m := Dev.seam_congr hseams
  have hother : t.link (lkOther l) = d.link (lkOther l) := by simp [t, fallen]
  have hdown : (t.link l).carries = false := by simp [t, fallen, Link.carries]
  have hunacked : (t.link l).unacked = (d.link l).unacked := by simp [t, fallen]
  have hlive' : ∀ m, (t.seam m).entry.links = 3 → (t.seam m).entry.state ≠ .free ∧ (t.seam m).entry.state ≠ .faulted := by
    simpa only [hseam] using hlive
  have hmine : ∀ w, mine w = d.ofDual l w := by
    intro w
    simp only [mine, Dev.writeSeam_congr hseams hjobs, Dev.ofDual]
    cases d.writeSeam l w with
    | none => rfl
    | some m => exact (Dev.contains_seamsWhere_dual hlive' m).trans (by rw [hseam])
  have hreissued : reissued = ((d.bmeOut l).modLink (lkOther l) fun y =>
      y.takes ((d.link l).unacked.filter (d.ofDual l))).modLink l fun x =>
        { x with unacked := x.unacked.filter fun w => !(d.ofDual l w) } := by
    have hsame : ∀ w, t.reissues l w = d.ofDual l w := fun w =>
      (Dev.reissues_congr hseams hjobs l w).trans (Dev.reissues_eq_ofDual hlive w)
    have hmoved := Dev.reissue_of_carries (d := t) (by rwa [hother]) (by rwa [hother])
    rw [hunacked, funext hsame] at hmoved
    simp only [reissued, hmoved, hmine]
    rfl
  have hread : ∀ m ∈ dual, (reissued.seam m).entry.links = 3 ∧ reissued.readFault m = none := by
    intro m hm
    have h3 : (t.seam m).entry.links = 3 := Dev.mem_seamsWhere_dual hm
    rw [hreissued, ← ht]
    exact ⟨by simpa using h3, Dev.readFault_of_other (l := l) (by simpa using h3) (by simpa [Link.carries] using hdown)
      (by simpa [hother, Dev.link_modLink_lkOther] using hc) (by simpa [hother] using hp)⟩
  have hjs : js.foldl (fun d j => d.loseReads j) reissued = reissued := foldl_of_fixed fun j hj => by
    have hm : j.job.seam ∈ dual := by simpa [js] using (List.mem_filter.1 hj).2
    exact Dev.loseReads_of_dual (hread _ hm).1 (hread _ hm).2
  have hended : ended = reissued := by
    simp only [ended, hjs]
    exact Dev.endFailed_of_none (by simpa [hreissued, ← ht, hjobs] using hquiet)
  rw [hended, foldl_of_fixed fun m hm => Dev.loseRing_of_none (hread m hm).2, hreissued]

/-! ### Pending vectors (17:R381) -/

/-- One vector of a function whose mask has gone. -/
def Dev.unmaskOne (l : Lk) (d : Dev) (v : Nat) : Dev :=
  let f := d.link l
  if f.pba.getLsbD v && !f.fmask && !(f.msix.getD v ⟨0, 0, true⟩).masked then
    (d.modLink l fun x => { x with pba := x.pba &&& ~~~(1#64 <<< v) }).msix l v
  else d

theorem Dev.unmask_eq_foldl {d : Dev} {l : Lk} (hup : (d.link l).up = true) (hm : (d.link l).msixEn = true) :
    d.unmask l = (List.range 64).foldl (Dev.unmaskOne l) d :=
  if_pos (by simp [hup, hm])

/-- A vector that is pending and not masked of its own. -/
def Link.goes (x : Link) (v : Nat) : Prop := x.pba.getLsbD v = true ∧ (x.msix.getD v ⟨0, 0, true⟩).masked = false

theorem Dev.unmaskOne_of_stays {d : Dev} {l : Lk} {v : Nat} (h : (d.link l).fmask = true ∨ ¬(d.link l).goes v) :
    d.unmaskOne l v = d := by
  refine if_neg fun hc => ?_
  simp only [Bool.and_eq_true, Bool.not_eq_true'] at hc
  obtain ⟨⟨hp, hf⟩, hm⟩ := hc
  exact h.elim (fun h => absurd (h.symm.trans hf) (by decide)) fun h => h ⟨hp, hm⟩

/-- A link that has sent a pending vector. -/
def Link.sendVector (x : Link) (v : Nat) : Link := { x with
  pba := x.pba &&& ~~~(1#64 <<< v), pm := if x.pm = 1 then 0 else x.pm
  unacked := x.unacked ++ [⟨.msix, none, (x.msix.getD v ⟨0, 0, true⟩).addr, leBytes 4 (x.msix.getD v ⟨0, 0, true⟩).data.toNat⟩] }

theorem Dev.unmaskOne_of_goes {d : Dev} {l : Lk} {v : Nat} (hf : (d.link l).fmask = false) (h : (d.link l).goes v) :
    d.unmaskOne l v = d.modLink l fun x => x.sendVector v := by
  obtain ⟨hp, hm⟩ := h
  have hsend : (d.modLink l fun x => { x with pba := x.pba &&& ~~~(1#64 <<< v) }).msix l v =
      d.modLink l fun x => x.sendVector v := by
    simp only [Dev.msix, Dev.link_modLink_self, hf, hm, Bool.or_self, Bool.false_eq_true, if_false, Dev.send, Dev.modLink_modLink]
    exact d.modLink_congr l rfl
  rw [← hsend]
  exact if_pos (by rw [hp, hf, hm]; rfl)

/-- Once a vector has been sent, the others are as they were. -/
theorem Link.goes_sendVector {x : Link} {v w : Nat} (hne : w ≠ v) (hw : w < 64) : (x.sendVector v).goes w ↔ x.goes w := by
  have hbit : (x.sendVector v).pba.getLsbD w = x.pba.getLsbD w := by
    show (x.pba &&& ~~~(1#64 <<< v)).getLsbD w = _
    rw [BitVec.getLsbD_and, BitVec.getLsbD_not, getLsbD_bit hw, decide_eq_false hne, decide_eq_true hw]
    simp
  unfold Link.goes
  rw [hbit]
  rfl

theorem Dev.unmask_of_none {d : Dev} {l : Lk} (h : (d.link l).msixEn = false ∨ (d.link l).fmask = true ∨
    ∀ v, v < 64 → ¬(d.link l).goes v) : d.unmask l = d := by
  by_cases hc : ((d.link l).up && (d.link l).msixEn) = true
  · obtain ⟨hup, hm⟩ := Bool.and_eq_true_iff.1 hc
    rw [Dev.unmask_eq_foldl hup hm]
    refine foldl_of_fixed fun v hv => Dev.unmaskOne_of_stays ?_
    exact (h.resolve_left (by simp [hm])).imp_right fun h => h v (List.mem_range.1 hv)
  · exact if_neg hc

/-- The one vector that is pending is sent. -/
theorem Dev.unmask_of_one {d : Dev} {l : Lk} {v : Nat} (hv : v < 64) (hup : (d.link l).up = true) (hm : (d.link l).msixEn = true)
    (hf : (d.link l).fmask = false) (h : ∀ w, w < 64 → ((d.link l).goes w ↔ w = v)) :
    d.unmask l = d.modLink l fun x => x.sendVector v := by
  have hsends := Dev.unmaskOne_of_goes hf ((h v hv).2 rfl)
  rw [Dev.unmask_eq_foldl hup hm, ← hsends]
  refine foldl_of_only (List.mem_range.2 hv) List.nodup_range (fun w hw hne => Dev.unmaskOne_of_stays (.inr ?_))
    (fun w hw hne => ?_)
  · exact fun hgoes => hne ((h w (List.mem_range.1 hw)).1 hgoes)
  · rw [hsends]
    refine Dev.unmaskOne_of_stays (.inr fun hgoes => hne ((h w (List.mem_range.1 hw)).1 ?_))
    exact (Link.goes_sendVector hne (List.mem_range.1 hw)).1 (by simpa using hgoes)

/-! ### The commands -/

theorem Dev.setPerst_eq (d : Dev) (l : Lk) (v : Bool) :
    d.setPerst l v = d.modPins fun p => if l = .a then { p with perstA := v } else { p with perstB := v } := by
  cases l <;> rfl

/-- The three ways in which a link is lost (03:R74): with PERST, its function is reset too (02:R46). -/
theorem leaves_linkLoss {s : State} {l : Lk} {f : Nat → Dev} (h : ∀ cause, s.dev.linkLoss l cause = f cause) :
    leaves (.linkLost l false) s (f 0) ∧ leaves (.linkLost l true) s (f 1) ∧
      leaves (.perstAssert l) s (((f 2).modLink l Link.resetFunction).modPins fun p =>
        if l = .a then { p with perstA := true } else { p with perstB := true }) := by
  rw [← h, ← h, ← h]
  exact ⟨rfl, rfl, leaves_of rfl (Dev.setPerst_eq _ _ _)⟩

/-- What a link needs to train, and what it may come up with (03:R73). -/
def Dev.mayRise (d : Dev) (l : Lk) (width speed : Nat) : Prop :=
  4 ≤ d.boot.step ∧ d.pins.mainPower = true ∧ d.pins.inVigil = false ∧ (d.ridge (lkRidge l)).lost = false ∧
    (if l = .a then d.pins.perstA = false else d.pins.perstB = false) ∧ (d.link l).up = false ∧
    width ∈ [1, 2, 4, 8] ∧ 1 ≤ speed ∧ speed ≤ 5

theorem Dev.mayRise_iff (d : Dev) (l : Lk) (width speed : Nat) : d.mayRise l width speed ↔
    (d.trains l && !(d.link l).up && [1, 2, 4, 8].contains width && decide (1 ≤ speed ∧ speed ≤ 5)) = true := by
  cases l <;> simp [Dev.mayRise, Dev.trains, and_assoc]

theorem leaves_linkUp_same {s : State} {l : Lk} {width speed : Nat} (h : ¬s.dev.mayRise l width speed) :
    leaves (.linkUp l width speed) s s.dev :=
  leaves_of rfl (if_neg ((not_congr (Dev.mayRise_iff _ _ _ _)).1 h))

theorem leaves_linkUp {s : State} {l : Lk} {width speed : Nat} (h : s.dev.mayRise l width speed) :
    leaves (.linkUp l width speed) s (((((s.dev.risen l width speed).unmask l).linkServes l).govern).mqResume) :=
  leaves_of rfl (if_pos ((Dev.mayRise_iff _ _ _ _).1 h))

theorem leaves_bmeCleared {s : State} {l : Lk} {e : Dev} (h : s.dev.bmeOff l = e) : leaves (.bmeCleared l) s e := leaves_of rfl h

theorem Dev.bmeOff_of_clear {d : Dev} {l : Lk} (h : (d.link l).bme = false) : d.bmeOff l = d := by
  simp [Dev.bmeOff, h]

section
variable {s : State} {l : Lk}

theorem leaves_bmeSet_down (h : (s.dev.link l).up = false) : leaves (.bmeSet l) s s.dev :=
  leaves_of rfl (if_neg (by simp [h]))

theorem leaves_configurationWrite_down (h : (s.dev.link l).up = false) (p m k : Bool) :
    leaves (.configurationWrite l p m k) s s.dev :=
  leaves_of rfl (if_neg (by simp [h]))

theorem leaves_linkEntersL1_down (h : (s.dev.link l).up = false) : leaves (.linkEntersL1 l) s s.dev :=
  leaves_of rfl (if_neg (by simp [h]))

theorem leaves_linkEntersL1_busy (h : (s.dev.link l).pm ≠ 0 ∨ (s.dev.link l).unacked ≠ []) : leaves (.linkEntersL1 l) s s.dev := by
  refine leaves_of rfl (if_neg fun hc => ?_)
  simp only [Bool.and_eq_true, beq_iff_eq, List.isEmpty_iff] at hc
  exact h.elim (fun h => h hc.1.2) fun h => h hc.2

variable (hup : (s.dev.link l).up = true)
include hup

theorem leaves_linkEntersL1 (hpm : (s.dev.link l).pm = 0) (hu : (s.dev.link l).unacked = []) :
    leaves (.linkEntersL1 l) s (s.dev.modLink l fun x => { x with pm := 1 }).govern :=
  leaves_of rfl (if_pos (by simp [hup, hpm, hu]))

theorem leaves_bmeSet :
    let c := s.dev.modLink l fun x => { x with bme := true }
    leaves (.bmeSet l) s (((c.usedSeams.filter fun m => (c.seam m).entry.binds l).foldl
      (fun d m => (d.releaseHeld m).fetchSeam m) c).mqResume) := by
  intro c
  have hserves : c.linkServes l = (c.seamsWhere fun e => e.binds l).foldl (fun d m => (d.releaseHeld m).fetchSeam m) c :=
    if_pos (by simp [c, Link.carries, hup])
  exact leaves_of rfl ((if_pos hup).trans (congrArg Dev.mqResume hserves))

theorem leaves_configurationWrite (p m k : Bool) : leaves (.configurationWrite l p m k) s
    ((s.dev.modLink l fun x => { x with pasidEn := p, msixEn := m, fmask := k }).unmask l) :=
  leaves_of rfl (if_pos hup)

end

end Sys2Proof.Machine

open Sys2Proof Machine Claims

/-- What a lost or risen link does. -/
theorem Sys2Proof.Claims.linksAreLostAndRise : Claims.LinksAreLostAndRise := by
  intro s l d x o down perst reset bound lost quiet elsewhere
  have hlost : ∀ f : Dev → Dev, (∀ cause, d.linkLoss l cause = f (d.linkDown l cause)) → lost f := fun f h =>
    leaves_linkLoss (f := fun cause => f (d.linkDown l cause)) h
  clear_value lost
  refine ⟨fun hdown => ?down, leaves_of rfl (Dev.setPerst_eq _ _ _), fun hup hquiet => ⟨fun hb he => ?unbound,
    fun hb he hc => ?here, fun hb he hou hob hop => ?dual, fun m he hb hlone hactive hused hj hq => ?lone⟩,
    fun width speed => ⟨leaves_linkUp_same, leaves_linkUp, fun hmay hbme hmsix hheld hmq => ?rises⟩,
    fun m k hk hs hp => Dev.releaseHeld_sends hk hs hp⟩
  case down => exact leaves_linkLoss (f := fun _ => d) fun cause => Dev.linkLoss_of_down hdown cause
  case unbound =>
    refine hlost id fun cause => ?_
    rw [Dev.linkLoss_of_unbound hup hb hquiet, Dev.mqLinkLost_of_elsewhere (by simpa using he)]
    rfl
  case here =>
    refine hlost _ fun cause => ?_
    have hhere : lkOf d.mq.link = l := (eq_or_eq_lkOther _ l).resolve_right he
    rw [Dev.linkLoss_of_unbound hup hb hquiet, Dev.mqLinkLost_of_here (by simpa using hhere) (by simpa using hc)]
  case dual =>
    intro mine
    refine hlost _ fun cause => ?_
    have hcarries : (d.link (lkOther l)).carries = true := Bool.and_eq_true_iff.2 ⟨hou, hob⟩
    rw [Dev.linkLoss_of_no_lone hup hb hquiet (.inr ⟨hcarries, hop⟩), Dev.mqLinkLost_of_elsewhere (by simpa using he)]
    rfl
  case lone =>
    intro n
    refine hlost _ fun cause => ?_
    rw [Dev.linkLoss_of_lone hup hquiet hb hlone hactive hused hj hq,
      Dev.mqLinkLost_of_elsewhere (by simpa [Dev.faultLone] using he)]
    rfl
  case rises =>
    have hrise := leaves_linkUp hmay
    rw [Dev.risen_idle hbme hmsix hheld hmq] at hrise
    exact hrise

/-- What the host sets in a link's function. -/
theorem Sys2Proof.Claims.linkSettings : Claims.LinkSettings := by
  intro s l d x o
  refine ⟨fun h => leaves_bmeCleared (Dev.bmeOff_of_clear h), fun hbme hquiet hou hob hop hlive => ?cleared,
    fun h => ⟨leaves_bmeSet_down h, leaves_configurationWrite_down h, leaves_linkEntersL1_down h⟩,
    fun h => ⟨leaves_bmeSet h, leaves_linkEntersL1 h, leaves_linkEntersL1_busy⟩, fun pasid msix masked hup => ⟨fun h => ?stays,
      fun v hv hm hk hgoes => ?sends⟩⟩
  case cleared =>
    intro dual mine
    have hcarries : (d.link (lkOther l)).carries = true := Bool.and_eq_true_iff.2 ⟨hou, hob⟩
    refine leaves_bmeCleared ((Dev.bmeOff_of_other hbme hquiet hcarries hop hlive).trans ?_)
    rw [← Dev.modLink_comm, Dev.bmeOut, ← Dev.raise_modLink, Dev.modLink_modLink]
    rfl
  case stays =>
    have hset := leaves_configurationWrite (s := s) hup pasid msix masked
    rw [Dev.unmask_of_none (by rw [Dev.link_modLink_self]; exact h)] at hset
    exact hset
  case sends =>
    have hset := leaves_configurationWrite (s := s) hup pasid msix masked
    rw [Dev.unmask_of_one hv (by simpa using hup) (by simpa using hm) (by simpa using hk)
      (by rw [Dev.link_modLink_self]; exact hgoes)] at hset
    refine (congrArg (leaves (.configurationWrite l pasid msix masked) s) ?_).mp hset
    exact Dev.modLink_congr _ l (by rw [Dev.link_modLink_self]; rfl)

/-- Settles O40: links that are lost and rise, and what the host sets in their functions. -/
theorem Sys2Proof.linksComeAndGo : Obligations.LinksComeAndGo := ⟨Claims.linksAreLostAndRise, Claims.linkSettings⟩
end

section
/-! ## The power-up (02:R36, R43 to R45, R49, 12:R289) -/

namespace Sys2Proof.Machine

/-! ### What starting ridges and sources leaves: fuses, the ridges that are lost, the spine keys -/

/-- What of a ridge the start of engines and sources does not touch. -/
def Ridge.keyPart (x : Ridge) : Bool × Option Nat := (x.lost, x.spine.key)

/-- The fuses, and of each ridge whether it is lost and its spine key. -/
def Dev.keyPart (d : Dev) : Fuses × List (Bool × Option Nat) := (d.fuses, d.ridges.map Ridge.keyPart)

theorem Dev.ridge_keyPart (d : Dev) (r : Nat) : (d.ridge r).keyPart = d.keyPart.2.getD r (false, none) := by
  cases h : d.ridges[r]? <;> simp [Dev.keyPart, Dev.ridge, List.getD, h, Ridge.keyPart, Ridge.reset, SpinePort.reset]

section
variable {d e : Dev} (h : d.keyPart = e.keyPart)
include h

theorem Dev.fuses_of_keyPart : d.fuses = e.fuses := congrArg Prod.fst h

theorem Dev.length_of_keyPart : d.ridges.length = e.ridges.length := by
  simpa [Dev.keyPart] using congrArg (fun p => p.2.length) h

theorem Dev.ridge_of_keyPart (r : Nat) : (d.ridge r).keyPart = (e.ridge r).keyPart := by
  rw [d.ridge_keyPart, e.ridge_keyPart, h]

end

theorem Dev.keyPart_of_quiet {d e : Dev} (h : d.quiet = e.quiet) : d.keyPart = e.keyPart := by
  have hq : ∀ d : Dev, d.quiet.keyPart = d.keyPart := fun d => by simp [Dev.keyPart, Dev.quiet, Ridge.keyPart, Ridge.quiet]
  rw [← hq d, ← hq e, h]

theorem Dev.modRidge_keyPart {f : Ridge → Ridge} (h : ∀ x, (f x).keyPart = x.keyPart) (d : Dev) (r : Nat) :
    (d.modRidge r f).keyPart = d.keyPart := by
  simp [Dev.keyPart, Dev.modRidge, map_modify_of_same h]

theorem Dev.modBoot_keyPart (d : Dev) (f : Boot → Boot) : (d.modBoot f).keyPart = d.keyPart := rfl

theorem Dev.modRng_keyPart (d : Dev) (r : Nat) (f : Rng → Rng) : (d.modRng r f).keyPart = d.keyPart := by
  refine Dev.modRidge_keyPart ?_ d r
  exact fun _ => rfl

theorem Dev.ridgeEvent_keyPart (d : Dev) (r off x : Nat) (s : Option Nat) : (d.ridgeEvent r off x s).keyPart = d.keyPart :=
  Dev.keyPart_of_quiet (d.ridgeEvent_quiet r off x s)

theorem Dev.pkgEvent_keyPart (d : Dev) (id x : Nat) (s : Option Nat) : (d.pkgEvent id x s).keyPart = d.keyPart :=
  Dev.keyPart_of_quiet (d.pkgEvent_quiet id x s)

/-! #### The writer -/

theorem Dev.modLink_keyPart (d : Dev) (l : Lk) (f : Link → Link) : (d.modLink l f).keyPart = d.keyPart := by
  cases l <;> rfl

theorem Dev.msix_keyPart (d : Dev) (l : Lk) (v : Nat) : (d.msix l v).keyPart = d.keyPart := by
  simp only [Dev.msix, Dev.send]
  split <;> exact Dev.modLink_keyPart _ _ _

theorem Dev.vector_keyPart (d : Dev) (l : Lk) (v : Nat) : (d.vector l v).keyPart = d.keyPart := by
  unfold Dev.vector
  split
  · exact Dev.msix_keyPart _ _ _
  · rfl

theorem Dev.writeEvent_keyPart (d : Dev) (e : Event) : (d.writeEvent e).keyPart = d.keyPart := by
  simp only [Dev.writeEvent, Dev.afterRecord]
  split
  · exact (Dev.vector_keyPart _ _ _).trans rfl
  · rfl

theorem Dev.passEvent_keyPart (d : Dev) (src : Option Nat) : (d.passEvent src).keyPart = d.keyPart := by
  cases src with
  | none =>
    simp only [Dev.passEvent]
    split
    · rfl
    split
    · rfl
    · exact (Dev.writeEvent_keyPart _ _).trans rfl
  | some r =>
    simp only [Dev.passEvent]
    split
    · rfl
    split
    · rfl
    split
    · rfl
    next e q n _ =>
      refine (Dev.writeEvent_keyPart _ _).trans ?_
      refine Eq.trans rfl (Dev.modRidge_keyPart (f := fun y => { y with events := q }) ?_ d r)
      exact fun _ => rfl

theorem Dev.flushEvents_keyPart (d : Dev) (src : Option Nat) : (d.flushEvents src).keyPart = d.keyPart := by
  have hpass : ∀ n (d : Dev), (d.passEvents src n).keyPart = d.keyPart := by
    intro n
    induction n with
    | zero => exact fun _ => rfl
    | succ n ih => exact fun d => (ih _).trans (d.passEvent_keyPart src)
  exact hpass _ d

/-! #### Ridges -/

theorem Dev.bootRidge_keyPart (d : Dev) (f : BootFacts) (r : Nat) : (d.bootRidge f r).keyPart = d.keyPart := by
  have hlogged : ∀ (d : Dev) (c s : Nat) (m : BitVec 384) (l : List Nat),
      (l.foldl (fun d b => d.ridgeEvent r 16 (b + 2 * 256)) (d.addMLog r c s m)).keyPart = d.keyPart := fun d c s m l => by
    refine (foldl_same Dev.keyPart (fun d b => d.ridgeEvent_keyPart _ _ _ _) l _).trans ?_
    refine Dev.modRidge_keyPart ?_ d r
    exact fun _ => rfl
  simp only [Dev.bootRidge]
  split
  · refine (Dev.pkgEvent_keyPart _ _ _ _).trans ((Dev.modBoot_keyPart _ _).trans
      ((Dev.modRidge_keyPart ?_ _ r).trans ((hlogged _ _ _ _ _).trans ?_)))
    · exact fun _ => rfl
    · refine Eq.trans rfl (Dev.modRidge_keyPart ?_ d.draw.2 r)
      exact fun _ => rfl
  · refine (hlogged _ _ _ _ _).trans ?_
    refine Eq.trans rfl (Dev.modRidge_keyPart ?_ d.draw.2 r)
    exact fun _ => rfl

theorem Dev.bootRidges_keyPart (d : Dev) (f : BootFacts) : (d.bootRidges f).keyPart = d.keyPart := by
  unfold Dev.bootRidges
  split
  · rfl
  next slot _ =>
    have hflushed := ((d.modBoot fun b => { b with romHold := false, slot := slot, step := 5 }).flushEvents_keyPart none)
    refine Eq.trans ?_ (hflushed.trans rfl)
    refine Eq.trans rfl (foldl_same Dev.keyPart (fun d r => ?_) _ _)
    exact d.bootRidge_keyPart f r

/-! #### Sources -/

theorem Dev.rngStep_keyPart (d : Dev) (r : Nat) (f : Rng → Rng) : (d.rngStep r f).keyPart = d.keyPart := by
  have hone : ∀ (d : Dev) (p q : Prop) [Decidable p] [Decidable q] (m n : Nat),
      (if p then d.ridgeEvent r 63 m else if q then d.ridgeEvent r 63 n else d).keyPart = d.keyPart := by
    intro d p q _ _ m n
    split_ifs <;> simp [Dev.ridgeEvent_keyPart]
  exact ((hone _ _ _ _ _).trans (hone _ _ _ _ _)).trans (d.modRng_keyPart r f)

theorem Dev.generate_keyPart (d : Dev) (r : Nat) (host : Bool) (n : Nat) : (d.generate r host n).keyPart = d.keyPart :=
  (Dev.rngStep_keyPart _ _ _).trans (Dev.rngStep_keyPart _ _ _)

theorem Dev.modSrc_keyPart (d : Dev) (r n : Nat) (f : Source → Source) : (d.modSrc r n f).keyPart = d.keyPart := d.modRng_keyPart r _

theorem Dev.sourceFails_keyPart (d : Dev) (r n : Nat) : (d.sourceFails r n).keyPart = d.keyPart := by
  unfold Dev.sourceFails
  split
  · exact (Dev.ridgeEvent_keyPart _ _ _ _ _).trans (d.modSrc_keyPart r n _)
  · exact d.modSrc_keyPart r n _

theorem Dev.bootSource_keyPart (d : Dev) (f : BootFacts) (r n : Nat) : (d.bootSource f r n).keyPart = d.keyPart := by
  have hcalibrate : (d.calibrate r n).keyPart = d.keyPart := (Dev.modSrc_keyPart _ _ _ _).trans rfl
  simp only [Dev.bootSource]
  split
  · rw [Dev.sourceFails_keyPart, Dev.ridgeEvent_keyPart, Dev.modSrc_keyPart, hcalibrate]
  · rw [Dev.modSrc_keyPart, hcalibrate]

theorem Dev.refillBuf_keyPart (d : Dev) (r : Nat) : (d.refillBuf r).keyPart = d.keyPart := by
  simp only [Dev.refillBuf, Dev.draw]
  split
  · rw [Dev.modRng_keyPart, Dev.generate_keyPart]
    rfl
  · rfl

theorem Dev.bootEntropy_keyPart (d : Dev) (f : BootFacts) (r : Nat) : (d.bootEntropy f r).keyPart = d.keyPart := by
  simp only [Dev.bootEntropy, Dev.draw]
  split
  · rfl
  have hsources : ((d.bootSource f r 0).bootSource f r 1).keyPart = d.keyPart := by
    rw [Dev.bootSource_keyPart, Dev.bootSource_keyPart]
  split
  · rw [Dev.refillBuf_keyPart, Dev.modRng_keyPart]
    exact hsources
  · exact hsources

theorem Dev.takeSeed_keyPart (d : Dev) (r g : Nat) : (d.takeSeed r g).keyPart = d.keyPart := by
  have hsend : (if d.keyed then d.spineSend g r else d).keyPart = d.keyPart := by
    unfold Dev.spineSend
    split_ifs
    · rfl
    · refine Dev.modRidge_keyPart ?_ d g
      exact fun _ => rfl
    · rfl
  simp only [Dev.takeSeed]
  split
  · split
    · rw [Dev.ridgeEvent_keyPart, Dev.ridgeEvent_keyPart, Dev.rngStep_keyPart, Dev.modRng_keyPart, hsend]
    · rfl
  · rfl

theorem Dev.bootSeed_keyPart (d : Dev) (r : Nat) : (d.bootSeed r).keyPart = d.keyPart := by
  have hask : (d.askSeed r).keyPart = d.keyPart := by
    unfold Dev.askSeed
    split
    · rfl
    split
    · exact Dev.modRng_keyPart _ _ _
    · rfl
  simp only [Dev.bootSeed]
  split
  · split
    · rw [Dev.takeSeed_keyPart, hask]
    · exact hask
  · rfl

theorem Dev.bootSources_keyPart (d : Dev) (f : BootFacts) : (d.bootSources f).keyPart = d.keyPart := by
  refine (Dev.bootSeed_keyPart _ 0).trans ?_
  refine foldl_same Dev.keyPart (fun d r => ?_) _ _
  exact d.bootEntropy_keyPart f r

/-! ### The spine key (01:R20, 12:R289) -/

/-- A ridge whose spine port holds a spine key. -/
def Ridge.withKey (k : Nat) (x : Ridge) : Ridge := { x with spine := { x.spine with key := some k } }

/-- Every ridge that is not lost takes the same key: each opens what was wrapped for it. -/
theorem Dev.deliverKey_eq (d : Dev) (k : Nat) : d.deliverKey k =
    (d.ridgeNums.filter fun r => !(d.ridge r).lost).foldl (fun d r => if True then d.modRidge r (Ridge.withKey k) else d) d := by
  simp only [Dev.deliverKey, Dev.wrapKey, WrappedKey.openAt, if_true]
  rfl

theorem Dev.key_deliverKey {d : Dev} {r : Nat} (hp : d.populated r = true) (hr : r < d.ridges.length)
    (hlost : (d.ridge r).lost = false) (k : Nat) : ((d.deliverKey k).ridge r).spine.key = some k := by
  have hmem : r ∈ d.ridgeNums.filter fun r => !(d.ridge r).lost :=
    List.mem_filter.2 ⟨List.mem_range.2 (of_decide_eq_true hp), by simp [hlost]⟩
  have hnodup : (d.ridgeNums.filter fun r => !(d.ridge r).lost).Nodup := List.nodup_range.filter _
  rw [Dev.deliverKey_eq, Dev.ridge_foldl_modRidge (fun _ => True) (fun _ => Ridge.withKey k) hnodup d hr, if_pos ⟨hmem, trivial⟩]
  rfl

/-- The device once the spine key has been drawn and delivered (12:R289). -/
def Dev.keyDelivered (e : Dev) : Dev := (e.draw.2.generate e.draw.2.boss false 1).deliverKey e.draws

theorem Dev.bootKey_eq {e : Dev} (hseeded : (e.ridge e.boss).rng.int.state ≠ 0) : e.bootKey =
    (e.keyDelivered.ridgeNums.foldl (fun d r => d.bootSeed r) e.keyDelivered).modBoot fun b => { b with step := 8 } := by
  rw [Dev.bootKey, if_neg hseeded]
  rfl

/-- The spine key is the draw of the step that makes it (12:R289). -/
theorem Dev.key_bootKey {e : Dev} (hseeded : (e.ridge e.boss).rng.int.state ≠ 0) {r : Nat} (hp : e.populated r = true)
    (hr : r < e.ridges.length) (hlost : (e.ridge r).lost = false) : (e.bootKey.ridge r).spine.key = some e.draws := by
  have hdrawn : (e.draw.2.generate e.draw.2.boss false 1).keyPart = e.keyPart := Dev.generate_keyPart _ _ _ _
  have hbooted : e.bootKey.keyPart = e.keyDelivered.keyPart := by
    rw [Dev.bootKey_eq hseeded, Dev.modBoot_keyPart]
    refine foldl_same Dev.keyPart (fun d r => ?_) _ _
    exact d.bootSeed_keyPart r
  rw [Dev.keyDelivered] at hbooted
  generalize e.draw.2.generate e.draw.2.boss false 1 = g at hdrawn hbooted
  have hpg : g.populated r = true := by rwa [Dev.populated, Dev.fuses_of_keyPart hdrawn]
  have hrg : r < g.ridges.length := by rwa [Dev.length_of_keyPart hdrawn]
  have hlostg : (g.ridge r).lost = false := (congrArg Prod.fst (Dev.ridge_of_keyPart hdrawn r)).trans hlost
  exact (congrArg Prod.snd (Dev.ridge_of_keyPart hbooted r)).trans (Dev.key_deliverKey hpg hrg hlostg _)

/-! ### Step 9 (13:R313) -/

theorem Dev.mergeVigilLog_log (d : Dev) : d.mergeVigilLog.vigil.log = [] := by
  simp only [Dev.mergeVigilLog]
  split <;> rfl

/-- The power-up goes on from the spine key to the end of step 9. -/
theorem Dev.bootEnd_of_seeded {e : Dev} (f : BootFacts) (hseeded : (e.ridge e.boss).rng.int.state ≠ 0) :
    (e.bootEnd f).boot.step = 9 ∧ (e.bootEnd f).vigil.log = [] := by
  have hstep : e.bootKey.boot.step = 8 := by
    rw [Dev.bootKey_eq hseeded]
    rfl
  simp only [Dev.bootEnd, hstep, if_true]
  exact ⟨rfl, Dev.mergeVigilLog_log _⟩

/-- Without entropy for the spine key the sequence waits. -/
theorem Dev.bootEnd_of_unseeded {e : Dev} (f : BootFacts) (hunseeded : (e.ridge e.boss).rng.int.state = 0)
    (hstep : e.boot.step = 7) : e.bootEnd f = e := by
  have hkey : e.bootKey = e := by rw [Dev.bootKey, if_pos hunseeded]
  rw [Dev.bootEnd, hkey]
  exact if_neg (by simp [hstep])

/-! ### From step 4 (02:R43, R45) -/

section
variable {d : Dev} (f : BootFacts) (hcut : d.pins.cut = false) (hstep : d.boot.step = 4) (hheld : d.boot.romHold = false)
  (hpfw : d.pins.pfwLow = false) (hmain : d.pins.mainPower = true)
include hcut hstep hheld hpfw hmain

theorem Dev.powerUp_of_step4 : d.powerUp f =
    if (d.bootRidges f).boot.step = 7 then ((d.bootRidges f).bootSources f).bootEnd f else d.bootRidges f := by
  simp [Dev.powerUp, hcut, hstep, hheld, hpfw, hmain]

theorem Dev.powerUp_of_slot {n : Nat} (hslot : d.bootSlot f = some n) :
    d.powerUp f = ((d.bootRidges f).bootSources f).bootEnd f := by
  rw [d.powerUp_of_step4 f hcut hstep hheld hpfw hmain, if_pos]
  rw [Dev.bootRidges, hslot]
  rfl

/-- Without a valid image ridge 0 holds in its boot ROM (02:R45). -/
theorem Dev.powerUp_of_no_image (himage : f.imageOk = (false, false)) :
    d.powerUp f = d.modBoot fun b => { b with romHold := true } := by
  have hboots : ∀ n, d.slotBoots n f = false := fun n => by simp [Dev.slotBoots, himage]
  have hslot : d.bootSlot f = none := List.find?_eq_none.2 fun n _ => by simp [hboots n]
  rw [d.powerUp_of_step4 f hcut hstep hheld hpfw hmain, Dev.bootRidges, hslot]
  exact if_neg (by simp [Dev.modBoot, hstep])

end

/-! ### A ridge that passes its tests (02:R49, 11:R259) -/

/-- A ridge that has started, but for its measurement log and events. -/
structure Ridge.Started (f : BootFacts) (x y : Ridge) : Prop where
  inService : y.inService = true
  power : y.power = 2
  meas : y.world.meas = f.measured
  expected : y.world.expected = f.measured
  line : y.world.line = .of 128
  engines : y.engines = List.replicate 33 { Engine.reset with inService := true }
  deep : y.cores.map (·.deep) = x.cores.mapIdx fun c _ => c == 0

theorem Ridge.Started.logged {f : BootFacts} {x y : Ridge} (h : Ridge.Started f x y) (l : List MLog) (n : BitVec 32) :
    Ridge.Started f x { y with world := { y.world with mlog := l, mlogNext := n } } :=
  ⟨h.inService, h.power, h.meas, h.expected, h.line, h.engines, h.deep⟩

theorem Ridge.Started.drawn {f : BootFacts} {d : Dev} {r : Nat} {x : Ridge} {g : Ridge → Ridge} (hr : r < d.ridges.length)
    (h : Ridge.Started f x (g (d.ridge r))) (n : Nat) : Ridge.Started f x (({ d.modRidge r g with draws := n } : Dev).ridge r) := by
  have hridge : ({ d.modRidge r g with draws := n } : Dev).ridge r = (d.modRidge r g).ridge r := rfl
  rwa [hridge, Dev.ridge_modRidge_self _ _ _ hr]

theorem Dev.bootRidge_started (d : Dev) {f : BootFacts} {r : Nat} (hr : r < d.ridges.length)
    (hmeas : f.measDiffers = []) (hkat : f.katFails = []) : Ridge.Started f (d.ridge r) ((d.bootRidge f r).ridge r) := by
  have hblocks : ∀ c : EClass, ∃ b, b ∈ c.blocks := fun c => by cases c <;> exact ⟨_, List.mem_cons_self⟩
  have hholds : bootHolds f r = false := by simp [bootHolds, hmeas, hkat, hblocks]
  have hfails : (List.range 33).filter (fun b => f.katFails.contains (r, b)) = [] := by simp [hkat]
  simp only [Dev.bootRidge, hfails, hholds, hmeas, List.foldl_nil, Dev.addMLog, Dev.modWorld]
  rw [if_neg Bool.false_ne_true, Dev.ridge_modRidge_self _ _ _ (by simpa [Dev.draw] using hr)]
  refine Ridge.Started.logged (Ridge.Started.drawn hr ?_ _) _ _
  refine ⟨rfl, rfl, by simp, rfl, rfl, ?_, ?_⟩
  · simp [List.map_const']
  · exact List.ext_getElem? fun i => by simp [Function.comp_def]

/-! ### Steps 1 to 3 (02:R35, 13:R307) -/

/-- The highest of the classes that stand latched in the Vigil log or held (13:R307). -/
def Dev.latchedClass (d : Dev) : BitVec 2 := highest (d.vigil.log.map (·.cls) ++ d.pins.held.map (·.2))

/-- What step 3 reads: the supplies as they have come back, and what the Vigil domain held. -/
structure Dev.Watched (d e : Dev) : Prop where
  pins : e.pins = { d.pins with mainPower := true, porLow := false, inVigil := false, cut := false }
  boot : e.boot = d.boot
  current : e.vigil.current = d.vigil.current
  log : e.vigil.log = d.vigil.log
  modeCopy : e.modeCopy = d.modeCopy

theorem Dev.Watched.supplied {d e : Dev} (h : d.Watched e) : d.Watched ((e.clearSource 19).markSupply 19 true) :=
  ⟨h.pins, h.boot, h.current, h.log, h.modeCopy⟩

theorem Dev.Watched.unlit {d e : Dev} (h : d.Watched e) (f : Tamp → Tamp) (g : Ridge → Ridge) :
    d.Watched ((e.modTamp f).modRidges g) := ⟨h.pins, h.boot, h.current, h.log, h.modeCopy⟩

/-- Step 3 acts on a class (13:R307). -/
def Dev.judge (e : Dev) (was : Bool) (cls : BitVec 2) : Dev :=
  { (if 2 ≤ cls.toNat then e.eraseVsalt.driveOut else if cls = 1 && e.tamp.outOnL.val == 1 then e.driveOut else e) with
    lastMode := { e.readLast was with latched := cls != 0 } }.modPins fun p => { p with held := [] }

theorem Dev.bootVigil_eq {d : Dev} {rec : ModeRec} (hrec : d.vigil.current = some rec) :
    ∃ e, d.Watched e ∧ d.bootVigil true = (e.judge d.pins.inVigil d.latchedClass, d.latchedClass) := by
  unfold Dev.bootVigil
  extract_lets was d₁ d₂ d₃ d₄ d₅ cls read last d₆ d₇ d₈
  have h₃ : d.Watched d₃ := ⟨rfl, rfl, rfl, rfl, rfl⟩
  have h₄ : d.Watched d₄ := by
    simp only [d₄]
    split
    · exact h₃.unlit _ _
    · exact h₃
  have h₅ : d.Watched d₅ := h₄.supplied
  have hcur : d₅.vigil.current = some rec := h₅.current.trans hrec
  have hcls : cls = d.latchedClass := by simp only [cls, h₅.pins, h₅.log, Dev.latchedClass]
  have h₆ : d₆ = d₅ := by simp only [d₆, hcur]
  have h₇ : d₇ = d₅ := by
    simp only [d₇, h₆, hcur]
    rfl
  refine ⟨d₅, h₅, ?_⟩
  simp only [d₈, h₇, last, read, hcls]
  rfl

/-- What steps 1 to 3 leave, with the class that they answer. -/
structure Dev.Judged (d e : Dev) (cls : BitVec 2) : Prop where
  inVigil : e.pins.inVigil = false
  mainPower : e.pins.mainPower = true
  pfwLow : e.pins.pfwLow = d.pins.pfwLow
  boot : e.boot = d.boot
  current : e.vigil.current = d.vigil.current
  modeCopy : e.modeCopy = d.modeCopy
  latched : e.lastMode.latched = (cls != 0)
  cause : d.vigil.current.isSome → e.lastMode.cause = if d.pins.inVigil = true then 1 else 2
  vsalt : 2 ≤ cls.toNat → e.vigil.vsalt = none

theorem Dev.Watched.judged {d e : Dev} (h : d.Watched e) (cls : BitVec 2) : d.Judged (e.judge d.pins.inVigil cls) cls := by
  have hkept : (e.judge d.pins.inVigil cls).pins.inVigil = e.pins.inVigil ∧
      (e.judge d.pins.inVigil cls).pins.mainPower = e.pins.mainPower ∧
      (e.judge d.pins.inVigil cls).pins.pfwLow = e.pins.pfwLow ∧ (e.judge d.pins.inVigil cls).boot = e.boot ∧
      (e.judge d.pins.inVigil cls).vigil.current = e.vigil.current ∧ (e.judge d.pins.inVigil cls).modeCopy = e.modeCopy := by
    unfold Dev.judge
    split_ifs <;> exact ⟨rfl, rfl, rfl, rfl, rfl, rfl⟩
  obtain ⟨hv, hm, hp, hb, hc, hcopy⟩ := hkept
  constructor
  case inVigil => rw [hv, h.pins]
  case mainPower => rw [hm, h.pins]
  case pfwLow => rw [hp, h.pins]
  case boot => exact hb.trans h.boot
  case current => exact hc.trans h.current
  case modeCopy => exact hcopy.trans h.modeCopy
  case latched => rfl
  case cause =>
    intro hsome
    obtain ⟨rec, hrec⟩ := Option.isSome_iff_exists.1 hsome
    have hread : (e.judge d.pins.inVigil cls).lastMode.cause = (e.readLast d.pins.inVigil).cause := rfl
    simp only [hread, Dev.readLast, h.current, hrec]
    cases d.pins.inVigil <;> rfl
  case vsalt =>
    intro hz
    unfold Dev.judge
    rw [if_pos hz]
    rfl

/-! ### Step 4 (02:R36, R44) -/

/-- The mode record once the mode has been resolved: its copy agrees. -/
theorem Dev.setRecord_eq {d : Dev} {r : ModeRec} (hrec : d.vigil.current = some r) (m : Mode) (prior : BitVec 3) (exported : Bool) :
    ∃ r' : ModeRec, r'.mode = m ∧ d.setRecord m prior exported =
      { d.modVigil (fun v => { v with current := some r', proposed := none, commit := false }) with modeCopy := some r' } := by
  simp only [Dev.setRecord, hrec]
  split
  next h =>
    refine ⟨r, h.1, ?_⟩
    simp only [Dev.modVigil, hrec]
  · exact ⟨⟨m, prior, exported, _⟩, rfl, rfl⟩

/-- Step 4: the mode record, DEV.MODE, and the start of a scrub. -/
def Dev.modeShown (d : Dev) (m : Mode) (prior : BitVec 3) (exported scrub : Bool) : Dev :=
  let d := (d.setRecord m prior exported).showMode m prior exported
  let d := if scrub then
      (d.eraseVsalt.modPins fun p => { p with zeroOut := true, firedamp := true }).modBoot fun b => { b with scrub := true }
    else d
  d.modBoot fun b => { b with step := 4 }

/-- An unfinished commissioning is discarded first. -/
def Dev.modeSet (d : Dev) (stored m : Mode) (prior : BitVec 3) (exported scrub : Bool) : Dev :=
  (if stored == .commission then d.discardCommission else d).modeShown m prior exported scrub

/-- What ends with a power-up: the open orders, the permit, EXTEST. -/
theorem Dev.close_still (d : Dev) : ((d.lapse fun _ => true).closePermit).closeExtest.still = d.still :=
  (Dev.closeExtest_still _).trans (Eq.trans rfl (d.lapse_still fun _ => true))

/-- Beside the mode step 4 only senses the fuses, ends orders and the permit, and records the change. -/
theorem Dev.bootMode_still {d : Dev} {rec : ModeRec} (hrec : d.vigil.current = some rec) (hcopy : d.modeCopy = some rec)
    (cls : BitVec 2) : ∃ exported, (d.bootMode cls).still =
      ((d.modTamp fun t => { t with fuseoff := .of d.fuses.off }).modeSet rec.mode (resolved rec.mode rec.prior cls false).1
        (resolved rec.mode rec.prior cls false).2.1 exported (resolved rec.mode rec.prior cls false).2.2).still := by
  have hraised : ∀ (p : Prop) [Decidable p] (d : Dev) (x : BitVec 32), (if p then d else d.raise none 32 0 x).still = d.still :=
    fun p _ d x => by split_ifs <;> rfl
  unfold Dev.bootMode
  extract_lets old d₁ lost fresh r agrees d₂
  have h : d₁.vigil.current = some rec := hrec
  have hc : d₁.modeCopy = some rec := hcopy
  have hlost : lost = false := by simp only [lost, h, Option.isNone_some]
  have hr : r = rec := by simp only [r, h, Option.getD_some]
  have hagrees : agrees = true := by simp only [agrees, Dev.copyAgrees, h, hc, beq_self_eq_true, Bool.true_or]
  rw [hlost, hagrees]
  simp only [d₂, hr]
  generalize resolved rec.mode rec.prior cls false = q
  obtain ⟨m, prior, scrub⟩ := q
  simp only [if_true]
  refine ⟨rec.exported && !false && (m == .freeze || (m == .locked && prior == 4)), (Dev.close_still _).trans ((hraised _ _ _).trans ?_)⟩
  rfl

/-- What step 4 leaves, when the mode is `m` with `prior`, the stored mode being `stored`. -/
structure Dev.Resolved (j t : Dev) (stored m : Mode) (prior : BitVec 3) (scrub : Bool) : Prop where
  step : t.boot.step = 4
  inVigil : t.pins.inVigil = j.pins.inVigil
  mainPower : t.pins.mainPower = j.pins.mainPower
  pfwLow : t.pins.pfwLow = j.pins.pfwLow
  proposed : t.vigil.proposed = none
  modeCopy : t.modeCopy = t.vigil.current
  current : t.vigil.current.map (·.mode) = some m
  live : t.live = m
  prior : t.prior.val = prior
  last : t.lastMode = j.lastMode
  vsalt : t.vigil.vsalt = if stored = .commission ∨ scrub = true then none else j.vigil.vsalt
  scrub : scrub = true → t.boot.scrub = true ∧ t.pins.firedamp = true

theorem Dev.Resolved.of_still {j t u : Dev} {stored m : Mode} {prior : BitVec 3} {scrub : Bool} (hs : t.still = u.still)
    (h : j.Resolved u stored m prior scrub) : j.Resolved t stored m prior scrub := by
  have hboot : t.boot = u.boot := (congrArg Dev.boot hs :)
  have hpins : t.pins = u.pins := (congrArg Dev.pins hs :)
  have hvigil : t.vigil = u.vigil := (congrArg Dev.vigil hs :)
  have hcopy : t.modeCopy = u.modeCopy := (congrArg Dev.modeCopy hs :)
  have hmode : t.mode = u.mode := (congrArg Dev.mode hs :)
  have hprior : t.prior = u.prior := (congrArg Dev.prior hs :)
  have hlast : t.lastMode = u.lastMode := (congrArg Dev.lastMode hs :)
  constructor
  case step => rw [hboot, h.step]
  case inVigil => rw [hpins, h.inVigil]
  case mainPower => rw [hpins, h.mainPower]
  case pfwLow => rw [hpins, h.pfwLow]
  case proposed => rw [hvigil, h.proposed]
  case modeCopy => rw [hcopy, hvigil, h.modeCopy]
  case current => rw [hvigil, h.current]
  case live => rw [Dev.live, hmode]; exact h.live
  case prior => rw [hprior, h.prior]
  case last => rw [hlast, h.last]
  case vsalt => rw [hvigil, h.vsalt]
  case scrub => rw [hboot, hpins]; exact h.scrub

theorem Dev.modeShown_resolved {j d : Dev} {stored : Mode} {rec : ModeRec} (hrec : d.vigil.current = some rec)
    (hpins : d.pins = j.pins) (hlast : d.lastMode = j.lastMode)
    (hvsalt : d.vigil.vsalt = if stored = .commission then none else j.vigil.vsalt) (m : Mode) (prior : BitVec 3)
    (exported scrub : Bool) : j.Resolved (d.modeShown m prior exported scrub) stored m prior scrub := by
  obtain ⟨r, hr, hset⟩ := Dev.setRecord_eq hrec m prior exported
  unfold Dev.modeShown
  rw [hset]
  have hlive : Mode.ofBits m.bits = m := m.ofBits_bits
  have hv : d.pins.inVigil = j.pins.inVigil := congrArg Pins.inVigil hpins
  have hm : d.pins.mainPower = j.pins.mainPower := congrArg Pins.mainPower hpins
  have hp : d.pins.pfwLow = j.pins.pfwLow := congrArg Pins.pfwLow hpins
  have hcur : (some r).map (·.mode) = some m := congrArg some hr
  cases scrub with
  | false => exact ⟨rfl, hv, hm, hp, rfl, rfl, hcur, hlive, rfl, hlast, hvsalt.trans (by simp), fun h => nomatch h⟩
  | true => exact ⟨rfl, hv, hm, hp, rfl, rfl, hcur, hlive, rfl, hlast, (if_pos (.inr rfl)).symm, fun _ => ⟨rfl, rfl⟩⟩

theorem Dev.modeSet_resolved {d : Dev} {rec : ModeRec} (hrec : d.vigil.current = some rec) (m : Mode)
    (prior : BitVec 3) (exported scrub : Bool) :
    d.Resolved (d.modeSet rec.mode m prior exported scrub) rec.mode m prior scrub := by
  unfold Dev.modeSet
  by_cases hcom : rec.mode = .commission
  · rw [if_pos (by simp [hcom])]
    exact Dev.modeShown_resolved (j := d) (d := d.discardCommission) hrec rfl rfl (by rw [if_pos hcom]; rfl) m prior exported scrub
  · rw [if_neg (by simp [hcom])]
    exact Dev.modeShown_resolved hrec rfl rfl (by rw [if_neg hcom]) m prior exported scrub

theorem Dev.bootMode_resolved {d : Dev} {rec : ModeRec} (hrec : d.vigil.current = some rec) (hcopy : d.modeCopy = some rec)
    (cls : BitVec 2) : d.Resolved (d.bootMode cls) rec.mode (resolved rec.mode rec.prior cls false).1
      (resolved rec.mode rec.prior cls false).2.1 (resolved rec.mode rec.prior cls false).2.2 := by
  obtain ⟨exported, hstill⟩ := Dev.bootMode_still hrec hcopy cls
  refine Dev.Resolved.of_still hstill ?_
  have h := Dev.modeSet_resolved (d := d.modTamp fun t => { t with fuseoff := .of d.fuses.off }) hrec
    (resolved rec.mode rec.prior cls false).1 (resolved rec.mode rec.prior cls false).2.1 exported
    (resolved rec.mode rec.prior cls false).2.2
  exact ⟨h.step, h.inVigil, h.mainPower, h.pfwLow, h.proposed, h.modeCopy, h.current, h.live, h.prior, h.last, h.vsalt, h.scrub⟩

/-! ### The power-up that PFW_N holds (02:Table 2.6, 16:R364) -/

theorem le_highest_iff {cs : List (BitVec 2)} {n : Nat} (hn : 0 < n) : n ≤ (highest cs).toNat ↔ ∃ c ∈ cs, n ≤ c.toNat := by
  obtain ⟨-, hall, hmem⟩ := highest_spec cs 0
  refine ⟨fun h => ?_, fun ⟨c, hc, hle⟩ => hle.trans (hall c hc)⟩
  rcases hmem with h0 | hmem
  · rw [show highest cs = 0 from h0] at h
    exact absurd h (Nat.not_le.2 hn)
  · exact ⟨_, hmem, h⟩

theorem Dev.le_latchedClass_iff (d : Dev) {n : Nat} (hn : 0 < n) : n ≤ d.latchedClass.toNat ↔ Claims.latched d n :=
  le_highest_iff hn

theorem Dev.latchedClass_ne_zero (d : Dev) :
    (d.latchedClass != 0) = decide (∃ c ∈ d.vigil.log.map (·.cls) ++ d.pins.held.map (·.2), c ≠ 0) := by
  have hpos : ∀ c : BitVec 2, c ≠ 0 ↔ 1 ≤ c.toNat := by decide
  have h : d.latchedClass ≠ 0 ↔ ∃ c ∈ d.vigil.log.map (·.cls) ++ d.pins.held.map (·.2), c ≠ 0 := by
    simp only [hpos]
    exact d.le_latchedClass_iff Nat.one_pos
  rw [Bool.eq_iff_iff, bne_iff_ne, decide_eq_true_iff]
  exact h

/-- POWER_UP from POR or VIGIL with PFW_N low: steps 1 to 4. -/
theorem Dev.powerUp_of_pfwLow {d : Dev} {f : BootFacts} {rec : ModeRec} (hcut : d.pins.cut = false) (hstep : d.boot.step = 0)
    (hpfw : d.pins.pfwLow = true) (hvhold : f.vholdOk = true) (hrec : d.vigil.current = some rec) (hcopy : d.modeCopy = some rec) :
    ∃ j, d.Judged j d.latchedClass ∧ d.powerUp f = j.bootMode d.latchedClass ∧
      j.Resolved (j.bootMode d.latchedClass) rec.mode (resolved rec.mode rec.prior d.latchedClass false).1
        (resolved rec.mode rec.prior d.latchedClass false).2.1 (resolved rec.mode rec.prior d.latchedClass false).2.2 := by
  obtain ⟨e, he, heq⟩ := Dev.bootVigil_eq hrec
  have hj := he.judged d.latchedClass
  have hr := Dev.bootMode_resolved (hj.current.trans hrec) (hj.modeCopy.trans hcopy) d.latchedClass
  refine ⟨_, hj, ?_, hr⟩
  have hlow : (Dev.bootMode (e.judge d.pins.inVigil d.latchedClass) d.latchedClass).pins.pfwLow = true :=
    hr.pfwLow.trans (hj.pfwLow.trans hpfw)
  simp [Dev.powerUp, hcut, hstep, hvhold, heq, hlow]

theorem class_one_iff : ∀ c : BitVec 2, ¬2 ≤ c.toNat → (c = 1 ↔ 1 ≤ c.toNat) := by decide

/-- Table 2.6 with the mode record present: what the mode, PRIOR, VSALT and the scrub become. -/
theorem Dev.Resolved.table {j t : Dev} {rec : ModeRec} {cls : BitVec 2}
    (h : j.Resolved t rec.mode (resolved rec.mode rec.prior cls false).1 (resolved rec.mode rec.prior cls false).2.1
      (resolved rec.mode rec.prior cls false).2.2) (hvsalt : 2 ≤ cls.toNat → j.vigil.vsalt = none) :
    (2 ≤ cls.toNat → t.vigil.vsalt = none ∧
      (rec.mode ∈ [.commission, .service, .freeze, .locked, .zeroized] → t.live = .zeroized ∧ t.boot.scrub = true)) ∧
    (rec.mode = .factory → t.live = .factory) ∧ (rec.mode = .blank → t.live = .blank) ∧
    (¬2 ≤ cls.toNat →
      (rec.mode = .commission → t.live = .blank ∧ t.vigil.vsalt = none) ∧
      (rec.mode = .service → if 1 ≤ cls.toNat then t.live = .locked ∧ t.prior.val = 3 else t.live = .service) ∧
      (rec.mode = .freeze → if 1 ≤ cls.toNat then t.live = .locked ∧ t.prior.val = 4 else t.live = .freeze) ∧
      (rec.mode = .locked → t.live = .locked ∧ t.prior.val = rec.prior) ∧
      (rec.mode = .zeroized → t.live = .zeroized ∧ t.boot.scrub = true ∧ t.pins.firedamp = true)) := by
  obtain ⟨-, -, -, -, -, -, -, hlive, hprior, -, hv, hscrub⟩ := h
  generalize rec.mode = stored at *
  refine ⟨fun hz => ⟨?erased, fun hm => ?zeroized⟩, ?factory, ?blank, fun hz => ?kept⟩
  case erased => rw [hv, hvsalt hz, ite_self]
  case zeroized =>
    have hto : resolved stored rec.prior cls false = (.zeroized, 0, true) := by
      simp only [List.mem_cons, List.not_mem_nil, or_false] at hm
      rcases hm with rfl | rfl | rfl | rfl | rfl <;> simp [resolved, hz]
    rw [hto] at hlive hscrub
    exact ⟨hlive, (hscrub rfl).1⟩
  case factory => rintro rfl; exact hlive
  case blank => rintro rfl; exact hlive
  case kept =>
    have hone := class_one_iff cls hz
    refine ⟨?_, ?_, ?_, ?_, ?_⟩ <;> rintro rfl <;>
      simp only [resolved, hz, hone, Bool.false_or, decide_false, Bool.false_eq_true, if_false] at hlive hprior hv hscrub
    · exact ⟨hlive, by rw [hv, if_pos (.inl trivial)]⟩
    · split_ifs with h1 <;> simp only [h1, if_true, if_false] at hlive hprior
      · exact ⟨hlive, hprior⟩
      · exact hlive
    · split_ifs with h1 <;> simp only [h1, if_true, if_false] at hlive hprior
      · exact ⟨hlive, hprior⟩
      · exact hlive
    · exact ⟨hlive, hprior⟩
    · exact ⟨hlive, hscrub trivial⟩

/-! ### Step 10 (02:R43, R44) -/

/-- The device without its ridges, its log and its MQ. -/
def Dev.unqueued (d : Dev) : Dev := { d.apart with mq := MQ.reset }

theorem Dev.unqueued_of_apart {d e : Dev} (h : d.apart = e.apart) : d.unqueued = e.unqueued := by
  unfold Dev.unqueued
  rw [h]

theorem Dev.mqFetch_unqueued (d : Dev) : d.mqFetch.unqueued = d.unqueued := by
  have hfault : (d.mqFault 0).unqueued = d.unqueued := by
    unfold Dev.mqFault
    split
    · exact (Dev.unqueued_of_apart (Dev.pkgEvent_apart _ _ _ _)).trans rfl
    · rfl
  simp only [Dev.mqFetch]
  split_ifs
  · rfl
  · exact hfault
  · rfl

/-- The end of the power-up: the ridges in service take Deep services, and event 33 is recorded. -/
def Dev.poweredUp (d : Dev) (elapsed : Nat) : Dev :=
  ((d.modBoot fun b => { b with step := 10, elapsed := BitVec.ofNat 16 elapsed }).modRidges fun x =>
    if x.inService = true ∧ x.lost = false then { x with world := { x.world with deepUp := true } } else x).pkgEvent 33
      (elapsed % 65536)

/-- The end of a scrub: the device is BLANK. -/
def Dev.scrubbed (d : Dev) : Dev :=
  ((d.changeMode .blank).modPins fun p => { p with zeroOut := false, firedamp := false }).modBoot fun b => { b with scrub := false }

theorem Dev.scrubbed_boot (d : Dev) : d.scrubbed.boot = { d.boot with scrub := false } :=
  congrArg (fun b : Boot => { b with scrub := false }) (d.changeMode_boot .blank 0 false)

theorem Dev.scrubbed_pins (d : Dev) : d.scrubbed.pins = { d.pins with zeroOut := false, firedamp := false } :=
  congrArg (fun p : Pins => { p with zeroOut := false, firedamp := false }) (d.changeMode_pins .blank 0 false)

theorem Dev.scrubbed_live (d : Dev) : d.scrubbed.live = .blank := d.changeMode_live .blank 0 false

theorem Dev.scrubbed_current (d : Dev) : d.scrubbed.vigil.current.map (·.mode) = some .blank :=
  congrArg (fun v : Vigil => v.current.map (·.mode)) (d.changeMode_vigil .blank 0 false)

theorem Dev.bootDone_eq {d : Dev} (hstep : d.boot.step = 9) (elapsed : Nat) : d.bootDone elapsed =
    (if d.boot.scrub = true then (d.poweredUp elapsed).scrubbed else d.poweredUp elapsed).govern.mqFetch := by
  have hup : (fun x : Ridge => if (x.inService && !x.lost) = true then { x with world := { x.world with deepUp := true } } else x) =
      fun x => if x.inService = true ∧ x.lost = false then { x with world := { x.world with deepUp := true } } else x := by
    funext x
    simp only [Bool.and_eq_true, Bool.not_eq_true']
  rw [Dev.bootDone, if_pos hstep, hup]
  rfl

theorem Dev.bootDone_scrubbed {d : Dev} (hstep : d.boot.step = 9) (hscrub : d.boot.scrub = true) (elapsed : Nat) :
    let t := d.bootDone elapsed
    t.live = .blank ∧ t.boot.step = 10 ∧ t.boot.scrub = false ∧ t.pins.zeroOut = false ∧ t.pins.firedamp = false ∧
      t.vigil.current.map (·.mode) = some .blank := by
  have h : (d.bootDone elapsed).unqueued = (d.poweredUp elapsed).scrubbed.unqueued := by
    rw [Dev.bootDone_eq hstep, if_pos hscrub]
    exact (Dev.mqFetch_unqueued _).trans (Dev.unqueued_of_apart (Dev.govern_apart _ _))
  have hboot : (d.bootDone elapsed).boot = (d.poweredUp elapsed).scrubbed.boot := (congrArg Dev.boot h :)
  have hpins : (d.bootDone elapsed).pins = (d.poweredUp elapsed).scrubbed.pins := (congrArg Dev.pins h :)
  have hlive : (d.bootDone elapsed).live = (d.poweredUp elapsed).scrubbed.live := (congrArg Dev.live h :)
  have hvigil : (d.bootDone elapsed).vigil = (d.poweredUp elapsed).scrubbed.vigil := (congrArg Dev.vigil h :)
  intro t
  simp only [t, hboot, hpins, hlive, hvigil, Dev.scrubbed_boot, Dev.scrubbed_pins, Dev.scrubbed_live, Dev.scrubbed_current,
    true_and, and_true]
  rfl

end Sys2Proof.Machine

open Sys2Proof Machine Claims

/-- Settles O43: steps 1 to 4 are the fields of `Dev.Judged` and `Dev.Resolved`; the start of ridges and sources leaves what the
delivery of the spine key reads. -/
theorem Sys2Proof.powerUpRuns : Obligations.PowerUpRuns := by
  unfold Obligations.PowerUpRuns
  intro s f d
  refine ⟨fun hcut => leaves_of rfl ?cut, ?held, ?step4, ?done⟩
  case cut => exact if_pos hcut
  case held =>
    intro rec hcut hstep _ hpfw hvhold hrec hcopy
    obtain ⟨j, hj, heq, hr⟩ := Dev.powerUp_of_pfwLow (f := f) hcut hstep hpfw hvhold hrec hcopy
    have hlatched : (j.bootMode d.latchedClass).lastMode.latched = _ :=
      (congrArg LastMode.latched hr.last).trans (hj.latched.trans d.latchedClass_ne_zero)
    have hcause := (congrArg LastMode.cause hr.last).trans (hj.cause (by rw [hrec]; rfl))
    have htable := hr.table hj.vsalt
    simp only [d.le_latchedClass_iff Nat.two_pos, d.le_latchedClass_iff Nat.one_pos] at htable
    exact ⟨_, leaves_of rfl heq, hr.step, hr.inVigil.trans hj.inVigil, hr.mainPower.trans hj.mainPower, hr.proposed, hr.modeCopy,
      hr.current.trans (congrArg some hr.live.symm), hlatched, hcause, htable⟩
  case step4 =>
    intro hcut hstep hheld hpfw hmain e
    have he : e.keyPart = d.keyPart := (Dev.bootSources_keyPart _ f).trans (d.bootRidges_keyPart f)
    refine ⟨fun himage => ?noImage, fun n hslot hseeded => ?seeded, fun hseeded r hp hr hlost => ?spineKey,
      fun n hslot hunseeded hstep7 => ?waits, fun r _ hr hmeas hkat => ?ridge⟩
    case noImage => exact leaves_of rfl (d.powerUp_of_no_image f hcut hstep hheld hpfw hmain himage)
    case seeded =>
      obtain ⟨hend, hlog⟩ := Dev.bootEnd_of_seeded f hseeded
      exact ⟨_, leaves_of rfl (d.powerUp_of_slot f hcut hstep hheld hpfw hmain hslot), hend, hlog⟩
    case spineKey =>
      have hpe : e.populated r = true := by rwa [Dev.populated, Dev.fuses_of_keyPart he]
      exact Dev.key_bootKey hseeded hpe (by rwa [Dev.length_of_keyPart he]) hlost
    case waits =>
      exact leaves_of rfl ((d.powerUp_of_slot f hcut hstep hheld hpfw hmain hslot).trans (Dev.bootEnd_of_unseeded f hunseeded hstep7))
    case ridge =>
      obtain ⟨hin, hpower, hm, hx, hline, hengines, hdeep⟩ := d.bootRidge_started hr hmeas hkat
      exact ⟨hin, hpower, hm, hx, hline, hengines, hdeep⟩
  case done =>
    intro elapsed done
    refine ⟨fun hstep => leaves_of rfl (if_neg hstep), fun hstep hscrub => leaves_of rfl ?_, fun hstep hscrub => ?_⟩
    · have heq := Dev.bootDone_eq hstep elapsed
      rw [if_neg (by simp [hscrub])] at heq
      exact heq
    · obtain ⟨hlive, ht, hs, hz, hd, hcur⟩ := Dev.bootDone_scrubbed hstep hscrub elapsed
      exact ⟨_, leaves_of rfl rfl, hlive, ht, hs, hz, hd, hcur⟩

end

section
/-! ## Seam commands that are ready, and the blocks that they read -/

namespace Sys2Proof.Machine

/-- What a ready seam command leaves. -/
theorem leaves_seamCommand {i : Instr} {s : State} {n op : Nat} {x : Desc} {inp b : List Byte} {e : Dev}
    {f : Dev → Nat → Desc → List Byte → Dev} (hexec : exec i s = .next ⟨s.pending, s.dev.seamCommand n op f⟩)
    (h : Claims.CommandReady s.dev n op x inp b) (he : f s.dev (x.p 0 13) x b = e) : leaves i s e :=
  leaves_of hexec ((Dev.command_of_ready h _).trans he)

/-- The bit of a block's LINKS byte that is PREF. -/
theorem bit_two_eq_testBit (v : Nat) : (v / 4 % 2 == 1) = v.testBit 2 := by
  rw [Nat.testBit_eq_decide_div_mod_eq]
  rfl

end Sys2Proof.Machine
end

section
/-! ## The life of a seam (03:R64 to R72) -/

namespace Sys2Proof.Machine

/-! ### Creating -/

section
variable {d : Dev} {m : Nat} {b : List Byte}

theorem Dev.seamCreate_of_fault {v : Verdict} (h : blockFault (d.createChecks m b) = some v) (n : Nat) :
    d.seamCreate n m b = d.mqComplete n v := by
  simp only [Dev.seamCreate, h]

/-- The table entry that a create block spells, on a home and a mirror (03:R64 to R66). -/
def SeamEntry.created (e : SeamEntry) (b : List Byte) (home mirror : Nat) : SeamEntry :=
  { e with
    state := .active, links := BitVec.ofNat 2 (field b 0 1), pref := (field b 0 1).testBit 2, saved := false
    pasidValid := field b 16 4 != 0, pasid := BitVec.ofNat 20 (field b 16 4), home := .of (BitVec.ofNat 3 home)
    mirror := .of (BitVec.ofNat 3 mirror), epoch := .of (e.epoch.val + 1), weight := BitVec.ofNat 8 (field b 3 1)
    burst := BitVec.ofNat 7 (field b 4 1), slotQuota := BitVec.ofNat 11 (field b 6 2)
    keyQuota := BitVec.ofNat 24 (field b 8 4), progQuota := BitVec.ofNat 16 (field b 12 2)
    irqAddr := BitVec.ofNat 64 (field b 24 8), irqData := BitVec.ofNat 32 (field b 32 4), irqMask := field b 36 1 == 1
    migFloor := 0, migAllow := false, ownerDigest := .of (BitVec.ofNat 384 (field b 48 48)) }

/-- A create block that passes makes the seam's entry, a blank running part but for DISCARDS (log 47), and the blob key. -/
theorem Dev.seamCreate_of_passes (h : blockFault (d.createChecks m b) = none) (n : Nat) : d.seamCreate n m b =
    (let r := d.ridgesFor m (field b 1 1) (field b 2 1) (granulesOf 46)
     let t := d.modSeam m fun x => ⟨x.entry.created b r.1 r.2, { SeamRun.blank with discards := x.run.discards }⟩
     Claims.seamEnds ((t.makeBlobKey m).noteUnmirrored m) n 1 m) := by
  simp only [Dev.seamCreate, h, bit_two_eq_testBit]
  rfl

end

/-! ### Destroying -/

theorem Dev.eraseSeamStore_seams (d : Dev) (m : Nat) : (d.eraseSeamStore m).seams = d.seams := rfl

theorem Dev.purgePrograms_seams (d : Dev) (m : Nat) : (d.purgePrograms m).seams = d.seams := by
  refine foldl_same Dev.seams (fun d r => ?_) _ _
  rfl

theorem Dev.setOrder_seams (d : Dev) (n : Nat) (st : OrderState) : (d.setOrder n st).seams = d.seams :=
  Dev.pkgEvent_seams _ _ _ _

/-- The entry of a seam that has been freed: FREE, with the next EPOCH (03:R72). -/
theorem Dev.freeSeam_entry (d : Dev) (m : Nat) : ((d.freeSeam m).seam m).entry.state = .free ∧
    ((d.freeSeam m).seam m).entry.epoch = .of ((d.seam m).entry.epoch.val + 1) := by
  unfold Dev.freeSeam
  extract_lets erased orders cancelled
  have hseam : cancelled.seam m = d.seam m := by
    refine Dev.seam_congr ?_ m
    calc cancelled.seams = erased.seams := foldl_same Dev.seams (fun d o => d.setOrder_seams o .cancelled) orders erased
      _ = d.seams := Dev.purgePrograms_seams _ _
  rw [Dev.seam_modSeam_self, hseam]
  exact ⟨rfl, rfl⟩

/-- A seam whose destruction waits for nothing more is freed. -/
theorem Dev.destroyDrained_of_drained {d : Dev} {k c : Nat} (h : (d.seam k).run.destroying = some c)
    (hi : (d.seam k).run.inflight = 0) : d.destroyDrained k = Claims.seamEnds (d.freeSeam k) c 2 k := by
  simp only [Dev.destroyDrained, h, if_pos hi]
  rfl

/-! ### Resetting -/

section
variable {d : Dev} {m : Nat}

theorem Dev.seamReset_of_gen (h : ∃ j ∈ d.seamJobs m, j.job.gen = (d.seam m).entry.gen + 1) (n : Nat) :
    d.seamReset n m = Claims.ends d n 0x0802 6 :=
  if_pos (by simpa using h)

theorem Dev.seamReset_of_no_gen (h : ∀ j ∈ d.seamJobs m, j.job.gen ≠ (d.seam m).entry.gen + 1) (n : Nat) :
    d.seamReset n m = ((d.cutSeam m).cmdWaits n).modRun m fun z => { z with resetting := some n } :=
  if_neg (by simpa using h)

theorem Dev.resetDrained_of_some {c : Nat} (h : (d.seam m).run.resetting = some c) :
    d.resetDrained m = Claims.seamEnds (d.modRun m fun z => { z with resetting := none }) c 3 m := by
  simp only [Dev.resetDrained, h]
  rfl

/-! ### Shares -/

variable {b : List Byte}

theorem Dev.seamShare_of_fault {v : Verdict} (h : blockFault (shareChecks b) = some v) (n : Nat) :
    d.seamShare n m b = d.mqComplete n v := by
  simp only [Dev.seamShare, h]

/-- A share block that passes: its nonzero fields, then the credit and the cached programs under the new shares. -/
theorem Dev.seamShare_of_passes (h : blockFault (shareChecks b) = none) (n : Nat) : d.seamShare n m b =
    (let t := d.modEntry m fun e => { e with
       weight := newer e.weight (field b 0 1), burst := newer e.burst (field b 1 1), slotQuota := newer e.slotQuota (field b 2 2)
       keyQuota := newer e.keyQuota (field b 4 4), progQuota := newer e.progQuota (field b 8 2) }
     Claims.ends ((t.capCredits [m]).fitPrograms m) n 0x0000 0) := by
  simp only [Dev.seamShare, h]
  rfl

/-! ### Binding -/

theorem Dev.seamBind_of_busy (ha : (d.seam m).entry.state = .active) (hq : (d.seam m).run.anyQueue = true) (n : Nat) :
    d.seamBind n m b = Claims.ends d n 0x0802 5 :=
  if_pos (by simp [ha, hq])

variable (hfree : (d.seam m).entry.state ≠ .active ∨ (d.seam m).run.anyQueue = false)
include hfree

theorem Dev.seamBind_of_fault {v : Verdict} (h : blockFault (d.bindChecks m b false) = some v) (n : Nat) :
    d.seamBind n m b = d.mqComplete n v := by
  refine (if_neg (by simpa [imp_iff_not_or] using hfree)).trans ?_
  simp only [h]

/-- A bind block that passes; unmasking the interrupt sends one message (15:R349). -/
theorem Dev.seamBind_of_passes (h : blockFault (d.bindChecks m b false) = none) (n : Nat) : d.seamBind n m b =
    (let t := d.modEntry m fun e => e.bind b
     Claims.seamEnds (if (d.seam m).entry.irqMask = true ∧ field b 20 1 ≠ 1 then t.unmaskIrq m else t) n 8 m) := by
  refine (if_neg (by simpa [imp_iff_not_or] using hfree)).trans ?_
  have hmask : ((d.seam m).entry.irqMask && !((d.modEntry m fun e => e.bind b).seam m).entry.irqMask) =
      decide ((d.seam m).entry.irqMask = true ∧ field b 20 1 ≠ 1) := by
    rw [Dev.seam_modEntry_self, Bool.decide_and, Bool.decide_eq_true, decide_not]
    rfl
  simp only [h, hmask, decide_eq_true_eq]
  rfl

end

theorem SeamEntry.bind_eq (e : SeamEntry) (b : List Byte) : e.bind b = { e with
    pasidValid := true, pasid := BitVec.ofNat 20 (field b 0 4), links := BitVec.ofNat 2 (field b 4 1)
    pref := (field b 4 1).testBit 2, irqAddr := BitVec.ofNat 64 (field b 8 8), irqData := BitVec.ofNat 32 (field b 16 4)
    irqMask := field b 20 1 == 1 } := by
  rw [← bit_two_eq_testBit]
  rfl

/-! ### The commands -/

theorem leaves_seamCreate {s : State} {n : Nat} {x : Desc} {inp b : List Byte} {e : Dev}
    (h : Claims.CommandReady s.dev n 0x8001 x inp b) (hdraw : s.dev.drawable s.dev.boss .internal = true)
    (he : s.dev.seamCreate n (x.p 0 13) b = e) : leaves (.seamCreate n) s e :=
  leaves_of rfl ((if_pos hdraw).trans ((Dev.command_of_ready h _).trans he))

end Sys2Proof.Machine

open Sys2Proof Machine Claims

/-- Settles O34: each seam command by what it leaves, the freed seam by its table entry. -/
theorem Sys2Proof.seamLifecycle : Obligations.SeamLifecycle := by
  intro s n x inp b d m y e
  refine ⟨fun h hdraw => ⟨fun v hv => ?refused, fun hpass => ?created⟩, fun h => ?destroy, fun k c hc hi => ⟨?drained, ?freed⟩,
    fun h => ⟨fun hgen => ?again, fun hgen => ?reset⟩, fun k c hc => ?wasReset, fun h => ⟨fun v hv => ?badShare, fun hpass => ?share⟩,
    fun h => ⟨fun ha hq => ?busy, fun v hfree hv => ?badBind, fun hfree hpass => ?bind⟩⟩
  case refused => exact leaves_seamCreate h hdraw (Dev.seamCreate_of_fault hv n)
  case created => exact leaves_seamCreate h hdraw (Dev.seamCreate_of_passes hpass n)
  case destroy => exact leaves_seamCommand rfl h rfl
  case drained => exact leaves_of rfl (Dev.destroyDrained_of_drained hc hi)
  case freed => exact d.freeSeam_entry k
  case again => exact leaves_seamCommand rfl h (Dev.seamReset_of_gen hgen n)
  case reset => exact leaves_seamCommand rfl h (Dev.seamReset_of_no_gen hgen n)
  case wasReset => exact leaves_of rfl (Dev.resetDrained_of_some hc)
  case badShare => exact leaves_seamCommand rfl h (Dev.seamShare_of_fault hv n)
  case share => exact leaves_seamCommand rfl h (Dev.seamShare_of_passes hpass n)
  case busy => exact leaves_seamCommand rfl h (Dev.seamBind_of_busy ha hq n)
  case badBind => exact leaves_seamCommand rfl h (Dev.seamBind_of_fault hfree hv n)
  case bind =>
    have hb := Dev.seamBind_of_passes hfree hpass n
    simp only [SeamEntry.bind_eq] at hb
    exact leaves_seamCommand rfl h hb
end

section
/-! ## Freezing, saving, restoring and thawing a seam (03:R75 to R80) -/

namespace Sys2Proof.Machine

/-! ### Freezing and thawing -/

section
variable {d : Dev} {m c : Nat} (h : (d.seam m).run.freezing = some c) (hi : (d.seam m).run.inflight = 0)
  (hw : (d.seam m).run.heldWrites = [])
include h hi hw

/-- A freeze that waits for nothing more: the queues of an ACTIVE seam are snapshotted, and it is FROZEN; a seam that entered
FAULTED meanwhile stays so, and its freeze is refused. -/
theorem Dev.freezeDrained_of_drained : d.freezeDrained m =
    if (d.seam m).entry.state = .active then
      Claims.seamEnds ((d.modRun m fun z => { z with
        freezing := none
        snapshot := some ⟨z.queues.map fun (q : Queue) => { q with prefetch := [], reading := false }, z.cq⟩
        queues := List.replicate 4 Queue.blank, cq := none }).modEntry m fun e => { e with state := .frozen }) c 4 m
    else Claims.ends (d.modRun m fun z => { z with freezing := none }) c 0x0802 1 := by
  simp only [Dev.freezeDrained, h]
  exact if_neg (by simp [hi, hw])

end

/-- A thaw goes on from the snapshot. -/
theorem Dev.seamThaw_of_snapshot {d : Dev} {m : Nat} {k : Snapshot} (h : (d.seam m).run.snapshot = some k) (n : Nat) :
    d.seamThaw n m = Claims.seamEnds (((d.modRun m fun z => { z with queues := k.queues, cq := k.cq, snapshot := none }).modEntry m
      fun e => { e with state := .active }).fetchSeam m) n 5 m := by
  unfold Dev.seamThaw
  rw [Dev.modRun_congr d m (g := fun z => { z with queues := k.queues, cq := k.cq, snapshot := none }) (by simp only [h])]
  rfl

/-! ### Saving -/

section
variable {d : Dev} {m : Nat} {x : Desc} {b : List Byte}

theorem Dev.seamSave_of_unordered (h : ¬d.authorised x.orderNum 0x21 m (sha384 b) = true) (n : Nat) :
    d.seamSave n m x b = Claims.ends d n 0x0801 0 :=
  if_pos (by simpa using h)

variable (h : d.authorised x.orderNum 0x21 m (sha384 b) = true)
include h

theorem Dev.seamSave_of_forbidden (ha : (d.seam m).entry.migAllow = false) (n : Nat) :
    d.seamSave n m x b = Claims.ends d n 0x0302 8 := by
  simp only [Dev.seamSave, h, ha, Bool.not_true, Bool.not_false, Bool.false_eq_true, if_false, if_true]
  rfl

variable (ha : (d.seam m).entry.migAllow = true)
include ha

theorem Dev.seamSave_of_no_destination (hd : acceptFrom b (d.seam m).entry.migFloor.toNat = none) (n : Nat) :
    d.seamSave n m x b = Claims.ends d n 0x0302 7 := by
  simp only [Dev.seamSave, h, ha, hd, Bool.not_true, Bool.false_eq_true, if_false]
  rfl

variable {t : Destination} (hd : acceptFrom b (d.seam m).entry.migFloor.toNat = some t)
include hd

/-- What SEAM_SAVE does for a destination that suffices: a seam that was saved goes to the same part again, and the package fits
the output buffer (03:R77 to R79). -/
theorem Dev.seamSave_of_destination (n : Nat) : d.seamSave n m x b =
    (let body := packBody ⟨Config.dikChain, [], [], [d.section' m false]⟩
     if ¬((d.seam m).entry.saved = false ∨ (d.seam m).run.savedTo = some t.serial) then Claims.ends d n 0x0802 0x0D
     else if x.outLen.toNat < body.length + 5173 then d.mqComplete n ⟨0x0103, 0x0C, BitVec.ofNat 32 (body.length + 5173)⟩
     else
       let g := d.generate d.boss false 1
       let u := (({ g with draws := g.draws + 5 }.modEntry m fun e => { e with saved := true }).modRun m fun r =>
         { r with savedTo := some t.serial }).consumeOrder x.orderNum
       (u.pkgEvent 52 6 (some m)).mqComplete n ⟨0x0000, 0, 0⟩ (g.package 1 g.draws t body)) := by
  have hsame : ((d.seam m).entry.saved && (d.seam m).run.savedTo != some t.serial) = true ↔
      ¬((d.seam m).entry.saved = false ∨ (d.seam m).run.savedTo = some t.serial) := by simp
  simp only [Dev.seamSave, h, ha, hd, hsame, Bool.not_true, Bool.false_eq_true, if_false]
  rfl

end

/-! ### Restoring -/

section
variable {d : Dev} {m : Nat} {inp b : List Byte}

theorem Dev.seamRestore_of_fault {v : Verdict} (h : blockFault (d.bindChecks m b true) = some v) (n : Nat) :
    d.seamRestore n m inp b = d.mqComplete n v := by
  simp only [Dev.seamRestore, h]

variable (h : blockFault (d.bindChecks m b true) = none)
include h

theorem Dev.seamRestore_of_unopened {v : Verdict} (ho : d.openPackage 1 inp = .error v) (n : Nat) :
    d.seamRestore n m inp b = d.mqComplete n v := by
  simp only [Dev.seamRestore, h, ho]

/-- A package of one seam: refused where a key store area cannot hold its entries, else installed FROZEN with the binding of the
block, and its receive key is erased (03:R80). -/
theorem Dev.seamRestore_of_opened {id : List Byte} {body : PkgBody} {p : PkgSeam} (ho : d.openPackage 1 inp = .ok (id, body))
    (hp : body.seams = [p]) (n : Nat) : d.seamRestore n m inp b =
    (let hm := d.ridgesFor m (field b 5 1) (field b 6 1) p.granules
     if d.canHold hm.1 hm.2 p = false then Claims.ends d n 0x0303 0x0B
     else Claims.seamEnds ((d.installSeam m hm.1 hm.2 p (({ p.entry with state := .frozen, saved := false } : SeamEntry).bind b)
       p.snapshot).eraseReceive id) n 7 m) := by
  simp only [Dev.seamRestore, h, ho, hp, Bool.not_eq_true']
  rfl

end

/-! ### The commands -/

theorem leaves_seamSave {s : State} {n : Nat} {x : Desc} {inp b : List Byte} {e : Dev}
    (h : Claims.CommandReady s.dev n 0x8007 x inp b) (hdraw : s.dev.drawable s.dev.boss .internal = true)
    (he : s.dev.seamSave n (x.p 0 13) x b = e) : leaves (.seamSave n) s e :=
  leaves_of rfl ((if_pos hdraw).trans ((Dev.command_of_ready h _).trans he))

theorem leaves_seamRestore {s : State} {n : Nat} {x : Desc} {inp b : List Byte} {e : Dev}
    (h : Claims.CommandReady s.dev n 0x8008 x inp b) (he : s.dev.seamRestore n (x.p 0 13) inp b = e) : leaves (.seamRestore n) s e :=
  leaves_of rfl ((Dev.command_of_ready h _).trans he)

end Sys2Proof.Machine

open Sys2Proof Machine Claims

/-- Settles O35: each command of a seam's migration by what it leaves. -/
theorem Sys2Proof.seamFreezing : Obligations.SeamFreezing := by
  intro s n x inp b d m e
  refine ⟨fun h => ?freeze, fun k c hc hi hw => ⟨fun ha => ?frozen, fun ha => ?faulted⟩, fun h k hk => ?thaw,
    fun h hdraw => ⟨fun hno => ?unordered, fun ho ha => ?forbidden, fun ho ha hd => ?unsuited,
      fun t ho ha hd => ⟨fun hsame => ?elsewhere, fun hsame hlen => ?short, fun hsame hlen => ?saved⟩⟩,
    fun h => ⟨fun v hv => ?malformed, fun v hpass hv => ?unopened,
      fun id body p hpass ho hp => ⟨fun hfull => ?full, fun hroom => ?restored⟩⟩⟩
  case freeze => exact leaves_seamCommand rfl h rfl
  case frozen => exact leaves_of rfl ((Dev.freezeDrained_of_drained hc hi hw).trans (if_pos ha))
  case faulted => exact leaves_of rfl ((Dev.freezeDrained_of_drained hc hi hw).trans (if_neg ha))
  case thaw => exact leaves_seamCommand rfl h (Dev.seamThaw_of_snapshot hk n)
  case unordered => exact leaves_seamSave h hdraw (Dev.seamSave_of_unordered hno n)
  case forbidden => exact leaves_seamSave h hdraw (Dev.seamSave_of_forbidden ho ha n)
  case unsuited => exact leaves_seamSave h hdraw (Dev.seamSave_of_no_destination ho ha hd n)
  case elsewhere => exact leaves_seamSave h hdraw ((Dev.seamSave_of_destination ho ha hd n).trans (if_pos hsame))
  case short =>
    exact leaves_seamSave h hdraw
      ((Dev.seamSave_of_destination ho ha hd n).trans ((if_neg (not_not.2 hsame)).trans (if_pos hlen)))
  case saved =>
    exact leaves_seamSave h hdraw
      ((Dev.seamSave_of_destination ho ha hd n).trans ((if_neg (not_not.2 hsame)).trans (if_neg (Nat.not_lt.2 hlen))))
  case malformed => exact leaves_seamRestore h (Dev.seamRestore_of_fault hv n)
  case unopened => exact leaves_seamRestore h (Dev.seamRestore_of_unopened hpass hv n)
  case full => exact leaves_seamRestore h ((Dev.seamRestore_of_opened hpass ho hp n).trans (if_pos hfull))
  case restored =>
    exact leaves_seamRestore h ((Dev.seamRestore_of_opened hpass ho hp n).trans (if_neg (ne_false_of_eq_true hroom)))
end

section
/-! ## Two jobs that bear one number -/

namespace Sys2Proof.Machine

/-- A job of number 9 that waits for its IN buffer of `len` bytes, and for an engine. -/
def awaiting (len : BitVec 32) : JobRec :=
  let j := Tests.jobOn (Tests.desc 0x0701 1) 22 []
  { j with job := { j.job with phase := .needsEngine, inp := .waiting, desc := { j.job.desc with inLen := len } } }

/-- A UJ840-8 in SERVICE with two such jobs, of one byte and of two. -/
def doubled : Dev := { Tests.awake with jobs := [awaiting 1, awaiting 2] }

/-- Each of the two takes as many bytes of the answer as its own descriptor asks for. -/
theorem doubled_readAnswered : (doubled.readAnswered (.jobIn 9) (.data [5, 6])).jobs.map (fun j => j.job.inp) =
    [.got [5], .got [5, 6]] := by decide +kernel

theorem leaves_dmaReadCompletion (s : State) (t : ReadTarget) (a : ReadAnswer) :
    leaves (.dmaReadCompletion t a) s (s.dev.readAnswered t a) := rfl

end Sys2Proof.Machine

open Sys2Proof Machine Claims

/-- Refutes O25: the statement speaks of every state, and so of one where two jobs bear one number (log 12 has none reused). Where
their descriptors ask for different lengths, the answer to the read of IN gives each its own length; the statement gives both that
of the first. -/
theorem Sys2Proof.not_readsAndWrites : ¬ Obligations.ReadsAndWrites := by
  intro h
  obtain ⟨hjobs, -⟩ := h ⟨[], doubled⟩
  obtain ⟨harrives, -⟩ := hjobs 9 (awaiting 1) (by decide +kernel)
  have heq := leaves_unique (harrives [5, 6] (by decide)) (leaves_dmaReadCompletion _ _ _)
  have hinp := (congrArg (fun d : Dev => d.jobs.map fun j => j.job.inp) heq).trans doubled_readAnswered
  exact absurd hinp (by decide +kernel)
end
section
/-! ## Writes of a portal page's ring registers (04:R87, R96, 17:R370) -/

namespace Sys2Proof.Machine

/-! ### The rules of 04:R87 -/

theorem Dev.answers_iff (d : Dev) (l : Lk) (m : Nat) : d.answers l m = true ↔
    m < 8192 ∧ d.boot.step = 10 ∧ d.live ≠ .zeroized ∧ (d.seam m).entry.state ≠ .free ∧ (d.seam m).entry.binds l = true ∧
      d.pins.inVigil = false := by
  simp only [Dev.answers, Bool.and_eq_true, decide_eq_true_eq, beq_iff_eq, bne_iff_ne, Bool.not_eq_true', and_assoc]
  rfl

theorem Queue.tailOk_iff (k : Queue) (v : BitVec 32) : k.tailOk v = true ↔ (k.state = .running ∨ k.state = .faulted) ∧
    (k.tail - k.head).toNat ≤ (v - k.head).toNat ∧ (v - k.head).toNat ≤ 2 ^ k.log2 := by
  simp only [Queue.tailOk, Bool.and_eq_true, Bool.or_eq_true, beq_iff_eq, decide_eq_true_eq, and_assoc]
  exact and_congr_right' and_comm

/-- A queue that exists not has no tail to move. -/
theorem Queue.state_ne_none_of_tailOk {k : Queue} {v : BitVec 32} (h : k.tailOk v = true) : k.state ≠ .none := by
  rcases ((k.tailOk_iff v).1 h).1 with h | h <;> simp [h]

section
variable {d : Dev} {m q : Nat} {v : BitVec 32}

/-! ### Tails and heads of a live seam -/

theorem Dev.tailWrite_of_none (h : ((d.seam m).queue q).state = .none) : d.tailWrite m q v = d.pkgEvent 40 q (some m) := if_pos h

theorem Dev.tailWrite_of_ok (h : ((d.seam m).queue q).tailOk v = true) :
    d.tailWrite m q v = (d.modQueue m q fun k => k.moveTail v d.clock).fetch m q :=
  (if_neg (Queue.state_ne_none_of_tailOk h)).trans (if_pos h)

theorem Dev.tailWrite_of_bad (h : ((d.seam m).queue q).state ≠ .none) (hr : ¬((d.seam m).queue q).tailOk v = true) :
    d.tailWrite m q v = (d.modQueue m q fun k => { k with tailDrops := satInc k.tailDrops }).pkgEvent 40 q (some m) :=
  (if_neg h).trans (if_neg hr)

theorem Dev.cqHead_of_none (h : (d.seam m).run.cq = none) : d.cqHead m v = d.pkgEvent 40 4 (some m) := by
  rw [Dev.cqHead, h]
  rfl

theorem Dev.cqHead_of_some {c : CQ} (h : (d.seam m).run.cq = some c) : d.cqHead m v =
    if (v - c.head).toNat ≤ (c.write - c.head).toNat then
      (d.modRun m fun y => { y with cq := some { c with head := v } }).fetchSeam m
    else d.pkgEvent 40 4 (some m) := by
  rw [Dev.cqHead, h]
  rfl

/-! ### Tails and heads of a snapshot (03:R76) -/

section
variable {n : Snapshot} (hn : (d.seam m).run.snapshot = some n)
include hn

theorem Dev.snapTail_of_none (h : (n.queues.getD q Queue.blank).state = .none) :
    d.snapTail m q v = d.pkgEvent 40 q (some m) := by
  rw [Dev.snapTail, hn]
  exact if_pos h

theorem Dev.snapTail_of_ok (h : (n.queues.getD q Queue.blank).tailOk v = true) : d.snapTail m q v =
    d.modRun m fun y => { y with snapshot := some { n with queues := n.queues.modify q fun k => k.moveTail v d.clock } } := by
  rw [Dev.snapTail, hn]
  exact (if_neg (Queue.state_ne_none_of_tailOk h)).trans (if_pos h)

theorem Dev.snapTail_of_bad (h : (n.queues.getD q Queue.blank).state ≠ .none)
    (hr : ¬(n.queues.getD q Queue.blank).tailOk v = true) : d.snapTail m q v =
      (d.modRun m fun y => { y with snapshot := some { n with
        queues := n.queues.modify q fun k => { k with tailDrops := satInc k.tailDrops } } }).pkgEvent 40 q (some m) := by
  rw [Dev.snapTail, hn]
  exact (if_neg h).trans (if_neg hr)

theorem Dev.snapHead_of_ok {c : CQ} (hc : n.cq = some c) (h : (v - c.head).toNat ≤ (c.write - c.head).toNat) :
    d.snapHead m v = d.modRun m fun y => { y with snapshot := some { n with cq := some { c with head := v } } } := by
  obtain ⟨qs, cq⟩ := n
  obtain rfl : cq = some c := hc
  rw [Dev.snapHead, hn]
  exact if_pos h

end

end

/-! ### A page's ring registers -/

section
variable {d : Dev} {l : Lk} {m w size : Nat} {v : W64}

theorem Dev.portalWrite_of_silent (h : ¬d.answers l m = true) : d.portalWrite l m w size v = d.portalDrop l := if_pos (by simpa using h)

theorem Dev.invalWrite_of_silent (h : ¬d.answers l m = true) : d.invalWrite l m size v = d.portalDrop l := if_pos (by simpa using h)

variable (ha : d.answers l m = true)
include ha

theorem Dev.portalWrite_of_part (h : ¬(size = 4 ∨ size = 8)) : d.portalWrite l m w size v = d :=
  (if_neg (by simp [ha])).trans (if_neg (mt Or.symm h))

theorem Dev.portalWrite_of_whole (h : size = 4 ∨ size = 8) : d.portalWrite l m w size v = d.portalIndex l m w (v.setWidth 32) :=
  (if_neg (by simp [ha])).trans (if_pos h.symm)

theorem Dev.invalWrite_of_part (h : size ≠ 8) : d.invalWrite l m size v = d := (if_neg (by simp [ha])).trans (if_neg h)

/-- A PREFETCH_INVAL write of 8 bytes: held by a takeover, dropped by a SAVED seam, carried out otherwise. -/
theorem Dev.invalWrite_of_whole (h : size = 8) : d.invalWrite l m size v =
    if (d.seam m).run.takeover = true then
      (d.wakeHome m).modRun m fun y => { y with heldPortal := y.heldPortal ++ [(5, v.setWidth 32)] }
    else if (d.seam m).entry.state = .frozen ∧ (d.seam m).entry.saved = true then (d.wakeHome m).portalDrop l
    else (d.wakeHome m).invalidate m v := by
  refine ((if_neg (by simp [ha])).trans (if_pos h)).trans ?_
  simp only [Bool.and_eq_true, beq_iff_eq]
  rfl

end

section
variable {d : Dev} {m w : Nat} {v : BitVec 32} (l : Lk)

theorem Dev.portalIndex_of_takeover (h : (d.seam m).run.takeover = true) : d.portalIndex l m w v =
    (d.wakeHome m).modRun m fun y => { y with heldPortal := y.heldPortal ++ [(w, v)] } := if_pos h

variable (ht : (d.seam m).run.takeover = false)
include ht

theorem Dev.portalIndex_of_live (h : (d.seam m).entry.state ≠ .frozen) : d.portalIndex l m w v =
    if w < 4 then (d.wakeHome m).tailWrite m w v else (d.wakeHome m).cqHead m v :=
  (if_neg (ne_true_of_eq_false ht)).trans (if_neg h)

theorem Dev.portalIndex_of_frozen (h : (d.seam m).entry.state = .frozen) : d.portalIndex l m w v =
    if (d.seam m).entry.saved = true then (d.wakeHome m).portalDrop l
    else if w < 4 then (d.wakeHome m).snapTail m w v else (d.wakeHome m).snapHead m v :=
  (if_neg (ne_true_of_eq_false ht)).trans (if_pos h)

end

/-! ### The commands -/

section
variable {s : State} {l : Lk} {m q size : Nat} {val : W64} {e : Dev} (hup : (s.dev.link l).up = true)
include hup

theorem leaves_sqTailWrite (hq : q < 4) (he : s.dev.stampPortal.portalWrite l m q size val = e) :
    leaves (.sqTailWrite l m q size val) s e := leaves_of rfl ((if_pos (by simp [hup, hq])).trans he)

theorem leaves_cqHeadWrite (he : s.dev.stampPortal.portalWrite l m 4 size val = e) : leaves (.cqHeadWrite l m size val) s e :=
  leaves_of rfl ((if_pos hup).trans he)

theorem leaves_prefetchInvalWrite (he : s.dev.stampPortal.invalWrite l m size val = e) :
    leaves (.prefetchInvalWrite l m size val) s e := leaves_of rfl ((if_pos hup).trans he)

end

end Sys2Proof.Machine

open Sys2Proof Machine Claims

/-- Settles O22: whether the page answers, then what the seam's state makes of an index, then the rule that the index meets or
breaks. -/
theorem Sys2Proof.indexWrites : Obligations.IndexWrites := by
  intro s l m q size val hup hq d x e v answers whole home dropped sq cq inval held rule bad
  have hans : d.answers l m = true ↔ answers := d.answers_iff l m
  have hrule : ∀ k : Queue, k.tailOk v = true ↔ rule k := fun k => k.tailOk_iff v
  have tail : ∀ {t}, answers → whole → d.portalIndex l m q v = t → sq t := fun ha hw ht =>
    leaves_sqTailWrite hup hq ((Dev.portalWrite_of_whole (hans.2 ha) hw).trans ht)
  have head : ∀ {t}, answers → whole → d.portalIndex l m 4 v = t → cq t := fun ha hw ht =>
    leaves_cqHeadWrite hup ((Dev.portalWrite_of_whole (hans.2 ha) hw).trans ht)
  refine ⟨fun ha => ?silent, fun ha => ⟨fun hw => ?part, fun h8 => ?partInval⟩,
    fun ha ht => ⟨fun hw => ?takeover, fun h8 => ?heldInval⟩,
    fun ha ht hf hs => ⟨fun hw => ?saved, fun h8 => ?savedInval⟩, fun ha ht hs h8 => ?inval,
    fun ha ht hf hw => ?live, fun ha ht hf hs hw n hn => ?frozen⟩
  case silent =>
    have hsilent := mt hans.1 ha
    exact ⟨leaves_sqTailWrite hup hq (Dev.portalWrite_of_silent hsilent), leaves_cqHeadWrite hup (Dev.portalWrite_of_silent hsilent),
      leaves_prefetchInvalWrite hup (Dev.invalWrite_of_silent hsilent)⟩
  case part =>
    exact ⟨leaves_sqTailWrite hup hq (Dev.portalWrite_of_part (hans.2 ha) hw),
      leaves_cqHeadWrite hup (Dev.portalWrite_of_part (hans.2 ha) hw)⟩
  case partInval => exact leaves_prefetchInvalWrite hup (Dev.invalWrite_of_part (hans.2 ha) h8)
  case takeover => exact ⟨tail ha hw (Dev.portalIndex_of_takeover l ht), head ha hw (Dev.portalIndex_of_takeover l ht)⟩
  case heldInval => exact leaves_prefetchInvalWrite hup ((Dev.invalWrite_of_whole (hans.2 ha) h8).trans (if_pos ht))
  case saved =>
    exact ⟨tail ha hw ((Dev.portalIndex_of_frozen l ht hf).trans (if_pos hs)),
      head ha hw ((Dev.portalIndex_of_frozen l ht hf).trans (if_pos hs))⟩
  case savedInval =>
    exact leaves_prefetchInvalWrite hup ((Dev.invalWrite_of_whole (hans.2 ha) h8).trans
      ((if_neg (ne_true_of_eq_false ht)).trans (if_pos ⟨hf, hs⟩)))
  case inval =>
    refine leaves_prefetchInvalWrite hup ((Dev.invalWrite_of_whole (hans.2 ha) h8).trans
      ((if_neg (ne_true_of_eq_false ht)).trans (if_neg fun h => ?_)))
    exact hs.elim (fun hf => hf h.1) fun hf => ne_true_of_eq_false hf h.2
  case live =>
    have tail : ∀ {t}, home.tailWrite m q v = t → sq t := fun h =>
      tail ha hw ((Dev.portalIndex_of_live l ht hf).trans ((if_pos hq).trans h))
    have head : ∀ {t}, home.cqHead m v = t → cq t := fun h => head ha hw ((Dev.portalIndex_of_live l ht hf).trans h)
    refine ⟨fun hk => tail (Dev.tailWrite_of_none hk), fun hr => tail (Dev.tailWrite_of_ok ((hrule _).2 hr)),
      fun hk hr => tail (Dev.tailWrite_of_bad hk (mt (hrule _).1 hr)), fun hc => head (Dev.cqHead_of_none (d := home) hc),
      fun c hc => ⟨fun h => head ((Dev.cqHead_of_some (d := home) hc).trans (if_pos h)),
        fun h => head ((Dev.cqHead_of_some (d := home) hc).trans (if_neg (Nat.not_le.2 h)))⟩⟩
  case frozen =>
    have snapped : ∀ w, d.portalIndex l m w v = if w < 4 then home.snapTail m w v else home.snapHead m v := fun w =>
      (Dev.portalIndex_of_frozen l ht hf).trans (if_neg (ne_true_of_eq_false hs))
    have tail : ∀ {t}, home.snapTail m q v = t → sq t := fun h => tail ha hw ((snapped q).trans ((if_pos hq).trans h))
    refine ⟨fun hk => tail (Dev.snapTail_of_none hn hk), fun hr => tail (Dev.snapTail_of_ok hn ((hrule _).2 hr)),
      fun hk hr => tail (Dev.snapTail_of_bad hn hk (mt (hrule _).1 hr)), fun c hc h => ?_⟩
    exact head ha hw ((snapped 4).trans (Dev.snapHead_of_ok (d := home) hn hc h))
end
section
/-! ## Devices that differ in arbiters, spine ports and the running parts of seams -/

namespace Sys2Proof.Machine

/-- `e` differs from `d` in nothing that the checks of a descriptor and the choice of an engine look at, but perhaps in the
ridges' arbiters and spine ports, and in the running parts of seams. -/
structure Dev.Alike (d e : Dev) : Prop where
  rest : { e with ridges := d.ridges, seams := d.seams } = d
  ridge : ∃ (arb : Nat → Arb) (port : Nat → SpinePort), ∀ r, e.ridge r = { d.ridge r with arb := arb r, spine := port r }
  entry : ∀ m, (e.seam m).entry = (d.seam m).entry

namespace Dev.Alike

section
variable {d e f : Dev}

theorem refl (d : Dev) : d.Alike d := ⟨rfl, ⟨fun r => (d.ridge r).arb, fun r => (d.ridge r).spine, fun _ => rfl⟩, fun _ => rfl⟩

theorem trans (h : d.Alike e) (k : e.Alike f) : d.Alike f := by
  obtain ⟨arb, port, hr⟩ := h.ridge
  obtain ⟨arb', port', hk⟩ := k.ridge
  refine ⟨?_, ⟨arb', port', fun r => by rw [hk, hr]⟩, fun m => (k.entry m).trans (h.entry m)⟩
  have hrest := congrArg (fun x : Dev => { x with ridges := d.ridges, seams := d.seams }) k.rest
  exact hrest.trans h.rest

theorem of_modRun (d : Dev) (m : Nat) (g : SeamRun → SeamRun) : d.Alike (d.modRun m g) :=
  ⟨rfl, (refl d).ridge, d.seam_modRun_entry m g⟩

theorem of_modQueue (d : Dev) (m q : Nat) (g : Queue → Queue) : d.Alike (d.modQueue m q g) := of_modRun d m _

/-- A change to one ridge's arbiter or spine port. -/
theorem of_modRidge (d : Dev) (r : Nat) {g : Ridge → Ridge} (hg : ∀ x, ∃ a p, g x = { x with arb := a, spine := p }) :
    d.Alike (d.modRidge r g) := by
  refine ⟨rfl, ?_, fun _ => rfl⟩
  have hridge : ∀ k, ∃ a p, (d.modRidge r g).ridge k = { d.ridge k with arb := a, spine := p } := by
    intro k
    by_cases hk : k < d.ridges.length
    · by_cases h : r = k
      · subst h
        rw [Dev.ridge_modRidge_self _ _ _ hk]
        exact hg _
      · exact ⟨_, _, (d.ridge_modRidge_other g h).trans rfl⟩
    · exact ⟨Ridge.reset.arb, Ridge.reset.spine, by simp [Dev.ridge, List.getD, hk]⟩
  choose a p h using hridge
  exact ⟨a, p, h⟩

theorem of_modArb (d : Dev) (r : Nat) (g : Arb → Arb) : d.Alike (d.modArb r g) :=
  of_modRidge d r fun x => ⟨g x.arb, x.spine, rfl⟩

theorem of_spineSend (d : Dev) (src dst : Nat) : d.Alike (d.spineSend src dst) := by
  unfold Dev.spineSend
  split
  · exact refl d
  · exact of_modRidge d src fun x => ⟨x.arb, _, rfl⟩

end

section
variable {d e : Dev} (h : d.Alike e)
include h

theorem fuses : e.fuses = d.fuses := (congrArg Dev.fuses h.rest :)
theorem pins : e.pins = d.pins := (congrArg Dev.pins h.rest :)
theorem power : e.power = d.power := (congrArg Dev.power h.rest :)
theorem jobs : e.jobs = d.jobs := (congrArg Dev.jobs h.rest :)
theorem linkA : e.linkA = d.linkA := (congrArg Dev.linkA h.rest :)
theorem linkB : e.linkB = d.linkB := (congrArg Dev.linkB h.rest :)
theorem clock : e.clock = d.clock := (congrArg Dev.clock h.rest :)

/-- What a function of a ridge says that looks at neither its arbiter nor its spine port. -/
theorem of_ridge {α : Type} {g : Ridge → α} (hg : ∀ x a p, g { x with arb := a, spine := p } = g x) (r : Nat) :
    g (e.ridge r) = g (d.ridge r) := by
  obtain ⟨arb, port, hr⟩ := h.ridge
  rw [hr, hg]

theorem homeOf (m : Nat) : e.homeOf m = d.homeOf m := by rw [Dev.homeOf, h.entry, Dev.homeOf]
theorem mirrorOf (m : Nat) : e.mirrorOf m = d.mirrorOf m := by rw [Dev.mirrorOf, h.entry, Dev.mirrorOf]
theorem ridgeNums : e.ridgeNums = d.ridgeNums := by rw [Dev.ridgeNums, h.fuses, Dev.ridgeNums]

/-! ### The fetch checks -/

theorem params (m a : Nat) : e.params m a = d.params m a := by
  obtain ⟨arb, port, hr⟩ := h.ridge
  simp only [Dev.params, Dev.curveNums, Dev.curve, h.homeOf, hr]
  rfl

theorem lp (m a : Nat) : e.lp m a = d.lp m a := by simp only [Dev.lp, h.params]
theorem ln (m a : Nat) : e.ln m a = d.ln m a := by simp only [Dev.ln, h.params]
theorem pubLen (m a k : Nat) : e.pubLen m a k = d.pubLen m a k := by simp only [Dev.pubLen, h.lp]
theorem privLen (m a k n : Nat) : e.privLen m a k n = d.privLen m a k n := by simp only [Dev.privLen, h.ln]
theorem pointLens (m a : Nat) : e.pointLens m a = d.pointLens m a := by simp only [Dev.pointLens, h.lp]

theorem fetchChecks (m : Nat) (mq : Bool) (bytes : List Byte) (elem : Nat) :
    e.fetchChecks m mq bytes elem = d.fetchChecks m mq bytes elem := by
  simp only [Dev.fetchChecks, Dev.inLenOk, Dev.auxLenOk, Dev.fixedOut, h.ln, h.pubLen, h.privLen, h.pointLens, h.entry]

end

end Dev.Alike

end Sys2Proof.Machine
end

section
/-! ## Descriptors enter the prefetch cache (04:R91, R95, R106, 01:R19, R27, 14:R321) -/

namespace Sys2Proof.Machine

/-! ### Queues after an update -/

theorem Dev.modQueue_modQueue (d : Dev) (m q : Nat) (f g : Queue → Queue) :
    (d.modQueue m q f).modQueue m q g = d.modQueue m q fun k => g (f k) := by
  unfold Dev.modQueue
  simp only [Dev.modRun_modRun, List.modify_modify_eq]
  rfl

theorem Dev.queue_modQueue_self {d : Dev} {m q : Nat} (hq : q < (d.seam m).run.queues.length) (f : Queue → Queue) :
    ((d.modQueue m q f).seam m).queue q = f ((d.seam m).queue q) := by
  simp [Dev.modQueue, Seam.queue, List.getD, hq]

/-- A queue that the seam does not have is blank. -/
theorem Seam.queue_of_length_le {x : Seam} {q : Nat} (h : x.run.queues.length ≤ q) : x.queue q = Queue.blank := by
  simp [Seam.queue, List.getD, h]

theorem Dev.spineSend_modQueue (d : Dev) (src dst m q : Nat) (f : Queue → Queue) :
    (d.modQueue m q f).spineSend src dst = (d.spineSend src dst).modQueue m q f := by
  unfold Dev.spineSend
  split <;> rfl

/-! ### What enters -/

/-- Descriptor `i` of the bytes of a ring read, as it enters a queue of seam `m` that stands as `k`. -/
def Dev.fetched (d : Dev) (m : Nat) (k : Queue) (bytes : List Byte) (i : Nat) : Fetched :=
  let b := (bytes.drop (64 * i)).take 64
  let x := Desc.ofBytes b
  let at' := k.head + BitVec.ofNat 32 (k.prefetch.length + i)
  let bad := d.fetchChecks m false b 0
  ⟨at', x, bad, bad.isSome || x.op == 0 || x.op == 1 || d.homeOf m = d.mirrorOf m, k.arrivalOf at' d.clock⟩

/-- The mirror copy of a descriptor that needs one crosses the spine. -/
def Dev.copied (m : Nat) (d : Dev) (f : Fetched) : Dev := if f.mirrored then d else d.spineSend (d.homeOf m) (d.mirrorOf m)

/-- How many descriptors of a ring read enter: those returned, as many as are prefetched at once, as many as the ring holds. -/
def Queue.takes (k : Queue) (bytes : List Byte) : Nat :=
  min (min (bytes.length / 64) (8 - k.prefetch.length)) ((k.tail - k.head).toNat - k.prefetch.length)

/-- The queue with more descriptors prefetched. -/
def Queue.holding (k : Queue) (fs : List Fetched) : Queue := { k with prefetch := k.prefetch ++ fs }

@[simp] theorem Queue.holding_nil (k : Queue) : k.holding [] = k := by simp [Queue.holding]

theorem Queue.holding_holding (k : Queue) (fs gs : List Fetched) : (k.holding fs).holding gs = k.holding (fs ++ gs) := by
  simp [Queue.holding]

theorem Queue.takes_eq_zero {k : Queue} {bytes : List Byte} (h : bytes.length < 64 ∨ 8 ≤ k.prefetch.length ∨
    (k.tail - k.head).toNat ≤ k.prefetch.length) : k.takes bytes = 0 := by
  unfold Queue.takes
  omega

theorem Queue.takes_eq_succ {k : Queue} {bytes : List Byte} (h : ¬(bytes.length < 64 ∨ 8 ≤ k.prefetch.length ∨
    (k.tail - k.head).toNat ≤ k.prefetch.length)) (f : Fetched) : k.takes bytes = (k.holding [f]).takes (bytes.drop 64) + 1 := by
  simp only [Queue.takes, Queue.holding, List.length_append, List.length_singleton, List.length_drop]
  omega

theorem Dev.Alike.fetched {d e : Dev} (h : d.Alike e) (m : Nat) (k : Queue) (bytes : List Byte) (i : Nat) :
    e.fetched m k bytes i = d.fetched m k bytes i := by
  simp only [Dev.fetched, h.fetchChecks, h.homeOf, h.mirrorOf, h.clock]

/-- The next descriptor stands one further in the bytes, and in the ring. -/
theorem Dev.fetched_holding (d : Dev) (m : Nat) (k : Queue) (f : Fetched) (bytes : List Byte) (i : Nat) :
    d.fetched m (k.holding [f]) (bytes.drop 64) i = d.fetched m k bytes (i + 1) := by
  have hdrop : (bytes.drop 64).drop (64 * i) = bytes.drop (64 * (i + 1)) := by rw [List.drop_drop]; congr 1; omega
  have hlen : (k.holding [f]).prefetch.length + i = k.prefetch.length + (i + 1) := by simp [Queue.holding]; omega
  simp only [Dev.fetched, hdrop, hlen]
  rfl

theorem Dev.copied_seams (m : Nat) (d : Dev) (f : Fetched) : (d.copied m f).seams = d.seams := by
  unfold Dev.copied
  split <;> simp

theorem Dev.Alike.of_copied (m : Nat) (d : Dev) (f : Fetched) : d.Alike (d.copied m f) := by
  unfold Dev.copied
  split
  · exact .refl d
  · exact .of_spineSend d _ _

theorem Dev.copied_modQueue (m q : Nat) (d : Dev) (g : Queue → Queue) (f : Fetched) :
    (d.modQueue m q g).copied m f = (d.copied m f).modQueue m q g := by
  have h := Dev.Alike.of_modQueue d m q g
  unfold Dev.copied
  split
  · rfl
  · rw [← Dev.spineSend_modQueue, h.homeOf, h.mirrorOf]

/-- One descriptor enters: its copy crosses the spine, and it stands behind those prefetched. -/
theorem Dev.enter_take (d : Dev) (m q : Nat) (bytes : List Byte) : d.enter m q (bytes.take 64) =
    (d.copied m (d.fetched m ((d.seam m).queue q) bytes 0)).modQueue m q fun k =>
      k.holding [d.fetched m ((d.seam m).queue q) bytes 0] := rfl

/-- The descriptors of a ring read enter one after another. -/
theorem Dev.enterAll_eq {m q : Nat} {d : Dev} (hq : q < (d.seam m).run.queues.length) (g : Queue → Queue) {fuel : Nat}
    {bytes : List Byte} (hn : (g ((d.seam m).queue q)).takes bytes ≤ fuel) :
    (d.modQueue m q g).enterAll m q bytes fuel =
      (let fs := (List.range ((g ((d.seam m).queue q)).takes bytes)).map (d.fetched m (g ((d.seam m).queue q)) bytes)
       (fs.foldl (Dev.copied m) d).modQueue m q fun k => (g k).holding fs) := by
  induction fuel generalizing d g bytes with
  | zero =>
    rw [Nat.le_zero.1 hn]
    simp [Dev.enterAll]
  | succ fuel ih =>
    rw [Dev.enterAll, Dev.queue_modQueue_self hq]
    split
    case isTrue h =>
      rw [Queue.takes_eq_zero h]
      simp
    case isFalse h =>
      set k := g ((d.seam m).queue q) with hk
      set f := d.fetched m k bytes 0 with hf
      have hseam : (d.copied m f).seam m = d.seam m := Dev.seam_congr (d.copied_seams m f) m
      have hentered : (d.modQueue m q g).enter m q (bytes.take 64) = (d.copied m f).modQueue m q fun k => (g k).holding [f] := by
        rw [Dev.enter_take, Dev.queue_modQueue_self hq, (Dev.Alike.of_modQueue d m q g).fetched, ← hk, ← hf, Dev.copied_modQueue,
          Dev.modQueue_modQueue]
      have htakes := Queue.takes_eq_succ h f
      have hnext := ih (d := d.copied m f) (by rwa [hseam]) (fun k => (g k).holding [f]) (bytes := bytes.drop 64)
        (by rw [hseam, ← hk]; omega)
      rw [hentered, hnext, hseam, ← hk, htakes, List.range_succ_eq_map, List.map_cons, List.map_map, ← hf]
      have hrest : (d.copied m f).fetched m (k.holding [f]) (bytes.drop 64) = d.fetched m k bytes ∘ Nat.succ := by
        funext i
        rw [(Dev.Alike.of_copied m d f).fetched, Dev.fetched_holding]
        rfl
      simp only [hrest, Queue.holding_holding, List.singleton_append, List.foldl_cons]

/-- A ring read's data arrives. -/
theorem Dev.ringData_eq {d : Dev} {m q : Nat} (h : ((d.seam m).queue q).reading = true) (bytes : List Byte) :
    d.ringData m q bytes =
      (let fs := (List.range (((d.seam m).queue q).takes bytes)).map (d.fetched m ((d.seam m).queue q) bytes)
       ((fs.foldl (Dev.copied m) d).modQueue m q fun k => { k with reading := false, prefetch := k.prefetch ++ fs }).fetch m q) := by
  have hq : q < (d.seam m).run.queues.length := by
    by_contra hlen
    rw [Seam.queue_of_length_le (Nat.le_of_not_lt hlen)] at h
    exact Bool.false_ne_true h
  refine (if_pos h).trans (congrArg (Dev.fetch · m q) ?_)
  refine Dev.enterAll_eq hq (fun k => { k with reading := false }) (fuel := 8) ?_
  unfold Queue.takes
  omega

/-! ### Acknowledgements of the mirror -/

theorem Dev.mirrorAck_of_waiting {d : Dev} {m q : Nat} {i : BitVec 32}
    (h : ∃ f ∈ ((d.seam m).queue q).prefetch, f.index = i ∧ f.mirrored = false) : d.mirrorAck m q i =
      d.modQueue m q fun k => { k with prefetch := k.prefetch.map fun f => if f.index = i then { f with mirrored := true } else f } :=
  if_pos (by simpa using h)

/-- The acknowledgement of a chain's next element dispatches the first job that awaits it. -/
theorem Dev.mirrorAck_of_element {d : Dev} {m q : Nat} {i : BitVec 32} {before after : List JobRec} {j : JobRec}
    (h : ∀ f ∈ ((d.seam m).queue q).prefetch, f.index = i → f.mirrored = true) (hjobs : d.jobs = before ++ j :: after)
    (hj : j.job.seam = m ∧ j.job.queue = q ∧ j.job.index = i ∧ j.job.phase = .chainReady ∧ j.tail.prog = none)
    (hb : ∀ y ∈ before, ¬(y.job.seam = m ∧ y.job.queue = q ∧ y.job.index = i ∧ y.job.phase = .chainReady ∧ y.tail.prog = none)) :
    d.mirrorAck m q i = d.dispatchElement j.num := by
  refine (if_neg (by simpa using h)).trans ?_
  have hfind : d.jobs.find? (fun j => j.job.seam == m && j.job.queue == q && j.job.index == i && j.job.phase == .chainReady &&
      j.tail.prog.isNone) = some j := by
    refine List.find?_eq_some_iff_append.2 ⟨by simp [hj], before, after, hjobs, fun y hy => ?_⟩
    have hy := hb y hy
    rw [Bool.not_eq_true', Bool.eq_false_iff]
    simpa [and_assoc] using hy
  rw [hfind]

end Sys2Proof.Machine

open Sys2Proof Machine Claims

/-- Settles O23: what a ring read brings, one descriptor after another, and what each acknowledgement of the mirror does. -/
theorem Sys2Proof.descriptorsEnter : Obligations.DescriptorsEnter := by
  intro s m q d k
  refine ⟨fun bytes hr => ⟨(List.range (k.takes bytes)).map (d.fetched m k bytes),
      (List.length_map _).trans List.length_range, fun i hi => ?each, ?read⟩,
    fun i h => ?copied, fun i before j after h hjobs hj hb => ?element, ?granted⟩
  case each =>
    rw [List.getElem?_map, List.getElem?_range (show i < k.takes bytes from hi)]
    rfl
  case read =>
    have heq := Dev.ringData_eq hr bytes
    exact ⟨leaves_of rfl heq, leaves_of rfl ((if_pos hr).trans heq)⟩
  case copied => exact leaves_of rfl (Dev.mirrorAck_of_waiting h)
  case element => exact leaves_of rfl (Dev.mirrorAck_of_element h hjobs hj hb)
  case granted => exact leaves_of rfl rfl
end
section
/-! ## The choice of an engine between devices that are alike -/

namespace Sys2Proof.Machine

/-- The seams that are not FREE are all that can be ACTIVE. -/
theorem Dev.any_active (d : Dev) (p : Nat → Bool) : (d.usedSeams.any fun m => (d.seam m).entry.state == .active && p m) = true ↔
    ∃ m, (d.seam m).entry.state = .active ∧ p m = true := by
  simp only [List.any_eq_true, Bool.and_eq_true, beq_iff_eq]
  exact ⟨fun ⟨m, _, ha, hp⟩ => ⟨m, ha, hp⟩, fun ⟨m, ha, hp⟩ => ⟨m, Dev.mem_usedSeams (by simp [ha]), ha, hp⟩⟩

namespace Dev.Alike

section
variable {d e : Dev} (h : d.Alike e)
include h

/-! ### What a descriptor needs -/

theorem cacheEntry (m n : Nat) : e.cacheEntry m n = d.cacheEntry m n := by
  obtain ⟨arb, port, hr⟩ := h.ridge
  simp only [Dev.cacheEntry, h.homeOf, hr]

theorem keyEntry (m i : Nat) : e.keyEntry m i = d.keyEntry m i := by
  obtain ⟨arb, port, hr⟩ := h.ridge
  simp only [Dev.keyEntry, h.homeOf, hr]

theorem issued (m n : Nat) : e.issued m n = d.issued m n := by
  obtain ⟨arb, port, hr⟩ := h.ridge
  simp only [Dev.issued, Dev.blobKey, h.homeOf, hr]
  rfl

theorem handleCheck (m : Nat) (cache : Bool) (number use : Nat) :
    e.handleCheck m cache number use = d.handleCheck m cache number use := by
  obtain ⟨arb, port, hr⟩ := h.ridge
  have hsrk : e.srkOf = d.srkOf := funext fun v => by simp only [Dev.srkOf, Dev.drk, h.fuses]
  simp only [Dev.handleCheck, Dev.hk, Dev.ssk, Dev.srk, hsrk, h.homeOf, h.entry, hr]

theorem resolve (m : Nat) (handle : W64) : e.resolve m handle = d.resolve m handle := by
  simp only [Dev.resolve, h.handleCheck, h.issued, h.cacheEntry, h.keyEntry]

theorem material (m : Nat) (k : KeyRef) : e.material m k = d.material m k := by
  obtain ⟨arb, port, hr⟩ := h.ridge
  cases k with
  | resident i =>
    simp only [Dev.material, h.keyEntry, h.homeOf, hr]
    rfl
  | cached n => simp only [Dev.material, h.cacheEntry]

theorem classes (m : Nat) (x : Desc) : e.classes m x = d.classes m x := by
  simp only [Dev.classes, Dev.algOf, Dev.named, h.resolve, h.material]

/-! ### Engines -/

theorem serves (r : Nat) : e.serves r = d.serves r := by
  obtain ⟨arb, port, hr⟩ := h.ridge
  simp only [Dev.serves, Dev.populated, h.fuses, hr]

theorem functionOff (m : Nat) (x : Desc) : e.functionOff m x = d.functionOff m x := by
  obtain ⟨arb, port, hr⟩ := h.ridge
  simp only [Dev.functionOff, Dev.classExists, h.classes, h.ridgeNums, h.serves, hr]
  rfl

theorem charge : e.charge = d.charge := by
  obtain ⟨arb, port, hr⟩ := h.ridge
  simp only [Dev.charge, Dev.chargeBut, h.pins, h.ridgeNums, h.linkA, h.linkB, hr]
  rfl

theorem admits (r b : Nat) : e.admits r b = d.admits r b := by
  obtain ⟨arb, port, hr⟩ := h.ridge
  simp only [Dev.admits, Dev.ceiling, h.charge, h.power, hr]
  rfl

theorem freeBut (r b : Nat) : e.freeBut r b = d.freeBut r b := by
  obtain ⟨arb, port, hr⟩ := h.ridge
  simp only [Dev.freeBut, Dev.usable, h.serves, hr]
  rfl

theorem free (r b : Nat) : e.free r b = d.free r b := by simp only [Dev.free, h.freeBut, h.admits]

theorem hasFree (r : Nat) : e.hasFree r = d.hasFree r := by
  have hfree : e.free r = d.free r := funext (h.free r)
  funext c
  rw [Dev.hasFree, hfree, Dev.hasFree]

theorem candidate (cs : List EClass) : e.candidate cs = d.candidate cs := by
  obtain ⟨arb, port, hr⟩ := h.ridge
  funext r
  simp only [Dev.candidate, h.serves, h.hasFree, hr]

theorem rank (home : Nat) (c : EClass) : e.rank home c = d.rank home c := by
  obtain ⟨arb, port, hr⟩ := h.ridge
  funext r
  simp only [Dev.rank, Dev.loadOf, h.admits, hr]
  rfl

theorem pickEngine (r : Nat) (c : EClass) : e.pickEngine r c = d.pickEngine r c := by
  obtain ⟨arb, port, hr⟩ := h.ridge
  have hfree : e.free r = d.free r := funext (h.free r)
  simp only [Dev.pickEngine, hfree, hr]
  rfl

theorem choose (home : Nat) (cs : List EClass) (dr : Draws) : e.choose home cs dr = d.choose home cs dr := by
  cases cs with
  | nil => rfl
  | cons c cs =>
    have hfresh : ∀ r, (e.ridge r).fresh dr = (d.ridge r).fresh dr :=
      h.of_ridge (g := (Ridge.fresh · dr)) fun _ _ _ => by cases dr <;> rfl
    simp only [Dev.choose, h.ridgeNums, h.candidate, h.rank, h.pickEngine, hfresh]

theorem keptOut (cs : List EClass) : e.keptOut cs = d.keptOut cs := by
  obtain ⟨arb, port, hr⟩ := h.ridge
  cases cs with
  | nil => rfl
  | cons c cs =>
    have hbut : ∀ r, e.freeBut r = d.freeBut r := fun r => funext (h.freeBut r)
    simp only [Dev.keptOut, h.ridgeNums, h.serves, hbut, hr]

theorem dispatcher (j : JobRec) : e.dispatcher j = d.dispatcher j := by
  obtain ⟨arb, port, hr⟩ := h.ridge
  have hcore : ∀ n, e.progCore n = d.progCore n := fun n => by simp only [Dev.progCore, h.ridgeNums, hr]
  simp only [Dev.dispatcher, hcore, h.homeOf]

/-! ### A queue's head -/

theorem retires (m : Nat) (f : Fetched) : e.retires m f = d.retires m f := by simp only [Dev.retires, h.functionOff]

theorem engineFor (m : Nat) (f : Fetched) : e.engineFor m f = d.engineFor m f := by
  simp only [Dev.engineFor, h.classes, h.choose, h.homeOf]

variable (hs : ∀ m, e.seam m = d.seam m)
include hs

theorem queueReady (m q : Nat) : e.queueReady m q = d.queueReady m q := by
  have hfenced : ∀ f, e.fenced m q f = d.fenced m q f := fun f => by
    simp only [Dev.fenced, Dev.queueJobs, Dev.seamJobs, h.jobs]
  simp only [Dev.queueReady, hfenced, hs]

theorem drillsWait : e.drillsWait = d.drillsWait := by
  rw [Bool.eq_iff_iff]
  simp only [Dev.drillsWait, Bool.or_eq_true, Dev.any_active]
  simp only [h.jobs, h.keptOut, h.dispatcher, h.choose, h.queueReady hs, h.classes,
    h.engineFor, hs]

theorem queueEligible (m q : Nat) : e.queueEligible m q = d.queueEligible m q := by
  simp only [Dev.queueEligible, h.queueReady hs, h.retires, h.engineFor, h.classes, h.drillsWait hs]

end

end Dev.Alike

end Sys2Proof.Machine
end
section
/-! ## A dispatcher's decision (04:R94, R97, R98, R105, 01:R24, R404, R405, 05:R139, 16:R357) -/

namespace Sys2Proof.Machine

/-! ### Updates of a ridge and of a seam together -/

/-- A change to a ridge is what it makes of the ridge that stands there. -/
theorem Dev.modRidge_congr (d : Dev) (r : Nat) {f g : Ridge → Ridge} (h : f (d.ridge r) = g (d.ridge r)) :
    d.modRidge r f = d.modRidge r g := by
  have : d.ridges.modify r f = d.ridges.modify r g := by
    refine List.ext_getElem? fun i => ?_
    rw [List.getElem?_modify, List.getElem?_modify]
    by_cases hi : r = i
    · subst hi
      cases hx : d.ridges[r]? with
      | none => rfl
      | some x =>
        have hr : d.ridge r = x := by simp [Dev.ridge, List.getD, hx]
        simpa [hr] using h
    · simp [hi]
  simp only [Dev.modRidge, this]

theorem Dev.modArb_congr (d : Dev) (r : Nat) {f g : Arb → Arb} (h : f (d.ridge r).arb = g (d.ridge r).arb) :
    d.modArb r f = d.modArb r g := d.modRidge_congr r (by rw [h])

theorem Dev.modArb_id (d : Dev) (r : Nat) : (d.modArb r fun a => a) = d := by
  show ({ d with ridges := d.ridges.modify r id } : Dev) = d
  rw [List.modify_id]

theorem Dev.seam_modArb (d : Dev) (r : Nat) (f : Arb → Arb) (m : Nat) : (d.modArb r f).seam m = d.seam m := rfl

/-- A field of a ridge's arbiter that a change leaves alone. -/
theorem Dev.arb_modArb (d : Dev) (r : Nat) {α : Type} {g : Arb → α} {f : Arb → Arb} (h : ∀ a, g (f a) = g a) :
    g ((d.modArb r f).ridge r).arb = g (d.ridge r).arb := by
  by_cases hr : r < d.ridges.length
  · rw [Dev.modArb, Dev.ridge_modRidge_self _ _ _ hr]
    exact h _
  · simp [Dev.ridge, Dev.modArb, List.getD, hr]

/-- Every seam stands as it stood once one has changed into what it was. -/
theorem Dev.seam_modSeam_same {d : Dev} {m : Nat} {f : Seam → Seam} (h : f (d.seam m) = d.seam m) (k : Nat) :
    (d.modSeam m f).seam k = d.seam k := by
  by_cases hk : m = k
  · subst hk
    rw [Dev.seam_modSeam_self, h]
  · exact d.seam_modSeam_other f hk

/-! ### The circular order (04:R98) -/

theorem le_of_find?_eq_some {p : Nat → Bool} {ns : List Nat} {n : Nat} (hs : ns.Pairwise (· < ·)) (h : ns.find? p = some n) :
    ∀ x ∈ ns, p x = true → n ≤ x := by
  induction ns with
  | nil => simp
  | cons y ns ih =>
    obtain ⟨hy, hns⟩ := List.pairwise_cons.1 hs
    cases hp : p y with
    | true =>
      obtain rfl : y = n := by simpa [hp] using h
      exact fun x hx _ => (List.mem_cons.1 hx).elim (fun hx => hx ▸ le_rfl) fun hx => (hy x hx).le
    | false =>
      have hn : ns.find? p = some n := by simpa [hp] using h
      intro x hx hpx
      rcases List.mem_cons.1 hx with rfl | hx
      · exact absurd hpx (by simp [hp])
      · exact ih hns hn x hx hpx

/-- The next one of an ascending list after `cur`, `cur` itself last. -/
theorem nextAfter_spec {cur n : Nat} {ns : List Nat} {p : Nat → Bool} (hs : ns.Pairwise (· < ·))
    (h : nextAfter cur ns p = some n) :
    n ∈ ns ∧ p n = true ∧ ∀ x ∈ ns, p x = true → (cur < x → cur < n ∧ n ≤ x) ∧ (x ≤ cur → cur < n ∨ n ≤ x) := by
  have hmem : n ∈ ns := (List.mem_append.1 (List.mem_of_find?_eq_some h)).elim List.mem_of_mem_filter List.mem_of_mem_filter
  have hp : p n = true := List.find?_some h
  refine ⟨hmem, hp, fun x hx hpx => ?_⟩
  unfold nextAfter at h
  rw [List.find?_append, Option.or_eq_some_iff] at h
  rcases h with hafter | ⟨hnone, hupto⟩
  · have hn : cur < n := by simpa using (List.mem_filter.1 (List.mem_of_find?_eq_some hafter)).2
    exact ⟨fun hcx => ⟨hn, le_of_find?_eq_some (hs.filter _) hafter x (List.mem_filter.2 ⟨hx, by simpa using hcx⟩) hpx⟩,
      fun _ => .inl hn⟩
  · refine ⟨fun hcx => ?_, fun hxc => .inr ?_⟩
    · exact absurd hpx (List.find?_eq_none.1 hnone x (List.mem_filter.2 ⟨hx, by simpa using hcx⟩))
    · exact le_of_find?_eq_some (hs.filter _) hupto x (List.mem_filter.2 ⟨hx, by simpa using hxc⟩) hpx

/-! ### The grant of a queue's head -/

/-- The head of a queue has left its prefetch cache, and its dispatcher has counted the grant. -/
def Dev.headTaken (d : Dev) (r m q : Nat) (rest : List Fetched) : Dev :=
  (d.modQueue m q fun k => { k with
    prefetch := rest, head := k.head + 1
    reported := if d.homeOf m = d.mirrorOf m then k.reported + 1 else k.reported }).modArb r fun a => { a with grants := a.grants + 1 }

/-- A granted head is retired with a verdict, and the ring is read further. -/
def Dev.retireHead (d : Dev) (r m q : Nat) (f : Fetched) (v : Verdict) : Dev :=
  ((d.modArb r fun a => { a with retired := a.retired + 1 }).retire m q f v).fetchSeam m

theorem Dev.Alike.of_headTaken (d : Dev) (r m q : Nat) (rest : List Fetched) : d.Alike (d.headTaken r m q rest) :=
  (Dev.Alike.of_modQueue d m q _).trans (.of_modArb _ r _)

section
variable {d : Dev} {r m q : Nat} {f : Fetched} {rest : List Fetched} (hq : ((d.seam m).queue q).prefetch = f :: rest)
include hq

theorem Dev.grant_of_bad {v : Verdict} (h : f.bad = some v) : d.grant r m q = (d.headTaken r m q rest).retireHead r m q f v := by
  simp only [Dev.grant, hq, h]
  rfl

variable (hb : f.bad = none)
include hb

theorem Dev.grant_of_retired (h : f.desc.op ≤ 1) : d.grant r m q = (d.headTaken r m q rest).retireHead r m q f done := by
  simp only [Dev.grant, hq, hb, if_pos h]
  rfl

variable (hop : 1 < f.desc.op)
include hop

theorem Dev.grant_of_refused {v : Verdict} (h : (d.headTaken r m q rest).stage2 m f.desc 0 none = .error v) :
    d.grant r m q = (d.headTaken r m q rest).retireHead r m q f v := by
  unfold Dev.headTaken at h
  simp only [Dev.grant, hq, hb, if_neg (Nat.not_le.2 hop), h]
  rfl

theorem Dev.grant_of_passed {p : Passed} (h : (d.headTaken r m q rest).stage2 m f.desc 0 none = .ok p) :
    d.grant r m q = if isDeep f.desc.op = true ∧ (d.ridge (d.homeOf m)).world.restarting = true then
      (d.headTaken r m q rest).retireHead r m q f ⟨0x0706, 0, 0⟩
    else ((d.headTaken r m q rest).dispatch m q f p).fetchSeam m := by
  have halike : d.Alike (d.headTaken r m q rest) := Dev.Alike.of_headTaken d r m q rest
  have hdeep : (d.headTaken r m q rest).deepDown m = (d.ridge (d.homeOf m)).world.restarting := by
    rw [Dev.deepDown, halike.homeOf]
    exact halike.of_ridge (g := fun x => x.world.restarting) (fun _ _ _ => rfl) _
  unfold Dev.headTaken at h hdeep
  simp only [Dev.grant, hq, hb, if_neg (Nat.not_le.2 hop), h, hdeep, Bool.and_eq_true]
  split <;> rfl

end

/-! ### What a retirement leaves of jobs and SQ heads -/

/-- The jobs, and the head of every queue. -/
def Dev.jobsAndHeads (d : Dev) : List JobRec × (Nat → Nat → BitVec 32) := (d.jobs, fun m q => ((d.seam m).queue q).head)

theorem Dev.jobsAndHeads_eq_iff {d e : Dev} : e.jobsAndHeads = d.jobsAndHeads ↔
    e.jobs = d.jobs ∧ ∀ m q, ((e.seam m).queue q).head = ((d.seam m).queue q).head := by
  simp only [Dev.jobsAndHeads, Prod.mk.injEq, funext_iff]

theorem Dev.jobsAndHeads_of_seams {d e : Dev} (hj : e.jobs = d.jobs) (hs : e.seams = d.seams) :
    e.jobsAndHeads = d.jobsAndHeads := by
  unfold Dev.jobsAndHeads
  rw [hj]
  simp only [Dev.seam_congr hs]

theorem Dev.modSeam_jobsAndHeads (d : Dev) (m : Nat) {f : Seam → Seam}
    (h : ∀ x q, ((f x).queue q).head = (x.queue q).head := by intros; rfl) :
    (d.modSeam m f).jobsAndHeads = d.jobsAndHeads := by
  refine Prod.ext rfl (funext fun k => funext fun q => ?_)
  by_cases hk : m = k
  · subst hk
    simpa [Dev.jobsAndHeads] using h _ q
  · simp [Dev.jobsAndHeads, d.seam_modSeam_other f hk]

theorem Dev.modRun_jobsAndHeads (d : Dev) (m : Nat) {f : SeamRun → SeamRun} (h : ∀ x, (f x).queues = x.queues := by intros; rfl) :
    (d.modRun m f).jobsAndHeads = d.jobsAndHeads :=
  d.modSeam_jobsAndHeads m fun x q => by simp [Seam.queue, h]

theorem Dev.modQueue_jobsAndHeads (d : Dev) (m q : Nat) {f : Queue → Queue} (h : ∀ k, (f k).head = k.head := by intros; rfl) :
    (d.modQueue m q f).jobsAndHeads = d.jobsAndHeads := by
  refine d.modSeam_jobsAndHeads m fun x i => ?_
  cases hx : x.run.queues[i]? with
  | none => simp [Seam.queue, List.getD, List.getElem?_modify, hx]
  | some k => by_cases hi : q = i <;> simp [Seam.queue, List.getD, hx, hi, h]

theorem Dev.pkgEvent_jobsAndHeads (d : Dev) (id x : Nat) (m : Option Nat) : (d.pkgEvent id x m).jobsAndHeads = d.jobsAndHeads :=
  Dev.jobsAndHeads_of_seams (by simp) (by simp)

theorem Dev.irq_jobsAndHeads (d : Dev) (m : Nat) (l : Lk) : (d.irq m l).jobsAndHeads = d.jobsAndHeads := by
  unfold Dev.irq
  extract_lets e
  split
  · rfl
  · exact Dev.jobsAndHeads_of_seams (by simp) (by simp)

theorem Dev.seamFault_jobsAndHeads (d : Dev) (m cause : Nat) : (d.seamFault m cause).jobsAndHeads = d.jobsAndHeads := by
  unfold Dev.seamFault
  split
  · exact (Dev.pkgEvent_jobsAndHeads _ _ _ _).trans (d.modSeam_jobsAndHeads m)
  · rfl

theorem Dev.putCompletion_jobsAndHeads (d : Dev) (m : Nat) (c : Compl) (irq : Bool) (first : Option Lk) (hold : Bool) :
    (d.putCompletion m c irq first hold).1.jobsAndHeads = d.jobsAndHeads := by
  unfold Dev.putCompletion
  split
  · exact d.modRun_jobsAndHeads m
  next cq _ =>
    extract_lets pasid w next e i
    have hnext : next.jobsAndHeads = d.jobsAndHeads := d.modRun_jobsAndHeads m
    have hfail : (((d.modRun m fun x => { x with cq := some { cq with held := cq.held - 1 } }).seamFault m 1).discard m).jobsAndHeads =
        d.jobsAndHeads :=
      (Dev.modRun_jobsAndHeads _ m).trans
        ((Dev.seamFault_jobsAndHeads _ m 1).trans (d.modRun_jobsAndHeads m))
    have hsent : ∀ l, ((next.spineSend (d.homeOf m) (lkRidge l)).send l w).jobsAndHeads = d.jobsAndHeads := fun l =>
      (Dev.jobsAndHeads_of_seams (by simp) (by simp)).trans hnext
    split
    · split
      · split
        · exact (Dev.irq_jobsAndHeads _ m _).trans (hsent _)
        · exact hsent _
      · exact hfail
    · split
      · exact (next.modRun_jobsAndHeads m).trans hnext
      · exact hfail

theorem Dev.retire_jobsAndHeads (d : Dev) (m q : Nat) (f : Fetched) (v : Verdict) :
    (d.retire m q f v).jobsAndHeads = d.jobsAndHeads := by
  unfold Dev.retire
  extract_lets x c e
  have hput : (e.putCompletion m c (needsIrq f.desc.flags v.status) none false).1.jobsAndHeads = d.jobsAndHeads :=
    (Dev.putCompletion_jobsAndHeads _ _ _ _ _ _).trans (d.modRun_jobsAndHeads m)
  split
  next put sent heq =>
    rw [heq] at hput
    split
    · exact hput
    · exact hput

theorem Dev.queueFault_jobsAndHeads (d : Dev) (m q : Nat) : (d.queueFault m q).jobsAndHeads = d.jobsAndHeads := by
  unfold Dev.queueFault
  split
  · extract_lets e t
    have he : e.jobsAndHeads = d.jobsAndHeads := d.modQueue_jobsAndHeads m q
    refine (Dev.pkgEvent_jobsAndHeads _ _ _ _).trans (Eq.trans ?_ he)
    cases hl : e.dmaLink m with
    | none => simp only [t, hl]
    | some l => simp only [t, hl, Dev.irq_jobsAndHeads]
  · exact d.modQueue_jobsAndHeads m q

theorem Dev.fetch_jobsAndHeads (d : Dev) (m q : Nat) : (d.fetch m q).jobsAndHeads = d.jobsAndHeads := by
  unfold Dev.fetch
  extract_lets x
  split
  · split
    · split
      · exact d.modQueue_jobsAndHeads m q
      · exact d.queueFault_jobsAndHeads m q
    · exact d.queueFault_jobsAndHeads m q
  · rfl

theorem Dev.retireHead_jobsAndHeads (d : Dev) (r m q : Nat) (f : Fetched) (v : Verdict) :
    (d.retireHead r m q f v).jobsAndHeads = d.jobsAndHeads :=
  (foldl_same Dev.jobsAndHeads (fun d k => d.fetch_jobsAndHeads m k) _ _).trans (Dev.retire_jobsAndHeads _ m q f v)

/-! ### A queue whose turn it is -/

/-- A queue within its burst keeps its turn. -/
theorem Dev.pickQueue_of_stay {d : Dev} {m : Nat} (hq : (d.seam m).run.cur < 4) (he : d.queueEligible m (d.seam m).run.cur = true)
    (hc : 0 < ((d.seam m).queue (d.seam m).run.cur).credit) (hb : 0 < ((d.seam m).queue (d.seam m).run.cur).bleft) :
    d.pickQueue m = some ((d.seam m).run.cur, { (d.seam m).run with
      queues := (d.seam m).run.queues.modify (d.seam m).run.cur fun k => { k with credit := k.credit - 1, bleft := k.bleft - 1 } }) := by
  have hel : ((List.range 4).map (d.queueEligible m)).getD (d.seam m).run.cur false = true := by
    simp [List.getD, hq, he]
  have hany : ((List.range 4).any fun q => ((List.range 4).map (d.queueEligible m)).getD q false &&
      decide (0 < ((d.seam m).run.queues.getD q Queue.blank).credit)) = true :=
    List.any_eq_true.2 ⟨_, List.mem_range.2 hq, by rw [hel, Bool.true_and]; exact decide_eq_true hc⟩
  have hcredit : decide (0 < ((d.seam m).run.queues.getD (d.seam m).run.cur Queue.blank).credit) = true := decide_eq_true hc
  have hburst : decide (0 < ((d.seam m).run.queues.getD (d.seam m).run.cur Queue.blank).bleft) = true := decide_eq_true hb
  simp only [Dev.pickQueue, if_pos hany, hel, hcredit, hburst, Bool.and_self, if_true, Option.map_some]

/-- A credit within the seam's WEIGHT stays. -/
theorem Dev.capCredits_seam {d : Dev} {m : Nat} (h : (d.seam m).run.credit ≤ (d.seam m).entry.weight.toNat) (k : Nat) :
    (d.capCredits [m]).seam k = d.seam k := by
  refine Dev.seam_modSeam_same (d := d) (m := m)
    (f := fun x => { x with run := { x.run with credit := min x.run.credit x.entry.weight.toNat } }) ?_ k
  simp only [Nat.min_eq_left h]

/-- What the grant costs: one credit of the seam and one of the queue, in the round of a single eligible seam (04:R98). -/
def Dev.paid (d : Dev) (r m q : Nat) : Dev :=
  (d.modArb r fun a => { a with eligible := 1 }).modRun m fun x => { x with
    credit := x.credit - 1, bleft := x.bleft - 1
    queues := x.queues.modify q fun k => { k with credit := k.credit - 1, bleft := k.bleft - 1 } }

/-- The round has capped the credit of the one seam that is homed on the ridge, and has found it eligible. -/
def Dev.counted (d : Dev) (r m : Nat) : Dev := (d.capCredits [m]).modArb r fun a => { a with eligible := 1 }

/-- A head that is retired, or that finds its engines, makes its queue eligible. -/
theorem Dev.queueEligible_of_ready {d : Dev} {m q : Nat} {f : Fetched} (hf : d.queueReady m q = some f)
    (h : d.retires m f = true ∨ (d.engineFor m f = true ∧ d.drillsWait = false)) : d.queueEligible m q = true := by
  rcases h with h | ⟨he, hw⟩
  · simp [Dev.queueEligible, hf, h]
  · simp [Dev.queueEligible, hf, he, hw]

theorem Dev.counted_arb_cur (d : Dev) (r m : Nat) : ((d.counted r m).ridge r).arb.cur = (d.ridge r).arb.cur :=
  (d.capCredits [m]).arb_modArb r fun _ => rfl

/-- The round's seam pays, and its queue. -/
theorem Dev.counted_modRun (d : Dev) (r m q : Nat) : ((d.counted r m).modRun m fun _ => { (d.seam m).run with
      credit := (d.seam m).run.credit - 1, bleft := (d.seam m).run.bleft - 1
      queues := (d.seam m).run.queues.modify q fun k => { k with credit := k.credit - 1, bleft := k.bleft - 1 } }) =
    d.paid r m q :=
  Dev.modSeam_modSeam (d.modArb r fun a => { a with eligible := 1 }) m
    (fun x => { x with run := { x.run with credit := min x.run.credit x.entry.weight.toNat } }) _

theorem Dev.queue_paid {d : Dev} {r m q : Nat} (hq : q < (d.seam m).run.queues.length) :
    ((d.paid r m q).seam m).queue q = { (d.seam m).queue q with
      credit := ((d.seam m).queue q).credit - 1, bleft := ((d.seam m).queue q).bleft - 1 } := by
  simp [Dev.paid, Dev.modRun, Dev.seam_modArb, Seam.queue, List.getD, hq]

/-- The head of a ready queue, which its seam has. -/
theorem Dev.queue_of_ready {d : Dev} {m q : Nat} {f : Fetched} (h : d.queueReady m q = some f) :
    q < (d.seam m).run.queues.length ∧ ∃ rest, ((d.seam m).queue q).prefetch = f :: rest := by
  have hrest : ∃ rest, ((d.seam m).queue q).prefetch = f :: rest := by
    revert h
    unfold Dev.queueReady
    extract_lets k
    rcases hk : k.prefetch with - | ⟨g, rest⟩
    · cases k.state <;> simp
    · cases k.state <;> simp +contextual
  refine ⟨Nat.lt_of_not_le fun hlen => ?_, hrest⟩
  obtain ⟨rest, hrest⟩ := hrest
  rw [Seam.queue_of_length_le hlen] at hrest
  cases hrest

theorem Dev.queue_headTaken {d : Dev} {r m q : Nat} (hq : q < (d.seam m).run.queues.length) (rest : List Fetched) :
    (((d.headTaken r m q rest).seam m).queue q).head = ((d.seam m).queue q).head + 1 := by
  unfold Dev.headTaken
  rw [Dev.seam_modArb, Dev.queue_modQueue_self hq]

end Sys2Proof.Machine

namespace Sys2Proof.Claims
open Machine

section
variable {d : Dev} {r m q : Nat} {f : Fetched} (t : Turn d r m q f)
include t

theorem Turn.failedRead : ∀ j ∈ d.jobs, j.job.failedRead = none := by
  intro j hj
  obtain ⟨-, -, hread⟩ := t.jobs j hj
  cases hi : j.job.inp with
  | failed st => exact absurd hi (hread st).1
  | none | waiting | got _ =>
    cases ha : j.job.aux with
    | failed st => exact absurd ha (hread st).2
    | none | waiting | got _ => simp only [Job.failedRead, hi, ha]

theorem Turn.placeWaiting : d.placeWaiting r = d := by
  have hneeds : (d.jobs.filter fun j => j.job.phase == .needsEngine && d.dispatcher j == r) = [] :=
    List.filter_eq_nil_iff.2 fun j hj => by simp [(t.jobs j hj).1]
  have hwaits : (d.jobs.filter fun j => j.job.phase == .engine && j.job.ridge == r && j.tail.waitFrom.isSome) = [] :=
    List.filter_eq_nil_iff.2 fun j hj => by simp [(t.jobs j hj).2.1]
  simp only [Dev.placeWaiting, hneeds, List.foldl_nil, hwaits]

/-! The round up to its choice: the credits of the one seam are capped, and it is the one that is eligible. -/

theorem Turn.counted_seam (k : Nat) : (d.counted r m).seam k = d.seam k := Dev.capCredits_seam t.credit.2.1 k

theorem Turn.alike_capCredits : d.Alike (d.capCredits [m]) :=
  ⟨rfl, (Dev.Alike.refl d).ridge, fun k => congrArg Seam.entry (Dev.capCredits_seam t.credit.2.1 k)⟩

theorem Turn.alike_counted : d.Alike (d.counted r m) := t.alike_capCredits.trans (.of_modArb _ r _)

/-- The current seam stays current. -/
theorem Turn.counted_modArb : ((d.counted r m).modArb r fun a => { a with cur := BitVec.ofNat 13 m }) = d.counted r m := by
  refine (Dev.modArb_congr _ r ?_).trans (Dev.modArb_id _ r)
  have hcur : BitVec.ofNat 13 m = ((d.counted r m).ridge r).arb.cur := by
    rw [Dev.counted_arb_cur, ← t.seam.2, BitVec.ofNat_toNat, BitVec.setWidth_eq]
  rw [hcur]

variable (h : d.retires m f = true ∨ (d.engineFor m f = true ∧ d.drillsWait = false))
include h

theorem Turn.skipped : d.skipped r = [] := by
  obtain ⟨-, -, hready, -⟩ := t.queue
  unfold Dev.skipped
  refine List.flatMap_eq_nil_iff.2 fun k hk => List.filterMap_eq_nil_iff.2 fun i hi => ?_
  obtain rfl : k = m := by simpa [t.alone.2] using List.mem_of_mem_filter hk
  by_cases hiq : i = q
  · subst hiq
    rcases h with h | ⟨he, -⟩
    · simp [hready, h]
    · simp [hready, he]
  · rw [t.others i (List.mem_range.1 hi) hiq]
    rfl

/-- The seam stays eligible as its credit is capped. -/
theorem Turn.capCredits_eligible : (d.capCredits [m]).seamEligible m = true := by
  have hseam := Dev.capCredits_seam t.credit.2.1
  have hready : (d.capCredits [m]).seamReady m = true := by
    simpa only [Dev.seamReady, hseam] using t.seam.1
  have hqueue : (d.capCredits [m]).queueEligible m q = true :=
    (t.alike_capCredits.queueEligible hseam m q).trans (Dev.queueEligible_of_ready t.queue.2.2.1 h)
  exact Bool.and_eq_true_iff.2 ⟨hready, List.any_eq_true.2 ⟨q, List.mem_range.2 t.queue.1, hqueue⟩⟩

theorem Turn.counted_pickQueue : (d.counted r m).pickQueue m = some (q, { (d.seam m).run with
    queues := (d.seam m).run.queues.modify q fun k => { k with credit := k.credit - 1, bleft := k.bleft - 1 } }) := by
  obtain ⟨hq4, hcur, hready, -⟩ := t.queue
  have hqueue : (d.counted r m).queueEligible m q = true :=
    (t.alike_counted.queueEligible t.counted_seam m q).trans (Dev.queueEligible_of_ready hready h)
  have hpick := Dev.pickQueue_of_stay (d := d.counted r m) (m := m)
  rw [t.counted_seam, hcur] at hpick
  exact hpick hq4 hqueue t.share.1 t.share.2

/-- The round grants the queue whose turn it is. -/
theorem Turn.decideGrant : d.decideGrant r = (d.paid r m q).grant r m q := by
  obtain ⟨hcredit, -, hburst⟩ := t.credit
  unfold Dev.decideGrant
  extract_lets ss c el u u' cur x stay w
  have hss : ss = [m] := t.alone.2
  have hel : el = [m] := by simp [el, c, hss, t.capCredits_eligible h]
  have hu : u = d.counted r m := by
    simp only [u, c, hss, hel]
    rfl
  have hu' : u' = d.counted r m := by
    refine (if_pos ?_).trans hu
    simpa [hel, hu, t.counted_seam, Nat.blt_eq] using hcredit
  have hcur : cur = m := by rw [← t.seam.2, ← d.counted_arb_cur r m, ← hu']
  have hx : x = (d.seam m).run := by rw [← t.counted_seam, ← hu', ← hcur]
  have hstay : stay = true := by simp [stay, hel, hcur, hx, Nat.blt_eq, hcredit, hburst]
  have hw : w = d.counted r m := (if_pos (by rw [hstay]; rfl)).trans hu'
  rw [if_neg (by simp [hel]), if_pos hstay, hw, hcur]
  simp only [t.counted_modArb, t.counted_pickQueue h, d.counted_modRun]

/-- No job waits and no queue is passed over: the decision is the round. -/
theorem Turn.grantDecision : d.grantDecision r = (d.paid r m q).grant r m q := by
  obtain ⟨hfetch, hserves, hpower⟩ := t.runs
  have hworks : d.working = true := by
    revert hfetch
    simp +contextual [Dev.fetching, Dev.working]
  have hskips : (d.modArb r fun a => { a with skips := satInc a.skips 0 }) = d := by
    simp only [satInc_zero, Dev.modArb_id]
  unfold Dev.grantDecision
  rw [if_pos (by simp [hworks, hserves, hpower]), t.placeWaiting, if_pos hfetch, t.skipped h]
  exact (congrArg (Dev.decideGrant · r) hskips).trans (t.decideGrant h)

end

section
variable {d : Dev} {r m q : Nat} {f : Fetched} (t : Turn d r m q f) (hb : f.bad = none) (hop : f.desc.op ≤ 1)
include t hb hop

/-- A NOP or a FENCE at its turn is retired: no job is touched, and the SQ head passes it. -/
theorem Turn.grant_jobsAndHead : ((d.paid r m q).grant r m q).jobs = d.jobs ∧
    ((((d.paid r m q).grant r m q).seam m).queue q).head = f.index + 1 := by
  obtain ⟨-, -, hready, hindex⟩ := t.queue
  obtain ⟨hlen, rest, hrest⟩ := Dev.queue_of_ready hready
  have hpaid : q < ((d.paid r m q).seam m).run.queues.length := by
    simpa [Dev.paid, Dev.modRun, Dev.seam_modArb] using hlen
  have hpre : (((d.paid r m q).seam m).queue q).prefetch = f :: rest := by rw [Dev.queue_paid hlen, hrest]
  rw [Dev.grant_of_retired hpre hb hop]
  obtain ⟨hjobs, hheads⟩ := Dev.jobsAndHeads_eq_iff.1
    (Dev.retireHead_jobsAndHeads ((d.paid r m q).headTaken r m q rest) r m q f done)
  refine ⟨hjobs, ?_⟩
  calc ((((d.paid r m q).headTaken r m q rest).retireHead r m q f done).seam m |>.queue q).head
      = ((((d.paid r m q).headTaken r m q rest).seam m).queue q).head := hheads m q
    _ = (((d.paid r m q).seam m).queue q).head + 1 := Dev.queue_headTaken hpaid rest
    _ = f.index + 1 := by rw [Dev.queue_paid hlen, hindex]

/-- The row of its opcode and the dispatcher's decision both make that grant. -/
theorem Turn.retired : d.grantHere m q f.desc.op = ((d.paid r m q).grant r m q).endFailed ∧
    d.grantDecision r = (d.paid r m q).grant r m q := by
  have hdecision : d.grantDecision r = (d.paid r m q).grant r m q := t.grantDecision (.inl (by simp [Dev.retires, hop]))
  obtain ⟨hjobs, hhead⟩ := t.grant_jobsAndHead hb hop
  have hend : ((d.paid r m q).grant r m q).endFailed = (d.paid r m q).grant r m q :=
    Dev.endFailed_of_none (hjobs ▸ t.failedRead)
  refine ⟨?_, hdecision⟩
  unfold Dev.grantHere
  rw [t.queue.2.2.1, t.alone.1]
  simp only [hdecision, hend, hb, hhead, Option.isNone_none, beq_self_eq_true, Bool.and_self, if_true]

end

end Sys2Proof.Claims

open Sys2Proof Machine Claims

/-- Settles O24: what a decision does first, whom the round grants in its turn, what a grant does, and the circular order. -/
theorem Sys2Proof.grants : Obligations.Grants := by
  intro s r m q d
  refine ⟨fun hworks hserves hpower => ?runs, fun h => ?stands,
    fun f ht => ⟨fun hb hop => ?nop, fun hb hop => ?fence, fun h => ?turn⟩,
    fun f rest hq => ⟨fun v hb => ?bad, fun hb hop => ?retired, fun v hb hop h => ?refused, fun p hb hop h => ?passed⟩,
    fun cur n ns p hs h => nextAfter_spec hs h⟩
  case runs =>
    refine leaves_of rfl (congrArg Dev.endFailed ?_)
    refine (if_pos (by simp [d, hworks, hserves, hpower])).trans ?_
    show (if (d.placeWaiting r).fetching then _ else _) = _
    generalize d.placeWaiting r = w
    cases w.fetching with
    | false => rfl
    | true => cases w.skipped r <;> rfl
  case stands =>
    refine leaves_of rfl (congrArg Dev.endFailed (if_neg ?_))
    simpa [and_assoc] using h
  case nop =>
    obtain ⟨hhere, hdecision⟩ := ht.retired hb (by omega)
    rw [hop] at hhere
    exact ⟨leaves_of rfl hhere, leaves_of rfl (congrArg Dev.endFailed hdecision)⟩
  case fence =>
    obtain ⟨hhere, hdecision⟩ := ht.retired hb (by omega)
    rw [hop] at hhere
    exact ⟨leaves_of rfl hhere, leaves_of rfl (congrArg Dev.endFailed hdecision)⟩
  case turn => exact leaves_of rfl (congrArg Dev.endFailed (ht.grantDecision h))
  case bad => exact Dev.grant_of_bad hq hb
  case retired => exact Dev.grant_of_retired hq hb hop
  case refused => exact Dev.grant_of_refused hq hb hop h
  case passed => exact Dev.grant_of_passed hq hb hop h
end
section
/-! ## The registers of the MQ, and the start of its commands (04:R112 to R114, R401, Table 4.8) -/

namespace Sys2Proof.Machine

/-! ### Register writes -/

theorem Dev.stamped_eq (d : Dev) : Claims.stamped d = d.stampWrite := by
  by_cases h : d.stamps.write = some (d.clock / 5) <;>
    simp [Claims.stamped, Dev.stampWrite, Dev.ownCycle, Dev.stamp, Dev.spineCycle, h]

section
variable {d : Dev} {l : Lk} {v : W64}

/-- What the register takes of a write while ENABLE is clear: VECTOR, LINK, and sizes of 4 to 12 (log 28). -/
def Dev.mqSized (d : Dev) (l : Lk) (v : W64) : Dev :=
  let sq : BitVec 4 := v.extractLsb' 0 4
  let cq : BitVec 4 := v.extractLsb' 4 4
  let vector : BitVec 6 := v.extractLsb' 16 6
  if 4 ≤ sq.toNat ∧ sq.toNat ≤ 12 ∧ 4 ≤ cq.toNat ∧ cq.toNat ≤ 12 then
    d.modMq fun q => { q with vector := vector, link := v.getLsbD 8, sqLog2 := sq, cqLog2 := cq }
  else (d.modMq fun q => { q with vector := vector, link := v.getLsbD 8 }).ignoredWrite l 0x20010

theorem Dev.mqSized_held (d : Dev) (l : Lk) (v : W64) : (d.mqSized l v).mq.held = d.mq.held := by
  unfold Dev.mqSized
  extract_lets sq cq vector
  split
  · rfl
  · rfl

theorem Dev.mqCtrl_of_disabled (h : d.mq.enable = false) : d.mqCtrl l v =
    if v.getLsbD 9 then (d.mqSized l v).mqRise
    else (d.mqSized l v).modMq fun q => { q with enable := false, state := 0, reading := false } := by
  simp only [Dev.mqCtrl, h, Dev.mqSized, decide_eq_true_eq]
  rfl

theorem Dev.mqCtrl_of_enabled (h : d.mq.enable = true) : d.mqCtrl l v =
    if v.getLsbD 9 then d.modMq fun q => { q with vector := v.extractLsb' 16 6 }
    else d.modMq fun q => { q with vector := v.extractLsb' 16 6, enable := false, state := 0, reading := false } := by
  simp only [Dev.mqCtrl, h]
  rfl

end

@[simp] theorem Dev.link_stamped (d : Dev) (l : Lk) : (Claims.stamped d).link l = d.link l := by cases l <;> rfl

/-! ### The start of a command -/

theorem Desc.carriesToken_iff (x : Desc) : x.carriesToken = true ↔ x.op = 0x8021 ∧ x.p 0 1 = 0 := by
  simp [Desc.carriesToken]

section
variable {d : Dev} {used : Bool} {len : BitVec 32}

/-- A read that the MQ's link carries, or of which there is none, is issued. -/
theorem Dev.mqRead_of_issued (h : (d.link (lkOf d.mq.link)).carries = true ∨ ¬(used = true ∧ len ≠ 0)) :
    d.mqRead used len = if used = true ∧ len ≠ 0 then .waiting else .none := by
  by_cases hr : used = true ∧ len ≠ 0
  · simp [Dev.mqRead, hr, h.resolve_right (not_not.2 hr)]
  · rw [if_neg hr]
    exact if_pos (by simpa [imp_iff_not_or] using hr)

theorem Dev.mqRead_of_stuck (hc : ¬(d.link (lkOf d.mq.link)).carries = true) (hr : used = true ∧ len ≠ 0) :
    d.mqRead used len = .failed 0x0201 := by
  rw [Dev.mqRead, if_neg (by simpa [hr.1] using hr.2), if_neg hc]
  rfl

end

section
variable {d : Dev} {n : Nat} {c : MqCmd} (hc : d.mqCmd n = some c) (hup : d.mqUp = true) (hs : c.started = false)
  (hm : c.mayStart (d.mq.cmds.takeWhile fun x => !(x.named n)) = true)

/-- The device once Keade has taken up a command. -/
def Dev.takenUp (d : Dev) (n : Nat) : Dev :=
  (d.modCmd n fun c => { c with started := true }).modMq fun q => { q with head := if q.enable then q.newHead else q.head }

/-- The mode has nothing to say of an accepted command at its start. -/
theorem Dev.modeRefusal_of_accepted (ha : (d.takenUp n).modeRefusal c.desc = none ∨ (c.desc.op = 0x8021 ∧ c.desc.p 0 1 = 0)) :
    (if c.desc.carriesToken then none else (d.takenUp n).modeRefusal c.desc) = none := by
  rcases ha with hr | ht
  · rw [hr, ite_self]
  · exact if_pos (c.desc.carriesToken_iff.2 ht)

include hc hup hs hm

theorem Dev.mqStart_of_bad {v : Verdict} (h : c.bad = some v) : d.mqStart n = ((d.takenUp n).mqComplete n v).mqFetch := by
  simp only [Dev.mqStart, hc, hup, hs, hm, h, Bool.not_false, Bool.and_true, if_true]
  rfl

variable (h : c.bad = none)
include h

theorem Dev.mqStart_of_refused {v : Verdict} (ht : ¬(c.desc.op = 0x8021 ∧ c.desc.p 0 1 = 0))
    (hr : (d.takenUp n).modeRefusal c.desc = some v) : d.mqStart n = ((d.takenUp n).mqComplete n v).mqFetch := by
  unfold Dev.takenUp at hr
  simp only [Dev.mqStart, hc, hup, hs, hm, h, if_neg (mt c.desc.carriesToken_iff.1 ht), hr, Bool.not_false, Bool.and_true, if_true]
  rfl

variable (ha : (d.takenUp n).modeRefusal c.desc = none ∨ (c.desc.op = 0x8021 ∧ c.desc.p 0 1 = 0))
include ha

/-- Both reads of an accepted command are issued, or need not be. -/
theorem Dev.mqStart_of_issued (hl : (d.link (lkOf d.mq.link)).carries = true ∨
      ¬((c.desc.usesIn = true ∧ c.desc.inLen ≠ 0) ∨ (c.desc.usesAux = true ∧ c.desc.auxLen ≠ 0))) :
    d.mqStart n = ((d.takenUp n).modCmd n fun y => { y with
      inp := if c.desc.usesIn = true ∧ c.desc.inLen ≠ 0 then .waiting else .none
      aux := if c.desc.usesAux = true ∧ c.desc.auxLen ≠ 0 then .waiting else .none }).mqFetch := by
  have hmode := Dev.modeRefusal_of_accepted ha
  unfold Dev.takenUp at hmode
  simp only [Dev.mqStart, hc, hup, hs, hm, h, hmode, Dev.mqRead_of_issued (hl.imp_right fun hn hr => hn (.inl hr)),
    Dev.mqRead_of_issued (hl.imp_right fun hn hr => hn (.inr hr)), Bool.not_false, Bool.and_true, if_true]
  split_ifs <;> rfl

theorem Dev.mqStart_of_stuck (hl : ¬(d.link (lkOf d.mq.link)).carries = true)
    (hr : c.desc.usesIn = true ∧ c.desc.inLen ≠ 0) : d.mqStart n = (Claims.ends (d.takenUp n) n 0x0201 0x21).mqFetch := by
  have hmode := Dev.modeRefusal_of_accepted ha
  unfold Dev.takenUp at hmode
  simp only [Dev.mqStart, hc, hup, hs, hm, h, hmode, Dev.mqRead_of_stuck hl hr, Bool.not_false, Bool.and_true, if_true]
  rfl

end

/-! ### The commands -/

/-- What a BAR0 register write that takes place leaves. -/
theorem leaves_stamped {s : State} {i : Instr} {takes : Bool} {f : Dev → Dev} {e : Dev}
    (hi : exec i s = .next ⟨s.pending, if takes then f s.dev.stampWrite else s.dev⟩) (ht : takes = true)
    (he : f (Claims.stamped s.dev) = e) : leaves i s e :=
  leaves_of hi ((if_pos ht).trans ((congrArg f s.dev.stamped_eq.symm).trans he))

section
variable {s : State} {l : Lk} {val : W64} {e : Dev} (hup : ((Claims.stamped s.dev).link l).up = true)
include hup

theorem leaves_mqSqTailWrite (he : (Claims.stamped s.dev).mqTail (val.setWidth 32) = e) : leaves (.mqSqTailWrite l val) s e :=
  leaves_stamped (f := fun d => d.mqTail (val.setWidth 32)) rfl (by simpa using hup) he

theorem leaves_mqCqHeadWrite (he : (Claims.stamped s.dev).mqHead (val.setWidth 32) = e) : leaves (.mqCqHeadWrite l val) s e :=
  leaves_stamped (f := fun d => d.mqHead (val.setWidth 32)) rfl (by simpa using hup) he

theorem leaves_mqEnable (h9 : val.getLsbD 9 = true) (he : (Claims.stamped s.dev).mqCtrl l val = e) : leaves (.mqEnable l val) s e :=
  leaves_stamped (f := fun d => d.mqCtrl l val) rfl (by rw [h9]; simpa using hup) he

theorem leaves_mqDisable (h9 : val.getLsbD 9 = false) (he : (Claims.stamped s.dev).mqCtrl l val = e) : leaves (.mqDisable l val) s e :=
  leaves_stamped (f := fun d => d.mqCtrl l val) rfl (by rw [h9]; simpa using hup) he

end

end Sys2Proof.Machine

open Sys2Proof Machine Claims

/-- Settles O33: each register write by what it leaves, then a started command by what ends it or issues its reads. -/
theorem Sys2Proof.mqRegisters : Obligations.MqRegisters := by
  intro s l val d q up v n rule wake sq cq sized vector set
  refine ⟨fun hup hr => ?tail, fun hup hr => ?badTail, fun hup hr => ?head, fun hup hr => ?badHead, fun hup h9 he => ?rise,
    fun hup h9 he => ?enabled, fun hup h9 he => ?disabled, fun hup h9 he => ?fall, fun n c hc hq hs hm => ?start⟩
  case tail => exact leaves_mqSqTailWrite hup (if_pos hr)
  case badTail => exact leaves_mqSqTailWrite hup (if_neg hr)
  case head => exact leaves_mqCqHeadWrite hup (if_pos hr)
  case badHead => exact leaves_mqCqHeadWrite hup (if_neg (Nat.not_le.2 hr))
  case rise =>
    refine leaves_mqEnable hup h9 ((Dev.mqCtrl_of_disabled he).trans ((if_pos h9).trans ?_))
    rw [Dev.mqRise, Dev.modMq_mq, Dev.mqSized_held]
    rfl
  case enabled => exact leaves_mqEnable hup h9 ((Dev.mqCtrl_of_enabled he).trans (if_pos h9))
  case disabled => exact leaves_mqDisable hup h9 ((Dev.mqCtrl_of_disabled he).trans (if_neg (ne_true_of_eq_false h9)))
  case fall => exact leaves_mqDisable hup h9 ((Dev.mqCtrl_of_enabled he).trans (if_neg (ne_true_of_eq_false h9)))
  case start =>
    refine ⟨fun v hv => ?_, fun v hv ht hr => ?_, fun hv ha hl => ?_, fun hv ha hl hr => ?_⟩
    · exact leaves_of rfl (Dev.mqStart_of_bad hc hq hs hm hv)
    · exact leaves_of rfl (Dev.mqStart_of_refused hc hq hs hm hv ht hr)
    · exact leaves_of rfl (Dev.mqStart_of_issued hc hq hs hm hv ha hl)
    · exact leaves_of rfl (Dev.mqStart_of_stuck hc hq hs hm hv ha hl hr)
end
section
/-! ## The queues of a seam (04:R84, R85, R110, R111) -/

namespace Sys2Proof.Machine

/-! ### QUEUE_CREATE -/

section
variable {d : Dev} {m q : Nat} {b : List Byte}

theorem Dev.queueCreate_of_inactive (h : (d.seam m).entry.state ≠ .active) (n : Nat) :
    d.queueCreate n m q b = Claims.ends d n 0x0802 1 := if_pos h

theorem Dev.queueCreate_of_unbound (ha : (d.seam m).entry.state = .active) (hp : (d.seam m).entry.pasidValid = false) (n : Nat) :
    d.queueCreate n m q b = Claims.ends d n 0x0802 0x13 :=
  (if_neg (not_not.2 ha)).trans (if_pos (by simp [hp]))

/-- A block is judged once the seam is ACTIVE and bound. -/
theorem Dev.queueCreate_of_bound (ha : (d.seam m).entry.state = .active) (hp : (d.seam m).entry.pasidValid = true) (n : Nat) :
    d.queueCreate n m q b =
      if ((d.seam m).queue q).state ≠ .none then Claims.ends d n 0x0802 0x10
      else if 16384 ≤ d.queueCount then Claims.ends d n 0x0802 0x14
      else match blockFault (queueChecks b (d.seam m).run.cq.isSome) with
        | some v => d.mqComplete n v
        | none => Claims.ends (d.modRun m fun z => { z with
            queues := z.queues.set q { Queue.blank with
              state := .running, base := BitVec.ofNat 64 (field b 0 8), log2 := field b 16 1, weight := field b 18 1
              burst := field b 19 1 }
            cq := some (z.cq.getD ⟨BitVec.ofNat 64 (field b 8 8), field b 17 1, 0, 0, 0⟩) }) n 0x0000 0 :=
  (if_neg (not_not.2 ha)).trans (if_neg (by simp [hp]))

/-! ### QUEUE_SHUTDOWN -/

theorem Dev.queueShut_of_dead (h : ¬((d.seam m).entry.state = .active ∨ (d.seam m).entry.state = .faulted)) (n : Nat) :
    d.queueShut n m q = Claims.ends d n 0x0802 1 := if_pos (not_or.1 h)

section
variable (hlive : (d.seam m).entry.state = .active ∨ (d.seam m).entry.state = .faulted)
include hlive

theorem Dev.queueShut_of_stopped (h : ¬(((d.seam m).queue q).state = .running ∨ ((d.seam m).queue q).state = .faulted)) (n : Nat) :
    d.queueShut n m q = Claims.ends d n 0x0802 0x11 :=
  (if_neg (not_and_or.2 (hlive.imp not_not.2 not_not.2))).trans (if_pos (not_or.1 h))

theorem Dev.queueShut_of_runs (h : ((d.seam m).queue q).state = .running ∨ ((d.seam m).queue q).state = .faulted) (n : Nat) :
    d.queueShut n m q = (d.modQueue m q fun k => { k with
      state := .shutting, prefetch := [], reading := false, shutCmd := some n }).cmdWaits n :=
  (if_neg (not_and_or.2 (hlive.imp not_not.2 not_not.2))).trans (if_neg (not_and_or.2 (h.imp not_not.2 not_not.2)))

end

/-- A SHUTTING queue without an entry, a job or a held write goes, with the last one the CQ (04:R111). -/
theorem Dev.shutDrained_of_drained {c : Nat} (hc : ((d.seam m).queue q).shutCmd = some c)
    (hs : ((d.seam m).queue q).state = .shutting) (hh : ((d.seam m).queue q).head = ((d.seam m).queue q).tail)
    (hj : d.queueJobs m q = []) (hw : (d.seam m).run.heldWrites = []) : d.shutDrained m q =
      (let t := d.modQueue m q fun _ => Queue.blank
       Claims.ends (if (t.seam m).run.anyQueue then t else t.modRun m fun z => { z with cq := none }) c 0x0000 0) := by
  simp only [Dev.shutDrained, hc]
  exact if_pos (by simp [hs, hh, hj, hw])

/-! ### QUEUE_RESTART -/

theorem Dev.queueRestart_of_inactive (h : (d.seam m).entry.state ≠ .active) (n : Nat) :
    d.queueRestart n m q = Claims.ends d n 0x0802 1 := if_pos h

section
variable (ha : (d.seam m).entry.state = .active)
include ha

theorem Dev.queueRestart_of_unfaulted (h : ((d.seam m).queue q).state ≠ .faulted) (n : Nat) :
    d.queueRestart n m q = Claims.ends d n 0x0802 0x11 := (if_neg (not_not.2 ha)).trans (if_pos h)

theorem Dev.queueRestart_of_faulted (h : ((d.seam m).queue q).state = .faulted) (n : Nat) : d.queueRestart n m q =
    Claims.ends ((d.modQueue m q fun k => { k with state := .running, prefetch := [], reading := false }).fetch m q) n 0x0000 0 :=
  (if_neg (not_not.2 ha)).trans (if_neg (not_not.2 h))

end

/-! ### Entries of a SHUTTING queue -/

theorem Dev.countRead_data (d : Dev) (l : Option Lk) (bytes : List Byte) : d.countRead l (.data bytes) = d := by
  cases l <;> rfl

/-- The completion of an entry that a shutdown removes (04:R111; log 40). -/
def Seam.abortion (x : Seam) (q : Nat) (y : Desc) : Compl :=
  { tag := y.tag, status := 0x0701, gen := x.entry.gen, replayed := false, chained := y.chain, queue := q
    sqHead := (x.queue q).head + 1, written := 0, detail := 0, ns := 0, handle := 0 }

section
variable (hs : ((d.seam m).queue q).state = .shutting) (hh : ((d.seam m).queue q).head ≠ ((d.seam m).queue q).tail)
include hs hh

/-- The entry at the head of a SHUTTING queue, once it has been read. -/
theorem Dev.abortEntry_of_data (bytes : List Byte) : d.abortEntry m q (.data bytes) =
    (let x := d.seam m
     let next := d.modQueue m q fun k => { k with head := k.head + 1, reported := k.head + 1 }
     let y := Desc.ofBytes bytes
     if x.entry.state = .faulted then next.discard m
     else if !x.run.creditFree then d
     else
       let put := (next.modRun m fun z => { z with cq := z.cq.map fun c => { c with held := c.held + 1 } }).putCompletion m
         (x.abortion q y) true none false
       if put.2 = .written then put.1.captureWhole m y.opcode ((x.queue q).arrivalOf (x.queue q).head d.clock) else put.1) := by
  unfold Dev.abortEntry
  simp only [hs, hh, Dev.countRead_data, bne_self_eq_false, beq_iff_eq, Bool.false_or, if_false]
  congr 2
  cases h : (Dev.putCompletion _ _ _ _ _ _) with
  | mk e sent => cases sent <;> simp [Seam.abortion, stAbortQueue] at h ⊢ <;> simp [h]

end

end

end Sys2Proof.Machine

open Sys2Proof Machine Claims

/-- Settles O37: each queue command by what it leaves, and each entry that a shutdown removes. -/
theorem Sys2Proof.queueCommands : Obligations.QueueCommands := by
  intro s n x inp b d m q y k
  refine ⟨fun h => ⟨fun ha => ?inactive, fun ha hp => ?unbound, fun ha hp hk => ?taken, fun ha hp hk hc => ?full,
      fun ha hp hk hc => ⟨fun v hv => ?malformed, fun hv => ?created⟩⟩,
    fun h => ⟨fun hl => ?dead, fun hl hr => ?stopped, fun hl hr => ?shut⟩, fun g i c hc hs hh hj hw => ?drained,
    fun h => ⟨fun ha => ?idle, fun ha hf => ?unfaulted, fun ha hf => ?restarted⟩, fun g i bytes hs hh => ?removed⟩
  case inactive => exact leaves_seamCommand rfl h (Dev.queueCreate_of_inactive ha n)
  case unbound => exact leaves_seamCommand rfl h (Dev.queueCreate_of_unbound ha hp n)
  case taken => exact leaves_seamCommand rfl h ((Dev.queueCreate_of_bound ha hp n).trans (if_pos hk))
  case full =>
    exact leaves_seamCommand rfl h ((Dev.queueCreate_of_bound ha hp n).trans ((if_neg (not_not.2 hk)).trans (if_pos hc)))
  case malformed =>
    refine leaves_seamCommand rfl h ((Dev.queueCreate_of_bound ha hp n).trans ?_)
    rw [if_neg (not_not.2 hk), if_neg (Nat.not_le.2 hc), hv]
  case created =>
    refine leaves_seamCommand rfl h ((Dev.queueCreate_of_bound ha hp n).trans ?_)
    rw [if_neg (not_not.2 hk), if_neg (Nat.not_le.2 hc), hv]
  case dead => exact leaves_seamCommand rfl h (Dev.queueShut_of_dead hl n)
  case stopped => exact leaves_seamCommand rfl h (Dev.queueShut_of_stopped hl hr n)
  case shut => exact leaves_seamCommand rfl h (Dev.queueShut_of_runs hl hr n)
  case drained => exact leaves_of rfl (Dev.shutDrained_of_drained hc hs hh hj hw)
  case idle => exact leaves_seamCommand rfl h (Dev.queueRestart_of_inactive ha n)
  case unfaulted => exact leaves_seamCommand rfl h (Dev.queueRestart_of_unfaulted ha hf n)
  case restarted => exact leaves_seamCommand rfl h (Dev.queueRestart_of_faulted ha hf n)
  case removed =>
    have heq := Dev.abortEntry_of_data (d := d) hs hh bytes
    refine ⟨fun hf => ?_, fun hf hc => ?_, fun hf hc => ⟨fun hw => ?_, fun hw => ?_⟩⟩
    · exact leaves_of rfl (heq.trans (if_pos hf))
    · exact leaves_of rfl (heq.trans ((if_neg hf).trans (if_pos (by simp [hc]))))
    all_goals refine leaves_of rfl (heq.trans ((if_neg hf).trans ((if_neg (by simp [hc])).trans ?_)))
    · exact if_pos hw
    · exact if_neg hw
end

section
/-! ## What the operation on an engine leaves (01:R404, 05:R116, R117) -/

namespace Sys2Proof.Machine

/-- A ready engine answers with the result of its operation: a refusal stands at once, another follows the job's parts and its
draw (01:R404, 05:R117, 12:R288). -/
theorem Dev.work_of_ready {d : Dev} {r b op : Nat} {j : JobRec} {inp aux : List Byte}
    (h : Claims.EngineReady d r b op j inp aux) (f : Work → Result) : d.work r b (· == op) f =
      (let w := Claims.workOf d j inp aux
       let out := w.seal (f w)
       if out.refusal j.job.desc then Claims.turnedAway d r j out else Claims.worked (Claims.partsRun d j) w r j out) := by
  obtain ⟨hruns, hheld, hphase, hridge, hblk, hop, hin, haux, ⟨hka, hkb⟩, ⟨hri, hra⟩, hfresh, hparts, hdraws⟩ := h
  have hrunning : d.running r b (· == op) = some j := by
    simp [Dev.running, hruns, hheld, hphase, hridge, hblk, hop, hfresh]
  have hw : d.workOf r b j = Claims.workOf d j inp aux := by
    simp only [Dev.workOf, Claims.workOf, hka, hkb, hri, hra]
  have hread : (j.job.inp.bytes?.isNone || j.job.aux.bytes?.isNone) = false := by
    simp [Option.isNone_eq_false_iff, Option.isSome_iff_ne_none, hin, haux]
  unfold Claims.partsRun at hparts hdraws
  subst hblk
  simp only [Dev.work, hrunning, hread, hw, hparts, hdraws, Bool.not_true, Bool.false_eq_true, if_false]
  rfl

section
variable {i : Instr} {s : State} {r b op : Nat} {j : JobRec} {inp aux : List Byte} {f : Work → Result}
  (hi : exec i s = s.upd fun d => d.work r b (· == op) f) (h : Claims.EngineReady s.dev r b op j inp aux)
include hi h

/-- The command of an operation gives the result that the operation computes from its operands. -/
theorem givesIn_of_work {res : Result} (hf : f (Claims.workOf s.dev j inp aux) = res) : Claims.givesIn i s r j inp aux res := by
  subst hf
  show exec i s = _
  rw [hi, State.upd_next, Dev.work_of_ready h]

/-- So it does where the result's time is left open. -/
theorem gives_of_work {res : Nat → Result} (hf : ∃ ns, f (Claims.workOf s.dev j inp aux) = res ns) :
    Claims.gives i s r j inp aux res := by
  obtain ⟨ns, hns⟩ := hf
  exact ⟨ns, givesIn_of_work hi h hns⟩

/-- An operation that refuses some lengths at once, and else gives a result whose time is left open. -/
theorem gives_or_fails_of_work {p : Prop} [Decidable p] {fail : Result} {res : Nat → Result}
    (hbad : p → f (Claims.workOf s.dev j inp aux) = fail) (hgood : ¬p → ∃ ns, f (Claims.workOf s.dev j inp aux) = res ns) :
    if p then Claims.givesIn i s r j inp aux fail else Claims.gives i s r j inp aux res := by
  split
  next hp => exact givesIn_of_work hi h (hbad hp)
  next hp => exact gives_of_work hi h (hgood hp)

end

/-! ### Results -/

@[simp] theorem good_eq_finished (out : List Byte) (ns detail : Nat) : good out ns detail = Claims.finished out detail ns none := rfl

@[simp] theorem bad_eq_fails (st : BitVec 16) (ns detail : Nat) : bad st ns detail = Claims.fails st detail ns := rfl

@[simp] theorem early_eq_fails (st : BitVec 16) (code : Nat) : early st code = Claims.fails st code 0 := rfl

@[simp] theorem tooSmall_eq_short (need : Nat) : tooSmall need = Claims.short need := rfl

@[simp] theorem verdictOf_eq_verdict (ok : Bool) (ns : Nat) : verdictOf ok ns = Claims.verdict ok ns := by
  cases ok <;> rfl

@[simp] theorem Work.secret_eq_finished (w : Work) (t : W64) (z out : List Byte) (ns : Nat) :
    w.secret t z out ns = Claims.finished out 0 ns (some (w.d.keyOf w.s t z)) := rfl

/-- What the validation phase answers, in a time of its own where it refuses. -/
theorem exists_validated {fs : List Flaw} {cycles : Nat} {go : Unit → Result} {res : Nat → Result} (h : ∃ ns, go () = res ns) :
    ∃ ns, validated fs cycles go = Claims.checked fs res ns := by
  unfold validated Claims.checked
  cases firstFault fs with
  | none => exact h
  | some f => exact ⟨_, rfl⟩

/-! ### What an engine works on -/

section
variable (d : Dev) (j : JobRec) (inp aux : List Byte)

@[simp] theorem workOf_d : (Claims.workOf d j inp aux).d = d := rfl
@[simp] theorem workOf_s : (Claims.workOf d j inp aux).s = j.job.seam := rfl
@[simp] theorem workOf_x : (Claims.workOf d j inp aux).x = j.job.desc := rfl
@[simp] theorem workOf_a : (Claims.workOf d j inp aux).a = j.job.keyA := rfl
@[simp] theorem workOf_b : (Claims.workOf d j inp aux).b = j.job.keyB := rfl
@[simp] theorem workOf_inp : (Claims.workOf d j inp aux).inp = inp := rfl
@[simp] theorem workOf_aux : (Claims.workOf d j inp aux).aux = aux := rfl
@[simp] theorem workOf_alg : (Claims.workOf d j inp aux).alg = Claims.algOf j := rfl
@[simp] theorem workOf_pubKey : (Claims.workOf d j inp aux).pubKey = Claims.publicOf j.job.keyA aux := rfl
@[simp] theorem workOf_random (i n : Nat) : (Claims.workOf d j inp aux).random i n = Claims.drawn d i n := rfl
@[simp] theorem workOf_h : (Claims.workOf d j inp aux).h = j.job.desc.p 0 4 := rfl
@[simp] theorem workOf_pre : (Claims.workOf d j inp aux).pre = (j.job.desc.p 4 1 == 1) := rfl
@[simp] theorem workOf_curve (a : Nat) : (Claims.workOf d j inp aux).curve a = CurveNums.of (d.params j.job.seam a) := rfl

end

theorem workOf_priv {d : Dev} {j : JobRec} {inp aux : List Byte} {key : KeyMat} (h : j.job.keyA = some key) :
    (Claims.workOf d j inp aux).priv = key.priv := by
  simp [Work.priv, h]

theorem algOf_of_key {j : JobRec} {key : KeyMat} (h : j.job.keyA = some key) : Claims.algOf j = tAlg key.template := by
  simp [Claims.algOf, h]

end Sys2Proof.Machine
end

section
/-! ## RSA (05:Table 5.7, 06:R150) -/

namespace Sys2Proof.Machine

/-! ### Modular powers -/

theorem powLoop_eq {m f b e acc : Nat} (he : e < 2 ^ f) (hacc : acc % m = acc) : powLoop f b e m acc = acc * b ^ e % m := by
  induction f generalizing b e acc with
  | zero =>
    obtain rfl : e = 0 := by omega
    simp [powLoop, hacc]
  | succ f ih =>
    have hsquare : acc * b ^ e = acc * b ^ (e % 2) * (b * b) ^ (e / 2) := by
      rw [← pow_two, ← pow_mul, mul_assoc, ← pow_add, Nat.mod_add_div]
    have hhalf : e / 2 < 2 ^ f := by omega
    rw [powLoop, hsquare]
    rcases Nat.mod_two_eq_zero_or_one e with h | h
    · rw [if_neg (by omega), ih hhalf hacc, h, Nat.mul_mod, ← Nat.pow_mod, ← Nat.mul_mod, pow_zero, mul_one]
    · rw [if_pos h, ih hhalf (Nat.mod_mod _ _), h, Nat.mul_mod, Nat.mod_mod, ← Nat.pow_mod, ← Nat.mul_mod, pow_one]

@[simp] theorem powMod_eq (b e m : Nat) : powMod b e m = b ^ e % m := by
  rw [powMod, powLoop_eq Nat.lt_log2_self (Nat.mod_mod _ _), Nat.mul_mod, Nat.mod_mod, ← Nat.pow_mod, ← Nat.mul_mod, one_mul]

/-! ### Its checks -/

/-- The first check of an integer for a private key that fails (06:Table 6.6). -/
theorem checked_rsaIntFaults (x n off : Nat) (go : Nat → Result) (ns : Nat) :
    Claims.checked (rsaIntFaults x n off true) go ns =
      if n ≤ x then Claims.fails 0x0403 (off % 2 ^ 15) ns else if x = 0 then Claims.fails 0x0401 (off % 2 ^ 15) ns
      else if x = 1 ∨ x + 1 = n then Claims.fails 0x0402 (off % 2 ^ 15) ns else go ns := by
  unfold rsaIntFaults
  simp only [true_and]
  split_ifs <;> rfl

section
variable {d : Dev} {j : JobRec} {inp aux : List Byte}

theorem workOf_rsaPublic : (Claims.workOf d j inp aux).rsaPublic = Claims.rsaOpen j.job.keyA aux := by
  unfold Work.rsaPublic Claims.rsaOpen Claims.workOf
  cases j.job.keyA <;> rfl

theorem rsaOpen_of_key {key : KeyMat} (h : j.job.keyA = some key) : (Claims.rsaOpen j.job.keyA aux).1 = (Claims.rsaSecret key).1 ∧
    (Claims.rsaOpen j.job.keyA aux).2.2 = (Claims.rsaSecret key).2.2 := by
  rw [h]
  exact ⟨rfl, rfl⟩

theorem workOf_rsaPower {key : KeyMat} (h : j.job.keyA = some key) (m : Nat) :
    (Claims.workOf d j inp aux).rsaPower m = m ^ (Claims.rsaSecret key).2.1 % (Claims.rsaSecret key).1 := by
  simp only [Work.rsaPower, workOf_priv h, powMod_eq]
  rfl

/-- An RSA public key fails RANGE for its exponent, then ZERO_INPUT for a short modulus (05:R130; log 39). -/
theorem workOf_rsaKeyFaults : (Claims.workOf d j inp aux).rsaKeyFaults =
    let k := Claims.rsaOpen j.job.keyA aux
    (if k.1 ≤ k.2.1 ∨ k.1 % 2 = 0 ∨ (j.job.keyA = none ∧ (k.2.1 % 2 = 0 ∨ k.2.1 < 3)) then [⟨stRange, 0, true⟩] else []) ++
      (if k.1 < 2 ^ (8 * (k.2.2 - 1)) then [⟨stZeroInput, 0, true⟩] else []) := by
  simp only [Work.rsaKeyFaults, workOf_rsaPublic, workOf_a, Option.isNone_iff_eq_none]

theorem checked_rsaKeyFaults (go : Nat → Result) (ns : Nat) :
    Claims.checked (Claims.workOf d j inp aux).rsaKeyFaults go ns =
      let k := Claims.rsaOpen j.job.keyA aux
      if k.1 ≤ k.2.1 ∨ k.1 % 2 = 0 ∨ (j.job.keyA = none ∧ (k.2.1 % 2 = 0 ∨ k.2.1 < 3)) then Claims.fails 0x0403 0x8000 ns
      else if k.1 < 2 ^ (8 * (k.2.2 - 1)) then Claims.fails 0x0401 0x8000 ns else go ns := by
  rw [workOf_rsaKeyFaults]
  dsimp only
  split_ifs <;> rfl

/-- Of an integer and a key, RANGE is judged of both before ZERO_INPUT of either. -/
theorem checked_rsaIntFaults_append_rsaKeyFaults (x : Nat) (go : Nat → Result) (ns : Nat) :
    Claims.checked (rsaIntFaults x (Claims.rsaOpen j.job.keyA aux).1 0 false ++ (Claims.workOf d j inp aux).rsaKeyFaults) go ns =
      let k := Claims.rsaOpen j.job.keyA aux
      if k.1 ≤ x then Claims.fails 0x0403 0 ns
      else if k.1 ≤ k.2.1 ∨ k.1 % 2 = 0 ∨ (j.job.keyA = none ∧ (k.2.1 % 2 = 0 ∨ k.2.1 < 3)) then Claims.fails 0x0403 0x8000 ns
      else if x = 0 then Claims.fails 0x0401 0 ns
      else if k.1 < 2 ^ (8 * (k.2.2 - 1)) then Claims.fails 0x0401 0x8000 ns else go ns := by
  rw [workOf_rsaKeyFaults]
  unfold rsaIntFaults
  simp only [Bool.false_eq_true, false_and, if_false]
  split_ifs <;> rfl

theorem labelOk_eq_true (b : List Byte) : labelOk b = true ↔ field b 0 2 ≤ 256 ∧ 2 + field b 0 2 ≤ b.length := by
  simp [labelOk]

end

/-! ### The operations -/

section
variable {s : State} {r b : Nat} {j : JobRec} {inp aux : List Byte}

theorem rsaSign_result {d : Dev} {key : KeyMat} (hk : j.job.keyA = some key) (pss : Bool) :
    ∃ ns, (Claims.workOf d j inp aux).rsaSign pss =
      Claims.finished (slice (Config.sign 0x100 [] key.priv (variant j.job.desc.param.toNat [if pss then 1 else 0]) inp
        (if pss then Claims.drawn d 0 (digestLen (j.job.desc.p 0 4)) else [])) 0 (Claims.rsaSecret key).2.2) 0 ns none := by
  simp only [Work.rsaSign, workOf_rsaPublic, workOf_priv hk, (rsaOpen_of_key hk).2]
  exact ⟨_, rfl⟩

theorem rsaRawPrivate_result {d : Dev} {key : KeyMat} (hk : j.job.keyA = some key) :
    ∃ ns, (Claims.workOf d j inp aux).rsaRawPrivate = Claims.checked (rsaIntFaults (beNat inp) (Claims.rsaSecret key).1 0 true)
      (fun ns => Claims.finished (beBytes (Claims.rsaSecret key).2.2
        (beNat inp ^ (Claims.rsaSecret key).2.1 % (Claims.rsaSecret key).1)) 0 ns none) ns := by
  obtain ⟨hn, hl⟩ := rsaOpen_of_key (aux := aux) hk
  simp only [Work.rsaRawPrivate, workOf_rsaPublic, workOf_rsaPower hk, hn, hl]
  exact exists_validated ⟨_, rfl⟩

theorem rsaDecrypt_result {d : Dev} {key : KeyMat} (hk : j.job.keyA = some key) (hl : field inp 0 2 ≤ 256)
    (hlen : inp.length = 2 + field inp 0 2 + (Claims.rsaSecret key).2.2) :
    let c := beNat (slice inp (2 + field inp 0 2) (Claims.rsaSecret key).2.2)
    let h := j.job.desc.p 0 4
    ∃ ns, (Claims.workOf d j inp aux).rsaDecrypt =
      Claims.checked (rsaIntFaults c (Claims.rsaSecret key).1 (2 + field inp 0 2) true) (fun ns =>
        match Config.oaepDecode h (slice inp 2 (field inp 0 2))
          (beBytes (Claims.rsaSecret key).2.2 (c ^ (Claims.rsaSecret key).2.1 % (Claims.rsaSecret key).1)) with
        | some m => Claims.finished (m.take ((Claims.rsaSecret key).2.2 - 2 * digestLen h - 2)) 0 ns none
        | none => Claims.fails 0x0001 0 ns) ns := by
  intro c h
  obtain ⟨hn, hk'⟩ := rsaOpen_of_key (aux := aux) hk
  have hok : labelOk inp = true := (labelOk_eq_true inp).2 ⟨hl, by omega⟩
  simp only [Work.rsaDecrypt, workOf_rsaPublic, workOf_inp, workOf_rsaPower hk, hn, hk', hok, hlen, bne_self_eq_false,
    Bool.not_true, Bool.or_self, Bool.false_eq_true, if_false]
  exact exists_validated ⟨engNs ((Claims.workOf d j inp aux).rsaPrivCycles (Claims.rsaSecret key).2.2), rfl⟩

theorem rsaDecrypt_of_misfit {d : Dev} {key : KeyMat} (hk : j.job.keyA = some key)
    (h : 256 < field inp 0 2 ∨ inp.length ≠ 2 + field inp 0 2 + (Claims.rsaSecret key).2.2) :
    (Claims.workOf d j inp aux).rsaDecrypt = Claims.fails 0x0103 0x0202 0 := by
  have hbad : (!labelOk inp || inp.length != 2 + field inp 0 2 + (Claims.rsaSecret key).2.2) = true := by
    rcases h with h | h
    · simp [labelOk, Nat.not_le.2 h]
    · simp [h]
  simp only [Work.rsaDecrypt, workOf_rsaPublic, workOf_inp, (rsaOpen_of_key hk).2, if_pos hbad]
  rfl

theorem rsaVerify_result (d : Dev) (j : JobRec) (inp aux : List Byte) :
    let k := Claims.rsaOpen j.job.keyA aux
    ∃ ns, (Claims.workOf d j inp aux).rsaVerify = Claims.checked (Claims.workOf d j inp aux).rsaKeyFaults
      (Claims.verdict (Config.verify 0x100 [k.1, k.2.1] []
        (variant j.job.desc.param.toNat [if j.job.desc.p 6 1 = 1 then 1 else 0]) (inp.drop k.2.2) (slice inp 0 k.2.2))) ns := by
  simp only [Work.rsaVerify, workOf_rsaPublic, verdictOf_eq_verdict]
  exact exists_validated ⟨_, rfl⟩

theorem rsaRawPublic_result (d : Dev) (j : JobRec) (inp aux : List Byte) :
    let k := Claims.rsaOpen j.job.keyA aux
    ∃ ns, (Claims.workOf d j inp aux).rsaRawPublic =
      Claims.checked (rsaIntFaults (beNat inp) k.1 0 false ++ (Claims.workOf d j inp aux).rsaKeyFaults)
        (fun ns => Claims.finished (beBytes k.2.2 (beNat inp ^ k.2.1 % k.1)) 0 ns none) ns := by
  simp only [Work.rsaRawPublic, workOf_rsaPublic, powMod_eq]
  exact exists_validated ⟨_, rfl⟩

theorem rsaEncrypt_result {d : Dev} (hl : field inp 0 2 ≤ 256) (hlen : 2 + field inp 0 2 ≤ inp.length)
    (hroom : inp.length - 2 - field inp 0 2 + 2 * digestLen (j.job.desc.p 0 4) + 2 ≤ (Claims.rsaOpen j.job.keyA aux).2.2) :
    let k := Claims.rsaOpen j.job.keyA aux
    let h := j.job.desc.p 0 4
    ∃ ns, (Claims.workOf d j inp aux).rsaEncrypt = Claims.checked (Claims.workOf d j inp aux).rsaKeyFaults (fun ns =>
      let m := Config.oaepEncode h (slice inp 2 (field inp 0 2)) (inp.drop (2 + field inp 0 2)) (Claims.drawn d 0 (digestLen h)) k.2.2
      Claims.finished (beBytes k.2.2 (beNat m ^ k.2.1 % k.1)) 0 ns none) ns := by
  have hok : labelOk inp = true := (labelOk_eq_true inp).2 ⟨hl, hlen⟩
  simp only [Work.rsaEncrypt, workOf_rsaPublic, workOf_inp, workOf_h, hok, Nat.not_lt.2 hroom, decide_false, Bool.not_true,
    Bool.or_self, Bool.false_eq_true, if_false, powMod_eq]
  exact exists_validated ⟨_, rfl⟩

theorem rsaEncrypt_of_misfit {d : Dev} (h : 256 < field inp 0 2 ∨ inp.length < 2 + field inp 0 2 ∨
    (Claims.rsaOpen j.job.keyA aux).2.2 < inp.length - 2 - field inp 0 2 + 2 * digestLen (j.job.desc.p 0 4) + 2) :
    (Claims.workOf d j inp aux).rsaEncrypt = Claims.fails 0x0103 0x0202 0 := by
  have hbad : (!labelOk inp || decide ((Claims.rsaOpen j.job.keyA aux).2.2 <
      inp.length - 2 - field inp 0 2 + 2 * digestLen (j.job.desc.p 0 4) + 2)) = true := by
    rcases h with h | h | h
    · simp [labelOk, Nat.not_le.2 h]
    · simp [labelOk, Nat.not_le.2 h]
    · simp [h]
  simp only [Work.rsaEncrypt, workOf_rsaPublic, workOf_inp, workOf_h, if_pos hbad]
  rfl

end

end Sys2Proof.Machine

open Sys2Proof Machine

/-- The RSA operations on a private key (05:Table 5.7, 06:R150). -/
theorem Sys2Proof.Claims.rsaPrivate : Claims.RsaPrivate := by
  intro s r b j inp aux key hk n d k x hash sig refused
  have hrefused : ∀ v off go ns, off < 2 ^ 15 → Claims.checked (rsaIntFaults v n off true) go ns = refused v off go ns := by
    intro v off go ns ho
    rw [checked_rsaIntFaults, Nat.mod_eq_of_lt ho]
  refine ⟨fun h => ?pkcs1, fun h => ?pss, fun h => ?raw, fun h => ?oaep⟩
  case pkcs1 => exact gives_of_work rfl h (rsaSign_result hk false)
  case pss => exact gives_of_work rfl h (rsaSign_result hk true)
  case raw =>
    obtain ⟨ns, hns⟩ := rsaRawPrivate_result (d := s.dev) (inp := inp) (aux := aux) hk
    exact gives_of_work rfl h ⟨ns, hns.trans (hrefused _ _ _ _ (by decide))⟩
  case oaep =>
    intro l c
    split
    next hbad => exact givesIn_of_work rfl h (rsaDecrypt_of_misfit hk hbad)
    next hgood =>
      obtain ⟨hl, hlen⟩ := not_or.1 hgood
      obtain ⟨ns, hns⟩ := rsaDecrypt_result (d := s.dev) (aux := aux) hk (Nat.not_lt.1 hl) (not_not.1 hlen)
      exact gives_of_work rfl h ⟨ns, hns.trans (hrefused _ _ _ _ (by omega))⟩

/-- The RSA operations on a public key (05:Table 5.7, R130, 06:R150). -/
theorem Sys2Proof.Claims.rsaPublic : Claims.RsaPublic := by
  intro s r b j inp aux n e k x hash wide thin refused
  have hrefused : ∀ go, refused go = Claims.checked (Claims.workOf s.dev j inp aux).rsaKeyFaults go :=
    fun go => funext fun ns => (checked_rsaKeyFaults go ns).symm
  refine ⟨fun h => ?verify, fun h => ?oaep, fun h => ?raw⟩
  case verify =>
    rw [hrefused]
    exact gives_of_work rfl h (rsaVerify_result s.dev j inp aux)
  case oaep =>
    intro l m
    split
    next hbad => exact givesIn_of_work rfl h (rsaEncrypt_of_misfit hbad)
    next hgood =>
      rw [hrefused]
      simp only [not_or, Nat.not_lt] at hgood
      obtain ⟨hl, hlen, hroom⟩ := hgood
      exact gives_of_work rfl h (rsaEncrypt_result hl hlen hroom)
  case raw =>
    obtain ⟨ns, hns⟩ := rsaRawPublic_result s.dev j inp aux
    exact gives_of_work rfl h ⟨ns, hns.trans (checked_rsaIntFaults_append_rsaKeyFaults _ _ _)⟩

/-- Settles O12: the operations on a private and on a public key. -/
theorem Sys2Proof.rsaOperations : Obligations.RsaOperations := ⟨Claims.rsaPrivate, Claims.rsaPublic⟩
end

section
/-! ## Weierstrass curves (05:Tables 5.8 and 5.9, R131, 06:R147, R148, R150) -/

namespace Sys2Proof.Machine

/-- The checks of a point that has coordinates, the first that fails (06:Table 6.6). -/
theorem firstFault_pointFaults (w : Work) (a off : Nat) (aux : Bool) (bs : List Byte) :
    (firstFault (w.pointFaults a bs off aux)).map (·.status) =
      let c := w.curve a
      let lp := w.d.lp w.s a
      let x := beNat (slice bs 1 lp)
      let y := beNat (slice bs (1 + lp) lp)
      if bs.length = 1 then some 0x0401
      else if c.p ≤ x ∨ (bs.length = 1 + 2 * lp ∧ c.p ≤ y) then some 0x0403
      else if bs.length = 1 + 2 * lp ∧ x = 0 ∧ y = 0 then some 0x0401
      else if c.decode lp bs = none then some 0x0404
      else if isLoadedCurve a = true ∧ 1 < c.h ∧ c.mul c.h (c.decode lp bs) = none then some 0x0406
      else none := by
  by_cases hd : (w.curve a).decode (w.d.lp w.s a) bs = none <;>
    simp only [Work.pointFaults, beq_iff_eq, Option.isNone_iff_eq_none, Option.isSome_iff_ne_none, hd, ne_eq, not_true_eq_false,
      not_false_eq_true, false_and, and_false, true_and, if_true, if_false] <;>
    split_ifs <;> rfl

section
variable {d : Dev} {j : JobRec} {inp aux : List Byte}

theorem ecdsaSign_result {key : KeyMat} (hk : j.job.keyA = some key) : ∃ ns, (Claims.workOf d j inp aux).ecdsaSign =
    Claims.finished (slice (Config.sign (Claims.algOf j) (d.params j.job.seam (Claims.algOf j)) key.priv
      (variant j.job.desc.param.toNat []) inp (Claims.drawn d 0 32)) 0 (2 * d.ln j.job.seam (Claims.algOf j))) 0 ns none := by
  simp only [Work.ecdsaSign, workOf_priv hk]
  exact ⟨_, rfl⟩

theorem ecdsaVerify_result : let a := Claims.algOf j
    let n := 2 * d.ln j.job.seam a
    ∃ ns, (Claims.workOf d j inp aux).ecdsaVerify =
      Claims.checked (if j.job.keyA.isSome then [] else (Claims.workOf d j inp aux).pointFaults a aux 0 true)
        (Claims.verdict (Config.verify a (d.params j.job.seam a) (Claims.publicOf j.job.keyA aux)
          (variant j.job.desc.param.toNat []) (inp.drop n) (slice inp 0 n))) ns := by
  simp only [Work.ecdsaVerify, verdictOf_eq_verdict]
  exact exists_validated ⟨_, rfl⟩

theorem ecdhSecret_eq (w : Work) (a : Nat) (priv peer : List Byte) : w.ecdhSecret a priv peer =
    match (w.curve a).mul ((if isLoadedCurve a then (w.curve a).h else 1) * beNat priv) ((w.curve a).decode (w.d.lp w.s a) peer) with
    | some p => beBytes (w.d.lp w.s a) p.1
    | none => beBytes (w.d.lp w.s a) 0 := by
  unfold Work.ecdhSecret
  dsimp only
  cases CurveNums.mul _ _ _ <;> rfl

theorem ecdh_result {key : KeyMat} (hk : j.job.keyA = some key) : let a := Claims.algOf j
    ∃ ns, (Claims.workOf d j inp aux).ecdh = Claims.checked ((Claims.workOf d j inp aux).pointFaults a inp 0 false) (fun ns =>
      let z := (Claims.workOf d j inp aux).ecdhSecret a key.priv inp
      Claims.finished [] 0 ns (some (d.keyOf j.job.seam j.job.desc.keyB z))) ns := by
  simp only [Work.ecdh, workOf_priv hk, Work.secret_eq_finished]
  exact exists_validated ⟨_, rfl⟩

theorem pointMul_result : let a := 0x200 + j.job.desc.p 8 8
    let c := CurveNums.of (d.params j.job.seam a)
    let lp := d.lp j.job.seam a
    let ln := d.ln j.job.seam a
    let k := beNat (slice inp 0 ln)
    let pt := inp.drop ln
    ∃ ns, (Claims.workOf d j inp aux).pointMul =
      Claims.checked ((if c.n ≤ k then [(⟨0x0403, 0, false⟩ : Flaw)] else []) ++ (if k = 0 then [⟨0x0401, 0, false⟩] else []) ++
        (Claims.workOf d j inp aux).pointFaults a pt ln false) (fun ns =>
          match c.mul k (c.decode lp pt) with
          | some p => Claims.finished ([4] ++ beBytes lp p.1 ++ beBytes lp p.2) 0 ns none
          | none => Claims.finished (Claims.drawn d 0 (1 + 2 * lp)) 0 ns none) ns := by
  simp only [Work.pointMul, workOf_d, workOf_s, workOf_x, workOf_inp, workOf_curve]
  refine exists_validated ?_
  cases CurveNums.mul _ _ _ <;> exact ⟨_, rfl⟩

end

end Sys2Proof.Machine

open Sys2Proof Machine

/-- The operations on Weierstrass curves (05:Table 5.8, R131). -/
theorem Sys2Proof.Claims.curveOperations : Claims.CurveOperations := by
  intro s r b j inp aux w x a nums lp ln
  refine ⟨fun key hk h => ?sign, fun h => ?verify, fun key hk h => ?ecdh, fun h => ?mul⟩
  case sign => exact gives_of_work rfl h (ecdsaSign_result hk)
  case verify => exact gives_of_work rfl h ecdsaVerify_result
  case ecdh =>
    obtain ⟨ns, hns⟩ := ecdh_result (d := s.dev) (inp := inp) (aux := aux) hk
    simp only [ecdhSecret_eq] at hns
    exact gives_of_work rfl h ⟨ns, hns⟩
  case mul => exact gives_of_work rfl h pointMul_result

/-- Settles O13: the checks of a point in their order, and the operations on curves. -/
theorem Sys2Proof.weierstrassCurves : Obligations.WeierstrassCurves :=
  ⟨firstFault_pointFaults, Claims.curveOperations⟩
end

section
/-! ## Edwards and Montgomery curves (05:Table 5.9, R132, 06:R150, R151) -/

namespace Sys2Proof.Machine

/-! ### Parts of a block -/

/-- A part of a block, byte by byte. -/
theorem slice_eq_map (b : List Byte) (o n : Nat) : slice b o n = (List.range n).map fun i => b.getD (o + i) 0 := by
  refine List.ext_getElem (by simp) fun i hi _ => ?_
  have hn : i < n := by simpa using hi
  by_cases hb : o + i < b.length
  · simp [slice, List.getD, hb, hn, show i < b.length - o by omega]
  · simp [slice, List.getElem_append, List.getD, hb, show ¬i < b.length - o by omega]

theorem slice_slice (b : List Byte) {o n i k : Nat} (h : i + k ≤ n) : slice (slice b o n) i k = slice b (o + i) k := by
  rw [slice_eq_map, slice_eq_map, slice_eq_map]
  refine List.map_congr_left fun m hm => ?_
  have hin : i + m < n := by have := List.mem_range.1 hm; omega
  simp [List.getD, hin, Nat.add_assoc]

theorem field_slice (b : List Byte) {o n i k : Nat} (h : i + k ≤ n) : field (slice b o n) i k = field b (o + i) k := by
  rw [field, slice_slice b h, field]

/-! ### Bitmaps -/

/-- The number whose bits are the answers of a test. -/
theorem sum_two_pow_lt (p : Nat → Bool) (n : Nat) : ((List.range n).map fun i => if p i then 2 ^ i else 0).sum < 2 ^ n := by
  induction n with
  | zero => simp
  | succ n ih =>
    rw [List.range_succ, List.map_append, List.sum_append, Nat.pow_succ]
    simp only [List.map_cons, List.map_nil, List.sum_cons, List.sum_nil]
    split <;> omega

theorem testBit_sum_two_pow (p : Nat → Bool) (n i : Nat) :
    (((List.range n).map fun i => if p i then 2 ^ i else 0).sum).testBit i = (decide (i < n) && p i) := by
  induction n with
  | zero => simp
  | succ n ih =>
    have hlt := sum_two_pow_lt p n
    rw [List.range_succ, List.map_append, List.sum_append]
    simp only [List.map_cons, List.map_nil, List.sum_cons, List.sum_nil, Nat.add_zero]
    by_cases hp : p n
    · have hor := Nat.two_pow_add_eq_or_of_lt hlt 1
      rw [Nat.mul_one, Nat.add_comm] at hor
      rw [if_pos hp, hor, Nat.testBit_or, ih, Nat.testBit_two_pow]
      by_cases hi : n = i
      · subst hi; simp [hp]
      · simp [hi, show i < n + 1 ↔ i < n by omega]
    · rw [if_neg hp, Nat.add_zero, ih]
      by_cases hi : i = n
      · subst hi; simp [hp]
      · simp [show i < n + 1 ↔ i < n by omega]

/-! ### Contexts -/

theorem ctxOk_eq_true (b : List Byte) : ctxOk b = true ↔ b ≠ [] ∧ 1 + field b 0 1 ≤ b.length := by
  simp [ctxOk, Nat.one_le_iff_ne_zero]

/-- The lengths of a message with its context fail. -/
theorem not_ctxOk_or {b : List Byte} {p : Bool} {q : Prop} (hp : p = true ↔ q) :
    (!ctxOk b || p) = true ↔ ¬(b ≠ [] ∧ 1 + field b 0 1 ≤ b.length) ∨ q := by
  rw [Bool.or_eq_true, Bool.not_eq_true', ← Bool.not_eq_true, ctxOk_eq_true, hp]

/-! ### The operations -/

/-- The first failing check of an Edwards public key (06:Table 6.6). -/
theorem checked_edFaults (a : Nat) (pub : List Byte) (go : Nat → Result) (ns : Nat) :
    Claims.checked (edFaults a pub) go ns =
      match edDecode a pub with
      | none => Claims.fails 0x0404 0x8000 ns
      | some q => if edSmall a q = true then Claims.fails 0x0406 0x8000 ns else go ns := by
  unfold edFaults
  cases edDecode a pub with
  | none => rfl
  | some q =>
    dsimp only
    split <;> rfl

section
variable {d : Dev} {j : JobRec} {inp aux : List Byte}

theorem eddsaSign_result {key : KeyMat} (hk : j.job.keyA = some key)
    (h : ¬(!ctxOk inp || (j.job.desc.p 4 1 == 1 && (afterCtx inp).length != 64)) = true) :
    ∃ ns, (Claims.workOf d j inp aux).eddsaSign =
      Claims.finished (slice (Config.sign (Claims.algOf j) [] key.priv (variant j.job.desc.param.toNat (ctxOf inp)) (afterCtx inp) [])
        0 (sigLen (Claims.algOf j))) 0 ns none := by
  simp only [Work.eddsaSign, workOf_inp, workOf_pre, workOf_priv hk, if_neg h]
  exact ⟨_, rfl⟩

theorem eddsaVerify_result (h : ¬(!ctxOk inp || decide ((afterCtx inp).length < sigLen (Claims.algOf j)) ||
      (j.job.desc.p 4 1 == 1 && (afterCtx inp).length != sigLen (Claims.algOf j) + 64)) = true) :
    let a := Claims.algOf j
    let pub := Claims.publicOf j.job.keyA aux
    ∃ ns, (Claims.workOf d j inp aux).eddsaVerify = Claims.checked (edFaults a pub)
      (Claims.verdict (Config.verify a [] pub (variant j.job.desc.param.toNat (ctxOf inp)) ((afterCtx inp).drop (sigLen a))
        (slice (afterCtx inp) 0 (sigLen a)))) ns := by
  rw [show (Claims.workOf d j inp aux).eddsaVerify = validated _ _ _ from if_neg h]
  exact exists_validated ⟨_, verdictOf_eq_verdict _ _⟩

theorem xdh_result {key : KeyMat} (hk : j.job.keyA = some key) : let z := xdhSecret (Claims.algOf j) key.priv inp
    ∃ ns, (Claims.workOf d j inp aux).xdh = if ∀ v ∈ z, v = 0 then Claims.fails 0x0406 0 ns
      else Claims.finished [] 0 ns (some (d.keyOf j.job.seam j.job.desc.keyB z)) := by
  simp only [Work.xdh, workOf_priv hk, workOf_alg, workOf_inp, List.all_eq_true, beq_iff_eq]
  exact ⟨_, rfl⟩

/-! ### A batch -/

theorem batchFits_iff (b : List Byte) (count i : Nat) : batchFits b count i = true ↔
    ¬(field b (104 * i + 96) 4 < 104 * count ∨ b.length < field b (104 * i + 96) 4 + field b (104 * i + 100) 4) := by
  simp [batchFits, batchEntry, field_slice]

theorem batchGood_eq (b : List Byte) (i : Nat) : batchGood b i =
    ((edDecode 0x301 (slice b (104 * i) 32)).isSome &&
      Config.verify 0x301 [] (slice b (104 * i) 32) (variant 0 [])
        (slice b (field b (104 * i + 96) 4) (field b (104 * i + 100) 4)) (slice b (104 * i + 32) 64)) := by
  simp [batchGood, batchEntry, field_slice, slice_slice]

/-- The bitmap of the entries of a batch that verify (05:R132). -/
def batchBits (b : List Byte) (n : Nat) : Nat := ((List.range n).map fun i => if batchGood b i then 2 ^ i else 0).sum

theorem Work.batchVerify_of_fits (w : Work) (h : ¬(!((List.range (w.x.p 0 7)).all fun i => batchFits w.inp (w.x.p 0 7) i)) = true) :
    let n := w.x.p 0 7
    let failed := (List.range n).countP fun i => !(batchGood w.inp i)
    ∃ ns, w.batchVerify =
      let r := Claims.finished (leBytes 8 (batchBits w.inp n)) failed ns none
      if failed = 0 then r else { r with verdict := { r.verdict with status := 0x0001 } } := by
  have hbits : ((List.range (w.x.p 0 7)).map fun i =>
      if ((List.range (w.x.p 0 7)).map fun i => batchGood w.inp i).getD i false then 2 ^ i else 0).sum =
        batchBits w.inp (w.x.p 0 7) := by
    refine congrArg List.sum (List.map_congr_left fun i hi => ?_)
    simp [List.getD, List.mem_range.1 hi]
  simp only [Work.batchVerify, if_neg h, hbits, List.countP_map]
  exact ⟨_, rfl⟩

end

end Sys2Proof.Machine

open Sys2Proof Machine Claims

/-- Settles O14: each operation by the lengths that it refuses and by its result. -/
theorem Sys2Proof.edwardsAndMontgomery : Obligations.EdwardsAndMontgomery := by
  intro s r b j inp aux x a c rest fits pre vary n pub flaws
  have hflaws : ∀ go, flaws (edDecode a pub) go = checked (edFaults a pub) go :=
    fun go => funext fun ns => (checked_edFaults a pub go ns).symm
  refine ⟨fun key hk h => ?sign, fun h => ?verify, fun key hk h => ?xdh, fun h => ?batch⟩
  case sign =>
    have hbad : (!ctxOk inp || (x.p 4 1 == 1 && rest.length != 64)) = true ↔ ¬fits ∨ (pre ∧ rest.length ≠ 64) :=
      not_ctxOk_or (by simp [pre])
    exact gives_or_fails_of_work rfl h (fun hp => if_pos (hbad.2 hp)) fun hp => eddsaSign_result hk (mt hbad.1 hp)
  case verify =>
    have hbad : (!ctxOk inp || decide (rest.length < n) || (x.p 4 1 == 1 && rest.length != n + 64)) = true ↔
        ¬fits ∨ rest.length < n ∨ (pre ∧ rest.length ≠ n + 64) := by
      rw [Bool.or_assoc]
      exact not_ctxOk_or (by simp [pre])
    rw [hflaws]
    exact gives_or_fails_of_work rfl h (fun hp => if_pos (hbad.2 hp)) fun hp => eddsaVerify_result (mt hbad.1 hp)
  case xdh => exact gives_of_work rfl h (xdh_result hk)
  case batch =>
    intro count at' good
    have hgood : good = batchGood inp := funext fun i => (batchGood_eq inp i).symm
    have hbad : (!((List.range count).all fun i => batchFits inp count i)) = true ↔
        ∃ i < count, at' i 96 < 104 * count ∨ inp.length < at' i 96 + at' i 100 := by
      simp [batchFits_iff, at', imp_iff_not_or]
    rw [hgood]
    split
    next hp => exact givesIn_of_work rfl h (if_pos (hbad.2 hp))
    next hp => exact ⟨batchBits inp count, testBit_sum_two_pow _ _, gives_of_work rfl h (Work.batchVerify_of_fits _ (mt hbad.1 hp))⟩
end

section
/-! ## AES (05:Table 5.11, R127, R128, 07:R172) -/

namespace Sys2Proof.Machine

/-- The lengths of a GCM job fail: of the AAD, of what IN holds, of the text (05:Table 5.11). -/
theorem not_gcmOk_iff (b : List Byte) (tag : Nat) : (!gcmOk b tag) = true ↔
    ¬(field b 0 4 ≤ 65536 ∧ 16 + field b 0 4 + tag ≤ b.length ∧ (b.drop (16 + field b 0 4)).length - tag ≤ 1048576) := by
  change (!(decide (field b 0 4 ≤ 65536) && decide (16 + field b 0 4 + tag ≤ b.length) &&
    decide (b.length - 16 - field b 0 4 - tag ≤ 1048576))) = true ↔ _
  simp only [Bool.not_eq_true', ← Bool.not_eq_true, Bool.and_eq_true, decide_eq_true_eq, List.length_drop, and_assoc, Nat.sub_sub]

section
variable {d : Dev} {j : JobRec} {inp aux : List Byte} {key : KeyMat} (hk : j.job.keyA = some key)
include hk

theorem gcmEnc_result : let x := j.job.desc
    let aad := field inp 0 4
    let iv := slice inp 4 12
    let body := inp.drop (16 + aad)
    let gen := x.p 0 1 = 1
    let need := (if gen then 12 else 0) + body.length + 16
    let own := if gen then Claims.drawn d 0 12 else iv
    (Claims.workOf d j inp aux).gcmEnc =
      if ¬(aad ≤ 65536 ∧ 16 + aad + 0 ≤ inp.length ∧ body.length - 0 ≤ 1048576) then Claims.fails 0x0103 0x0202 0
      else if x.outLen.toNat < need then Claims.short need
      else if gen ∧ ∃ v ∈ iv, v ≠ 0 then Claims.fails 0x0101 0x0401 0
      else Claims.finished ((if gen then own else []) ++
        slice (Config.gcmEnc key.priv own (slice inp 16 aad) body) 0 (body.length + 16)) 0
        ((96 + 2 * ((aad + 15) / 16) + (5 + tAlg key.template) * ((body.length + 15) / 16) + 16) * 5 / 8) none := by
  intro x aad iv body gen need own
  have halg : (Claims.workOf d j inp aux).alg = tAlg key.template := algOf_of_key hk
  have hpriv : (Claims.workOf d j inp aux).priv = key.priv := workOf_priv hk
  have hfit := propext (not_gcmOk_iff inp 0)
  by_cases hgen : gen
  · have hg : ((Claims.workOf d j inp aux).x.p 0 1 == 1) = true := by simpa [gen, x] using hgen
    simp only [Work.gcmEnc, halg, hpriv, hg, if_true, Bool.true_and, own, need, if_pos hgen]
    exact ite_congr hfit (fun _ => rfl) fun _ => ite_congr rfl (fun _ => rfl) fun _ =>
      ite_congr (by simp [hgen, iv]) (fun _ => rfl) fun _ => rfl
  · have hg : ((Claims.workOf d j inp aux).x.p 0 1 == 1) = false := by simpa [gen, x] using hgen
    simp only [Work.gcmEnc, halg, hpriv, hg, Bool.false_eq_true, if_false, Bool.false_and, own, need, if_neg hgen]
    exact ite_congr hfit (fun _ => rfl) fun _ => ite_congr rfl (fun _ => rfl) fun _ => (if_neg fun h => hgen h.1).symm

theorem gcmDec_result : let aad := field inp 0 4
    let body := inp.drop (16 + aad)
    let n := body.length - 16
    let first := 96 + 2 * ((aad + 15) / 16 + (n + 15) / 16) + 16
    (Claims.workOf d j inp aux).gcmDec =
      if ¬(aad ≤ 65536 ∧ 16 + aad + 16 ≤ inp.length ∧ body.length - 16 ≤ 1048576) then Claims.fails 0x0103 0x0202 0
      else if j.job.desc.outLen.toNat < n then Claims.short n
      else match Config.gcmDec key.priv (slice inp 4 12) (slice inp 16 aad) body with
        | some t => Claims.finished (slice t 0 n) 0 ((first + (5 + tAlg key.template) * ((n + 15) / 16)) * 5 / 8) none
        | none => Claims.fails 0x0001 0 (first * 5 / 8) := by
  have halg : (Claims.workOf d j inp aux).alg = tAlg key.template := algOf_of_key hk
  simp only [Work.gcmDec, halg, workOf_priv hk]
  refine ite_congr (propext (not_gcmOk_iff inp 16)) (fun _ => rfl) fun _ => ite_congr rfl (fun _ => rfl) fun _ => ?_
  rfl

theorem xtsOp_result : (Claims.workOf d j inp aux).xtsOp =
    Claims.finished (slice (Config.xts (j.job.desc.p 0 1 == 1) key.priv (slice inp 0 16) (inp.drop 16)) 0 (inp.drop 16).length) 0
      ((48 + (if tAlg key.template = 5 then 6 else 8) * (((inp.drop 16).length + 15) / 16)) * 5 / 8) none := by
  have halg : (Claims.workOf d j inp aux).alg = tAlg key.template := algOf_of_key hk
  simp only [Work.xtsOp, halg, workOf_priv hk]
  rfl

theorem cmacOp_result : (Claims.workOf d j inp aux).cmacOp =
    Claims.finished (slice (Config.cmac key.priv inp) 0 16) 0
      ((32 + (8 + 2 * tAlg key.template) * max 1 ((inp.length + 15) / 16) + 14) * 5 / 8) none := by
  have halg : (Claims.workOf d j inp aux).alg = tAlg key.template := algOf_of_key hk
  simp only [Work.cmacOp, halg, workOf_priv hk]
  rfl

end

end Sys2Proof.Machine

open Sys2Proof Machine

/-- Settles O16: each operation by its result. -/
theorem Sys2Proof.aesOperations : Obligations.AesOperations := by
  intro s r b j inp aux key hk x a aad blocks iv body fits gen
  refine ⟨fun h => ?enc, fun h => ?dec, fun h => ?xts, fun h => ?cmac⟩
  case enc => exact givesIn_of_work rfl h (gcmEnc_result hk)
  case dec => exact givesIn_of_work rfl h (gcmDec_result hk)
  case xts => exact givesIn_of_work rfl h (xtsOp_result hk)
  case cmac => exact givesIn_of_work rfl h (cmacOp_result hk)
end

section
/-! ## Hashes, MACs and key derivation functions (05:Table 5.11, R127, 07:R173, R174) -/

namespace Sys2Proof.Machine

/-! ### Times on the SHA-2 cores -/

section
variable {id : Nat} (h : 1 ≤ id ∧ id ≤ 3)
include h

/-- The hashing of a message on a SHA-2 core (07:Table 7.5). -/
theorem hashCycles_of_sha2 (n : Nat) : hashCycles id n =
    (n + (if id = 1 then 9 else 17) + (if id = 1 then 64 else 128) - 1) / (if id = 1 then 64 else 128) *
      (if id = 1 then 72 else 88) := by
  obtain rfl | rfl | rfl : id = 1 ∨ id = 2 ∨ id = 3 := by omega
  all_goals rfl

theorem hmacCycles_of_sha2 (k n : Nat) : hmacCycles id k n =
    hashCycles id n + 3 * (if id = 1 then 72 else 88) + if (if id = 1 then 64 else 128) < k then hashCycles id k else 0 := by
  obtain rfl | rfl | rfl : id = 1 ∨ id = 2 ∨ id = 3 := by omega
  all_goals rfl

end

/-- A command whose time is that of a SHA-2 core, or left open on a Keccak core. -/
theorem timed_of_work {i : Instr} {s : State} {r b op : Nat} {j : JobRec} {inp aux : List Byte} {f : Work → Result}
    (hi : exec i s = s.upd fun d => d.work r b (· == op) f) (h : Claims.EngineReady s.dev r b op j inp aux) {p : Prop} [Decidable p]
    {cycles : Nat} {res : Nat → Result} (hf : ∃ ns, f (Claims.workOf s.dev j inp aux) = res ns ∧ (p → ns = (8 + cycles) * 5 / 8)) :
    if p then Claims.givesIn i s r j inp aux (res ((8 + cycles) * 5 / 8)) else Claims.gives i s r j inp aux res := by
  obtain ⟨ns, hres, hns⟩ := hf
  split
  next hp => exact givesIn_of_work hi h (hns hp ▸ hres)
  next => exact gives_of_work hi h ⟨ns, hres⟩

/-! ### Derivation functions -/

theorem kdfCtr_eq (h : Nat) (key label context : List Byte) (len n : Nat) : kdfCtr h key label context len n =
    ((List.range n).map fun i => hmacOf h key (beBytes 4 (i + 1) ++ label ++ [0] ++ context ++ beBytes 4 (8 * len))).flatten := by
  induction n with
  | zero => rfl
  | succ n ih => rw [kdfCtr, ih, List.range_succ, List.map_append, List.flatten_append]; simp

/-- T(i) of HKDF-Expand, T(0) empty (RFC 5869). -/
def hkdfBlock (h : Nat) (prk info : List Byte) : Nat → List Byte
  | 0 => []
  | i + 1 => hmacOf h prk (hkdfBlock h prk info i ++ info ++ [BitVec.ofNat 8 (i + 1)])

theorem expand_eq (h : Nat) (prk info : List Byte) (f i : Nat) : expand h prk info f (i + 1) (hkdfBlock h prk info i) =
    ((List.range f).map fun m => hkdfBlock h prk info (i + m + 1)).flatten := by
  induction f generalizing i with
  | zero => rfl
  | succ f ih =>
    change hkdfBlock h prk info (i + 1) ++ expand h prk info f (i + 1 + 1) (hkdfBlock h prk info (i + 1)) = _
    rw [ih, List.range_succ_eq_map]
    simp [Function.comp_def, Nat.add_assoc, Nat.add_comm 1]

theorem hkdf_eq (h : Nat) (extract : Bool) (salt ikm info : List Byte) (len : Nat) : hkdf h extract salt ikm info len =
    let prk := if extract then hmacOf h (if salt = [] then List.replicate (digestLen h) 0 else salt) ikm else ikm
    (((List.range ((len + digestLen h - 1) / digestLen h)).map fun i => hkdfBlock h prk info (i + 1)).flatten).take len := by
  simp only [hkdf, List.isEmpty_iff]
  refine congrArg (List.take len) ((expand_eq h _ info _ 0).trans ?_)
  simp only [Nat.zero_add]

/-! ### The operations -/

theorem prefixOk_eq_false (b : List Byte) : (!prefixOk b) = true ↔ b.length < 2 + field b 0 2 := by
  simp [prefixOk]

theorem not_ctxOk_iff (b : List Byte) : (!ctxOk b) = true ↔ b = [] ∨ b.length < 1 + field b 0 1 := by
  rw [Bool.not_eq_true', ← Bool.not_eq_true, ctxOk_eq_true, not_and_or, not_not, Nat.not_le]

section
variable {d : Dev} {j : JobRec} {inp aux : List Byte}

theorem hashOp_result : let h := j.job.desc.p 0 4
    let o := j.job.desc.outLen.toNat
    ∃ ns, (Claims.workOf d j inp aux).hashOp =
      Claims.finished (if 7 ≤ h then slice (Config.shake h inp o) 0 o else digest h inp) 0 ns none ∧
        (1 ≤ h ∧ h ≤ 3 → ns = (8 + hashCycles h inp.length) * 5 / 8) := by
  intro h o
  by_cases h7 : 7 ≤ h
  · exact ⟨_, (if_pos h7).trans (by rw [if_pos h7]; rfl), fun hs => absurd h7 (by omega)⟩
  · exact ⟨_, (if_neg h7).trans (by rw [if_neg h7]; rfl), fun _ => rfl⟩

section
variable {key : KeyMat} (hk : j.job.keyA = some key)
include hk

theorem hmacOp_result : let h := j.job.desc.p 0 4
    (Claims.workOf d j inp aux).hmacOp = Claims.finished (slice (Config.hmac h key.priv inp) 0 (digestLen h)) 0
      ((8 + hmacCycles h key.priv.length inp.length) * 5 / 8) none := by
  simp only [Work.hmacOp, workOf_priv hk]
  rfl

theorem kmacOp_of_fits (h : ¬(!ctxOk inp) = true) : let o := j.job.desc.outLen.toNat
    ∃ ns, (Claims.workOf d j inp aux).kmacOp = Claims.finished
      (slice (Config.kmac (j.job.desc.p 0 1 == 1) key.priv (afterCtx inp) o (ctxOf inp)) 0 o) 0 ns none := by
  simp only [Work.kmacOp, workOf_priv hk, workOf_inp, if_neg h]
  exact ⟨_, rfl⟩

/-- The counter mode of KDF_CTR, with HMAC on a SHA-2 core (07:R174). -/
theorem kdfOp_of_hmac (hp : ¬(!prefixOk inp) = true) (h3 : ¬3 < j.job.desc.p 0 4) :
    let h := j.job.desc.p 0 4
    let t := j.job.desc.keyB
    let n := (tLen t + digestLen h - 1) / digestLen h
    let label := prefixed inp
    let context := afterPrefix inp
    (Claims.workOf d j inp aux).kdfOp = Claims.finished [] 0
      ((8 + n * hmacCycles h key.priv.length (9 + label.length + context.length)) * 5 / 8)
      (some (d.keyOf j.job.seam t ((((List.range n).map fun i =>
        hmacOf h key.priv (beBytes 4 (i + 1) ++ label ++ [0] ++ context ++ beBytes 4 (8 * tLen t))).flatten).take (tLen t)))) := by
  simp only [Work.kdfOp, workOf_priv hk, workOf_inp, workOf_x, workOf_h, if_neg hp, if_pos (Nat.not_lt.1 h3), kdfCtr_eq]
  rfl

theorem kdfOp_of_kmac (hp : ¬(!prefixOk inp) = true) (h3 : 3 < j.job.desc.p 0 4) :
    let t := j.job.desc.keyB
    ∃ ns, (Claims.workOf d j inp aux).kdfOp = Claims.finished [] 0 ns (some (d.keyOf j.job.seam t
      (slice (Config.kmac (j.job.desc.p 0 4 == 10) key.priv (afterPrefix inp) (tLen t) (prefixed inp)) 0 (tLen t)))) := by
  simp only [Work.kdfOp, workOf_priv hk, workOf_inp, workOf_x, workOf_h, if_neg hp, if_neg (Nat.not_le.2 h3)]
  exact ⟨_, rfl⟩

theorem hkdfOp_of_fits (hp : ¬(!prefixOk inp) = true) (ho : ¬(j.job.desc.p 4 1 == 1 && field inp 0 2 != 0) = true) :
    let h := j.job.desc.p 0 4
    let t := j.job.desc.keyB
    let only := j.job.desc.p 4 1 = 1
    let salt := prefixed inp
    let info := afterPrefix inp
    let n := (tLen t + digestLen h - 1) / digestLen h
    let prk := if only then key.priv else hmacOf h (if salt = [] then List.replicate (digestLen h) 0 else salt) key.priv
    let by' := if only then key.priv.length else digestLen h
    (Claims.workOf d j inp aux).hkdfOp = Claims.finished [] 0
      ((8 + ((if only then 0 else hmacCycles h salt.length key.priv.length) + hmacCycles h by' (info.length + 1) +
        (n - 1) * hmacCycles h by' (digestLen h + info.length + 1))) * 5 / 8)
      (some (d.keyOf j.job.seam t ((((List.range n).map fun i => hkdfBlock h prk info (i + 1)).flatten).take (tLen t)))) := by
  simp only [Work.hkdfOp, workOf_priv hk, workOf_inp, workOf_x, workOf_h, if_neg hp, if_neg ho, hkdf_eq]
  by_cases honly : j.job.desc.p 4 1 = 1
  · simp only [honly, beq_self_eq_true, if_true, Bool.not_true, Bool.false_eq_true, if_false]
    rfl
  · simp only [honly, beq_eq_false_iff_ne.2 honly, Bool.not_false, if_false, Bool.false_eq_true, if_true]
    rfl

end

end

end Sys2Proof.Machine

open Sys2Proof Machine Claims

/-- Settles O17: each operation by the lengths that it refuses and by its result. -/
theorem Sys2Proof.hashesAndKdfs : Obligations.HashesAndKdfs := by
  intro s r b j inp aux x h o t len p first after block cycles pad hashing mac secret timed
  have hhash : 1 ≤ h ∧ h ≤ 3 → ∀ n, hashCycles h n = hashing n := hashCycles_of_sha2
  have hmac : 1 ≤ h ∧ h ≤ 3 → ∀ k n, hmacCycles h k n = mac k n := fun hs k n => by
    rw [hmacCycles_of_sha2 hs, hhash hs, hhash hs]
  have htimed : ∀ {i op cycles res} {f : Work → Result}, (exec i s = s.upd fun d => d.work r b (· == op) f) →
      EngineReady s.dev r b op j inp aux →
      (∃ ns, f (workOf s.dev j inp aux) = res ns ∧ (1 ≤ h ∧ h ≤ 3 → ns = (8 + cycles) * 5 / 8)) → timed i cycles res :=
    fun hi hr hf => timed_of_work hi hr hf
  clear_value timed
  refine ⟨fun hr => ?hash, fun key hk => ⟨fun hr => ?hmac, fun hr => ?kmac, fun hr => ?kdf, fun hr => ?hkdf⟩⟩
  case hash =>
    obtain ⟨ns, hres, hns⟩ := hashOp_result (d := s.dev) (j := j) (inp := inp) (aux := aux)
    exact htimed rfl hr ⟨ns, hres, fun hs => by rw [hns hs, hhash hs]⟩
  case hmac => exact htimed rfl hr ⟨_, hmacOp_result hk, fun hs => by rw [hmac hs]⟩
  case kmac =>
    exact gives_or_fails_of_work rfl hr (fun hp => if_pos ((not_ctxOk_iff inp).2 hp)) fun hp =>
      kmacOp_of_fits hk (mt (not_ctxOk_iff inp).1 hp)
  case kdf =>
    split
    next hp => exact givesIn_of_work rfl hr (if_pos ((prefixOk_eq_false inp).2 hp))
    next hp =>
      have hp := mt (prefixOk_eq_false inp).1 hp
      split
      next h3 => exact gives_of_work rfl hr (kdfOp_of_kmac hk hp h3)
      next h3 => exact htimed rfl hr ⟨_, kdfOp_of_hmac hk hp h3, fun hs => by rw [hmac hs]; rfl⟩
  case hkdf =>
    intro only
    have honly : (x.p 4 1 == 1 && p != 0) = true ↔ only ∧ p ≠ 0 := by simp [only]
    split
    next hp => exact givesIn_of_work rfl hr (if_pos ((prefixOk_eq_false inp).2 hp))
    next hp =>
      have hp := mt (prefixOk_eq_false inp).1 hp
      split
      next ho => exact givesIn_of_work rfl hr ((if_neg hp).trans (if_pos (honly.2 ho)))
      next ho =>
        intro salt prk
        refine ⟨hkdfBlock h prk after, rfl, fun _ => rfl, ?_⟩
        exact htimed rfl hr ⟨_, hkdfOp_of_fits hk hp (mt honly.1 ho), fun hs => by rw [hmac hs, hmac hs, hmac hs]; rfl⟩
end

section
/-! ## Random bytes and the keys that operations make (05:Table 5.12, R135, 06:R160) -/

namespace Sys2Proof.Machine

theorem Work.makeKey_eq_finished (w : Work) (priv : List Byte) (ns : Nat) : w.makeKey priv ns =
    Claims.finished (w.d.keyOf w.s w.x.keyB priv).pub 0 ns (some (w.d.keyOf w.s w.x.keyB priv)) := rfl

section
variable {d : Dev} {j : JobRec} {inp aux : List Byte}

theorem keyGenerate_result : let x := j.job.desc
    let a := tAlg x.keyB
    let priv := if isRsa a then Config.keygen a x.param.toNat [] (Claims.drawn d 0 1024)
      else d.fromSeed j.job.seam a (Claims.drawn d 0 (d.seedLen j.job.seam a (tLen x.keyB)))
    let k := d.keyOf j.job.seam x.keyB priv
    ∃ ns, (Claims.workOf d j inp aux).keyGenerate = Claims.finished k.pub 0 ns (some k) := by
  intro x a priv k
  exact ⟨_, (apply_ite (fun p => (Claims.workOf d j inp aux).makeKey p ((Claims.workOf d j inp aux).makeNs a)) _ _ _).symm⟩

theorem keyDerive_result {key : KeyMat} (hk : j.job.keyA = some key) : let t := j.job.desc.keyB
    let n := d.seedLen j.job.seam (tAlg t) (tLen t)
    let seed := slice (Config.kmac true key.priv inp n (ascii "UJ840KD" ++ leBytes 8 t.toNat)) 0 n
    let k := d.keyOf j.job.seam t (d.fromSeed j.job.seam (tAlg t) seed)
    ∃ ns, (Claims.workOf d j inp aux).keyDerive = Claims.finished k.pub 0 ns (some k) := by
  simp only [Work.keyDerive, Work.makeKey_eq_finished, workOf_priv hk]
  exact ⟨_, rfl⟩

end

/-! ### Seeds of the algorithms -/

section
variable {a : Nat}

theorem not_symmetric_of_lt (h : 0x12 < a) : isSymmetric a = false := by
  simp [isSymmetric, isAes, isXts, isSecret]
  omega

theorem not_curve_of_lt (h : 0x2CF < a) : isCurve a = false := by
  simp [isCurve, isNamedCurve, isLoadedCurve]
  omega

theorem lt_of_isCurve (h : isCurve a = true) : 0x12 < a := by
  simp [isCurve, isNamedCurve, isLoadedCurve] at h
  omega

theorem range_of_isKem (h : isKem a = true) : 0x401 ≤ a ∧ a ≤ 0x403 := by simpa [isKem] using h

theorem range_of_isMldsa (h : isMldsa a = true) : 0x411 ≤ a ∧ a ≤ 0x413 := by simpa [isMldsa] using h

theorem range_of_isSlh (h : isSlh a = true) : 0x501 ≤ a ∧ a ≤ 0x50C := by simpa [isSlh] using h

theorem not_isKem_of_lt (h : 0x403 < a) : isKem a = false := by simp [isKem]; omega

theorem not_isMldsa_of_lt (h : 0x413 < a) : isMldsa a = false := by simp [isMldsa]; omega

end

theorem Dev.seedLen_of_curve {a : Nat} (h : isCurve a = true) (d : Dev) (s len : Nat) : d.seedLen s a len = d.ln s a + 8 := by
  simp [Dev.seedLen, h, not_symmetric_of_lt (lt_of_isCurve h)]

theorem Dev.seedLen_of_kem {a : Nat} (h : isKem a = true) (d : Dev) (s len : Nat) : d.seedLen s a len = 64 := by
  obtain ⟨hlo, -⟩ := range_of_isKem h
  simp [Dev.seedLen, h, not_symmetric_of_lt (show 0x12 < a by omega), not_curve_of_lt (show 0x2CF < a by omega)]

theorem Dev.seedLen_of_mldsa {a : Nat} (h : isMldsa a = true) (d : Dev) (s len : Nat) : d.seedLen s a len = 32 := by
  obtain ⟨hlo, -⟩ := range_of_isMldsa h
  simp [Dev.seedLen, h, not_symmetric_of_lt (show 0x12 < a by omega), not_curve_of_lt (show 0x2CF < a by omega),
    not_isKem_of_lt (show 0x403 < a by omega)]

theorem Dev.seedLen_of_slh {a : Nat} (h : isSlh a = true) (d : Dev) (s len : Nat) : d.seedLen s a len = 3 * slhN a := by
  obtain ⟨hlo, -⟩ := range_of_isSlh h
  simp [Dev.seedLen, h, not_symmetric_of_lt (show 0x12 < a by omega), not_curve_of_lt (show 0x2CF < a by omega),
    not_isKem_of_lt (show 0x403 < a by omega), not_isMldsa_of_lt (show 0x413 < a by omega)]

theorem Dev.length_fromSeed_of_slh {a : Nat} (h : isSlh a = true) (d : Dev) (s : Nat) (seed : List Byte) :
    (d.fromSeed s a seed).length = 4 * slhN a := by
  obtain ⟨hlo, -⟩ := range_of_isSlh h
  simp [Dev.fromSeed, h, not_curve_of_lt (show 0x2CF < a by omega)]

end Sys2Proof.Machine

open Sys2Proof Machine

/-- Random bytes and keys from a draw and from a parent (05:Table 5.12). -/
theorem Sys2Proof.Claims.randomAndKeys : Claims.RandomAndKeys := by
  intro s r b j inp aux x t a seedLen made
  refine ⟨fun h => ?random, fun h => ?generate, fun key hk h => ?derive⟩
  case random => exact gives_of_work rfl h ⟨_, rfl⟩
  case generate => exact gives_of_work rfl h keyGenerate_result
  case derive => exact gives_of_work rfl h (keyDerive_result hk)

theorem Sys2Proof.Claims.seedsBecomeKeys : Claims.SeedsBecomeKeys := by
  intro d s a len seed
  refine ⟨fun h => ⟨if_pos h, d.seedLen_of_curve h s len⟩, fun h => ⟨d.length_fromSeed_of_slh h s seed, d.seedLen_of_slh h s len⟩,
    fun hc hs => ?other, fun h => if_pos h, fun h => d.seedLen_of_kem h s len, fun h => d.seedLen_of_mldsa h s len⟩
  case other => simp [Dev.fromSeed, hc, hs]

/-- Settles O18: what the operations make, and what seeds become. -/
theorem Sys2Proof.randomAndNewKeys : Obligations.RandomAndNewKeys := ⟨Claims.randomAndKeys, Claims.seedsBecomeKeys⟩
end

section
/-! ## Hybrid operations (05:R137, R138) -/

namespace Sys2Proof.Machine

section
variable {d : Dev} {j : JobRec} {inp aux : List Byte}

/-- The message that both parts of a hybrid signature sign (05:R137). -/
theorem hybridMessage_eq (suite : Nat) (b m : List Byte) : hybridMessage suite (ctxOf b) m =
    ascii "UJHYBSG1" ++ [BitVec.ofNat 8 suite, BitVec.ofNat 8 (field b 0 1)] ++ ctxOf b ++ digest 3 m := by
  simp only [hybridMessage, ctxOf, length_slice]

theorem hybridVariant_eq (a : Nat) : hybridVariant a = [if a = 0x201 then 1 else if a = 0x202 then 2 else 0, 0] := by
  unfold hybridVariant variant
  split_ifs <;> rfl

theorem hybridSign_result {a k : KeyMat} (ha : j.job.keyA = some a) (hk : j.job.keyB = some k) (h : ¬(!ctxOk inp) = true) :
    let suite := j.job.desc.p 0 4
    let alg := (signSuite suite).1
    let dsa := (signSuite suite).2
    let msg := hybridMessage suite (ctxOf inp) (afterCtx inp)
    ∃ ns, (Claims.workOf d j inp aux).hybridSign = Claims.finished
      (slice (Config.sign dsa [] k.priv [0, 0] msg (Claims.drawn d 32 32)) 0 (sigLen dsa) ++
        slice (Config.sign alg (d.params j.job.seam alg) a.priv (hybridVariant alg) msg (Claims.drawn d 0 32)) 0 (classicalSig alg))
      0 ns none := by
  simp only [Work.hybridSign, workOf_inp, workOf_priv ha, workOf_b, hk, if_neg h]
  exact ⟨_, rfl⟩

/-- DETAIL of a hybrid verification names the parts that failed (05:R137). -/
theorem hybridVerdict_eq (cl pq : Bool) (ns : Nat) :
    (if cl && pq then good [] ns else bad stSigInvalid ns ((if cl then 0 else 1) + if pq then 0 else 2)) =
      if cl = true ∧ pq = true then Claims.finished [] 0 ns none
      else Claims.fails 0x0001 (Claims.bit (!cl) + 2 * Claims.bit (!pq)) ns := by
  cases cl <;> cases pq <;> rfl

theorem hybridVerify_result (h : ¬(!ctxOk inp || decide ((afterCtx inp).length <
      sigLen (signSuite (j.job.desc.p 0 4)).2 + classicalSig (signSuite (j.job.desc.p 0 4)).1)) = true) :
    let suite := j.job.desc.p 0 4
    let alg := (signSuite suite).1
    let dsa := (signSuite suite).2
    let w := Claims.workOf d j inp aux
    let keys := w.hybridKeys dsa
    let rest := afterCtx inp
    let msg := hybridMessage suite (ctxOf inp) (rest.drop (sigLen dsa + classicalSig alg))
    let one := Config.verify alg (d.params j.job.seam alg) keys.1 (hybridVariant alg) msg (slice rest (sigLen dsa) (classicalSig alg))
    let two := Config.verify dsa [] keys.2 [0, 0] msg (slice rest 0 (sigLen dsa))
    ∃ ns, w.hybridVerify = Claims.checked
      (if isEd alg then edFaults alg keys.1 else if j.job.keyA.isSome then [] else w.pointFaults alg keys.1 0 true)
      (fun ns => if one = true ∧ two = true then Claims.finished [] 0 ns none
        else Claims.fails 0x0001 (Claims.bit (!one) + 2 * Claims.bit (!two)) ns) ns := by
  intro suite alg dsa w keys rest msg one two
  rw [show w.hybridVerify = validated _ _ _ from if_neg h]
  exact exists_validated ⟨_, hybridVerdict_eq _ _ _⟩

/-- The two public keys, of the named keys or from AUX (05:R137). -/
theorem workOf_hybridKeys (d : Dev) (j : JobRec) (inp aux : List Byte) (m : Nat) :
    (Claims.workOf d j inp aux).hybridKeys m =
      match j.job.keyA, j.job.keyB with
      | some a, some k => (a.pub, k.pub)
      | _, _ => (aux.take (aux.length - d.pubLen j.job.seam m 0), aux.drop (aux.length - d.pubLen j.job.seam m 0)) := by
  simp only [Work.hybridKeys, workOf_a, workOf_b]
  cases j.job.keyA <;> cases j.job.keyB <;> rfl

/-! ### Key exchange -/

theorem encaps_eq (a : Nat) (ek rand : List Byte) : encaps a ek rand =
    (slice (Config.kemEncaps a ek rand).1 0 (ctLen a), slice (Config.kemEncaps a ek rand).2 0 32) := rfl

/-- The secret of X25519 or X448 is refused where it is all zero (06:R151). -/
theorem isX_and_all_zero (c : Nat) (z : List Byte) : (isX c && z.all (· == 0)) = true ↔ isX c = true ∧ ∀ v ∈ z, v = 0 := by
  simp only [Bool.and_eq_true, List.all_eq_true, beq_iff_eq]

/-- What follows an exchange: a secret that is all zero is refused, another makes the key (05:R138). -/
theorem Work.exchanged_eq (w : Work) (c : Nat) (z1 : List Byte) (t : W64) (z out : List Byte) (ns : Nat) :
    (if (isX c && z1.all (· == 0)) = true then bad stSmallOrder ns else w.secret t z out ns) =
      if isX c = true ∧ ∀ v ∈ z1, v = 0 then Claims.fails 0x0406 0 ns
      else Claims.finished out 0 ns (some (w.d.keyOf w.s t z)) :=
  ite_congr (propext (isX_and_all_zero c z1)) (fun _ => rfl) fun _ => rfl

end

section
variable {d : Dev} {j : JobRec} {inp aux : List Byte}

theorem hybridKem_of_send (h : j.job.desc.p 4 1 = 0) :
    let w := Claims.workOf d j inp aux
    let suite := j.job.desc.p 0 4
    let curve := (kemSuite suite).1
    let kem := (kemSuite suite).2
    let t : W64 := BitVec.ofNat 64 (field aux 0 8)
    let cut := inp.length - d.pubLen j.job.seam kem 0
    let peer := inp.take cut
    let other := inp.drop cut
    let d1 := d.fromSeed j.job.seam curve (Claims.drawn d 0 (d.seedLen j.job.seam curve 0))
    let eph := d.publicPart j.job.seam curve d1
    let e := encaps kem other (Claims.drawn d 128 32)
    let z1 := w.agree curve d1 peer
    ∃ ns, w.hybridKem = Claims.checked (if isX curve then [] else w.pointFaults curve peer 0 false) (fun ns =>
      match kemBadBlock kem other with
      | some off => Claims.fails 0x0403 (peer.length + off) ns
      | none =>
        if isX curve = true ∧ ∀ v ∈ z1, v = 0 then Claims.fails 0x0406 0 ns
        else Claims.finished (eph ++ e.1) 0 ns (some (d.keyOf j.job.seam t (kemSecret suite z1 e.2 eph e.1)))) ns := by
  have hsend : (j.job.desc.p 4 1 == 0) = true := by simpa using h
  simp only [Work.hybridKem, workOf_x, workOf_h, workOf_inp, workOf_aux, workOf_d, workOf_s, hsend, if_true, Work.exchanged_eq]
  refine exists_validated ?_
  cases kemBadBlock _ _ <;> exact ⟨_, rfl⟩

theorem hybridKem_of_receive {a k : KeyMat} (ha : j.job.keyA = some a) (hk : j.job.keyB = some k) (h : j.job.desc.p 4 1 ≠ 0) :
    let w := Claims.workOf d j inp aux
    let suite := j.job.desc.p 0 4
    let curve := (kemSuite suite).1
    let kem := (kemSuite suite).2
    let t : W64 := BitVec.ofNat 64 (field aux 0 8)
    let cut := inp.length - ctLen kem
    let peer := inp.take cut
    let other := inp.drop cut
    let z1 := w.agree curve a.priv peer
    ∃ ns, w.hybridKem = Claims.checked (if isX curve then [] else w.pointFaults curve peer 0 false) (fun ns =>
      if isX curve = true ∧ ∀ v ∈ z1, v = 0 then Claims.fails 0x0406 0 ns
      else Claims.finished [] 0 ns (some (d.keyOf j.job.seam t (kemSecret suite z1 (decaps kem k.priv other) peer other)))) ns := by
  have hsend : (j.job.desc.p 4 1 == 0) = false := by simpa using h
  simp only [Work.hybridKem, workOf_x, workOf_h, workOf_inp, workOf_aux, workOf_d, workOf_s, workOf_b, workOf_priv ha, hk, hsend,
    Bool.false_eq_true, if_false, Work.exchanged_eq]
  exact exists_validated ⟨_, rfl⟩

end

end Sys2Proof.Machine

open Sys2Proof Machine Claims

/-- Settles O19: the signature, its verification, and the exchange in each role. -/
theorem Sys2Proof.hybridOperations : Obligations.HybridOperations := by
  intro s r b j inp aux w x suite c ctx rest fits alg dsa signed vary first nums
  have hfits : (!ctxOk inp) = true ↔ ¬fits := by
    rw [Bool.not_eq_true', ← Bool.not_eq_true, ctxOk_eq_true]
  refine ⟨fun a k ha hk h => ?sign, fun h => ?verify, fun a k hkeys h => ?kem⟩
  case sign =>
    split
    next hp =>
      have hres := hybridSign_result (d := s.dev) (aux := aux) ha hk (mt hfits.1 (not_not.2 hp))
      simp only [hybridVariant_eq, hybridMessage_eq] at hres
      exact gives_of_work rfl h hres
    next hp => exact givesIn_of_work rfl h (if_pos (hfits.2 hp))
  case verify =>
    intro m cut keys flaws one two
    have hlen : (!ctxOk inp || decide (rest.length < sigLen dsa + classicalSig alg)) = true ↔
        ¬(fits ∧ sigLen dsa + first ≤ rest.length) := by
      rw [Bool.or_eq_true, hfits, decide_eq_true_eq]
      exact (not_and_or.trans (or_congr_right Nat.not_le)).symm
    split
    next hp =>
      have hres := hybridVerify_result (d := s.dev) (aux := aux) (mt hlen.1 (not_not.2 hp))
      simp only [hybridVariant_eq, hybridMessage_eq, workOf_hybridKeys] at hres
      exact gives_of_work rfl h hres
    next hp => exact givesIn_of_work rfl h (if_pos (hlen.2 hp))
  case kem =>
    intro curve kem t send cut peer other both zero key
    refine gives_of_work rfl h ?_
    by_cases hs : x.p 4 1 = 0
    · have hcut : cut = inp.length - s.dev.pubLen j.job.seam kem 0 := by simp only [cut, send, if_pos hs]
      simp only [peer, other, hcut, send, if_pos hs]
      exact hybridKem_of_send hs
    · have hcut : cut = inp.length - ctLen kem := by simp only [cut, send, if_neg hs]
      obtain ⟨ha, hk⟩ := hkeys hs
      simp only [peer, other, hcut, send, if_neg hs]
      exact hybridKem_of_receive ha hk hs
end

section
/-! ## What an engine's result leaves as (05:R123, R128, 08:R202) -/

namespace Sys2Proof.Machine

section
variable {w : Work} {res : Result}

/-- A result whose key stays an object, or that makes none, stands where OUT_LEN holds its output. -/
theorem Work.seal_of_no_blob (h : ¬∃ k, res.key = some k ∧ tBlob k.template = true) :
    w.seal res = if w.x.outLen.toNat < res.out.length then tooSmall res.out.length else res := by
  unfold Work.seal
  cases hk : res.key with
  | none => rfl
  | some k =>
    have hb : tBlob k.template = false := by simpa [hk] using h
    simp [hb]

/-- A key of AS_BLOB leaves as a blob behind the result's output, and makes no object. -/
theorem Work.seal_of_blob {k : NewKey} (hk : res.key = some k) (hb : tBlob k.template = true) :
    let out := res.out ++ w.d.blob w.s k w.x.op (madeInside w.x.op) (w.random 65536 12)
    w.seal res = if w.x.outLen.toNat < out.length then tooSmall out.length
      else ⟨{ res.verdict with written := BitVec.ofNat 32 out.length }, out, res.ns, none⟩ := by
  simp only [Work.seal, hk, hb, if_true]

end

@[simp] theorem length_leBytes (n v : Nat) : (leBytes n v).length = n := by simp [leBytes]

@[simp] theorem Work.length_random (w : Work) (i n : Nat) : (w.random i n).length = n := by simp [Work.random]

/-- The blob of a key under the seam's blob key (08:Table 8.7). -/
theorem Dev.blob_of_key {d : Dev} {s : Nat} {bk bkid : List Byte} {epoch : BitVec 16} {next : Nat} {wrapped : Bool}
    (h : d.blobKey s = some (bk, bkid, epoch, next, wrapped)) (k : NewKey) (op : Nat) (nonce : List Byte) :
    let body := if isRsa (tAlg k.template) then k.priv else k.priv ++ k.pub
    let head := ascii "UJKB" ++ [1, 0, 0, 0] ++ slice bkid 0 8 ++ leBytes 2 epoch.toNat ++ leBytes 2 op ++
      leBytes 4 body.length ++ leBytes 8 (tHeld k.template).toNat ++ [if op = 0x0802 then 0 else 1, 0, 0, 0] ++ nonce
    d.blob s k op (madeInside op) nonce =
      head ++ slice (Config.gcmEnc (bwk bk bkid epoch) nonce head body) 0 (body.length + 16) := by
  have hversion : leBytes 2 1 ++ [0, 0] = ([1, 0, 0, 0] : List Byte) := by decide
  have hinside : (if madeInside op = true then 1 else 0 : Byte) = if op = 0x0802 then 0 else 1 := by
    by_cases hop : op = 0x0802 <;> simp [madeInside, hop]
  simp only [Dev.blob, h, hinside, le2, ← hversion, List.append_assoc]

/-- A blob is 64 bytes longer than its body (08:R202). -/
theorem length_blob (bkid nonce text : List Byte) (epoch op body t : Nat) (inside : Byte) (hn : nonce.length = 12) :
    let head := ascii "UJKB" ++ [1, 0, 0, 0] ++ slice bkid 0 8 ++ leBytes 2 epoch ++ leBytes 2 op ++ leBytes 4 body ++
      leBytes 8 t ++ [inside, 0, 0, 0] ++ nonce
    (head ++ slice text 0 (body + 16)).length = body + 64 := by
  have hmagic : (ascii "UJKB").length = 4 := by decide
  simp [hn, hmagic]
  omega

end Sys2Proof.Machine

open Sys2Proof Machine

/-- Settles O21: a result without a blob and one with it, each by whether OUT_LEN holds the output. -/
theorem Sys2Proof.engineSealsOutput : Obligations.EngineSealsOutput := by
  intro w res keyed
  refine ⟨fun hk hl => ?short, fun hk hl => ?stands, fun k bk bkid epoch next wrapped hk hb hbk => ?blob⟩
  case short => exact (Work.seal_of_no_blob hk).trans (if_pos hl)
  case stands => exact (Work.seal_of_no_blob hk).trans (if_neg (Nat.not_lt.2 hl))
  case blob =>
    intro nonce body head blob out
    have hblob : w.d.blob w.s k w.x.op (madeInside w.x.op) nonce = blob := Dev.blob_of_key hbk k w.x.op nonce
    have hseal := Work.seal_of_blob (w := w) hk hb
    rw [hblob] at hseal
    exact ⟨length_blob _ _ _ _ _ _ _ _ (w.length_random _ _), fun hl => hseal.trans (if_neg (Nat.not_lt.2 hl)),
      fun hl => hseal.trans (if_pos hl)⟩
end

section
/-! ## Deep services: what a draw leaves, and how a service answers (05:R400) -/

namespace Sys2Proof.Machine

/-! ### A draw touches neither keys nor seams -/

/-- The key store of a ridge, the VSALT of its key derivation unit and its key cache. -/
def Ridge.keyStore (x : Ridge) : List Entry × Option (BitVec 256) × List CacheEntry := (x.store, x.kdu, x.cache)

theorem Dev.ridge_modRidge_same {α : Type} {g : Ridge → α} {f : Ridge → Ridge} (h : ∀ x, g (f x) = g x) (d : Dev) (r k : Nat) :
    g ((d.modRidge r f).ridge k) = g (d.ridge k) := by
  by_cases hk : k < d.ridges.length
  · by_cases hr : r = k
    · subst hr
      rw [Dev.ridge_modRidge_self _ _ _ hk, h]
    · rw [Dev.ridge_modRidge_other _ _ hr]
  · simp [Dev.ridge, List.getD, hk]

theorem Dev.drained_quiet (d : Dev) (r : Nat) (x : Rng) : (d.drained r x).quiet = d.quiet := by
  have hone : ∀ (d : Dev) (p q : Prop) [Decidable p] [Decidable q] (m n : Nat),
      (if p then d.ridgeEvent r 63 m else if q then d.ridgeEvent r 63 n else d).quiet = d.quiet := by
    intro d p q _ _ m n
    split_ifs <;> simp [Dev.ridgeEvent_quiet]
  exact (hone _ _ _ _ _).trans (hone _ _ _ _ _)

theorem Dev.keyStore_rngStep (d : Dev) (r : Nat) (f : Rng → Rng) (k : Nat) :
    ((d.rngStep r f).ridge k).keyStore = (d.ridge k).keyStore :=
  (congrArg Ridge.keyStore (Dev.ridge_of_quiet (Dev.drained_quiet (d.modRng r f) r (d.ridge r).rng) k)).trans
    (Dev.ridge_modRidge_same (g := Ridge.keyStore) (f := fun x => { x with rng := f x.rng }) (fun _ => rfl) d r k)

theorem Dev.keyStore_generate (d : Dev) (r : Nat) (host : Bool) (n k : Nat) :
    ((d.generate r host n).ridge k).keyStore = (d.ridge k).keyStore :=
  (Dev.keyStore_rngStep _ _ _ k).trans (Dev.keyStore_rngStep _ _ _ k)

/-- `e` is `d` but perhaps for draws, entropy paths and events: the keys, the seams, the clock and the jobs are those of `d`. -/
structure Dev.SameKeys (e d : Dev) : Prop where
  rest : { e with draws := d.draws }.apart = d.apart
  store : ∀ r, (e.ridge r).keyStore = (d.ridge r).keyStore

theorem Dev.SameKeys.refl (d : Dev) : d.SameKeys d := ⟨rfl, fun _ => rfl⟩

theorem drew_sameKeys (d : Dev) (r : Nat) (dr : Draws) : (Claims.drew d r dr).SameKeys d := by
  have hgenerate : ∀ host, (({ d with draws := d.draws + 1 } : Dev).generate r host 1).SameKeys d := fun host =>
    ⟨congrArg (fun x : Dev => { x with draws := d.draws })
      (Dev.generate_apart ({ d with draws := d.draws + 1 } : Dev) r host 1),
      fun k => Dev.keyStore_generate ({ d with draws := d.draws + 1 } : Dev) r host 1 k⟩
  cases dr with
  | no => exact ⟨rfl, fun _ => rfl⟩
  | internal => exact hgenerate false
  | host => exact hgenerate true

namespace Dev.SameKeys

section
variable {d e : Dev} (h : e.SameKeys d)
include h

theorem seams : e.seams = d.seams := (congrArg Dev.seams h.rest :)
theorem clock : e.clock = d.clock := (congrArg Dev.clock h.rest :)
theorem jobs : e.jobs = d.jobs := (congrArg Dev.jobs h.rest :)

theorem seam (m : Nat) : e.seam m = d.seam m := by rw [Dev.seam, h.seams, Dev.seam]
theorem homeOf (m : Nat) : e.homeOf m = d.homeOf m := by rw [Dev.homeOf, h.seam, Dev.homeOf]
theorem mirrorOf (m : Nat) : e.mirrorOf m = d.mirrorOf m := by rw [Dev.mirrorOf, h.seam, Dev.mirrorOf]

theorem ridgeStore (r : Nat) : (e.ridge r).store = (d.ridge r).store := congrArg Prod.fst (h.store r)
theorem ridgeKdu (r : Nat) : (e.ridge r).kdu = (d.ridge r).kdu := congrArg (·.2.1) (h.store r)
theorem ridgeCache (r : Nat) : (e.ridge r).cache = (d.ridge r).cache := congrArg (·.2.2) (h.store r)

theorem openBody (r : Nat) (x : Entry) : (e.ridge r).openBody x = (d.ridge r).openBody x := by
  rw [Ridge.openBody, h.ridgeKdu, Ridge.openBody]

theorem blobKey (m : Nat) : e.blobKey m = d.blobKey m := by
  simp only [Dev.blobKey, h.homeOf, h.ridgeStore, h.openBody]

theorem curve (m slot : Nat) : e.curve m slot = d.curve m slot := by
  simp only [Dev.curve, h.homeOf, h.ridgeStore, h.openBody]

theorem curves (m : Nat) : e.curves m = d.curves m := by simp only [Dev.curves, h.curve]

theorem curveUsed (m a : Nat) : e.curveUsed m a = d.curveUsed m a := by
  simp only [Dev.curveUsed, h.homeOf, h.ridgeStore, h.ridgeCache]

theorem params (m a : Nat) : e.params m a = d.params m a := by simp only [Dev.params, Dev.curveNums, h.curve]

theorem lp (m a : Nat) : e.lp m a = d.lp m a := by simp only [Dev.lp, h.params]
theorem ln (m a : Nat) : e.ln m a = d.ln m a := by simp only [Dev.ln, h.params]
theorem pubLen (m a k : Nat) : e.pubLen m a k = d.pubLen m a k := by simp only [Dev.pubLen, h.lp]
theorem privLen (m a k n : Nat) : e.privLen m a k n = d.privLen m a k n := by simp only [Dev.privLen, h.ln]

theorem publicPart (m a : Nat) (priv : List Byte) : e.publicPart m a priv = d.publicPart m a priv := by
  simp only [Dev.publicPart, h.params, h.lp, h.pubLen]

theorem keyOf (m : Nat) (t : W64) (priv : List Byte) : e.keyOf m t priv = d.keyOf m t priv := by
  simp only [Dev.keyOf, h.publicPart]

theorem encodingOk (m : Nat) (t : W64) (priv : List Byte) : e.encodingOk m t priv = d.encodingOk m t priv := by
  simp only [Dev.encodingOk, h.params, h.ln, h.privLen]

theorem openBlob (m : Nat) (b : List Byte) : e.openBlob m b = d.openBlob m b := by
  simp only [Dev.openBlob, h.blobKey]

end

end Dev.SameKeys

/-! ### How a service answers -/

/-- What a service works on, on the device as it stands. -/
def Dev.serviceWork (d : Dev) (j : JobRec) (inp aux : List Byte) (k : Nat) : Work :=
  ⟨d, j.job.seam, j.job.desc, j.job.keyA, j.job.keyB, inp, aux, k⟩

/-- What a service that has run leaves: Keade forgets it, its claims end, then output and completion follow (05:R400). -/
def Dev.served (d : Dev) (r : Nat) (j : JobRec) (res : Result) : Dev :=
  (((d.reach (j.tail.started + res.ns)).freeService r j.num).modJob j.num fun y =>
    { y with tail := { y.tail with draining := none } }).endWork j.num res

theorem Dev.service_of_ready {d : Dev} {r op : Nat} {j : JobRec} {inp aux : List Byte}
    (h : Claims.ServiceReady d r op j inp aux) (f : Dev → Work → Dev × Result) : d.service r j.num op f =
      (let early := (f d (d.serviceWork j inp aux d.draws)).2.turnedDown
       let e := Claims.drew d r (if early = true then .no else j.job.desc.draws)
       let w := e.serviceWork j inp aux d.draws
       (f e w).1.served r j (w.seal (f e w).2)) := by
  obtain ⟨hheld, hphase, hridge, hop, hruns, hin, haux, hdraws⟩ := h
  have hready : (j.job.phase == .deepRun && j.job.ridge == r && j.job.desc.op == op && d.keadeRuns r) = true := by
    simp [hphase, hridge, hop, hruns]
  simp only [Dev.service, hheld, hready, hin, haux, hdraws, if_true, Bool.not_true, Bool.and_false, Bool.false_eq_true, if_false]
  cases hearly : (f d (d.serviceWork j inp aux d.draws)).2.turnedDown <;>
    simp only [Dev.serviceWork] at hearly <;> simp only [hearly] <;> rfl

section
variable {i : Instr} {s : State} {r op : Nat} {j : JobRec} {inp aux : List Byte} {f : Dev → Work → Dev × Result}
  (hi : exec i s = .next ⟨s.pending, s.dev.service r j.num op f⟩) (h : Claims.ServiceReady s.dev r op j inp aux)
  {change : Dev → Dev} {res : Nat → Result} (hturn : ∀ ns, (res ns).turnedDown = (res 0).turnedDown)
include hi h hturn

/-- The command of a service answers with what the service computes on the device once it has drawn `dr`; what it draws is
decided before it runs, by what it makes of its input alone (05:R117, R400). -/
theorem answers_of_service {dr : Draws} (hdr : (if (res 0).turnedDown = true then .no else j.job.desc.draws) = dr)
    (hearly : (if (f s.dev (s.dev.serviceWork j inp aux s.dev.draws)).2.turnedDown = true then .no else j.job.desc.draws) = dr)
    (hlate : ∃ ns, f (Claims.drew s.dev r dr) ((Claims.drew s.dev r dr).serviceWork j inp aux s.dev.draws) =
      (change (Claims.drew s.dev r dr), res ns)) : Claims.answers i s r j inp aux change res := by
  obtain ⟨ns, hns⟩ := hlate
  refine ⟨ns, ?_⟩
  simp only [hturn ns, hdr]
  refine leaves_of hi ?_
  rw [Dev.service_of_ready h]
  simp only [hearly, hns]
  rfl

/-- So it does where the service finds the same on every device that differs in draws and entropy alone. -/
theorem answers_of_sameKeys
    (hf : ∀ e : Dev, e.SameKeys s.dev → ∃ ns, f e (e.serviceWork j inp aux s.dev.draws) = (change e, res ns)) :
    Claims.answers i s r j inp aux change res := by
  obtain ⟨m, hm⟩ := hf s.dev (.refl _)
  exact answers_of_service hi h hturn rfl (by rw [hm, hturn]) (hf _ (drew_sameKeys _ _ _))

/-- A service that draws nothing. -/
theorem answers_of_no_draws (hno : j.job.desc.draws = .no)
    (hf : ∃ ns, f (Claims.drew s.dev r .no) ((Claims.drew s.dev r .no).serviceWork j inp aux s.dev.draws) =
      (change (Claims.drew s.dev r .no), res ns)) : Claims.answers i s r j inp aux change res :=
  answers_of_service hi h hturn (by rw [hno, ite_self]) (by rw [hno, ite_self]) hf

end

/-! ### The draws of services -/

theorem Desc.draws_of_curveLoad {x : Desc} (h : x.op = 0x0210) : x.draws = .internal := by simp [Desc.draws, h]

theorem Desc.draws_of_keyAttest {x : Desc} (h : x.op = 0x0805) : x.draws = .internal := by simp [Desc.draws, h]

theorem Desc.draws_of_keyLoadBlob {x : Desc} (h : x.op = 0x0806) : x.draws = .no := by simp [Desc.draws, h, makesKey]

end Sys2Proof.Machine
end

section
/-! ## Destruction, attestation and blobs (05:R124, R131, R136, 08:R203 to R210) -/

namespace Sys2Proof.Machine

section
variable {d e : Dev} {j : JobRec} {inp aux : List Byte} {k : Nat}

/-! ### KEY_DESTROY -/

theorem destroy_of_key (h : j.job.desc.param = 0) :
    ∃ ns, Work.destroy e (e.serviceWork j inp aux k) = (e, Claims.finished [] 0 ns none) :=
  ⟨_, if_pos (show j.job.desc.param.toNat = 0 by simp [h])⟩

section
variable (h : j.job.desc.param ≠ 0)
include h

theorem param_toNat_ne_zero : j.job.desc.param.toNat ≠ 0 := fun hz => h (BitVec.eq_of_toNat_eq hz)

theorem destroy_of_free (hc : e.curve j.job.seam (j.job.desc.param.toNat - 0x2C0) = none) :
    ∃ ns, Work.destroy e (e.serviceWork j inp aux k) = (e, Claims.fails 0x0302 0x0102 ns) :=
  ⟨_, (if_neg (param_toNat_ne_zero h)).trans (if_pos (Option.isNone_iff_eq_none.2 hc))⟩

section
variable (hc : e.curve j.job.seam (j.job.desc.param.toNat - 0x2C0) ≠ none)
include hc

theorem destroy_of_used (hu : e.curveUsed j.job.seam j.job.desc.param.toNat = true) :
    ∃ ns, Work.destroy e (e.serviceWork j inp aux k) = (e, Claims.fails 0x0302 0x0107 ns) :=
  ⟨_, (if_neg (param_toNat_ne_zero h)).trans ((if_neg (mt Option.isNone_iff_eq_none.1 hc)).trans (if_pos hu))⟩

theorem destroy_of_unused (hu : e.curveUsed j.job.seam j.job.desc.param.toNat = false) :
    ∃ ns, Work.destroy e (e.serviceWork j inp aux k) =
      (e.eraseEntries fun y => y.kind == 2 && y.owner == some j.job.seam && y.index == j.job.desc.param.toNat - 0x2C0 + 1,
        Claims.finished [] 0 ns none) :=
  ⟨_, (if_neg (param_toNat_ne_zero h)).trans ((if_neg (mt Option.isNone_iff_eq_none.1 hc)).trans
    (if_neg (Bool.not_eq_true _ ▸ hu)))⟩

end

end

/-! ### KEY_ATTEST -/

theorem provenance_result {a : KeyMat} (ha : j.job.keyA = some a) : ∃ ns, (e.serviceWork j inp aux k).provenance =
    Claims.finished (e.record 0 k (e.commonItems inp ++ e.keyItems j.job.seam a)) 0 ns none := by
  simp only [Work.provenance, Dev.serviceWork, ha]
  exact ⟨_, rfl⟩

theorem identity_result : ∃ ns, (e.serviceWork j inp aux k).identity =
    Claims.finished (e.record 1 k (e.commonItems inp)) 0 ns none := ⟨_, rfl⟩

theorem exec_keyAttestProvenance {s : State} (hj : s.dev.job? j.num = some j) (hp : j.job.desc.p 0 2 = 0) (r : Nat) :
    exec (.keyAttestProvenance r j.num) s =
      .next ⟨s.pending, s.dev.service r j.num 0x0805 fun d w => (d, w.provenance)⟩ := by
  rw [show exec _ s = execKeyAttestProvenance r j.num s from rfl]
  simp only [execKeyAttestProvenance, State.upd_next, hj, hp, if_true]

theorem exec_keyAttestIdentity {s : State} (hj : s.dev.job? j.num = some j) (hp : j.job.desc.p 0 2 = 1) (r : Nat) :
    exec (.keyAttestIdentity false r j.num) s =
      .next ⟨s.pending, s.dev.service r j.num 0x0805 fun d w => (d, w.identity)⟩ := by
  rw [show exec _ s = execKeyAttestIdentity false r j.num s from rfl]
  simp only [execKeyAttestIdentity, State.upd_next, hj, hp, Bool.false_eq_true, if_false, if_true]

/-! ### KEY_LOAD_BLOB -/

/-- The key of a blob and the text that it opens to: the template, origin and place of birth of its head, the private encoding and
the public part of the text (08:R202, R203). -/
def Dev.openedKey (d : Dev) (m : Nat) (b text : List Byte) : KeyMat :=
  let t : W64 := BitVec.ofNat 64 (field b 24 8)
  let a := tAlg t
  let n := if isRsa a then text.length else text.length - d.pubLen m a 0
  let priv := text.take n
  ⟨t, BitVec.ofNat 16 (field b 18 2), (field b 32 1) % 2 == 1, true, d.clock, priv,
    if isRsa a then d.publicPart m a priv else text.drop n⟩

theorem loadBlob_of_misfit (n : Nat) (h : inp.length ≠ 64 + field inp 20 4) :
    e.loadBlob n (e.serviceWork j inp aux k) = (e, Claims.fails 0x0103 0x0202 0) := if_pos h

section
variable (hlen : inp.length = 64 + field inp 20 4)
include hlen

theorem loadBlob_of_sealed (n : Nat) (h : e.openBlob j.job.seam inp = none) :
    ∃ ns, e.loadBlob n (e.serviceWork j inp aux k) = (e, Claims.fails 0x0302 0x0106 ns) := by
  simp only [Dev.loadBlob, Dev.serviceWork, if_neg (not_not.2 hlen), h]
  exact ⟨_, rfl⟩

section
variable {text : List Byte} (hopen : e.openBlob j.job.seam inp = some text)
include hopen

theorem loadBlob_of_no_curve (n : Nat) (hl : isLoadedCurve (tAlg (BitVec.ofNat 64 (field inp 24 8))) = true)
    (hc : e.curve j.job.seam (tAlg (BitVec.ofNat 64 (field inp 24 8)) - 0x2C0) = none) :
    ∃ ns, e.loadBlob n (e.serviceWork j inp aux k) = (e, Claims.fails 0x0302 0x0102 ns) := by
  simp only [Dev.loadBlob, Dev.serviceWork, if_neg (not_not.2 hlen), hopen, hl, hc, Option.isNone_none, Bool.and_self, if_true]
  exact ⟨_, rfl⟩

/-- A blob that opens enters the cache, or finds it full (08:R203). -/
theorem loadBlob_of_opened {bk bkid : List Byte} {epoch : BitVec 16} {next : Nat} {wrapped : Bool} (n : Nat)
    (hc : ¬(isLoadedCurve (tAlg (BitVec.ofNat 64 (field inp 24 8))) = true ∧
      e.curve j.job.seam (tAlg (BitVec.ofNat 64 (field inp 24 8)) - 0x2C0) = none))
    (hkey : e.blobKey j.job.seam = some (bk, bkid, epoch, next, wrapped)) :
    ∃ ns, e.loadBlob n (e.serviceWork j inp aux k) =
      match e.loadCache j.job.seam next (e.openedKey j.job.seam inp text) with
      | none => (e, Claims.fails 0x0303 0x0302 ns)
      | some g => ((g.nextLoad j.job.seam).modJob n fun y =>
          { y with tail := { y.tail with handle := g.handle j.job.seam true next 0 } }, Claims.finished [] 0 ns none) := by
  have hno : ¬(isLoadedCurve (tAlg (BitVec.ofNat 64 (field inp 24 8))) &&
      (e.curve j.job.seam (tAlg (BitVec.ofNat 64 (field inp 24 8)) - 0x2C0)).isNone) = true := by
    rwa [Bool.and_eq_true, Option.isNone_iff_eq_none]
  simp only [Dev.loadBlob, Dev.serviceWork, if_neg (not_not.2 hlen), hopen, if_neg hno, hkey]
  exact ⟨_, rfl⟩

end

end

end

end Sys2Proof.Machine

open Sys2Proof Machine Claims

/-- Settles O31: destruction by what the slot holds, attestation by its form, a blob by what it opens to. -/
theorem Sys2Proof.otherServices : Obligations.OtherServices := by
  intro s r j inp aux x m slot
  refine ⟨fun h => ?destroy, fun h => ?attest, fun h => ?blob⟩
  case destroy =>
    refine ⟨fun hp => ?key, fun hp hc => ?free, fun hp hc hu => ?used, fun hp hc hu => ?unused⟩
    case key => exact answers_of_sameKeys rfl h (fun _ => rfl) fun e _ => destroy_of_key hp
    case free => exact answers_of_sameKeys rfl h (fun _ => rfl) fun e he => destroy_of_free hp ((he.curve _ _).trans hc)
    case used =>
      exact answers_of_sameKeys rfl h (fun _ => rfl) fun e he =>
        destroy_of_used hp ((he.curve m slot).symm ▸ hc) ((he.curveUsed _ _).trans hu)
    case unused =>
      exact answers_of_sameKeys rfl h (fun _ => rfl) fun e he =>
        destroy_of_unused hp ((he.curve m slot).symm ▸ hc) ((he.curveUsed _ _).trans hu)
  case attest =>
    have hdr := Desc.draws_of_keyAttest h.opcode
    refine ⟨fun k hp hk => ?provenance, fun hp => ?identity⟩
    case provenance =>
      obtain ⟨ns, hns⟩ := provenance_result (e := drew s.dev r .internal) (inp := inp) (aux := aux) (k := s.dev.draws) hk
      exact answers_of_service (exec_keyAttestProvenance h.held hp r) h (fun _ => rfl) hdr
        ((if_neg (by simp only [Work.provenance, Dev.serviceWork, hk]; exact Bool.false_ne_true)).trans hdr)
        ⟨ns, congrArg (Prod.mk _) hns⟩
    case identity =>
      obtain ⟨ns, hns⟩ := identity_result (e := drew s.dev r .internal) (j := j) (inp := inp) (aux := aux) (k := s.dev.draws)
      exact answers_of_service (exec_keyAttestIdentity h.held hp r) h (fun _ => rfl) hdr hdr ⟨ns, congrArg (Prod.mk _) hns⟩
  case blob =>
    intro d ends body t a
    have hno := Desc.draws_of_keyLoadBlob h.opcode
    refine ⟨fun hl => ?misfit, fun hl ho => ?sealed, fun hl ho hlc hc => ?curve,
      fun text bk bkid epoch next wrapped hl ho hc hk => ⟨fun hfull => ?full, fun e he => ?loaded⟩⟩
    case misfit => exact answers_of_no_draws rfl h (fun _ => rfl) hno ⟨0, loadBlob_of_misfit _ hl⟩
    case sealed => exact answers_of_no_draws rfl h (fun _ => rfl) hno (loadBlob_of_sealed hl _ ho)
    case curve =>
      obtain ⟨text, htext⟩ := Option.ne_none_iff_exists'.1 ho
      exact answers_of_no_draws rfl h (fun _ => rfl) hno (loadBlob_of_no_curve hl htext _ hlc hc)
    case full =>
      have hload := loadBlob_of_opened (k := s.dev.draws) (aux := aux) hl ho j.num hc hk
      rw [show d.loadCache m next (d.openedKey m inp text) = none from hfull] at hload
      exact answers_of_no_draws rfl h (fun _ => rfl) hno hload
    case loaded =>
      have hload := loadBlob_of_opened (k := s.dev.draws) (aux := aux) hl ho j.num hc hk
      rw [show d.loadCache m next (d.openedKey m inp text) = some e from he] at hload
      exact answers_of_no_draws rfl h (fun _ => rfl) hno hload
end

section
/-! ## Wrapped keys (05:R133, R134, R399) -/

namespace Sys2Proof.Machine

/-! ### The merged template -/

theorem bitsOf_eq_extractLsb' (t : W64) (lo n : Nat) : bitsOf t.toNat lo n = (t.extractLsb' lo n).toNat := by
  rw [bitsOf, BitVec.extractLsb'_toNat, Nat.shiftRight_eq_div_pow]

theorem getLsbD_flag {i k : Nat} (hi : i < 64) (b : Bool) :
    (if b then 1#64 <<< k else 0#64).getLsbD i = (decide (i = k) && b) := by
  cases b
  · simp
  · simp only [if_true, Bool.and_true, BitVec.getLsbD_shiftLeft, hi, decide_true, Bool.true_and, BitVec.getLsbD_one]
    rw [Bool.eq_iff_iff]
    simp only [Bool.and_eq_true, Bool.not_eq_true', decide_eq_true_eq, decide_eq_false_iff_not]
    omega

theorem getLsbD_keptMask {i : Nat} (hi : i < 64) :
    (0x00FFFFFC0000FFFF#64).getLsbD i = decide (i < 16 ∨ 34 ≤ i ∧ i < 56) := by
  revert i; decide

theorem getLsbD_usageMask {i : Nat} (hi : i < 64) : (0xFFFF0000#64).getLsbD i = decide (16 ≤ i ∧ i < 32) := by
  revert i; decide

theorem getLsbD_mergeTemplate (inner outer : W64) {i : Nat} (hi : i < 64) : (mergeTemplate inner outer).getLsbD i =
    ((outer.getLsbD i && decide (i < 16 ∨ 34 ≤ i ∧ i < 56)) ||
      (inner.getLsbD i && outer.getLsbD i && decide (16 ≤ i ∧ i < 32)) ||
      (decide (i = 32) && (tExportable inner && tExportable outer)) || (decide (i = 33) && (tNever inner || tNever outer))) := by
  rw [← getLsbD_keptMask hi, ← getLsbD_usageMask hi, ← getLsbD_flag hi, ← getLsbD_flag hi]
  simp only [mergeTemplate, BitVec.getLsbD_or, BitVec.getLsbD_and]
  rfl

/-- A field of the merged template below usage, or above the flags that both decide, is the outer one's. -/
theorem bitsOf_mergeTemplate (inner outer : W64) {lo n : Nat} (h : lo + n ≤ 16 ∨ 34 ≤ lo ∧ lo + n ≤ 56) :
    bitsOf (mergeTemplate inner outer).toNat lo n = bitsOf outer.toNat lo n := by
  rw [bitsOf_eq_extractLsb', bitsOf_eq_extractLsb']
  congr 1
  refine BitVec.eq_of_getLsbD_eq fun i hi => ?_
  simp only [BitVec.getLsbD_extractLsb', hi, decide_true, Bool.true_and]
  rw [getLsbD_mergeTemplate _ _ (by omega), decide_eq_true (show lo + i < 16 ∨ 34 ≤ lo + i ∧ lo + i < 56 by omega),
    decide_eq_false (show ¬(16 ≤ lo + i ∧ lo + i < 32) by omega), decide_eq_false (show lo + i ≠ 32 by omega),
    decide_eq_false (show lo + i ≠ 33 by omega)]
  simp

theorem tUsage_mergeTemplate (inner outer : W64) :
    tUsage (mergeTemplate inner outer) = Nat.land (tUsage inner) (tUsage outer) := by
  have hbits : (mergeTemplate inner outer).extractLsb' 16 16 = inner.extractLsb' 16 16 &&& outer.extractLsb' 16 16 := by
    refine BitVec.eq_of_getLsbD_eq fun i hi => ?_
    simp only [BitVec.getLsbD_and, BitVec.getLsbD_extractLsb', hi, decide_true, Bool.true_and]
    rw [getLsbD_mergeTemplate _ _ (by omega), decide_eq_false (show ¬(16 + i < 16 ∨ 34 ≤ 16 + i ∧ 16 + i < 56) by omega),
      decide_eq_true (show 16 ≤ 16 + i ∧ 16 + i < 32 by omega), decide_eq_false (show 16 + i ≠ 32 by omega),
      decide_eq_false (show 16 + i ≠ 33 by omega)]
    simp
  simp only [tUsage, bitsOf_eq_extractLsb', hbits, BitVec.toNat_and]
  rfl

theorem tExportable_mergeTemplate (inner outer : W64) :
    tExportable (mergeTemplate inner outer) = (tExportable inner && tExportable outer) := by
  rw [tExportable, getLsbD_mergeTemplate _ _ (by decide)]
  simp

theorem tNever_mergeTemplate (inner outer : W64) : tNever (mergeTemplate inner outer) = (tNever inner || tNever outer) := by
  rw [tNever, getLsbD_mergeTemplate _ _ (by decide)]
  simp

theorem tSingle_mergeTemplate (inner outer : W64) : tSingle (mergeTemplate inner outer) = tSingle outer := by
  rw [tSingle, getLsbD_mergeTemplate _ _ (by decide)]
  simp [tSingle]

theorem tBlob_mergeTemplate (inner outer : W64) : tBlob (mergeTemplate inner outer) = tBlob outer := by
  rw [tBlob, getLsbD_mergeTemplate _ _ (by decide)]
  simp [tBlob]

/-! ### Export -/

theorem encaps_slices (a : Nat) (ek rand : List Byte) :
    encaps a ek rand = (slice (Config.kemEncaps a ek rand).1 0 (ctLen a), slice (Config.kemEncaps a ek rand).2 0 32) := rfl

section
variable {e : Dev} {j : JobRec} {inp aux : List Byte} {k : Nat} {a b : KeyMat} (ha : j.job.keyA = some a)
include ha

section
variable (hb : j.job.keyB = some b)
include hb

/-- The wrapped key, bare or behind the ciphertext of an envelope. -/
theorem exportKey_result : ∃ ns, (e.serviceWork j inp aux k).exportKey =
    Claims.finished
      (let p := leBytes 8 (tHeld a.template).toNat ++ a.priv
        let n := 8 * ((p.length + 7) / 8) + 8
        let sent := encaps (tAlg b.template) b.pub ((e.serviceWork j inp aux k).random 0 32)
        if j.job.desc.p 0 1 = 0 then slice (Config.kwp b.priv p) 0 n
        else sent.1 ++ slice (Config.kwp (envelopeKey sent.2 sent.1) p) 0 n) 0 ns none := by
  simp only [Work.exportKey, Dev.serviceWork, ha, hb]
  split_ifs <;> exact ⟨_, rfl⟩

end

/-! ### Import -/

/-- What KEY_IMPORT_WRAPPED finds in its input: the bytes under KEY_A, or under the key of the secret that KEY_A opens. -/
def unwrapped (j : JobRec) (a : KeyMat) (inp : List Byte) : Option (List Byte) :=
  let n := ctLen (tAlg a.template)
  let ct := slice inp 0 n
  if j.job.desc.p 0 1 = 1 then Config.kwpOpen (envelopeKey (decaps (tAlg a.template) a.priv ct) ct) (inp.drop n)
  else Config.kwpOpen a.priv inp

theorem importKey_of_sealed (hopen : unwrapped j a inp = none) :
    ∃ ns, (e.serviceWork j inp aux k).importKey = Claims.fails 0x0302 0x0106 ns := by
  simp only [unwrapped] at hopen
  simp only [Work.importKey, Dev.serviceWork, ha, beq_iff_eq, hopen]
  exact ⟨_, rfl⟩

/-- The bytes that open: the first check that fails names itself, and else the key is made. -/
theorem importKey_of_opened {p : List Byte} (hopen : unwrapped j a inp = some p) :
    ∃ ns n, (e.serviceWork j inp aux k).importKey =
      let inner : W64 := BitVec.ofNat 64 (field p 0 8)
      let t := mergeTemplate inner j.job.desc.keyB
      let made := e.keyOf j.job.seam t (p.drop 8)
      if p.length < 8 ∨ tAlg inner ≠ tAlg j.job.desc.keyB then Claims.fails 0x0302 0x0102 ns
      else if templateOk t false = false then Claims.fails 0x0302 0x0104 ns
      else if e.encodingOk j.job.seam t (p.drop 8) = false then Claims.fails 0x0302 0x0102 ns
      else Claims.finished made.pub 0 n (some made) := by
  simp only [unwrapped] at hopen
  simp only [Work.importKey, Dev.serviceWork, ha, beq_iff_eq, hopen, Bool.not_eq_true']
  exact ⟨_, _, rfl⟩

end

end Sys2Proof.Machine

open Sys2Proof Machine Claims

/-- Settles O30: an export and an import by what they wrap and open, the merged template bit by bit. -/
theorem Sys2Proof.wrappedKeys : Obligations.WrappedKeys := by
  intro s r j inp aux a ha x m envelope key
  refine ⟨fun b hb h => ?exported, fun h => ?imported, fun inner outer => ?merged⟩
  case exported =>
    exact answers_of_sameKeys rfl h (fun _ => rfl) fun e _ =>
      (exportKey_result ha hb).imp fun ns hns => congrArg (Prod.mk _) hns
  case imported =>
    intro n ct z opened ends
    refine ⟨fun ho => ?sealed, fun p ho => ?opened⟩
    case sealed =>
      exact answers_of_sameKeys rfl h (fun _ => rfl) fun e _ =>
        (importKey_of_sealed ha ho).imp fun ns hns => congrArg (Prod.mk _) hns
    case opened =>
      intro inner t priv
      have himport := fun e : Dev => importKey_of_opened (e := e) (aux := aux) (k := s.dev.draws) ha ho
      refine ⟨fun hal => ?alg, fun hlen hal ht => ?template, fun hlen hal ht hen => ?encoding, fun hlen hal ht hen => ?made⟩
      all_goals
        refine answers_of_sameKeys rfl h (fun _ => rfl) fun e he => ?_
        obtain ⟨ns, late, hns⟩ := himport e
      case alg => exact ⟨ns, congrArg (Prod.mk _) (hns.trans (if_pos hal))⟩
      all_goals replace hns := hns.trans (if_neg (not_or.2 ⟨not_lt.2 hlen, not_not.2 hal⟩))
      case template => exact ⟨ns, congrArg (Prod.mk _) (hns.trans (if_pos ht))⟩
      all_goals replace hns := hns.trans (if_neg (by rw [ht]; decide))
      case encoding => exact ⟨ns, congrArg (Prod.mk _) (hns.trans (if_pos ((he.encodingOk _ _ _).trans hen)))⟩
      case made =>
        replace hns := hns.trans (if_neg (by rw [he.encodingOk, hen]; decide))
        rw [he.keyOf] at hns
        exact ⟨late, congrArg (Prod.mk _) hns⟩
  case merged =>
    exact ⟨bitsOf_mergeTemplate _ _ (by decide), tUsage_mergeTemplate _ _, bitsOf_mergeTemplate _ _ (by decide),
      tSingle_mergeTemplate _ _, tBlob_mergeTemplate _ _, tExportable_mergeTemplate _ _, tNever_mergeTemplate _ _⟩
end

section
/-! ## CURVE_LOAD (05:R131, 06:R148, R149) -/

namespace Sys2Proof.Machine

/-! ### The searches -/

section
variable {cs : List (Nat × Curve)} {c : Curve} {i : Nat}

theorem find?_nums_eq_none (h : ∀ e ∈ cs, e.2.nums ≠ c.nums) : (cs.find? fun e => e.2.nums == c.nums) = none :=
  List.find?_eq_none.2 fun e he => by simpa using h e he

theorem find?_named_eq_none (h : ∀ i < 7, namedCurve (0x201 + i) ≠ c.nums) :
    ((List.range 7).find? fun i => namedCurve (0x201 + i) == c.nums) = none :=
  List.find?_eq_none.2 fun i hi => by simpa using h i (List.mem_range.1 hi)

theorem find?_named_eq_some (hi : i < 7) (h : namedCurve (0x201 + i) = c.nums)
    (hleast : ∀ k < i, namedCurve (0x201 + k) ≠ c.nums) :
    ((List.range 7).find? fun i => namedCurve (0x201 + i) == c.nums) = some i := by
  rw [List.find?_range_eq_some]
  simpa [h, hi] using hleast

theorem find?_slot_eq_none (h : ∀ i < 16, ∃ e ∈ cs, e.1 = i) :
    ((List.range 16).find? fun i => !(cs.any fun e => e.1 == i)) = none :=
  List.find?_eq_none.2 fun i hi => by
    obtain ⟨e, he, rfl⟩ := h i (List.mem_range.1 hi)
    simpa using ⟨e.2, he⟩

theorem find?_slot_eq_some (hi : i < 16) (hfree : ∀ e ∈ cs, e.1 ≠ i) (hused : ∀ k < i, ∃ e ∈ cs, e.1 = k) :
    ((List.range 16).find? fun i => !(cs.any fun e => e.1 == i)) = some i := by
  rw [List.find?_range_eq_some]
  refine ⟨?_, List.mem_range.2 hi, fun k hk => ?_⟩
  · simpa using fun k b hb => hfree (k, b) hb
  · obtain ⟨e, he, rfl⟩ := hused k hk
    simpa using ⟨e.2, he⟩

end

/-! ### The service -/

section
variable {n : Nat} {d : Dev} {w : Work} {c : Curve} {cs : List (Nat × Curve)} (hc : Curve.ofBytes w.inp = c)
include hc

theorem curveLoad_of_misfit (h : ¬(8 ≤ c.len ∧ c.len ≤ 80 ∧ w.inp.length = 4 + 6 * c.len)) :
    Work.curveLoad n d w = (d, Claims.fails 0x0103 0x0202 0) := by
  subst hc
  rw [Work.curveLoad, if_pos (by omega)]
  rfl

section
variable (hformed : 8 ≤ c.len ∧ c.len ≤ 80 ∧ w.inp.length = 4 + 6 * c.len)
include hformed

theorem curveLoad_of_malformed (h : ¬(field w.inp 2 2 = 0 ∧ 1 ≤ c.cofactor ∧ c.cofactor ≤ 8)) :
    Work.curveLoad n d w = (d, Claims.fails 0x0101 0x0401 0) := by
  subst hc
  rw [Work.curveLoad, if_neg (by omega), if_pos (by omega)]
  rfl

section
variable (hfields : field w.inp 2 2 = 0 ∧ 1 ≤ c.cofactor ∧ c.cofactor ≤ 8)
include hfields

theorem curveLoad_of_rejected {code : Nat} (h : c.reject = some code) :
    ∃ ns, Work.curveLoad n d w = (d, Claims.fails 0x0405 code ns) := by
  subst hc
  rw [Work.curveLoad, if_neg (by omega), if_neg (by omega)]
  simp only [h]
  exact ⟨_, rfl⟩

section
variable (hvalid : c.reject = none) (hcs : d.curves w.s = cs)
include hvalid hcs

/-- The answer of a curve that is valid: the ALG of the one alike, else a new slot (06:R148). -/
theorem curveLoad_of_valid : ∃ ns, Work.curveLoad n d w =
    match cs.find? fun e => e.2.nums == c.nums with
    | some e => (d, Claims.finished (leBytes 2 (0x2C0 + e.1)) 0 ns none)
    | none =>
      match (List.range 7).find? fun i => namedCurve (0x201 + i) == c.nums with
      | some i => (d, Claims.finished (leBytes 2 (0x201 + i)) 0 ns none)
      | none =>
        match (List.range 16).find? fun i => !(cs.any fun e => e.1 == i) with
        | none => (d, Claims.fails 0x0303 0x0303 ns)
        | some i =>
          (((d.modJob n fun y => { y with tail := { y.tail with room := 0 } }).drawNonce (some w.s)).addEntry (d.holders w.s)
            (d.keadeEntry 2 (some w.s) (i + 1) w.x.opcode (.curve c)), Claims.finished (leBytes 2 (0x2C0 + i)) 0 ns none) := by
  subst hc hcs
  rw [Work.curveLoad, if_neg (by omega), if_neg (by omega)]
  simp only [hvalid]
  exact ⟨_, rfl⟩

theorem curveLoad_of_loaded {i : Nat} {x : Curve} (h : (cs.find? fun e => e.2.nums == c.nums) = some (i, x)) :
    ∃ ns, Work.curveLoad n d w = (d, Claims.finished (leBytes 2 (0x2C0 + i)) 0 ns none) := by
  obtain ⟨ns, hns⟩ := curveLoad_of_valid (n := n) (d := d) hc hformed hfields hvalid hcs
  exact ⟨ns, by rw [hns, h]⟩

section
variable (hfresh : ∀ e ∈ cs, e.2.nums ≠ c.nums)
include hfresh

theorem curveLoad_of_named {i : Nat} (hi : i < 7) (h : namedCurve (0x201 + i) = c.nums)
    (hleast : ∀ k < i, namedCurve (0x201 + k) ≠ c.nums) :
    ∃ ns, Work.curveLoad n d w = (d, Claims.finished (leBytes 2 (0x201 + i)) 0 ns none) := by
  obtain ⟨ns, hns⟩ := curveLoad_of_valid (n := n) (d := d) hc hformed hfields hvalid hcs
  exact ⟨ns, by rw [hns, find?_nums_eq_none hfresh, find?_named_eq_some hi h hleast]⟩

section
variable (hunnamed : ∀ i < 7, namedCurve (0x201 + i) ≠ c.nums)
include hunnamed

theorem curveLoad_of_full (h : ∀ i < 16, ∃ e ∈ cs, e.1 = i) :
    ∃ ns, Work.curveLoad n d w = (d, Claims.fails 0x0303 0x0303 ns) := by
  obtain ⟨ns, hns⟩ := curveLoad_of_valid (n := n) (d := d) hc hformed hfields hvalid hcs
  exact ⟨ns, by rw [hns, find?_nums_eq_none hfresh, find?_named_eq_none hunnamed, find?_slot_eq_none h]⟩

theorem curveLoad_of_slot {i : Nat} (hi : i < 16) (hfree : ∀ e ∈ cs, e.1 ≠ i)
    (hused : ∀ k < i, ∃ e ∈ cs, e.1 = k) : ∃ ns, Work.curveLoad n d w =
      (((d.modJob n fun y => { y with tail := { y.tail with room := 0 } }).drawNonce (some w.s)).addEntry (d.holders w.s)
        (d.keadeEntry 2 (some w.s) (i + 1) w.x.opcode (.curve c)), Claims.finished (leBytes 2 (0x2C0 + i)) 0 ns none) := by
  obtain ⟨ns, hns⟩ := curveLoad_of_valid (n := n) (d := d) hc hformed hfields hvalid hcs
  exact ⟨ns, by rw [hns, find?_nums_eq_none hfresh, find?_named_eq_none hunnamed, find?_slot_eq_some hi hfree hused]⟩

end

end

end

end

end

end

end Sys2Proof.Machine

open Sys2Proof Machine Claims

/-- Settles O29: each outcome by the first of the checks that decides it. -/
theorem Sys2Proof.curvesLoad : Obligations.CurvesLoad := by
  intro s r j inp aux h c m d cs ends alg formed fields unnamed fresh entry
  refine ⟨fun hno => ?misfit, fun hf hno => ?malformed, fun code hf hx hr => ?rejected, fun i x hf hx hr hi => ?loaded,
    fun i hf hx hr hn hi hc hleast => ?named, fun hf hx hr hn hu hfull => ?full,
    fun i hf hx hr hn hu hi hfree hused => ?slot⟩
  case slot =>
    have hdr := Desc.draws_of_curveLoad h.opcode
    have hrun := fun (e : Dev) (he : e.SameKeys s.dev) => curveLoad_of_slot (n := j.num) (d := e)
      (w := e.serviceWork j inp aux s.dev.draws) rfl hf hx hr (he.curves m) hn hu hi hfree hused
    obtain ⟨_, hearly⟩ := hrun s.dev (.refl _)
    exact answers_of_service rfl h (fun _ => rfl) hdr ((if_neg (by rw [hearly]; exact Bool.false_ne_true)).trans hdr)
      (hrun _ (drew_sameKeys s.dev r .internal))
  all_goals refine answers_of_sameKeys rfl h (fun _ => rfl) fun e he => ?_
  case misfit => exact ⟨0, curveLoad_of_misfit rfl hno⟩
  case malformed => exact ⟨0, curveLoad_of_malformed rfl hf hno⟩
  case rejected => exact curveLoad_of_rejected rfl hf hx hr
  case loaded => exact curveLoad_of_loaded (w := e.serviceWork j inp aux s.dev.draws) rfl hf hx hr (he.curves m) hi
  case named => exact curveLoad_of_named (w := e.serviceWork j inp aux s.dev.draws) rfl hf hx hr (he.curves m) hn hi hc hleast
  case full => exact curveLoad_of_full rfl hf hx hr (he.curves m) hn hu hfull
end

section
/-! ## Keade takes up a Deep service (05:R400, 11:R258, R275) -/

namespace Sys2Proof.Machine

/-! ### The blocks that may be claimed -/

/-- The blocks of a mask that Keade may take. -/
def Dev.askedBlocks (d : Dev) (r : Nat) (blocks : BitVec 33) : List Nat :=
  (List.range 33).filter fun b => blocks.getLsbD b && d.claimable r b

/-- Of those that are cores, the ones it takes: as many as leave one unborrowed. -/
def Dev.takenCores (d : Dev) (r : Nat) (blocks : BitVec 33) : List Nat :=
  ((d.askedBlocks r blocks).filter (30 ≤ ·)).take (d.ridge r).spare

/-- The blocks that Keade claims. -/
def Dev.takenBlocks (d : Dev) (r : Nat) (blocks : BitVec 33) : List Nat :=
  (d.askedBlocks r blocks).filter (· < 30) ++ d.takenCores r blocks

/-- The cores, counted from 0, that Keade has not borrowed, as block bits. -/
def Ridge.unborrowed (x : Ridge) : List Nat :=
  ((List.range 3).filter fun c => !(x.cores.getD (c + 1) Core.reset).borrowed).map (· + 30)

section
variable {d : Dev} {r : Nat} {blocks : BitVec 33} {b c : Nat}

theorem mem_askedBlocks : b ∈ d.askedBlocks r blocks ↔ b < 33 ∧ blocks.getLsbD b = true ∧ d.claimable r b = true := by
  simp [Dev.askedBlocks]

theorem claimable_iff : d.claimable r b = true ↔
    (d.ridge r).world.claim.getLsbD b = false ∧ ((d.ridge r).engine b).inService = true ∧
      ((d.ridge r).engine b).testing = false ∧ (d.ridge r).gateOn.getLsbD b = false ∧ ((d.ridge r).engine b).running = none ∧
      ((d.ridge r).engine b).slot = none ∧ (30 ≤ b → (d.ridge r).coreFree (b - 29) = true) := by
  have hcore : (30 ≤ b → (d.ridge r).coreFree (b - 29) = true) ↔ b < 30 ∨ (d.ridge r).coreFree (b - 29) = true := by
    rw [← Nat.not_lt, not_imp_comm, or_iff_not_imp_left, not_imp_comm]
  rw [hcore]
  simp [Dev.claimable, and_assoc]

theorem nodup_askedBlocks : (d.askedBlocks r blocks).Nodup := List.nodup_range.filter _

theorem nodup_takenCores : (d.takenCores r blocks).Nodup := (nodup_askedBlocks.filter _).sublist (List.take_sublist _ _)

theorem mem_askedBlocks_of_mem_takenCores (h : b ∈ d.takenCores r blocks) : b ∈ d.askedBlocks r blocks ∧ 30 ≤ b := by
  simpa using List.mem_of_mem_take h

theorem mem_takenBlocks : b ∈ d.takenBlocks r blocks ↔ (b ∈ d.askedBlocks r blocks ∧ b < 30) ∨ b ∈ d.takenCores r blocks := by
  simp [Dev.takenBlocks]

theorem mem_askedBlocks_of_mem_takenBlocks (h : b ∈ d.takenBlocks r blocks) : b ∈ d.askedBlocks r blocks :=
  (mem_takenBlocks.1 h).elim And.left fun hc => (mem_askedBlocks_of_mem_takenCores hc).1

theorem nodup_takenBlocks : (d.takenBlocks r blocks).Nodup := by
  refine List.nodup_append'.2 ⟨nodup_askedBlocks.filter _, nodup_takenCores, fun b hlow hcore => ?_⟩
  have hge := (mem_askedBlocks_of_mem_takenCores hcore).2
  have hlt : b < 30 := by simpa using (List.mem_filter.1 hlow).2
  omega

theorem mem_takenCores_of_mem_takenBlocks (hb : 30 ≤ b) (h : b ∈ d.takenBlocks r blocks) : b ∈ d.takenCores r blocks :=
  (mem_takenBlocks.1 h).resolve_left fun hlow => by omega

/-! ### One core stays unborrowed -/

theorem mem_unborrowed : c + 30 ∈ (d.ridge r).unborrowed ↔ c < 3 ∧ (d.core r (c + 1)).borrowed = false := by
  simp [Ridge.unborrowed, Dev.core]

theorem length_unborrowed (x : Ridge) : x.unborrowed.length - 1 = x.spare := by
  rw [Ridge.unborrowed, List.length_map, ← List.countP_eq_length_filter, Ridge.spare]

theorem length_takenCores_le : (d.takenCores r blocks).length ≤ (d.ridge r).spare := List.length_take_le _ _

/-- A core that may be claimed is not borrowed. -/
theorem takenCores_subset_unborrowed : d.takenCores r blocks ⊆ (d.ridge r).unborrowed := by
  intro b hb
  obtain ⟨hasked, hge⟩ := mem_askedBlocks_of_mem_takenCores hb
  obtain ⟨hlt, _, hclaim⟩ := mem_askedBlocks.1 hasked
  obtain ⟨_, _, _, _, _, _, hfree⟩ := claimable_iff.1 hclaim
  obtain ⟨c, rfl⟩ : ∃ c, b = c + 30 := ⟨b - 30, by omega⟩
  have hborrowed : (d.core r (c + 1)).borrowed = false := by
    have := hfree hge
    simp only [Ridge.coreFree, Bool.and_eq_true, Bool.not_eq_true'] at this
    exact this.2
  exact mem_unborrowed.2 ⟨by omega, hborrowed⟩

theorem exists_unborrowed_left (h : ∃ c < 3, (d.core r (c + 1)).borrowed = false) :
    ∃ c < 3, (d.core r (c + 1)).borrowed = false ∧ c + 30 ∉ d.takenBlocks r blocks := by
  by_contra! hall
  have hsub : (d.ridge r).unborrowed ⊆ d.takenCores r blocks := fun b hb => by
    obtain ⟨c, rfl⟩ : ∃ c, b = c + 30 := by
      obtain ⟨c, _, rfl⟩ := List.mem_map.1 hb
      exact ⟨c, rfl⟩
    obtain ⟨hc, hk⟩ := mem_unborrowed.1 hb
    exact mem_takenCores_of_mem_takenBlocks (by omega) (hall c hc hk)
  have hnodup : (d.ridge r).unborrowed.Nodup := (List.nodup_range.filter _).map (add_left_injective 30)
  have hle := (hnodup.subperm hsub).length_le
  obtain ⟨c, hc, hk⟩ := h
  have hpos := List.length_pos_of_mem (mem_unborrowed.2 ⟨hc, hk⟩)
  have hspare := length_unborrowed (d.ridge r)
  have htaken := length_takenCores_le (d := d) (r := r) (blocks := blocks)
  omega

/-- No core that was asked for is left out but to keep the last. -/
theorem unborrowed_left_unique {e : Nat} (hb : 30 ≤ b) (hasked : b ∈ d.askedBlocks r blocks)
    (hleft : b ∉ d.takenBlocks r blocks) (hc : c < 3) (hck : (d.core r (c + 1)).borrowed = false)
    (hcleft : c + 30 ∉ d.takenBlocks r blocks) (he : e < 3) (hek : (d.core r (e + 1)).borrowed = false)
    (heleft : e + 30 ∉ d.takenBlocks r blocks) : e = c := by
  by_contra hne
  have hnotTaken : ∀ {k}, k ∉ d.takenBlocks r blocks → k ∉ d.takenCores r blocks := fun hk h => hk (mem_takenBlocks.2 (.inr h))
  have hall : (d.takenCores r blocks).length = (d.ridge r).spare := by
    refine List.length_take_of_le (Nat.le_of_not_le fun hle => hnotTaken hleft ?_)
    rw [Dev.takenCores, List.take_of_length_le hle]
    simpa using ⟨hasked, hb⟩
  have hsub : (e + 30) :: (c + 30) :: d.takenCores r blocks ⊆ (d.ridge r).unborrowed :=
    List.cons_subset.2 ⟨mem_unborrowed.2 ⟨he, hek⟩, List.cons_subset.2 ⟨mem_unborrowed.2 ⟨hc, hck⟩, takenCores_subset_unborrowed⟩⟩
  have hnodup : ((e + 30) :: (c + 30) :: d.takenCores r blocks).Nodup :=
    List.nodup_cons.2 ⟨by simpa [hne] using hnotTaken heleft, List.nodup_cons.2 ⟨hnotTaken hcleft, nodup_takenCores⟩⟩
  have hle := (hnodup.subperm hsub).length_le
  have hspare := length_unborrowed (d.ridge r)
  simp only [List.length_cons] at hle
  omega

end

/-! ### The mask, the claims and the command -/

theorem getLsbD_setBit33_true (m : BitVec 33) {b : Nat} (hb : b < 33) (i : Nat) :
    (setBit33 m b true).getLsbD i = (m.getLsbD i || decide (i = b)) := by
  rw [setBit33, if_pos rfl, BitVec.getLsbD_or, BitVec.getLsbD_shiftLeft, BitVec.getLsbD_one]
  congr 1
  rw [Bool.eq_iff_iff]
  simp only [Bool.and_eq_true, Bool.not_eq_true', decide_eq_true_eq, decide_eq_false_iff_not]
  omega

/-- The mask of a list of blocks. -/
def maskOf (bs : List Nat) (m : BitVec 33) : BitVec 33 := bs.foldl (fun m b => setBit33 m b true) m

theorem getLsbD_maskOf {bs : List Nat} (h : ∀ b ∈ bs, b < 33) (m : BitVec 33) (i : Nat) :
    (maskOf bs m).getLsbD i = true ↔ m.getLsbD i = true ∨ i ∈ bs := by
  induction bs generalizing m with
  | nil => simp [maskOf]
  | cons b bs ih =>
    obtain ⟨hb, hbs⟩ := List.forall_mem_cons.1 h
    rw [maskOf, List.foldl_cons, ← maskOf, ih hbs, getLsbD_setBit33_true m hb, List.mem_cons]
    simp [or_assoc]

theorem clock_claims (bs : List Nat) (d : Dev) (r : Nat) : (bs.foldl (fun d b => d.claim r b) d).clock = d.clock := by
  induction bs generalizing d with
  | nil => rfl
  | cons b bs ih => exact ih (d.claim r b)

theorem startService_of_waiting {d : Dev} {r n : Nat} {rest : List Nat} (blocks : BitVec 33)
    (hwait : (d.ridge r).world.waiting = n :: rest) (hruns : d.keadeRuns r = true) (hup : (d.ridge r).world.deepUp = true)
    (hroom : (d.ridge r).world.running.length < 4) : d.startService r blocks =
      ((d.takenBlocks r blocks).foldl (fun d b => d.claim r b) (d.modWorld r fun w =>
        { w with waiting := rest, running := w.running ++ [(n, maskOf (d.takenBlocks r blocks) 0)] })).modJob n fun y =>
          { y with job := { y.job with phase := .deepRun }, tail := { y.tail with started := d.clock } } := by
  simp only [Dev.startService, hwait, hruns, hup, hroom, decide_true, Bool.and_self, if_true]
  rw [clock_claims]
  rfl

end Sys2Proof.Machine

open Sys2Proof Machine Claims

/-- Settles O28: the blocks claimed are the engines asked for and, by counting, all the cores asked for but one at most. -/
theorem Sys2Proof.servicesStart : Obligations.ServicesStart := by
  intro s r blocks n rest d y w idle kept hwait hruns hup hroom
  have hidle : ∀ b, idle b ↔ b ∈ d.askedBlocks r blocks := fun b => by
    rw [mem_askedBlocks, claimable_iff]
  have hlt : ∀ b ∈ d.takenBlocks r blocks, b < 33 := fun b hb =>
    (mem_askedBlocks.1 (mem_askedBlocks_of_mem_takenBlocks hb)).1
  refine ⟨d.takenBlocks r blocks, maskOf (d.takenBlocks r blocks) 0, ?idle, ?engines, nodup_takenBlocks, exists_unborrowed_left,
    ?cores, ?mask, ?leaves⟩
  case idle => exact fun b hb => (hidle b).2 (mem_askedBlocks_of_mem_takenBlocks hb)
  case engines => exact fun b hb hi => mem_takenBlocks.2 (.inl ⟨(hidle b).1 hi, hb⟩)
  case cores =>
    exact fun b hb hi hleft c hc hck hcleft e he hek heleft =>
      unborrowed_left_unique hb ((hidle b).1 hi) hleft hc hck hcleft he hek heleft
  case mask => exact fun b => by simp [getLsbD_maskOf hlt]
  case leaves => exact leaves_of rfl (startService_of_waiting blocks hwait hruns hup hroom)
end

section
/-! ## Lattice and hash-based operations (05:Table 5.10, 07:R164 to R169, R175) -/

namespace Sys2Proof.Machine

/-! ### The modulus check of ML-KEM (07:R169) -/

/-- Block `i` of an encapsulation key holds a coefficient of q or above. -/
def KemBlockHigh (ek : List Byte) (i : Nat) : Prop :=
  ∃ m < 128, 3329 ≤ field ek (384 * i + 3 * m) 3 % 4096 ∨ 3329 ≤ field ek (384 * i + 3 * m) 3 / 4096

section
variable {a i : Nat} {ek : List Byte}

theorem kemBlockHigh_iff : (!((List.range 128).all fun m => coeffOk ek (384 * i + 3 * m))) = true ↔ KemBlockHigh ek i := by
  simp [KemBlockHigh, coeffOk, imp_iff_not_or]

theorem kemBadBlock_eq_none (h : ∀ i < kemRank a, ¬KemBlockHigh ek i) : kemBadBlock a ek = none :=
  Option.map_eq_none_iff.2 (List.find?_eq_none.2 fun i hi => mt kemBlockHigh_iff.1 (h i (List.mem_range.1 hi)))

theorem kemBadBlock_eq_some (hi : i < kemRank a) (h : KemBlockHigh ek i) (hleast : ∀ k < i, ¬KemBlockHigh ek k) :
    kemBadBlock a ek = some (384 * i) := by
  refine Option.map_eq_some_iff.2 ⟨i, List.find?_range_eq_some.2 ⟨kemBlockHigh_iff.2 h, List.mem_range.2 hi, fun k hk => ?_⟩, rfl⟩
  rw [Bool.not_eq_true', Bool.eq_false_iff]
  exact mt kemBlockHigh_iff.1 (hleast k hk)

end

/-! ### Times of operations that sample (07:R164, R165) -/

theorem kemBlocks_ne_zero (a : Nat) (gen : Bool) : kemBlocks a gen ≠ 0 := by
  unfold kemBlocks kemRank
  split_ifs <;> simp

theorem dsaSignBlocks_ne_zero (a k : Nat) (seed : Bool) : dsaSignBlocks a (1 + k) seed ≠ 0 := by
  simp [dsaSignBlocks]

theorem dsaVerifyBlocks_ne_zero (a : Nat) : dsaVerifyBlocks a ≠ 0 := Nat.succ_ne_zero _

section
variable {d : Dev} {j : JobRec} {inp aux : List Byte}

theorem workOf_latticeNs (h : (Claims.workOf d j inp aux).tableBlocks ≠ 0) (ns : Nat) :
    (Claims.workOf d j inp aux).latticeNs ns = ns + engNs (26 * Config.furtherBlocks d.draws) := by
  rw [Work.latticeNs, Work.further, if_neg h]
  rfl

theorem tableBlocks_of_kem (h : j.job.desc.op = 0x0401 ∨ j.job.desc.op = 0x0402) :
    (Claims.workOf d j inp aux).tableBlocks ≠ 0 := by
  rcases h with h | h <;> simp [Work.tableBlocks, h, kemBlocks_ne_zero]

theorem tableBlocks_of_mldsaSign (h : j.job.desc.op = 0x0411) : (Claims.workOf d j inp aux).tableBlocks ≠ 0 := by
  simp [Work.tableBlocks, h, Work.iterations, dsaSignBlocks_ne_zero]

theorem tableBlocks_of_mldsaVerify (h : j.job.desc.op = 0x0412) : (Claims.workOf d j inp aux).tableBlocks ≠ 0 := by
  simp [Work.tableBlocks, h, dsaVerifyBlocks_ne_zero]

/-! ### ML-KEM -/

theorem kemEncaps_of_high {i : Nat} (hi : i < kemRank (Claims.algOf j)) (hk : j.job.keyA = none) (h : KemBlockHigh aux i)
    (hleast : ∀ k < i, ¬KemBlockHigh aux k) : (Claims.workOf d j inp aux).kemEncaps =
      Claims.fails 0x0403 (384 * i + 0x8000) (engNs (32 + 16 * kemRank (Claims.algOf j))) := by
  simp only [Work.kemEncaps, workOf_a, workOf_alg, workOf_aux, hk, Option.isSome_none, Bool.false_eq_true, if_false,
    kemBadBlock_eq_some hi h hleast]
  rfl

theorem kemEncaps_of_low (hop : j.job.desc.op = 0x0401)
    (h : j.job.keyA = none → ∀ i < kemRank (Claims.algOf j), ¬KemBlockHigh aux i) :
    let a := Claims.algOf j
    let e := Config.kemEncaps a (Claims.publicOf j.job.keyA aux) (Claims.drawn d 0 32)
    (Claims.workOf d j inp aux).kemEncaps = Claims.finished (slice e.1 0 (ctLen a)) 0
      ((kemTimes a).2.1 + engNs (26 * Config.furtherBlocks d.draws))
      (some (d.keyOf j.job.seam j.job.desc.keyB (slice e.2 0 32))) := by
  have hpass : (if (Claims.workOf d j inp aux).a.isSome then none
      else kemBadBlock (Claims.workOf d j inp aux).alg (Claims.workOf d j inp aux).aux) = none := by
    split
    next => rfl
    next hk => exact kemBadBlock_eq_none (h (by simpa using hk))
  simp only [Work.kemEncaps, hpass, workOf_latticeNs (tableBlocks_of_kem (.inl hop))]
  rfl

theorem kemDecaps_result {key : KeyMat} (hk : j.job.keyA = some key) (hop : j.job.desc.op = 0x0402) :
    (Claims.workOf d j inp aux).kemDecaps = Claims.finished [] 0
      ((kemTimes (Claims.algOf j)).2.2 + engNs (26 * Config.furtherBlocks d.draws))
      (some (d.keyOf j.job.seam j.job.desc.keyB (slice (Config.kemDecaps (Claims.algOf j) key.priv inp) 0 32))) := by
  simp only [Work.kemDecaps, workOf_priv hk, workOf_latticeNs (tableBlocks_of_kem (.inr hop))]
  rfl

/-! ### Contexts and digests of signatures (05:R127) -/

theorem not_digestFits_iff (n : Nat) : (!(Claims.workOf d j inp aux).digestFits n) = true ↔
    ¬(j.job.desc.p 4 1 = 1 → n = digestLen (j.job.desc.p 0 4)) := by
  simp [Work.digestFits]

/-- What a signature of Table 5.10 refuses of its input. -/
theorem misfit_iff : (!ctxOk inp || !(Claims.workOf d j inp aux).digestFits (afterCtx inp).length) = true ↔
    ¬((inp ≠ [] ∧ 1 + field inp 0 1 ≤ inp.length) ∧
      (j.job.desc.p 4 1 = 1 → (afterCtx inp).length = digestLen (j.job.desc.p 0 4))) :=
  (not_ctxOk_or (not_digestFits_iff _)).trans not_and_or.symm

theorem mldsaSign_of_fits {key : KeyMat} (hk : j.job.keyA = some key) (hop : j.job.desc.op = 0x0411)
    (h : ¬(!ctxOk inp || !(Claims.workOf d j inp aux).digestFits (afterCtx inp).length) = true) :
    let a := Claims.algOf j
    let x := j.job.desc
    let tries := (Claims.workOf d j inp aux).iterations
    (Claims.workOf d j inp aux).mldsaSign = Claims.finished
      (slice (Config.sign a [] key.priv (variant x.param.toNat (ctxOf inp)) (afterCtx inp)
        (if x.p 5 1 = 1 then [] else Claims.drawn d 0 32)) 0 (sigLen a))
      (min tries 0xFFFF)
      ((dsaTimes a).2.1 + tries * (dsaTimes a).2.2.1 + absorb (inp.length - 1) + engNs (26 * Config.furtherBlocks d.draws))
      none := by
  simp only [Work.mldsaSign, workOf_inp, if_neg h, workOf_priv hk, workOf_latticeNs (tableBlocks_of_mldsaSign hop)]
  rfl

theorem slhSign_of_fits {key : KeyMat} (hk : j.job.keyA = some key)
    (h : ¬(!ctxOk inp || !(Claims.workOf d j inp aux).digestFits (afterCtx inp).length) = true) :
    let a := Claims.algOf j
    let x := j.job.desc
    (Claims.workOf d j inp aux).slhSign = Claims.finished
      (slice (Config.sign a [] key.priv (variant x.param.toNat (ctxOf inp)) (afterCtx inp)
        (if x.p 5 1 = 1 then slice key.priv (2 * slhN a) (slhN a) else Claims.drawn d 0 (slhN a))) 0 (sigLen a))
      0 (slhTimes a).1 none := by
  simp only [Work.slhSign, workOf_inp, if_neg h, workOf_priv hk]
  rfl

/-- A verification of Table 5.10: the lengths that it refuses, else its verdict. -/
theorem workOf_pqVerify (ns : Nat) : let a := Claims.algOf j
    let rest := afterCtx inp
    let n := sigLen a
    (Claims.workOf d j inp aux).pqVerify ns =
      if (inp ≠ [] ∧ 1 + field inp 0 1 ≤ inp.length) ∧ n ≤ rest.length ∧
          (j.job.desc.p 4 1 = 1 → rest.length - n = digestLen (j.job.desc.p 0 4)) then
        Claims.verdict (Config.verify a [] (Claims.publicOf j.job.keyA aux) (variant j.job.desc.param.toNat (ctxOf inp))
          (rest.drop n) (slice rest 0 n)) ns
      else Claims.fails 0x0103 0x0202 0 := by
  intro a rest n
  have hbad : (!ctxOk inp || decide (rest.length < n) || !(Claims.workOf d j inp aux).digestFits (rest.length - n)) = true ↔
      ¬((inp ≠ [] ∧ 1 + field inp 0 1 ≤ inp.length) ∧ n ≤ rest.length ∧
        (j.job.desc.p 4 1 = 1 → rest.length - n = digestLen (j.job.desc.p 0 4))) := by
    rw [Bool.or_assoc]
    refine (not_ctxOk_or ?_).trans not_and_or.symm
    rw [Bool.or_eq_true, decide_eq_true_eq, not_digestFits_iff, ← Nat.not_le, ← not_and_or]
  split
  next hp => exact (if_neg (mt hbad.1 (not_not.2 hp))).trans (verdictOf_eq_verdict _ _)
  next hp => exact if_pos (hbad.2 hp)

theorem mldsaVerify_result (hop : j.job.desc.op = 0x0412) : (Claims.workOf d j inp aux).mldsaVerify =
    (Claims.workOf d j inp aux).pqVerify ((dsaTimes (Claims.algOf j)).2.2.2 +
      absorb (inp.length - 1 - sigLen (Claims.algOf j)) + engNs (26 * Config.furtherBlocks d.draws)) := by
  rw [Work.mldsaVerify, workOf_latticeNs (tableBlocks_of_mldsaVerify hop)]
  rfl

end

end Sys2Proof.Machine

open Sys2Proof Machine Claims

/-- Settles O15: each operation by the lengths or the key that it refuses, and by its result. -/
theorem Sys2Proof.latticeAndHashBased : Obligations.LatticeAndHashBased := by
  intro s r b j inp aux x a pub c rest fits digestOk vary n secret rank more high
  refine ⟨fun h => ⟨fun i hi hk hhigh hleast => ?high, fun hlow => ?encaps⟩, fun key hk h => ?decaps, fun key hk h => ?mldsaSign,
    fun h => ?mldsaVerify, fun key hk h => ?slhSign, fun h => ?slhVerify⟩
  case high => exact givesIn_of_work rfl h (kemEncaps_of_high hi hk hhigh hleast)
  case encaps => exact givesIn_of_work rfl h (kemEncaps_of_low h.opcode hlow)
  case decaps => exact givesIn_of_work rfl h (kemDecaps_result hk h.opcode)
  case mldsaSign =>
    split
    next hp =>
      exact ⟨(workOf s.dev j inp aux).iterations, Nat.le_add_right _ _,
        givesIn_of_work rfl h (mldsaSign_of_fits hk h.opcode (mt misfit_iff.1 (not_not.2 hp)))⟩
    next hp => exact givesIn_of_work rfl h (if_pos (misfit_iff.2 hp))
  case mldsaVerify =>
    have hres := (mldsaVerify_result (d := s.dev) (inp := inp) (aux := aux) h.opcode).trans (workOf_pqVerify _)
    split
    next hp => exact givesIn_of_work rfl h (hres.trans (if_pos hp))
    next hp => exact givesIn_of_work rfl h (hres.trans (if_neg hp))
  case slhSign =>
    split
    next hp => exact gives_of_work rfl h ⟨_, slhSign_of_fits hk (mt misfit_iff.1 (not_not.2 hp))⟩
    next hp => exact givesIn_of_work rfl h (if_pos (misfit_iff.2 hp))
  case slhVerify =>
    have hres := workOf_pqVerify (d := s.dev) (j := j) (inp := inp) (aux := aux) (slhTimes a).2
    split
    next hp => exact gives_of_work rfl h ⟨_, hres.trans (if_pos hp)⟩
    next hp => exact givesIn_of_work rfl h (hres.trans (if_neg hp))
end

section
/-! ## The primitives of tenant programs (07:R162, R180, 10:Table 10.9) -/

namespace Sys2Proof.Machine

/-! ### The operations -/

/-- The checks of the modulus of MODEXP_G2 (06:Table 6.6). -/
theorem checked_modexpFaults (p k : Nat) (go : Nat → Result) (ns : Nat) :
    Claims.checked (modexpFaults p 0 k false) go ns =
      if p % 2 = 0 then Claims.fails 0x0403 0 ns else if p < 2 ^ (8 * (k - 1)) then Claims.fails 0x0401 0 ns else go ns := by
  simp only [modexpFaults, Bool.false_eq_true, if_false]
  split_ifs <;> rfl

theorem getD_map_range {f : Nat → Nat} {n i : Nat} (h : i < n) : ((List.range n).map f).getD i 0 = f i := by
  simp [List.getD, h]

section
variable {d : Dev} {j : JobRec} {inp aux : List Byte}

theorem modexp_result {key : KeyMat} (hk : j.job.keyA = some key) : let k := inp.length / 2
    let p := beNat (slice inp 0 k)
    let y := beNat (slice inp k k)
    ∃ ns, (Claims.workOf d j inp aux).modexp = Claims.checked (rsaIntFaults y p k true) (fun ns => Claims.finished [] 0 ns
      (some (d.keyOf j.job.seam j.job.desc.keyB (beBytes k (y ^ beNat key.priv % p))))) ns := by
  simp only [Work.modexp, workOf_priv hk, powMod_eq]
  exact exists_validated ⟨_, rfl⟩

theorem modexpG2_result {key : KeyMat} (hk : j.job.keyA = some key) : let p := beNat inp
    ∃ ns, (Claims.workOf d j inp aux).modexpG2 = Claims.checked (modexpFaults p 0 inp.length false)
      (fun ns => Claims.finished (beBytes inp.length (2 ^ beNat key.priv % p)) 0 ns none) ns := by
  simp only [Work.modexpG2, workOf_priv hk, powMod_eq]
  exact exists_validated ⟨_, rfl⟩

/-- The coefficients of a polynomial in IN, reduced. -/
theorem coeffs_map_mod (b : List Byte) (o q : Nat) :
    (coeffs b o).map (· % q) = (List.range 256).map fun i => field b (o + 4 * i) 4 % q := by
  simp [coeffs]

theorem coeffBytes_map_range (f : Nat → Nat) :
    coeffBytes ((List.range 256).map f) = (List.range 256).flatMap fun i => leBytes 4 (f i) := by
  simp [coeffBytes, List.flatMap_map]

theorem ntt_result : let q := j.job.desc.wired
    let c := (List.range 256).map fun i => field inp (0 + 4 * i) 4 % q
    (Claims.workOf d j inp aux).ntt = Claims.finished
      ((if j.job.desc.p 0 1 = 0 then nttForward q (nttRoot q).1 (nttRoot q).2 c
        else nttInverse q (nttRoot q).1 (nttRoot q).2 c).flatMap (leBytes 4)) 0 (if q = 3329 then 35 else 40) none := by
  simp only [Work.ntt, workOf_inp, coeffs_map_mod]
  rfl

/-- A product of two polynomials of 256 coefficients (FIPS 203, 07:R180). -/
theorem polyMul_map_range (q : Nat) (f g : Nat → Nat) : polyMul q ((List.range 256).map f) ((List.range 256).map g) =
    (List.range 256).map fun i =>
      if q = 3329 then
        let m := i / 2 * 2
        if i % 2 = 0 then (f m * g m + f (m + 1) * g (m + 1) % q * (17 ^ (2 * bitrev 7 (i / 2) + 1) % q)) % q
        else (f m * g (m + 1) + f (m + 1) * g m) % q
      else f i * g i % q := by
  refine List.map_congr_left fun i hi => ?_
  have hi := List.mem_range.1 hi
  have hm : i / 2 * 2 < 256 := by omega
  have hm' : i / 2 * 2 + 1 < 256 := by omega
  simp only [getD_map_range hi, getD_map_range hm, getD_map_range hm', powMod_eq, rev]

theorem polyProduct_result : let q := j.job.desc.wired
    let word := fun (o i : Nat) => field inp (o + 4 * i) 4 % q
    ∃ ns, (Claims.workOf d j inp aux).polyProduct = Claims.finished ((List.range 256).flatMap fun i => leBytes 4 (
      if q = 3329 then
        let m := i / 2 * 2
        if i % 2 = 0 then (word 0 m * word 1024 m +
          word 0 (m + 1) * word 1024 (m + 1) % q * (17 ^ (2 * bitrev 7 (i / 2) + 1) % q)) % q
        else (word 0 m * word 1024 (m + 1) + word 0 (m + 1) * word 1024 m) % q
      else word 0 i * word 1024 i % q)) 0 ns none := by
  simp only [Work.polyProduct, workOf_inp, coeffs_map_mod, polyMul_map_range, coeffBytes_map_range]
  exact ⟨_, rfl⟩

theorem sample_result : ∃ ns, (Claims.workOf d j inp aux).sample = Claims.finished ((List.range 256).flatMap fun i =>
    leBytes 4 ((Config.sampler (j.job.desc.p 0 4) inp).getD i 0)) 0 ns none := by
  simp only [Work.sample, coeffBytes_map_range]
  exact ⟨_, rfl⟩

end

/-! ### Roots of the transforms (FIPS 203, FIPS 204) -/

theorem bitrev_zero (n : Nat) : bitrev n 0 = 0 := by
  induction n with
  | zero => rfl
  | succ n ih => simp [bitrev, ih]

/-- The roots that a block meets in layer `i`, going and coming, have exponents that add up to half the root's order. -/
theorem bitrev_add_bitrev {i n blk : Nat} (hi : i < n) (hblk : blk < 2 ^ i) :
    bitrev n (2 ^ i + blk) + bitrev n (2 * 2 ^ i - 1 - blk) = 2 ^ n := by
  induction i generalizing n blk with
  | zero =>
    obtain ⟨n, rfl⟩ := Nat.exists_eq_succ_of_ne_zero (Nat.ne_zero_of_lt hi)
    obtain rfl : blk = 0 := by omega
    simp [bitrev, bitrev_zero, Nat.pow_succ, Nat.mul_two]
  | succ i ih =>
    obtain ⟨n, rfl⟩ := Nat.exists_eq_succ_of_ne_zero (Nat.ne_zero_of_lt hi)
    have hsum := ih (n := n) (blk := blk / 2) (by omega) (by omega)
    have hx : (2 ^ (i + 1) + blk) / 2 = 2 ^ i + blk / 2 := by omega
    have hy : (2 * 2 ^ (i + 1) - 1 - blk) / 2 = 2 * 2 ^ i - 1 - blk / 2 := by omega
    have hodd : (2 ^ (i + 1) + blk) % 2 + (2 * 2 ^ (i + 1) - 1 - blk) % 2 = 1 := by omega
    simp only [bitrev, hx, hy]
    calc _ = ((2 ^ (i + 1) + blk) % 2 + (2 * 2 ^ (i + 1) - 1 - blk) % 2) * 2 ^ n +
          (bitrev n (2 ^ i + blk / 2) + bitrev n (2 * 2 ^ i - 1 - blk / 2)) := by ring
      _ = 2 ^ (n + 1) := by rw [hodd, hsum]; ring

/-! ### Layers -/

/-- The coefficients of `c` are `k` times those of `e`, modulo q. -/
def Multiple (q k : Nat) (c e : List Nat) : Prop := ∀ i < 256, ((c.getD i 0 : Nat) : ZMod q) = k * (e.getD i 0 : Nat)

section
variable {q : Nat}

theorem natCast_subMod (hq : 0 < q) (x y : Nat) : ((subMod q x y : Nat) : ZMod q) = x - y := by
  rw [subMod, ZMod.natCast_mod, Nat.cast_add, Nat.cast_sub (Nat.mod_lt y hq).le, ZMod.natCast_self, ZMod.natCast_mod]
  ring

section
variable {root bits len start : Nat} {c : List Nat} {i : Nat} (hi : i < 256)
include hi

theorem nttLayer_of_low (h : i % (2 * len) < len) : (((nttLayer q root bits len start c).getD i 0 : Nat) : ZMod q) =
    c.getD i 0 + (root : ZMod q) ^ bitrev bits (start + i / (2 * len)) * c.getD (i + len) 0 := by
  rw [nttLayer, getD_map_range hi]
  simp [h, rev]

theorem nttLayer_of_high (hq : 0 < q) (h : ¬i % (2 * len) < len) :
    (((nttLayer q root bits len start c).getD i 0 : Nat) : ZMod q) =
      c.getD (i - len) 0 - (root : ZMod q) ^ bitrev bits (start + i / (2 * len)) * c.getD i 0 := by
  rw [nttLayer, getD_map_range hi]
  simp [h, rev, natCast_subMod hq]

theorem nttBack_of_low (h : i % (2 * len) < len) : (((nttBack q root bits len start c).getD i 0 : Nat) : ZMod q) =
    c.getD i 0 + c.getD (i + len) 0 := by
  rw [nttBack, getD_map_range hi]
  simp [h]

theorem nttBack_of_high (hq : 0 < q) (h : ¬i % (2 * len) < len) :
    (((nttBack q root bits len start c).getD i 0 : Nat) : ZMod q) =
      (root : ZMod q) ^ bitrev bits (2 * start - 1 - i / (2 * len)) * (c.getD i 0 - c.getD (i - len) 0) := by
  rw [nttBack, getD_map_range hi]
  simp [h, rev, natCast_subMod hq]

end

/-! ### A layer and its inverse -/

section
variable {len i : Nat}

theorem div_mod_add_of_low (h : i % (2 * len) < len) : ¬(i + len) % (2 * len) < len ∧ (i + len) / (2 * len) = i / (2 * len) := by
  have hmod : len % (2 * len) = len := Nat.mod_eq_of_lt (by omega)
  have hdiv : len / (2 * len) = 0 := Nat.div_eq_of_lt (by omega)
  have hsum : i % (2 * len) + len % (2 * len) < 2 * len := by omega
  rw [Nat.add_mod_of_add_mod_lt hsum, Nat.add_div_eq_of_add_mod_lt hsum, hmod, hdiv]
  omega

theorem div_mod_sub_of_high (hlen : 0 < len) (h : ¬i % (2 * len) < len) :
    (i - len) % (2 * len) < len ∧ (i - len) / (2 * len) = i / (2 * len) ∧ i - len + len = i := by
  have hrem : i % (2 * len) < 2 * len := Nat.mod_lt i (by omega)
  have hsplit := Nat.div_add_mod i (2 * len)
  have hlow : i - len = 2 * len * (i / (2 * len)) + (i % (2 * len) - len) := by omega
  have hmod : (i - len) % (2 * len) = i % (2 * len) - len := by
    rw [hlow, Nat.mul_add_mod, Nat.mod_eq_of_lt (show i % (2 * len) - len < 2 * len by omega)]
  have hdiv : (i - len) / (2 * len) = i / (2 * len) := by
    rw [hlow, Nat.mul_add_div (by omega), Nat.div_eq_of_lt (show i % (2 * len) - len < 2 * len by omega), Nat.add_zero]
  have hle := Nat.mod_le i (2 * len)
  omega

end

/-- An inverse layer takes a forward one back, and doubles: its root is the negative inverse of the forward layer's. -/
theorem Multiple.back {root bits len start k : Nat} {c e : List Nat} (hq : 0 < q) (hsize : 2 * len * start = 256)
    (hroot : ∀ blk < start, (root : ZMod q) ^ (bitrev bits (start + blk) + bitrev bits (2 * start - 1 - blk)) = -1)
    (h : Multiple q k c (nttLayer q root bits len start e)) : Multiple q (2 * k) (nttBack q root bits len start c) e := by
  intro i hi
  have hlen : 0 < len := Nat.pos_of_ne_zero fun h0 => by simp [h0] at hsize
  have hlt : ∀ n, n / (2 * len) < start ↔ n < 256 := fun n => by
    rw [Nat.div_lt_iff_lt_mul (by omega), Nat.mul_comm start, hsize]
  by_cases hlow : i % (2 * len) < len
  · obtain ⟨hhigh, hblk⟩ := div_mod_add_of_low hlow
    have hi' : i + len < 256 := (hlt _).1 (hblk ▸ (hlt i).2 hi)
    rw [nttBack_of_low hi hlow, h i hi, h _ hi', nttLayer_of_low hi hlow, nttLayer_of_high hi' hq hhigh, hblk,
      Nat.add_sub_cancel]
    push_cast
    ring
  · obtain ⟨hlow', hblk, hback⟩ := div_mod_sub_of_high hlen hlow
    have hi' : i - len < 256 := by omega
    have hneg := hroot _ ((hlt i).2 hi)
    rw [pow_add] at hneg
    rw [nttBack_of_high hi hq hlow, h i hi, h _ hi', nttLayer_of_high hi hq hlow, nttLayer_of_low hi' hlow', hblk, hback]
    push_cast
    linear_combination (-2 * k * e.getD i 0 : ZMod q) * hneg

/-! ### All layers -/

/-- The first `n` layers of a forward transform. -/
def nttWind (q root bits n : Nat) (c : List Nat) : List Nat :=
  (List.range n).foldl (fun c i => nttLayer q root bits (128 / 2 ^ i) (2 ^ i) c) c

/-- The inverses of the first `n` layers, the last one first. -/
def nttUnwind (q root bits n : Nat) (c : List Nat) : List Nat :=
  (List.range n).reverse.foldl (fun c i => nttBack q root bits (128 / 2 ^ i) (2 ^ i) c) c

theorem nttForward_eq_nttWind (q root bits : Nat) (c : List Nat) : nttForward q root bits c = nttWind q root bits bits c := rfl

theorem nttInverse_eq_nttUnwind (q root bits : Nat) (c : List Nat) : nttInverse q root bits c =
    (nttUnwind q root bits bits c).map fun v => v * ((2 ^ bits) ^ (q - 2) % q) % q := by
  simp only [nttInverse, powMod_eq]
  rfl

theorem nttWind_succ (q root bits n : Nat) (c : List Nat) :
    nttWind q root bits (n + 1) c = nttLayer q root bits (128 / 2 ^ n) (2 ^ n) (nttWind q root bits n c) := by
  simp [nttWind, List.range_succ]

theorem nttUnwind_succ (q root bits n : Nat) (c : List Nat) :
    nttUnwind q root bits (n + 1) c = nttUnwind q root bits n (nttBack q root bits (128 / 2 ^ n) (2 ^ n) c) := by
  simp [nttUnwind, List.range_succ]

theorem length_nttLayer (q root bits len start : Nat) (c : List Nat) : (nttLayer q root bits len start c).length = 256 := by
  simp [nttLayer]

theorem length_nttBack (q root bits len start : Nat) (c : List Nat) : (nttBack q root bits len start c).length = 256 := by
  simp [nttBack]

theorem length_nttWind {c : List Nat} (h : c.length = 256) (q root bits n : Nat) : (nttWind q root bits n c).length = 256 := by
  cases n with
  | zero => exact h
  | succ n => rw [nttWind_succ, length_nttLayer]

theorem length_nttUnwind {c : List Nat} (h : c.length = 256) (q root bits n : Nat) :
    (nttUnwind q root bits n c).length = 256 := by
  induction n generalizing c with
  | zero => exact h
  | succ n ih => rw [nttUnwind_succ, ih (length_nttBack _ _ _ _ _ _)]

/-- `n` layers and their inverses multiply by 2 to the n. -/
theorem Multiple.unwind {root bits n k : Nat} {c e : List Nat} (hq : 0 < q) (hbits : bits ≤ 8) (hn : n ≤ bits)
    (hroot : (root : ZMod q) ^ 2 ^ bits = -1) (h : Multiple q k c (nttWind q root bits n e)) :
    Multiple q (2 ^ n * k) (nttUnwind q root bits n c) e := by
  induction n generalizing c k with
  | zero => simpa [nttWind, nttUnwind] using h
  | succ n ih =>
    have hsizes : ∀ n < 8, 2 * (128 / 2 ^ n) * 2 ^ n = 256 := by decide
    rw [nttWind_succ] at h
    have hback := h.back hq (hsizes n (by omega)) fun blk hblk => by rw [bitrev_add_bitrev (by omega) hblk, hroot]
    rw [nttUnwind_succ, pow_succ, mul_assoc]
    exact ih (by omega) hback

/-- The final factor of the inverse transform is the inverse of 2 to the number of layers (Fermat). -/
theorem two_pow_mul_scale [Fact q.Prime] (h2 : 2 < q) (bits : Nat) :
    ((2 ^ bits : Nat) : ZMod q) * (((2 ^ bits) ^ (q - 2) % q : Nat) : ZMod q) = 1 := by
  have htwo : (2 : ZMod q) ≠ 0 := fun h => by
    have := Nat.le_of_dvd two_pos ((ZMod.natCast_eq_zero_iff 2 q).1 (by exact_mod_cast h))
    omega
  rw [ZMod.natCast_mod, ← Nat.cast_mul, ← pow_succ', show q - 2 + 1 = q - 1 by omega]
  push_cast
  exact ZMod.pow_card_sub_one_eq_one (pow_ne_zero _ htwo)

/-- The inverse transform undoes the forward one where the root, raised to 2 to the number of layers, is −1. -/
theorem nttInverse_nttForward [Fact q.Prime] {root bits : Nat} {c : List Nat} (h2 : 2 < q) (hbits : bits ≤ 8)
    (hroot : q ∣ root ^ 2 ^ bits + 1) (hlen : c.length = 256) (hc : ∀ v ∈ c, v < q) :
    nttInverse q root bits (nttForward q root bits c) = c := by
  have hneg : (root : ZMod q) ^ 2 ^ bits = -1 := eq_neg_of_add_eq_zero_left (by
    exact_mod_cast (ZMod.natCast_eq_zero_iff _ q).2 hroot)
  have hscaled : Multiple q (2 ^ bits * 1) (nttUnwind q root bits bits (nttForward q root bits c)) c :=
    Multiple.unwind (by omega) hbits le_rfl hneg fun i _ => by rw [Nat.cast_one, one_mul, nttForward_eq_nttWind]
  have hwind : (nttUnwind q root bits bits (nttForward q root bits c)).length = 256 :=
    length_nttUnwind (length_nttWind hlen _ _ _ _) _ _ _ _
  rw [nttInverse_eq_nttUnwind]
  refine List.ext_getElem (by rw [List.length_map, hwind, hlen]) fun i hi hi' => ?_
  have hcoeff := hscaled i (hlen ▸ hi')
  rw [List.getD_eq_getElem _ _ (by rwa [List.length_map] at hi), List.getD_eq_getElem _ _ hi', mul_one] at hcoeff
  rw [List.getElem_map, ← Nat.mod_eq_of_lt (hc _ (List.getElem_mem hi')), ← ZMod.natCast_eq_natCast_iff', Nat.cast_mul, hcoeff,
    mul_right_comm, two_pow_mul_scale h2, one_mul]

end

end Sys2Proof.Machine

open Sys2Proof Machine Claims

/-- The primitives of tenant programs by their results (10:Table 10.9). -/
theorem Sys2Proof.Claims.primitives : Claims.Primitives := by
  intro s r b j inp aux x q word poly
  refine ⟨fun key hk h => ?modexp, fun key hk h => ?modexpG2, fun h => ?ntt, fun h => ?polyMul, fun h => ?sample⟩
  case modexp =>
    obtain ⟨ns, hns⟩ := modexp_result (d := s.dev) (inp := inp) (aux := aux) hk
    exact gives_of_work rfl h ⟨ns, hns.trans (checked_rsaIntFaults _ _ _ _ _)⟩
  case modexpG2 =>
    obtain ⟨ns, hns⟩ := modexpG2_result (d := s.dev) (inp := inp) (aux := aux) hk
    exact gives_of_work rfl h ⟨ns, hns.trans (checked_modexpFaults _ _ _ _)⟩
  case ntt => exact givesIn_of_work rfl h ntt_result
  case polyMul => exact gives_of_work rfl h polyProduct_result
  case sample => exact gives_of_work rfl h sample_result

/-- The transforms of ML-KEM and of ML-DSA, whose roots are of order 256 and 512 (FIPS 203, FIPS 204). -/
theorem Sys2Proof.Claims.nttInverts : Claims.NttInverts := by
  intro c hlen
  have : Fact (Nat.Prime 3329) := ⟨by norm_num⟩
  have : Fact (Nat.Prime 8380417) := ⟨by norm_num⟩
  exact ⟨nttInverse_nttForward (by decide) (by decide) (by norm_num) hlen,
    nttInverse_nttForward (by decide) (by decide) (by norm_num) hlen⟩

/-- Settles O20: the primitives, and the transforms' layers, each undone by its inverse up to a factor of 2. -/
theorem Sys2Proof.primitivesAndNtt : Obligations.PrimitivesAndNtt := ⟨Claims.primitives, Claims.nttInverts⟩
end

section
/-! ## The commit of a new key (08:R194) -/

namespace Sys2Proof.Machine

/-! ### The links of a seam -/

section
variable {d e : Dev} (hseams : e.seams = d.seams) (hlink : ∀ l, e.link l = d.link l)
include hseams hlink

theorem Dev.linkUpFor_congr (m : Nat) : e.linkUpFor m = d.linkUpFor m := by
  have ha : e.linkA = d.linkA := hlink .a
  have hb : e.linkB = d.linkB := hlink .b
  simp only [Dev.linkUpFor, Dev.seam_congr hseams, ha, hb]

theorem Dev.dmaLink_congr (m : Nat) : e.dmaLink m = d.dmaLink m := by
  have ha : e.linkA = d.linkA := hlink .a
  have hb : e.linkB = d.linkB := hlink .b
  simp only [Dev.dmaLink, Dev.seam_congr hseams, hlink, ha, hb]

theorem Dev.jobLink_congr (m : Nat) (first : Option Lk) : e.jobLink m first = d.jobLink m first := by
  simp only [Dev.jobLink, Dev.dmaLink_congr hseams hlink, hlink]

end

/-! ### The two copies -/

/-- Step 3 has ended: the mirror holds the home ridge's copy of the prepared key, and the job's reservation is over. -/
def Dev.keyCopied (d : Dev) (j : JobRec) (i : Nat) : Dev :=
  ((d.ridge (d.homeOf j.job.seam)).store.filter (Entry.isKey j.job.seam i)).foldl
    (fun e x => e.addEntry ((e.holders j.job.seam).filter (· != d.homeOf j.job.seam)) x)
    (d.modJob j.num fun y => { y with tail := { y.tail with room := 0 } })

/-- Step 5: the home ridge's copy is COMMITTED. -/
def Dev.keyCommitted (d : Dev) (j : JobRec) (i : Nat) : Dev :=
  ((d.keyCopied j i).modRidge (d.homeOf j.job.seam) fun x => { x with
    store := x.store.map fun e => if e.isKey j.job.seam i then { e with state := .committed } else e }).modJob j.num
      fun y => { y with job := { y.job with phase := .committed } }

/-- Step 4: the completion of a job can be issued. -/
def Dev.MayComplete (d : Dev) (j : JobRec) : Prop :=
  j.tail.discarded = false ∧ (d.seam j.job.seam).entry.state ≠ .faulted ∧ d.linkUpFor j.job.seam = true

section
variable (d : Dev) (j : JobRec) (i : Nat)

theorem Dev.keyCopied_apart : (d.keyCopied j i).apart =
    (d.modJob j.num fun y => { y with tail := { y.tail with room := 0 } }).apart :=
  foldl_same Dev.apart (fun _ _ => Dev.addEntry_apart _ _ _) _ _

@[simp] theorem Dev.seams_keyCopied : (d.keyCopied j i).seams = d.seams :=
  (Dev.seams_of_apart (d.keyCopied_apart j i) :)

@[simp] theorem Dev.link_keyCopied (l : Lk) : (d.keyCopied j i).link l = d.link l := by
  cases l
  · exact (Dev.linkA_of_apart (d.keyCopied_apart j i) :)
  · exact (Dev.linkB_of_apart (d.keyCopied_apart j i) :)

@[simp] theorem Dev.seams_keyCommitted : (d.keyCommitted j i).seams = d.seams := d.seams_keyCopied j i

@[simp] theorem Dev.link_keyCommitted (l : Lk) : (d.keyCommitted j i).link l = d.link l :=
  (by cases l <;> rfl : (d.keyCommitted j i).link l = (d.keyCopied j i).link l).trans (d.link_keyCopied j i l)

/-- The check of step 4 as the home ridge makes it, with the key copied: the copy changes nothing that it looks at. -/
theorem Dev.cannotComplete_iff : (j.tail.discarded || ((d.keyCopied j i).seam j.job.seam).entry.state == .faulted ||
    !(d.keyCopied j i).linkUpFor j.job.seam) = true ↔ ¬d.MayComplete j := by
  rw [Dev.seam_congr (d.seams_keyCopied j i), Dev.linkUpFor_congr (d.seams_keyCopied j i) (d.link_keyCopied j i)]
  simp [Dev.MayComplete, imp_iff_not_or, or_assoc]

end

/-! ### The mirror's acknowledgements -/

section
variable {d : Dev} {j : JobRec} {i : Nat} {res : Result} (hj : d.job? j.num = some j) (hi : j.tail.slot = some i)
  (hres : j.job.result = some res)

include hj hi hres

theorem Dev.commitAck_eq (hp : j.job.phase = .committed) : d.commitAck j.num =
    (let both := d.modEntries (Entry.isKey j.job.seam i) fun e => { e with state := .committed }
     let h := both.handle j.job.seam false i (((both.keyEntry j.job.seam i).map (·.use)).getD 0)
     (both.modJob j.num fun y => { y with tail := { y.tail with
       slot := none, created := y.tail.created ++ [i], handle := h, prev := some h } }).elementEnd j.num res.verdict) := by
  simp only [Dev.commitAck, hj, hp, hi, hres]

variable (hp : j.job.phase = .prepared)
include hp

/-- A key whose job cannot complete goes, and the job ends with WRITE_FAULT. -/
theorem Dev.preparedAck_of_refused (h : ¬d.MayComplete j) : d.preparedAck j.num =
    ((d.keyCopied j i).rollback j).finish j.num (refuse stWriteFault 0x22) true := by
  simp only [Dev.preparedAck, hj, hp, hi, hres]
  exact if_pos ((d.cannotComplete_iff j i).2 h)

/-- A key whose job can complete is committed at home, and what its output has left to write leaves. -/
theorem Dev.preparedAck_of_emits {e : Dev} (h : d.MayComplete j) (he : (d.keyCommitted j i).emit j res.out = (e, none)) :
    d.preparedAck j.num = e := by
  unfold Dev.keyCommitted Dev.keyCopied at he
  simp only [Dev.preparedAck, hj, hp, hi, hres, he]
  exact if_neg (mt (d.cannotComplete_iff j i).1 (not_not.2 h))

end

/-! ### The commands -/

theorem leaves_mirrorPreparedAck {s : State} {n : Nat} {e : Dev} (h : s.dev.preparedAck n = e) :
    leaves (.mirrorPreparedAck n) s e := leaves_of rfl h

theorem leaves_mirrorCommitAck {s : State} {n : Nat} {e : Dev} (h : s.dev.commitAck n = e) :
    leaves (.mirrorCommitAck n) s e := leaves_of rfl h

end Sys2Proof.Machine

open Sys2Proof Machine Claims

/-- Settles O27: each acknowledgement of the mirror by what it leaves; the output leaves as that of any job does. -/
theorem Sys2Proof.keyCommits : Obligations.KeyCommits := by
  intro s j i res hj hi hres d n m home mine copied rest may commit both use h
  refine ⟨fun hp hmay => ?refused, fun hp hmay hrest => ?written, fun hp hmay hprog l hl hpasid hrest => ?sent,
    fun hp => ?committed⟩
  case refused => exact leaves_mirrorPreparedAck (Dev.preparedAck_of_refused hj hi hres hp hmay)
  case written => exact leaves_mirrorPreparedAck (Dev.preparedAck_of_emits hj hi hres hp hmay (Dev.emit_of_written hrest))
  case sent =>
    have ⟨hdisc, hfault, _⟩ := hmay
    have hseam : (d.keyCommitted j i).seam m = d.seam m := Dev.seam_congr (d.seams_keyCommitted j i) m
    have hsent := Dev.emit_of_link (d := d.keyCommitted j i) hrest hprog hdisc (by rwa [hseam])
      (by rwa [Dev.jobLink_congr (d.seams_keyCommitted j i) (d.link_keyCommitted j i)]) (by rwa [Dev.link_keyCommitted])
    rw [hseam] at hsent
    exact leaves_mirrorPreparedAck (Dev.preparedAck_of_emits hj hi hres hp hmay hsent)
  case committed => exact leaves_mirrorCommitAck (Dev.commitAck_eq hj hi hres hp)
end

section
/-! ## Classes of tamper sources, and writes of their registers (09:R227, 13:R301 to R303) -/

namespace Sys2Proof.Machine

/-! ### A field of two bits in a register -/

/-- A register with a field of two bits at a place replaced. -/
def putField {w : Nat} (x : BitVec w) (n : Nat) (c : BitVec 2) : BitVec w :=
  (x &&& ~~~(BitVec.ofNat w 3 <<< n)) ||| (c.setWidth w <<< n)

section
variable {w n : Nat} {x : BitVec w} {c : BitVec 2}

theorem getLsbD_putField (hn : n + 2 ≤ w) (i : Nat) :
    (putField x n c).getLsbD i = if n ≤ i ∧ i < n + 2 then c.getLsbD (i - n) else x.getLsbD i := by
  have hthree : (3 : Nat).testBit (i - n) = decide (i - n < 2) := Nat.testBit_two_pow_sub_one 2 (i - n)
  simp only [putField, BitVec.getLsbD_or, BitVec.getLsbD_and, BitVec.getLsbD_not, BitVec.getLsbD_shiftLeft,
    BitVec.getLsbD_setWidth, BitVec.getLsbD_ofNat, hthree]
  split
  · next hin =>
    simp [show i < w by omega, show ¬i < n by omega, show i - n < w by omega, show i - n < 2 by omega]
  · next hout =>
    have hx : (x.getLsbD i && decide (i < w)) = x.getLsbD i := by
      simpa using BitVec.lt_of_getLsbD
    by_cases hlow : i < n
    · simp [hlow, hx]
    · simp [hlow, show ¬i - n < 2 by omega, hx, BitVec.getLsbD_of_ge c (i - n) (by omega)]

theorem extractLsb'_putField_same (hn : n + 2 ≤ w) : (putField x n c).extractLsb' n 2 = c := by
  refine BitVec.eq_of_getLsbD_eq fun i hi => ?_
  rw [BitVec.getLsbD_extractLsb', getLsbD_putField hn, if_pos (by omega), Nat.add_sub_cancel_left]
  simp [hi]

theorem extractLsb'_putField_other (hn : n + 2 ≤ w) {m : Nat} (hm : m + 2 ≤ n ∨ n + 2 ≤ m) :
    (putField x n c).extractLsb' m 2 = x.extractLsb' m 2 := by
  refine BitVec.eq_of_getLsbD_eq fun i hi => ?_
  rw [BitVec.getLsbD_extractLsb', BitVec.getLsbD_extractLsb', getLsbD_putField hn, if_neg (by omega)]

end

/-! ### Classes and their floors -/

section
variable (d : Dev)

theorem Dev.setClass_package {id : Nat} (h : id < 32) (c : BitVec 2) :
    d.setClass id c = d.modTamp fun t => { t with classPkg := .of (putField t.classPkg.val (2 * id) c) } := by
  simp only [Dev.setClass, h, if_true]
  rfl

theorem Dev.setClass_perRidge {k : Nat} (h : k < 10) (c : BitVec 2) :
    d.setClass (64 + k) c = d.modTamp fun t => { t with classRidge := .of (putField t.classRidge.val (2 * k) c) } := by
  have hid : ¬64 + k < 32 := by omega
  have hk : (64 + k - 64) % 72 = k := by omega
  simp only [Dev.setClass, hid, if_false, hk]
  rfl

theorem Dev.fusedOff_setClass (id : Nat) (c : BitVec 2) (j : Nat) : (d.setClass id c).fusedOff j = d.fusedOff j := by
  unfold Dev.setClass
  extract_lets
  split <;> rfl

variable {d}

theorem Dev.classOfId_package {id : Nat} (hf : d.fusedOff id = false) (h : id < 32) :
    d.classOfId id = d.tamp.classPkg.val.extractLsb' (2 * id) 2 := by
  simp [Dev.classOfId, hf, h]

theorem Dev.classOfId_perRidge {k : Nat} (h : k < 10) :
    d.classOfId (64 + k) = d.tamp.classRidge.val.extractLsb' (2 * k) 2 := by
  have hf : d.fusedOff (64 + k) = false := by
    simp [Dev.fusedOff, fuseOf, show ¬64 + k < 8 by omega, show ¬64 + k < 16 by omega]
  have hk : (64 + k - 64) % 72 = k := by omega
  rw [Dev.classOfId, if_neg (ne_true_of_eq_false hf), if_neg (by omega), hk]

theorem Dev.classOfId_setClass_package {id : Nat} (hf : d.fusedOff id = false) (h : id < 32) (c : BitVec 2) :
    (d.setClass id c).classOfId id = c := by
  rw [Dev.classOfId_package ((d.fusedOff_setClass id c id).trans hf) h, d.setClass_package h]
  exact extractLsb'_putField_same (by omega)

theorem Dev.classOfId_setClass_package_other {i j : Nat} (hi : i < 32) (hj : j < 32) (hne : j ≠ i) (c : BitVec 2) :
    (d.setClass i c).classOfId j = d.classOfId j := by
  rw [d.setClass_package hi]
  refine ite_congr rfl (fun _ => rfl) fun _ => ?_
  rw [if_pos hj, if_pos hj]
  exact extractLsb'_putField_other (by omega) (by omega)

/-- The new class of a source that every ridge has, and those of the others. -/
theorem Dev.classOfId_setClass_perRidge {i j : Nat} (hi : i < 10) (hj : j < 10) (c : BitVec 2) :
    (d.setClass (64 + i) c).classOfId (64 + j) = if j = i then c else d.classOfId (64 + j) := by
  rw [d.setClass_perRidge hi, Dev.classOfId_perRidge hj, Dev.classOfId_perRidge hj]
  split
  · next heq => exact heq ▸ extractLsb'_putField_same (by omega)
  · next hne => exact extractLsb'_putField_other (by omega) (by omega)

/-- A field takes its class, shadow and all, and no other field of its register changes. -/
theorem Dev.setClass_field {perRidge : Bool} {k : Nat} (hk : k < if perRidge then 10 else 22)
    (hf : d.fusedOff ((if perRidge then 64 else 0) + k) = false) (c : BitVec 2) :
    let first := if perRidge then 64 else 0
    let e := d.setClass (first + k) c
    e.classOfId (first + k) = c ∧
    e.tamp.classPkg.inv = (if perRidge then d.tamp.classPkg.inv else ~~~e.tamp.classPkg.val) ∧
    e.tamp.classRidge.inv = (if perRidge then ~~~e.tamp.classRidge.val else d.tamp.classRidge.inv) ∧
    ∀ j, j < (if perRidge then 10 else 22) → j ≠ k → e.classOfId (first + j) = d.classOfId (first + j) := by
  cases perRidge
  case false =>
    simp only [Bool.false_eq_true, if_false, Nat.zero_add] at hk hf ⊢
    have hk' : k < 32 := by omega
    refine ⟨Dev.classOfId_setClass_package hf hk' c, ?_, ?_,
      fun j hj hne => Dev.classOfId_setClass_package_other hk' (by omega) hne c⟩ <;> rw [d.setClass_package hk'] <;> rfl
  case true =>
    simp only [if_true] at hk ⊢
    refine ⟨(Dev.classOfId_setClass_perRidge hk hk c).trans (if_pos rfl), ?_, ?_,
      fun j hj hne => (Dev.classOfId_setClass_perRidge hk hj c).trans (if_neg hne)⟩ <;> rw [d.setClass_perRidge hk] <;> rfl

end

/-- The sources whose class has a floor of L (13:Table 13.1). -/
theorem classFloor_eq : ∀ id < 74, id < 22 ∨ 64 ≤ id → classFloor id = if id ∈ [18, 21, 69, 70, 72] then 1 else 0 := by
  decide

/-! ### The order that a lowering needs -/

/-- The order is an armed CLASS_LOWER that names the source and the class (09:R227). -/
def Order.Lowers (o : Order) (id : Nat) (c : BitVec 2) : Prop :=
  o.state = .armed ∧ o.kind = 7 ∧ field o.body 0 2 = id ∧ field o.body 2 1 = c.toNat

theorem Order.lowers_iff (o : Order) (id : Nat) (c : BitVec 2) :
    (o.state == .armed && o.kind == 7 && field o.body 0 2 == id && field o.body 2 1 == c.toNat) = true ↔ o.Lowers id c := by
  simp [Order.Lowers, and_assoc]

section
variable {d : Dev} {id : Nat} {c : BitVec 2}

theorem Dev.classOrder_eq_none (h : ∀ o ∈ d.quorum.orders, ¬o.Lowers id c) : d.classOrder id c = none :=
  List.find?_eq_none.2 fun o ho => mt (o.lowers_iff id c).1 (h o ho)

variable {pre post : List Order} {o : Order} (horders : d.quorum.orders = pre ++ o :: post)
include horders

theorem Dev.classOrder_eq_some (ho : o.Lowers id c) (hpre : ∀ p ∈ pre, ¬p.Lowers id c) : d.classOrder id c = some o :=
  List.find?_eq_some_iff_append.2 ⟨(o.lowers_iff id c).2 ho, pre, post, horders, fun p hp => by
    rw [Bool.not_eq_true', ← Bool.not_eq_true]
    exact mt (p.lowers_iff id c).1 (hpre p hp)⟩

theorem Dev.order_eq_some (hpre : ∀ p ∈ pre, p.num ≠ o.num) : d.order o.num = some o :=
  List.find?_eq_some_iff_append.2 ⟨beq_self_eq_true _, pre, post, horders, fun p hp => by simpa using hpre p hp⟩

end

theorem Dev.consumeOrder_of_some {d : Dev} {num : Nat} {o : Order} (h : d.order num = some o) : d.consumeOrder num =
    ((d.stamp fun t c => { t with order := c }).setOrder num .done).supersede o := by
  simp only [Dev.consumeOrder, h]

/-! ### The write of one field -/

section
variable {d : Dev} {id : Nat} {c : BitVec 2}

theorem Dev.classWrite_of_fused (hf : d.fusedOff id = true) : d.classWrite id c = d := if_pos hf

variable (hf : d.fusedOff id = false)
include hf

theorem Dev.classWrite_of_forbidden (h : c.toNat = 3 ∨ c.toNat < classFloor id) :
    d.classWrite id c = d.pkgEvent 42 (id + c.toNat * 1024) :=
  (if_neg (ne_true_of_eq_false hf)).trans (if_pos h)

variable (h3 : c.toNat ≠ 3) (hfloor : classFloor id ≤ c.toNat)
include h3 hfloor

/-- What becomes of a value that the floor allows. -/
theorem Dev.classWrite_of_allowed : d.classWrite id c =
    if c = d.classOfId id then d
    else if (d.classOfId id).toNat < c.toNat then
      (if d.live = .zeroized then d.pkgEvent 42 (id + c.toNat * 1024) else d.setClass id c)
    else match d.classOrder id c with
      | some o => (d.consumeOrder o.num).setClass id c
      | none => d.pkgEvent 42 (id + c.toNat * 1024) :=
  (if_neg (ne_true_of_eq_false hf)).trans (if_neg (by omega))

theorem Dev.classWrite_of_same (h : c = d.classOfId id) : d.classWrite id c = d :=
  (Dev.classWrite_of_allowed hf h3 hfloor).trans (if_pos h)

theorem Dev.classWrite_of_raise (h : (d.classOfId id).toNat < c.toNat) : d.classWrite id c =
    if d.live = .zeroized then d.pkgEvent 42 (id + c.toNat * 1024) else d.setClass id c := by
  rw [Dev.classWrite_of_allowed hf h3 hfloor, if_neg (fun heq => by simp [heq] at h), if_pos h]

theorem Dev.classWrite_of_lowering (h : c.toNat < (d.classOfId id).toNat) : d.classWrite id c =
    match d.classOrder id c with
      | some o => (d.consumeOrder o.num).setClass id c
      | none => d.pkgEvent 42 (id + c.toNat * 1024) := by
  rw [Dev.classWrite_of_allowed hf h3 hfloor, if_neg (fun heq => by simp [heq] at h), if_neg (Nat.not_lt.2 h.le)]

theorem Dev.classWrite_of_unordered (h : c.toNat < (d.classOfId id).toNat) (ho : d.classOrder id c = none) :
    d.classWrite id c = d.pkgEvent 42 (id + c.toNat * 1024) := by
  simp only [Dev.classWrite_of_lowering hf h3 hfloor h, ho]

theorem Dev.classWrite_of_ordered (h : c.toNat < (d.classOfId id).toNat) {o : Order} (ho : d.classOrder id c = some o) :
    d.classWrite id c = (d.consumeOrder o.num).setClass id c := by
  simp only [Dev.classWrite_of_lowering hf h3 hfloor h, ho]

end

/-! ### The field in the writes of one cycle -/

section
variable {d e : Dev} {id n : Nat} {v w : W64}

/-- One value, whichever link writes it or both, is judged once. -/
theorem Dev.classField_of_one (h : d.classWrite id (v.extractLsb' n 2) = e) : d.classField id n (some v) none = e ∧
    d.classField id n none (some v) = e ∧ d.classField id n (some v) (some v) = e :=
  ⟨h, h, (if_pos rfl).trans h⟩

theorem Dev.classField_of_two (hf : d.fusedOff id = false) (h : v.extractLsb' n 2 ≠ w.extractLsb' n 2) :
    d.classField id n (some v) (some w) = (d.modQuorum fun q => { q with conflicts := satInc q.conflicts }).pkgEvent 43
      (id + (v.extractLsb' n 2).toNat * 1024 + (w.extractLsb' n 2).toNat * 4096) :=
  (if_neg h).trans (if_neg (ne_true_of_eq_false hf))

theorem Dev.classField_of_fused (hf : d.fusedOff id = true) : d.classField id n (some v) (some w) = d :=
  (ite_congr rfl (fun _ => Dev.classWrite_of_fused hf) fun _ => if_pos hf).trans (ite_self d)

end

/-! ### A class register -/

/-- The fields of a class register, written in turn. -/
def Dev.classFields (d : Dev) (perRidge : Bool) (a b : Option W64) : Dev :=
  (List.range (if perRidge then 10 else 22)).foldl
    (fun d k => d.classField ((if perRidge then 64 else 0) + k) (2 * k) a b) d

theorem Dev.classFields_none (d : Dev) (perRidge : Bool) : d.classFields perRidge none none = d :=
  List.foldl_fixed' (fun _ => rfl) _

/-- A persistent register that is written, by the time of its last commit (16:R366). -/
theorem Dev.persWrite_eq (d : Dev) (slot : PersSlot) (v : W64) : d.persWrite slot v = Claims.persisted d (persCode slot) v := by
  unfold Dev.persWrite
  extract_lets k p free q
  have hfree : free = true ↔ ∀ t, (d.pers (persCode slot)).last = some t → t + 1000000 ≤ d.clock := by
    show (match p.last with | none => true | some t => decide (t + 1000000 ≤ d.clock)) = true ↔ ∀ t, p.last = some t → _
    cases p.last <;> simp
  unfold Claims.persisted
  by_cases h : ∀ t, (d.pers (persCode slot)).last = some t → t + 1000000 ≤ d.clock
  · simp only [hfree.2 h, if_pos h]
    rfl
  · simp only [eq_false_of_ne_true (mt hfree.1 h), if_neg h]
    rfl

section
variable {d : Dev} {a b : Option W64}

theorem Dev.classRegister_of_same {perRidge : Bool} (hp : (d.classFields perRidge a b).tamp.classPkg = d.tamp.classPkg)
    (hr : (d.classFields perRidge a b).tamp.classRidge = d.tamp.classRidge) :
    d.classRegister perRidge a b = d.classFields perRidge a b := by
  cases perRidge
  · exact if_pos hp
  · exact if_pos hr

theorem Dev.classRegister_package (h : (d.classFields false a b).tamp.classPkg ≠ d.tamp.classPkg) :
    d.classRegister false a b = Claims.persisted (d.classFields false a b) 1024 (d.classFields false a b).tamp.classPkg.val :=
  (if_neg h).trans (Dev.persWrite_eq _ .classPkg _)

theorem Dev.classRegister_perRidge (h : (d.classFields true a b).tamp.classRidge ≠ d.tamp.classRidge) :
    d.classRegister true a b =
      Claims.persisted (d.classFields true a b) 1025 ((d.classFields true a b).tamp.classRidge.val.setWidth 64) :=
  (if_neg h).trans (Dev.persWrite_eq _ .classRidge _)

end

/-! ### The command -/

/-- The offset of a class register (17:Table 13.5). -/
def classOffset (perRidge : Bool) : Nat := if perRidge then 0x80008 else 0x80000

/-- A class register's writes of a cycle, before power-up step 10: ignored, and logged (17:R375). -/
def Dev.classIgnored (d : Dev) (perRidge : Bool) (a b : Option W64) : Dev :=
  let e := if a.isSome then Claims.ignored d .a (classOffset perRidge) else d
  if b.isSome then Claims.ignored e .b (classOffset perRidge) else e

section
variable {d : Dev} {perRidge : Bool} {a b : Option W64}

theorem Dev.writeBoth_classOffset (h : d.boot.step = 10) :
    d.writeBoth (classOffset perRidge) a b = d.stampClass.classRegister perRidge a b := by
  cases perRidge <;> simp [Dev.writeBoth, classOffset, h]

theorem Dev.writeBar0_classOffset_of_early (h : d.boot.step ≠ 10) (l : Lk) (v : W64) :
    d.writeBar0 l (classOffset perRidge) v = Claims.ignored d l (classOffset perRidge) := by
  refine (if_pos ⟨h, ?_⟩).trans ?_ <;> cases perRidge <;> rfl

theorem Dev.writeBoth_classOffset_of_early (h : d.boot.step ≠ 10) :
    d.writeBoth (classOffset perRidge) a b = d.classIgnored perRidge a b := by
  have hboot : (Claims.ignored d .a (classOffset perRidge)).boot.step ≠ 10 := by simpa [Claims.ignored] using h
  cases a <;> cases b <;>
    simp [Dev.writeBoth, Dev.classIgnored, h, hboot, Dev.writeBar0_classOffset_of_early]

/-- The device that the fields of a class register are judged on: stamped where a link brings a write (01:R18). -/
def Dev.classBase (d : Dev) (a b : Option W64) : Dev := if a = none ∧ b = none then d else (Claims.stamped d).stampClass

theorem Dev.classBase_tamp (d : Dev) (a b : Option W64) : (d.classBase a b).tamp = d.tamp := by
  unfold Dev.classBase
  split <;> rfl

variable {s : State}

/-- What reaches the registers of the writes of a cycle. -/
theorem leaves_tampClassWrite_of {e : Dev} (he :
    (let a' := if s.dev.linkA.up then a else none
     let b' := if s.dev.linkB.up then b else none
     if a' = none ∧ b' = none then s.dev else (Claims.stamped s.dev).writeBoth (classOffset perRidge) a' b') = e) :
    leaves (.tampClassWrite perRidge a b) s e := by
  rw [s.dev.stamped_eq] at he
  refine leaves_of rfl ((if_congr ?_ rfl rfl).trans he)
  rw [Bool.and_eq_true, Option.isNone_iff_eq_none, Option.isNone_iff_eq_none]

theorem Dev.classRegister_none (d : Dev) (perRidge : Bool) : d.classRegister perRidge none none = d := by
  refine (Dev.classRegister_of_same ?_ ?_).trans (d.classFields_none perRidge) <;> rw [Dev.classFields_none]

theorem leaves_tampClassWrite {e : Dev} (h : s.dev.boot.step = 10) (he :
    (let a' := if s.dev.linkA.up then a else none
     let b' := if s.dev.linkB.up then b else none
     (s.dev.classBase a' b').classRegister perRidge a' b') = e) : leaves (.tampClassWrite perRidge a b) s e := by
  refine leaves_tampClassWrite_of (Eq.trans ?_ he)
  extract_lets a' b'
  unfold Dev.classBase
  split
  · next hnone => rw [hnone.1, hnone.2, Dev.classRegister_none]
  · exact Dev.writeBoth_classOffset h

theorem leaves_tampClassWrite_of_early {e : Dev} (h : s.dev.boot.step ≠ 10) (he :
    (let a' := if s.dev.linkA.up then a else none
     let b' := if s.dev.linkB.up then b else none
     (if a' = none ∧ b' = none then s.dev else Claims.stamped s.dev).classIgnored perRidge a' b') = e) :
    leaves (.tampClassWrite perRidge a b) s e := by
  refine leaves_tampClassWrite_of (Eq.trans ?_ he)
  extract_lets a' b'
  split
  · next hnone =>
    rw [hnone.1, hnone.2]
    rfl
  · exact Dev.writeBoth_classOffset_of_early h

end

end Sys2Proof.Machine

open Sys2Proof Machine Claims

/-- Settles O46: the register as its fields in turn, then each field by the value that it is written. -/
theorem Sys2Proof.classWrites : Obligations.ClassWrites := by
  intro s perRidge a b d off first a' b' c base t same
  have hbase : base = d.classBase a' b' := by
    simp only [base, c, Dev.classBase]
    split <;> rfl
  have ht : (d.classBase a' b').classFields perRidge a' b' = t := hbase ▸ rfl
  have htamp : (d.classBase a' b').tamp = d.tamp := d.classBase_tamp a' b'
  refine ⟨fun hup ⟨hp, hr⟩ => ?same, fun hup hkind hne => ?package, fun hup hkind hne => ?perRidge,
    fun hearly => leaves_tampClassWrite_of_early hearly rfl, fun e k hk => ?field⟩
  case same =>
    exact leaves_tampClassWrite hup ((Dev.classRegister_of_same (by rw [ht, htamp, hp]) (by rw [ht, htamp, hr])).trans ht)
  case package =>
    subst hkind
    exact leaves_tampClassWrite hup (ht ▸ Dev.classRegister_package (by rwa [ht, htamp]))
  case perRidge =>
    subst hkind
    exact leaves_tampClassWrite hup (ht ▸ Dev.classRegister_perRidge (by rwa [ht, htamp]))
  case field =>
    intro id get one refused now floor
    have hfloor : classFloor id = floor := by
      refine classFloor_eq id ?_ ?_ <;> cases perRidge <;> simp [id, first] at hk ⊢ <;> omega
    refine ⟨rfl, fun hf v w => ⟨Dev.classField_of_fused hf, Dev.classField_of_one (Dev.classWrite_of_fused hf)⟩,
      fun hf v => ⟨fun hbad => ?forbidden, fun h3 hmin => ⟨fun heq => ?unchanged,
        fun hlt => ⟨fun hz => ?zeroized, fun hz => ?raised⟩,
        fun hlt => ⟨fun hnone => ?unordered, fun pre o post horders ho hpre => ?lowered⟩⟩⟩,
      fun hf v w hne => Dev.classField_of_two hf hne, fun hf c => Dev.setClass_field hk hf c⟩
    case forbidden => exact Dev.classField_of_one (Dev.classWrite_of_forbidden hf (hfloor ▸ hbad))
    case unchanged => exact Dev.classField_of_one (Dev.classWrite_of_same hf h3 (hfloor ▸ hmin) heq)
    case zeroized => exact Dev.classField_of_one ((Dev.classWrite_of_raise hf h3 (hfloor ▸ hmin) hlt).trans (if_pos hz))
    case raised => exact Dev.classField_of_one ((Dev.classWrite_of_raise hf h3 (hfloor ▸ hmin) hlt).trans (if_neg hz))
    case unordered =>
      exact Dev.classField_of_one (Dev.classWrite_of_unordered hf h3 (hfloor ▸ hmin) hlt (Dev.classOrder_eq_none hnone))
    case lowered =>
      intro executes
      have hfound : e.classOrder id (get v) = some o := Dev.classOrder_eq_some horders ho fun p hp => (hpre p hp).2
      have hconsumed : e.consumeOrder o.num = (executes.setOrder o.num .done).supersede o :=
        Dev.consumeOrder_of_some (Dev.order_eq_some horders fun p hp => (hpre p hp).1)
      exact Dev.classField_of_one (hconsumed ▸ Dev.classWrite_of_ordered hf h3 (hfloor ▸ hmin) hlt hfound)
end

section
/-! ## Orders (09:R216 to R226) -/

namespace Sys2Proof.Machine

/-! ### Nonces -/

@[simp] theorem Dev.generate_quorum (d : Dev) (r : Nat) (host : Bool) (n : Nat) : (d.generate r host n).quorum = d.quorum :=
  Dev.quorum_of_apart (d.generate_apart r host n)

@[simp] theorem Dev.generate_clock (d : Dev) (r : Nat) (host : Bool) (n : Nat) : (d.generate r host n).clock = d.clock :=
  Dev.clock_of_apart (d.generate_apart r host n)

/-- The device once the boss ridge has drawn a nonce. -/
def Dev.nonceDrawn (d : Dev) : Dev := { d.generate d.boss false 1 with draws := (d.generate d.boss false 1).draws + 1 }

/-- The nonce that it draws. -/
def Dev.newNonce (d : Dev) : List Byte := (List.range 32).map (Config.freeByte (d.generate d.boss false 1).draws)

theorem Dev.orderNonce_eq (d : Dev) : d.orderNonce = (d.newNonce, d.nonceDrawn) := rfl

@[simp] theorem Dev.nonceDrawn_quorum (d : Dev) : d.nonceDrawn.quorum = d.quorum := by simp [Dev.nonceDrawn]
@[simp] theorem Dev.nonceDrawn_clock (d : Dev) : d.nonceDrawn.clock = d.clock := by simp [Dev.nonceDrawn]

/-! ### Opening -/

section
variable {d : Dev} {n : Nat} {x : Desc} {b : List Byte}

theorem Dev.openOrder_of_fault {c : Nat} (h : d.openFault (x.p 0 8) (orderSeam (x.p 0 8) x.keyB) b = some c) :
    d.openOrder n x b = d.mqComplete n (orderRefusal c) := by
  simp only [Dev.openOrder, h]

/-- The order that a body opens, before the tokens that it needs are counted. -/
def Dev.opened (d : Dev) (x : Desc) (b : List Byte) : Order :=
  { num := d.quorum.nextOrder, kind := x.p 0 8, seam := orderSeam (x.p 0 8) x.keyB, body := b, state := .pending, counted := []
    needed := 0, nonce := d.newNonce, nonceExpiry := d.clock + nonceTime, oldNonces := [], deadline := d.clock + pendingTime
    result := 0 }

theorem Dev.openOrder_of_passes (h : d.openFault (x.p 0 8) (orderSeam (x.p 0 8) x.keyB) b = none) : d.openOrder n x b =
    (let o : Order := { d.opened x b with needed := (d.nonceDrawn.needs (d.opened x b)).total }
     ((d.nonceDrawn.modQuorum fun q => { q with
       nextOrder := d.quorum.nextOrder + 1, orders := q.orders ++ [o] }).setOrder d.quorum.nextOrder .pending).cmdDone n x
         o.receipt) := by
  simp only [Dev.openOrder, h, Dev.orderNonce_eq, Dev.nonceDrawn_quorum, Dev.nonceDrawn_clock]
  rfl

end

/-! ### Tokens -/

/-- The count of a token's DETAIL: how many tokens have counted, and how many are needed (09:R221). -/
def Order.count (o : Order) : Nat := o.counted.length % 64 + o.needed % 64 * 256

theorem Order.detail_short (o : Order) : o.detail false false = o.count := by simp [Order.detail, Order.count]

theorem Order.detail_reached (o : Order) : o.detail true false = o.count + 2 ^ 16 := by simp [Order.detail, Order.count]

theorem Order.detail_armed (o : Order) : o.detail true true = o.count + 2 ^ 16 + 2 ^ 17 := by simp [Order.detail, Order.count]

section
variable {d : Dev} {n num : Nat} {b : List Byte}

theorem Dev.orderToken_of_none (h : d.order num = none) :
    d.orderToken n num b = Claims.ends (d.tokenEvent num b true) n 0x0802 0x24 := by
  simp only [Dev.orderToken, h]
  rfl

variable {o : Order} (ho : d.order num = some o)
include ho

theorem Dev.orderToken_of_superseded (h : o.state = .superseded) :
    d.orderToken n num b = Claims.ends (d.tokenEvent num b true) n 0x0803 0x24 := by
  simp only [Dev.orderToken, ho, h, if_true]
  rfl

theorem Dev.orderToken_of_ended (hs : o.state ≠ .superseded) (hp : o.state ≠ .pending) :
    d.orderToken n num b = Claims.ends (d.tokenEvent num b true) n 0x0802 0x24 := by
  simp only [Dev.orderToken, ho, if_neg hs, if_pos hp]
  rfl

variable (hp : o.state = .pending)
include hp

theorem Dev.orderToken_of_fault {c : Nat} (hf : d.tokenFault o b = some c) :
    d.orderToken n num b = (d.tokenEvent num b true).mqComplete n (orderRefusal c) := by
  simp only [Dev.orderToken, ho, hp, hf, reduceCtorEq, if_false, ne_eq, not_true_eq_false]

/-- The order with one token more. -/
def Order.counting (o : Order) (b : List Byte) : Order := { o with counted := o.counted ++ [(field b 0 1, field b 1 1)] }

/-- The device with the token counted. -/
def Dev.tokenCounted (d : Dev) (num : Nat) (b : List Byte) (o : Order) : Dev :=
  (d.tokenEvent num b false).modOrder num fun _ => o.counting b

variable (hf : d.tokenFault o b = none)
include hf

/-- A token that passes counts. -/
theorem Dev.orderToken_of_passes : d.orderToken n num b =
    if (d.needs (o.counting b)).met (o.counting b) then
      if o.kind = 1 && !d.drawable d.boss .internal then d else (d.tokenCounted num b o).quorumReached n (o.counting b)
    else (d.tokenCounted num b o).mqComplete n ⟨stDone, BitVec.ofNat 32 ((o.counting b).detail false false), 0⟩ := by
  simp only [Dev.orderToken, ho, hf]
  exact (if_neg (by simp [hp])).trans (if_neg (not_not.2 hp))

theorem Dev.orderToken_of_short (hm : (d.needs (o.counting b)).met (o.counting b) = false) : d.orderToken n num b =
    Claims.ends (d.tokenCounted num b o) n 0x0000 (BitVec.ofNat 32 (o.counting b).count) := by
  rw [Dev.orderToken_of_passes ho hp hf, if_neg (ne_true_of_eq_false hm), Order.detail_short]
  rfl

theorem Dev.orderToken_of_met (hm : (d.needs (o.counting b)).met (o.counting b) = true)
    (hd : o.kind = 1 → d.drawable d.boss .internal = true) :
    d.orderToken n num b = (d.tokenCounted num b o).quorumReached n (o.counting b) := by
  refine (Dev.orderToken_of_passes ho hp hf).trans ((if_pos hm).trans (if_neg ?_))
  simpa using hd

end

/-! ### The quorum -/

theorem authorises_iff (k : Nat) : authorises k = true ↔ k ∈ [7, 0x0A, 0x0B, 0x0C, 0x0D, 0x21] := List.contains_iff_mem

/-- The device at the execution of an order, stamped with its cycle (01:R18). -/
def Dev.orderStamped (d : Dev) : Dev := d.stamp fun t c => { t with order := c }

section
variable {d : Dev} {n : Nat} {o : Order}

/-- The order ends REFUSED with a status. -/
def Dev.orderRefused (d : Dev) (o : Order) (st : BitVec 16) : Dev :=
  (d.modOrder o.num fun x => { x with result := st }).setOrder o.num .refused

/-- The order is ARMED for an hour. -/
def Dev.orderArmed (d : Dev) (o : Order) : Dev :=
  (d.modOrder o.num fun x => { x with deadline := d.clock + armedTime }).setOrder o.num .armed

theorem Dev.quorumReached_of_forbidden (h : d.orderStamped.mayExecute o = false) : d.quorumReached n o =
    Claims.ends (d.orderStamped.orderRefused o 0x0802) n 0x0802 (BitVec.ofNat 32 (o.count + 2 ^ 16)) := by
  refine (if_pos ?_).trans ?_
  · rw [Bool.not_eq_true']
    exact h
  · rw [Order.detail_reached]
    rfl

variable (h : d.orderStamped.mayExecute o = true)
include h

/-- An order that may execute arms, or its action is judged and carried out. -/
theorem Dev.quorumReached_of_allowed : d.quorumReached n o =
    if authorises o.kind then
      Claims.ends ((d.orderStamped.orderArmed o).supersede o) n 0x0000 (BitVec.ofNat 32 (o.count + 2 ^ 16 + 2 ^ 17))
    else match d.orderStamped.actionFault o with
      | some v => d.orderStamped.refuseOrder n o v
      | none => Claims.ends (((d.orderStamped.setOrder o.num .done).supersede o).act o n) n 0x0000
          (BitVec.ofNat 32 (o.count + 2 ^ 16)) := by
  rw [← Order.detail_armed, ← Order.detail_reached]
  refine (if_neg ?_).trans ?_
  · rw [Bool.not_eq_true', Bool.not_eq_false]
    exact h
  · rfl

theorem Dev.quorumReached_of_authorising (ha : authorises o.kind = true) : d.quorumReached n o =
    Claims.ends ((d.orderStamped.orderArmed o).supersede o) n 0x0000 (BitVec.ofNat 32 (o.count + 2 ^ 16 + 2 ^ 17)) :=
  (Dev.quorumReached_of_allowed h).trans (if_pos ha)

variable (ha : authorises o.kind = false)
include ha

theorem Dev.quorumReached_of_fault {v : Verdict} (hv : d.orderStamped.actionFault o = some v) :
    d.quorumReached n o = (d.orderStamped.orderRefused o v.status).mqComplete n v := by
  rw [Dev.quorumReached_of_allowed h, if_neg (ne_true_of_eq_false ha)]
  simp only [hv]
  rfl

theorem Dev.quorumReached_of_acts (hv : d.orderStamped.actionFault o = none) : d.quorumReached n o =
    Claims.ends (((d.orderStamped.setOrder o.num .done).supersede o).act o n) n 0x0000 (BitVec.ofNat 32 (o.count + 2 ^ 16)) := by
  rw [Dev.quorumReached_of_allowed h, if_neg (ne_true_of_eq_false ha)]
  simp only [hv]

end

/-! ### Renewing, cancelling and lapsing -/

theorem Order.isOpen_iff (o : Order) : o.isOpen = true ↔ o.state = .pending ∨ o.state = .armed := by
  simp [Order.isOpen]

section
variable {d : Dev} {n num : Nat} {o : Order} (ho : d.order num = some o)
include ho

theorem Dev.renewOrder_of_pending (h : o.state = .pending) (x : Desc) : d.renewOrder n num x =
    (let r : Order := { o with
       nonce := d.newNonce, nonceExpiry := d.clock + nonceTime, oldNonces := o.nonce :: o.oldNonces }
     (d.nonceDrawn.modOrder num fun _ => r).cmdDone n x r.receipt o.count) := by
  simp only [Dev.renewOrder, ho, h, reduceCtorEq, if_false, ne_eq, not_true_eq_false, Dev.orderNonce_eq, Dev.nonceDrawn_clock,
    Order.detail_short]
  rfl

theorem Dev.cancelOrder_of_open (h : o.state = .pending ∨ o.state = .armed) :
    d.cancelOrder n num = Claims.ends (d.setOrder num .cancelled) n 0x0000 0 := by
  simp only [Dev.cancelOrder, ho, o.isOpen_iff.2 h, if_true]
  rfl

theorem Dev.lapseOrder_of_state {st : OrderState} (h : o.state = st) :
    d.lapseOrder num st = (d.reach o.deadline).setOrder num .lapsed := by
  simp only [Dev.lapseOrder, ho, if_pos h]

end

theorem Dev.cancelOrder_of_ended {d : Dev} {num : Nat}
    (h : ∀ o, d.order num = some o → o.state ≠ .pending ∧ o.state ≠ .armed) (n : Nat) :
    d.cancelOrder n num = Claims.ends d n 0x0802 0x24 := by
  unfold Dev.cancelOrder
  split
  · next o ho =>
    refine (if_neg ?_).trans rfl
    rw [Order.isOpen_iff, not_or]
    exact h o ho
  · rfl

/-! ### The commands -/

section
variable {s : State} {n : Nat} {x : Desc} {inp b : List Byte} {e : Dev}

theorem leaves_orderOpen (h : Claims.CommandReady s.dev n 0x8020 x inp b) (hd : s.dev.drawable s.dev.boss .internal = true)
    (he : s.dev.openOrder n x b = e) : leaves (.orderOpen n) s e :=
  leaves_of rfl ((if_pos hd).trans ((Dev.command_of_ready h _).trans he))

theorem leaves_orderToken (h : Claims.CommandReady s.dev n 0x8021 x inp b) (hx : x.p 0 1 = 0)
    (he : s.dev.orderToken n x.orderNum inp = e) : leaves (.orderToken n) s e :=
  leaves_of rfl ((Dev.command_of_ready h _).trans ((if_pos hx).trans he))

theorem leaves_orderRenew (h : Claims.CommandReady s.dev n 0x8021 x inp b) (hx : x.p 0 1 = 1)
    (hd : s.dev.drawable s.dev.boss .internal = true) (he : s.dev.renewOrder n x.orderNum x = e) : leaves (.orderRenew n) s e :=
  leaves_of rfl ((if_pos hd).trans ((Dev.command_of_ready h _).trans ((if_pos hx).trans he)))

theorem leaves_orderCancel (h : Claims.CommandReady s.dev n 0x8022 x inp b) (he : s.dev.cancelOrder n x.orderNum = e) :
    leaves (.orderCancel n) s e :=
  leaves_of rfl ((Dev.command_of_ready h _).trans he)

theorem leaves_nonceExpiry {i : Nat} {o : Order} (ho : s.dev.order i = some o) (h : o.state = .pending) :
    leaves (.nonceExpiry i) s (s.dev.reach o.nonceExpiry) :=
  leaves_of (d := match s.dev.order i with
    | some o => if o.state = .pending then s.dev.reach o.nonceExpiry else s.dev
    | none => s.dev) rfl (by simp only [ho, if_pos h])

end

end Sys2Proof.Machine

open Sys2Proof Machine Claims

/-- Settles O38: an order from its opening to its end, a token by what it is refused for or brings about. -/
theorem Sys2Proof.orders : Obligations.Orders := by
  intro s n x inp b d num second
  refine ⟨fun h hd => ?opening, fun h hx => ?token, fun h hx hd o ho hp => ?renewal, fun h => ?cancel, fun i o ho => ?lapse⟩
  case opening =>
    exact ⟨fun c hc => leaves_orderOpen h hd (Dev.openOrder_of_fault hc),
      fun hpass => leaves_orderOpen h hd (Dev.openOrder_of_passes hpass)⟩
  case token =>
    intro token said
    refine ⟨fun ho => leaves_orderToken h hx (Dev.orderToken_of_none ho), fun o ho =>
      ⟨fun hs => leaves_orderToken h hx (Dev.orderToken_of_superseded ho hs),
        fun hs hp => leaves_orderToken h hx (Dev.orderToken_of_ended ho hs hp),
        fun c hp hf => leaves_orderToken h hx (Dev.orderToken_of_fault ho hp hf), fun hp hf => ?counts⟩⟩
    case counts =>
      intro o' counted t count
      have hend {e : Dev} (hm : (d.needs o').met o' = true) (hdraw : o'.kind = 1 → d.drawable d.boss .internal = true)
          (he : counted.quorumReached n o' = e) : leaves (.orderToken n) s e :=
        leaves_orderToken h hx ((Dev.orderToken_of_met ho hp hf hm hdraw).trans he)
      refine ⟨fun hm => leaves_orderToken h hx (Dev.orderToken_of_short ho hp hf hm),
        fun hm hdraw hmay => hend hm hdraw (Dev.quorumReached_of_forbidden hmay), fun hm hmay hkind => ?arms,
        fun hm hdraw hmay hkind => ?acts⟩
      case arms =>
        refine hend hm (fun h1 => ?_) (Dev.quorumReached_of_authorising hmay ((authorises_iff _).2 hkind))
        rw [h1] at hkind
        exact absurd hkind (by decide)
      case acts =>
        have ha : authorises o'.kind = false := eq_false_of_ne_true (mt (authorises_iff _).1 hkind)
        exact ⟨fun v hv => hend hm hdraw (Dev.quorumReached_of_fault hmay ha hv),
          fun hv => hend hm hdraw (Dev.quorumReached_of_acts hmay ha hv)⟩
  case renewal => exact leaves_orderRenew h hx hd (Dev.renewOrder_of_pending ho hp x)
  case cancel =>
    exact ⟨fun o ho hopen => leaves_orderCancel h (Dev.cancelOrder_of_open ho hopen),
      fun hended => leaves_orderCancel h (Dev.cancelOrder_of_ended hended n)⟩
  case lapse =>
    exact ⟨fun hp => ⟨leaves_of rfl (Dev.lapseOrder_of_state ho hp), leaves_nonceExpiry ho hp⟩,
      fun ha => leaves_of rfl (Dev.lapseOrder_of_state ho ha)⟩
end

section
/-! ## The I3C target and the test access port (09:R225, 17:R383, 18:R393 to R397) -/

namespace Sys2Proof.Machine

/-! ### The I3C target -/

/-- The target answers: it has its supply, power-up has reached step 2, and EXTEST does not hold its pins. -/
def Dev.I3cAnswers (d : Dev) : Prop :=
  d.pins.mainPower = true ∧ d.pins.inVigil = false ∧ 2 ≤ d.boot.step ∧ d.access.instruction ≠ 3

theorem Dev.i3cUp_iff (d : Dev) : d.i3cUp = true ↔ d.I3cAnswers := by
  simp [Dev.i3cUp, Dev.I3cAnswers, and_assoc]

section
variable {s : State} {i : Instr}

theorem leaves_i3cUp {e : Dev} (hi : exec i s = .next ⟨s.pending, if s.dev.i3cUp then e else s.dev⟩) :
    (s.dev.I3cAnswers → leaves i s e) ∧ (¬s.dev.I3cAnswers → leaves i s s.dev) :=
  ⟨fun h => leaves_of hi (if_pos (s.dev.i3cUp_iff.2 h)), fun h => leaves_of hi (if_neg (mt s.dev.i3cUp_iff.1 h))⟩

theorem leaves_i3c {f g : Access → Access} (hi : exec i s = .next ⟨s.pending, s.dev.i3c f⟩) (hfg : ∀ a, f a = g a) :
    (s.dev.I3cAnswers → leaves i s (s.dev.modAccess g)) ∧ (¬s.dev.I3cAnswers → leaves i s s.dev) := by
  obtain rfl := funext hfg
  exact leaves_i3cUp hi

end

/-- A target that has an address keeps it. -/
theorem Access.addressed_eq (a : Access) (addr : BitVec 7) :
    (if a.dynAddr.isSome then a else { a with dynAddr := some addr }) = { a with dynAddr := some (a.dynAddr.getD addr) } := by
  obtain ⟨_ | x, _⟩ := a <;> rfl

/-! ### Its registers -/

section
variable (d : Dev)

/-- What the target has to say of itself is in no register. -/
theorem Dev.readI3c_modAccess (f : Access → Access) (o : Nat) : (d.modAccess f).readI3c o = d.readI3c o := rfl

theorem Dev.readI3c_gap {o : Nat} (hlow : 0x200 ≤ o) (hhigh : o < 0x1000) : d.readI3c o = 0 := by
  unfold Dev.readI3c
  split_ifs
  · rfl
  · omega
  · omega
  · omega
  · split
    case h_8 => rfl
    all_goals omega

theorem Dev.readI3c_cap : d.readI3c 0x1200 = BitVec.ofNat 64 d.power.bmcCap := rfl

theorem Dev.writeI3c_pending {o w : Nat} (hw : w < 10) (ho : o = 0x1100 + 8 * w) (v : W64) :
    d.writeI3c o v = d.modLog fun g => g.clearPending w v := by
  have hplace : (o - 0x1100) / 8 = w := by omega
  rw [Dev.writeI3c, if_neg (by omega), if_pos (by omega), hplace]

theorem Dev.writeI3c_other {o : Nat} (hcursor : o ≠ 0) (hcap : o ≠ 0x1200)
    (hpending : ¬(0x1100 ≤ o ∧ o ≤ 0x1148 ∧ o % 8 = 0)) (v : W64) : d.writeI3c o v = d := by
  rw [Dev.writeI3c, if_neg hcursor, if_neg hpending, if_neg hcap]

end

theorem leaves_i3cRegisterWrite {s : State} {o : BitVec 16} {v : W64} {e : Dev} (ha : s.dev.I3cAnswers)
    (he : (s.dev.modAccess fun a => { a with selected := o }).writeI3c o.toNat v = e) :
    leaves (.i3cRegisterWrite o (some v)) s e :=
  leaves_of rfl ((if_pos (s.dev.i3cUp_iff.2 ha)).trans he)

theorem leaves_i3cRegisterRead {s : State} {o : BitVec 16} (ha : s.dev.I3cAnswers) :
    leaves (.i3cRegisterWrite o none) s ((s.dev.modAccess fun a => { a with selected := o }).modAccess fun a =>
      { a with answer := leBytes 8 (s.dev.readI3c o.toNat).toNat }) :=
  leaves_of rfl (if_pos (s.dev.i3cUp_iff.2 ha))

/-! ### The instructions of the test access port (18:Table 18.5) -/

section
variable (d : Dev)

/-- A mode that needs no permit for EXTEST. -/
abbrev Dev.ScanFree (d : Dev) : Prop := d.live = .factory ∨ d.live = .blank

/-- A mode in which EXTEST needs the permit, while it is open. -/
def Dev.ScanPermitted (d : Dev) : Prop :=
  (d.live = .commission ∨ d.live = .service ∨ d.live = .freeze) ∧ ∃ t, d.quorum.permitEnd = some t ∧ d.clock < t

theorem Dev.permitOpen_iff : d.permitOpen = true ↔ ∃ t, d.quorum.permitEnd = some t ∧ d.clock < t := by
  unfold Dev.permitOpen
  cases d.quorum.permitEnd <;> simp

theorem Dev.scanCode_bypass : d.scanCode 0xFF = 0xFF := rfl
theorem Dev.scanCode_idcode : d.scanCode 1 = 1 := rfl
theorem Dev.scanCode_sample : d.scanCode 2 = 2 := rfl

theorem Dev.scanCode_extest (h : d.ScanFree ∨ d.ScanPermitted) : d.scanCode 3 = 3 := by
  refine if_pos ?_
  simpa [Dev.ScanFree, Dev.ScanPermitted, ← Dev.permitOpen_iff, or_assoc] using h

theorem Dev.scanCode_extest_of_refused (hfree : ¬d.ScanFree) (h : ¬d.ScanPermitted) : d.scanCode 3 = 0xFF := by
  refine if_neg ?_
  simpa [Dev.ScanFree, Dev.ScanPermitted, ← Dev.permitOpen_iff, or_assoc] using not_or.2 ⟨hfree, h⟩

theorem Dev.scanCode_askunePrivate {code : BitVec 8} (h : 0x80 ≤ code.toNat) (hb : code ≠ 0xFF) :
    d.scanCode code = if d.live = .factory then code else 0xFF := by
  have hlt : code.toNat ≤ 0xFE := by bv_omega
  have hb : code ≠ 255#8 := hb
  have h1 : code ≠ 1#8 := by rintro rfl; simp at h
  have h2 : code ≠ 2#8 := by rintro rfl; simp at h
  have h3 : code ≠ 3#8 := by rintro rfl; simp at h
  simp [Dev.scanCode, hb, h1, h2, h3, h, hlt]

/-- An instruction is current, and TDO shifts something out. -/
def Dev.scanning (d : Dev) (code : BitVec 8) (out : BitVec 32) : Dev :=
  d.modAccess fun a => { a with instruction := code, scanOut := out }

variable {d}

theorem Dev.loadScan_of_code {code c : BitVec 8} (h : d.scanCode code = c) (hc : c ≠ 1) : d.loadScan code = d.scanning c 0 := by
  simp only [Dev.loadScan, h, if_neg hc]
  rfl

theorem Fuses.idcode_eq (f : Fuses) :
    f.idcode = BitVec.ofNat 32 (f.stepping.toNat % 16 * 2 ^ 28 + 0x0840 * 2 ^ 12 + 0x1D3 * 2 + 1) := by
  have hlow : (0x0840#16 ++ (0x1D3#11 ++ 1#1)) = (0x8403A7#28) := by decide
  refine BitVec.eq_of_toNat_eq ?_
  rw [Fuses.idcode, hlow, BitVec.toNat_append, BitVec.toNat_ofNat, BitVec.toNat_ofNat,
    ← Nat.shiftLeft_add_eq_or_of_lt (by decide), BitVec.extractLsb'_toNat, Nat.shiftLeft_eq]
  simp only [Nat.shiftRight_zero]
  omega

theorem Dev.loadScan_idcode : d.loadScan 1 =
    d.scanning 1 (BitVec.ofNat 32 (d.fuses.stepping.toNat % 16 * 2 ^ 28 + 0x0840 * 2 ^ 12 + 0x1D3 * 2 + 1)) := by
  rw [← Fuses.idcode_eq]
  rfl

theorem Dev.endPermit_of_none (h : d.quorum.permitEnd = none) : d.endPermit = d := by
  simp only [Dev.endPermit, h]

/-- The permit ends at its time, and EXTEST with it where it needed one (09:R225, 18:R397). -/
theorem Dev.endPermit_of_some {t : Nat} (h : d.quorum.permitEnd = some t) : d.endPermit =
    (let ended := (d.modQuorum fun q => { q with permitEnd := none }).reach t
     if d.access.instruction = 3 ∧ ¬d.ScanFree
     then ended.modAccess fun a => { a with instruction := 0xFF, scanOut := 0 } else ended) := by
  simp only [Dev.endPermit, h]
  by_cases hfree : d.ScanFree
  · exact (if_pos hfree).trans (if_neg fun hx => hx.2 hfree).symm
  · refine (if_neg hfree).trans (if_congr ?_ rfl rfl)
    exact (and_iff_left hfree).symm

end

/-! ### The commands of the test access port -/

section
variable {s : State} {i : Instr}

theorem leaves_tap {e : Dev} (hi : exec i s = .next ⟨s.pending, if s.dev.tapUp then e else s.dev⟩)
    (h : s.dev.pins.mainPower = true) : leaves i s e := leaves_of hi (if_pos h)

theorem leaves_tap_of_unpowered {e : Dev} (hi : exec i s = .next ⟨s.pending, if s.dev.tapUp then e else s.dev⟩)
    (h : s.dev.pins.mainPower = false) : leaves i s s.dev := leaves_of hi (if_neg (ne_true_of_eq_false h))

theorem leaves_askunePrivate {code : BitVec 8} (hp : s.dev.pins.mainPower = true) (h : 0x80 ≤ code.toNat) (hb : code ≠ 0xFF) :
    leaves (.askunePrivate code) s (if s.dev.live = .factory then s.dev.scanning code 0 else s.dev.scanning 0xFF 0) := by
  have hlt : code.toNat ≤ 0xFE := by bv_omega
  have hcode : code ≠ 1 := by rintro rfl; simp at h
  refine leaves_of rfl ((if_pos ?_).trans ?_)
  · simp [Dev.tapUp, hp, h, hlt]
  · have hscan := s.dev.scanCode_askunePrivate h hb
    split
    · next hf => exact Dev.loadScan_of_code (hscan.trans (if_pos hf)) hcode
    · next hf => exact Dev.loadScan_of_code (hscan.trans (if_neg hf)) (by decide)

theorem leaves_askunePrivate_of_other {code : BitVec 8}
    (h : s.dev.pins.mainPower = false ∨ code.toNat < 0x80 ∨ code = 0xFF) : leaves (.askunePrivate code) s s.dev := by
  refine leaves_of rfl (if_neg ?_)
  rcases h with h | h | rfl
  · simp [Dev.tapUp, h]
  · simp [show ¬0x80 ≤ code.toNat by omega]
  · simp

/-- EXTEST as it decodes; one that takes effect where it needed the permit is event 41 (18:R397). -/
theorem leaves_extest {c : BitVec 8} (hp : s.dev.pins.mainPower = true) (h : s.dev.scanCode 3 = c) (hc : c ≠ 1) :
    leaves .extest s (if c = 3 ∧ ¬s.dev.ScanFree then (s.dev.scanning c 0).pkgEvent 41 0x30028 else s.dev.scanning c 0) := by
  refine leaves_of rfl ((if_pos hp).trans ?_)
  simp only [Dev.loadScan_of_code h hc]
  exact if_congr (and_congr_right' not_or.symm) rfl rfl

end

end Sys2Proof.Machine

open Sys2Proof Machine Claims

/-- The target's commands change it while it answers; its registers are those of 17:Table 17.8. -/
theorem Sys2Proof.Claims.i3cTarget : Claims.I3cTarget := by
  intro s d answers makes selects
  refine ⟨fun addr => ⟨leaves_i3c rfl (Access.addressed_eq · addr), leaves_i3c rfl (Access.addressed_eq · addr)⟩,
    leaves_i3c rfl fun _ => rfl, fun n => ⟨leaves_i3c rfl fun _ => rfl, leaves_i3c rfl fun _ => rfl⟩,
    ⟨_, _, _, leaves_i3c rfl fun _ => rfl, leaves_i3c rfl fun _ => rfl, leaves_i3c rfl fun _ => rfl⟩,
    fun ha => ⟨_, (leaves_i3cUp rfl).1 ha⟩, (leaves_i3cUp rfl).2, fun ha o data => (leaves_i3cUp rfl).2 ha,
    fun ha o => ?registers⟩
  case registers =>
    intro sel
    refine ⟨leaves_i3cRegisterRead ha, fun _ hhigh hlow => d.readI3c_gap hlow hhigh, d.readI3c_cap, fun v =>
      ⟨fun ho => ?cursor, fun ho => ⟨?cap, (leaves_i3cUp rfl).1 ha⟩, fun w hw ho => ⟨?pending, rfl⟩,
        fun hcursor hcap hpending => ?other⟩⟩
    case cursor =>
      subst ho
      exact leaves_i3cRegisterWrite ha rfl
    case cap =>
      subst ho
      exact leaves_i3cRegisterWrite ha rfl
    case pending => exact leaves_i3cRegisterWrite ha (Dev.writeI3c_pending _ hw ho v)
    case other =>
      refine leaves_i3cRegisterWrite ha (Dev.writeI3c_other _ ?_ ?_ hpending v)
      · exact fun h => hcursor (BitVec.eq_of_toNat_eq h)
      · exact fun h => hcap (BitVec.eq_of_toNat_eq h)

/-- Each instruction by the code that it decodes as. -/
theorem Sys2Proof.Claims.testAccessPort : Claims.TestAccessPort := by
  intro s d loads id free open' allowed
  refine ⟨fun hoff => ?unpowered, fun hon => ?powered, fun h => leaves_of rfl (Dev.endPermit_of_none h),
    fun t h => leaves_of rfl (Dev.endPermit_of_some h)⟩
  case unpowered =>
    exact ⟨leaves_tap_of_unpowered rfl hoff, leaves_tap_of_unpowered rfl hoff, leaves_tap_of_unpowered rfl hoff,
      leaves_tap_of_unpowered rfl hoff, leaves_tap_of_unpowered rfl hoff, fun code => leaves_askunePrivate_of_other (.inl hoff)⟩
  case powered =>
    have hidcode : d.loadScan 1 = loads 1 id := Dev.loadScan_idcode
    refine ⟨?bypass, leaves_of (leaves_tap rfl hon) hidcode, leaves_of (leaves_tap rfl hon) hidcode, ?sample,
      fun hfree => ?free, fun hfree hallowed => ?permitted, fun hfree hallowed => ?refused,
      fun code => ⟨fun h => leaves_askunePrivate_of_other (.inr h), leaves_askunePrivate hon⟩⟩
    case bypass => exact leaves_of (leaves_tap rfl hon) (Dev.loadScan_of_code d.scanCode_bypass (by decide))
    case sample => exact leaves_of (leaves_tap rfl hon) (Dev.loadScan_of_code d.scanCode_sample (by decide))
    case free =>
      exact leaves_of (leaves_extest hon (d.scanCode_extest (.inl hfree)) (by decide)) (if_neg fun h => h.2 hfree)
    case permitted =>
      exact leaves_of (leaves_extest hon (d.scanCode_extest (.inr hallowed)) (by decide)) (if_pos ⟨rfl, hfree⟩)
    case refused =>
      exact leaves_of (leaves_extest hon (d.scanCode_extest_of_refused hfree hallowed) (by decide)) (if_neg fun h => by simp at h)

/-- Settles O54: the two halves of the statement. -/
theorem Sys2Proof.sidebandAndScan : Obligations.SidebandAndScan := ⟨Claims.i3cTarget, Claims.testAccessPort⟩
end

section
/-! ## Lamad words: the fields of each format, and decoding what encodes an instruction (10:R237, R238, Table 10.3) -/

namespace Sys2Proof.Lamad

/-! ### Fields of concatenated words -/

section
variable {v w lo k : Nat} {x : BitVec v} {y : BitVec w}

theorem extract_high : (x ++ y).extractLsb' w v = x := by
  rw [BitVec.extractLsb'_append_eq_of_le (Nat.le_refl w), Nat.sub_self, BitVec.extractLsb'_eq_self]

theorem extract_low {z : BitVec k} (h : lo + k ≤ w) (hy : y.extractLsb' lo k = z) : (x ++ y).extractLsb' lo k = z :=
  (BitVec.extractLsb'_append_eq_of_add_le h).trans hy

end

/-! ### Formats -/

section
variable (major rd ra rb : BitVec 6) (fn : BitVec 8)

@[simp] theorem bits_encR_major : bits (encR major rd ra rb fn) 26 6 = major := extract_high
@[simp] theorem bits_encR_rd : bits (encR major rd ra rb fn) 20 6 = rd := extract_low (by decide) extract_high
@[simp] theorem bits_encR_ra : bits (encR major rd ra rb fn) 14 6 = ra :=
  extract_low (by decide) (extract_low (by decide) extract_high)
@[simp] theorem bits_encR_rb : bits (encR major rd ra rb fn) 8 6 = rb :=
  extract_low (by decide) (extract_low (by decide) (extract_low (by decide) extract_high))
@[simp] theorem bits_encR_fn {lo k : Nat} (h : lo + k ≤ 8) : bits (encR major rd ra rb fn) lo k = fn.extractLsb' lo k :=
  extract_low (by omega) (extract_low (by omega) (extract_low (by omega) (extract_low h rfl)))
/-- JSUB's selector stands in the low bits of rb. -/
@[simp] theorem bits_encR_sel (sel : BitVec 3) : bits (encR major rd ra (0#3 ++ sel) fn) 8 3 = sel :=
  extract_low (by decide) (extract_low (by decide) (extract_low (by decide)
    ((BitVec.extractLsb'_append_eq_of_le (by decide)).trans (extract_low (by decide) BitVec.extractLsb'_eq_self))))

end

section
variable (major rd ra : BitVec 6)

@[simp] theorem bits_encI_major (imm : BitVec 14) : bits (encI major rd ra imm) 26 6 = major := extract_high
@[simp] theorem bits_encI_rd (imm : BitVec 14) : bits (encI major rd ra imm) 20 6 = rd := extract_low (by decide) extract_high
@[simp] theorem bits_encI_ra (imm : BitVec 14) : bits (encI major rd ra imm) 14 6 = ra :=
  extract_low (by decide) (extract_low (by decide) extract_high)
@[simp] theorem bits_encI_within {lo k : Nat} (imm : BitVec 14) (h : lo + k ≤ 14) :
    bits (encI major rd ra imm) lo k = imm.extractLsb' lo k :=
  extract_low (by omega) (extract_low (by omega) (extract_low h rfl))

@[simp] theorem bits_encW_major (half : BitVec 2) (imm : BitVec 16) : bits (encW major rd half imm) 26 6 = major := extract_high
@[simp] theorem bits_encW_rd (half : BitVec 2) (imm : BitVec 16) : bits (encW major rd half imm) 20 6 = rd :=
  extract_low (by decide) extract_high
@[simp] theorem bits_encW_half (half : BitVec 2) (imm : BitVec 16) : bits (encW major rd half imm) 18 2 = half :=
  extract_low (by decide) (extract_low (by decide) extract_high)
@[simp] theorem bits_encW_zero (half : BitVec 2) (imm : BitVec 16) : bits (encW major rd half imm) 16 2 = 0 :=
  extract_low (by decide) (extract_low (by decide) (extract_low (by decide) extract_high))
@[simp] theorem bits_encW_imm (half : BitVec 2) (imm : BitVec 16) : bits (encW major rd half imm) 0 16 = imm :=
  extract_low (by decide) (extract_low (by decide) (extract_low (by decide) (extract_low (by decide) BitVec.extractLsb'_eq_self)))

@[simp] theorem bits_encM_major (sel : BitVec 3) (imm : BitVec 11) : bits (encM major rd ra sel imm) 26 6 = major := extract_high
@[simp] theorem bits_encM_rd (sel : BitVec 3) (imm : BitVec 11) : bits (encM major rd ra sel imm) 20 6 = rd :=
  extract_low (by decide) extract_high
@[simp] theorem bits_encM_ra (sel : BitVec 3) (imm : BitVec 11) : bits (encM major rd ra sel imm) 14 6 = ra :=
  extract_low (by decide) (extract_low (by decide) extract_high)
@[simp] theorem bits_encM_sel (sel : BitVec 3) (imm : BitVec 11) : bits (encM major rd ra sel imm) 11 3 = sel :=
  extract_low (by decide) (extract_low (by decide) (extract_low (by decide) extract_high))
@[simp] theorem bits_encM_imm (sel : BitVec 3) (imm : BitVec 11) : bits (encM major rd ra sel imm) 0 11 = imm :=
  extract_low (by decide) (extract_low (by decide) (extract_low (by decide) (extract_low (by decide) BitVec.extractLsb'_eq_self)))

@[simp] theorem bits_encB_major (disp : BitVec 14) : bits (encB major rd ra disp) 26 6 = major := extract_high
@[simp] theorem bits_encB_ra (disp : BitVec 14) : bits (encB major rd ra disp) 20 6 = rd := extract_low (by decide) extract_high
@[simp] theorem bits_encB_rb (disp : BitVec 14) : bits (encB major rd ra disp) 14 6 = ra :=
  extract_low (by decide) (extract_low (by decide) extract_high)
@[simp] theorem bits_encB_disp (disp : BitVec 14) : bits (encB major rd ra disp) 0 14 = disp :=
  extract_low (by decide) (extract_low (by decide) (extract_low (by decide) BitVec.extractLsb'_eq_self))

@[simp] theorem bits_encJ_major (disp : BitVec 26) : bits (encJ major disp) 26 6 = major := extract_high
@[simp] theorem bits_encJ_disp (disp : BitVec 26) : bits (encJ major disp) 0 26 = disp :=
  extract_low (by decide) BitVec.extractLsb'_eq_self

end

section
variable (major ra rb : BitVec 6) (dst src : BitVec 3) (op mode esize : BitVec 2)

@[simp] theorem bits_encS_major : bits (encS major dst src op ra rb mode esize) 26 6 = major := extract_high
@[simp] theorem bits_encS_dst : bits (encS major dst src op ra rb mode esize) 23 3 = dst := extract_low (by decide) extract_high
@[simp] theorem bits_encS_src : bits (encS major dst src op ra rb mode esize) 20 3 = src :=
  extract_low (by decide) (extract_low (by decide) extract_high)
@[simp] theorem bits_encS_op : bits (encS major dst src op ra rb mode esize) 18 2 = op :=
  extract_low (by decide) (extract_low (by decide) (extract_low (by decide) extract_high))
@[simp] theorem bits_encS_ra : bits (encS major dst src op ra rb mode esize) 12 6 = ra :=
  extract_low (by decide) (extract_low (by decide) (extract_low (by decide) (extract_low (by decide) extract_high)))
/-- SLOAD's entry stands in the low bits of ra. -/
@[simp] theorem bits_encS_entry (entry : BitVec 5) :
    bits (encS major dst src op (0#1 ++ entry) rb mode esize) 12 5 = entry :=
  extract_low (by decide) (extract_low (by decide) (extract_low (by decide) (extract_low (by decide)
    ((BitVec.extractLsb'_append_eq_of_le (by decide)).trans (extract_low (by decide) BitVec.extractLsb'_eq_self)))))
@[simp] theorem bits_encS_rb : bits (encS major dst src op ra rb mode esize) 6 6 = rb :=
  extract_low (by decide) (extract_low (by decide) (extract_low (by decide) (extract_low (by decide)
    (extract_low (by decide) extract_high))))
@[simp] theorem bits_encS_mode : bits (encS major dst src op ra rb mode esize) 4 2 = mode :=
  extract_low (by decide) (extract_low (by decide) (extract_low (by decide) (extract_low (by decide)
    (extract_low (by decide) (extract_low (by decide) extract_high)))))
@[simp] theorem bits_encS_esize : bits (encS major dst src op ra rb mode esize) 2 2 = esize :=
  extract_low (by decide) (extract_low (by decide) (extract_low (by decide) (extract_low (by decide)
    (extract_low (by decide) (extract_low (by decide) (extract_low (by decide) extract_high))))))
@[simp] theorem bits_encS_zero : bits (encS major dst src op ra rb mode esize) 0 2 = 0 :=
  extract_low (by decide) (extract_low (by decide) (extract_low (by decide) (extract_low (by decide)
    (extract_low (by decide) (extract_low (by decide) (extract_low (by decide) (extract_low (by decide)
      BitVec.extractLsb'_eq_self)))))))

end

section
variable (major rd ra rb : BitVec 6) (slot : BitVec 5) (k : BitVec 3)

@[simp] theorem bits_encX_major : bits (encX major slot rd ra rb k) 26 6 = major := extract_high
@[simp] theorem bits_encX_slot : bits (encX major slot rd ra rb k) 21 5 = slot := extract_low (by decide) extract_high
@[simp] theorem bits_encX_rd : bits (encX major slot rd ra rb k) 15 6 = rd :=
  extract_low (by decide) (extract_low (by decide) extract_high)
@[simp] theorem bits_encX_ra : bits (encX major slot rd ra rb k) 9 6 = ra :=
  extract_low (by decide) (extract_low (by decide) (extract_low (by decide) extract_high))
@[simp] theorem bits_encX_rb : bits (encX major slot rd ra rb k) 3 6 = rb :=
  extract_low (by decide) (extract_low (by decide) (extract_low (by decide) (extract_low (by decide) extract_high)))
@[simp] theorem bits_encX_k : bits (encX major slot rd ra rb k) 0 3 = k :=
  extract_low (by decide) (extract_low (by decide) (extract_low (by decide) (extract_low (by decide)
    (extract_low (by decide) BitVec.extractLsb'_eq_self))))

end

/-! ### Decoding -/

theorem decode_encI_shift (r c : Nat) (rd ra n : BitVec 6) (kind : BitVec 2) :
    decode r c (encI 5 rd ra ((0 : BitVec 6) ++ (kind ++ n))) = decodeShift r c rd ra kind n := by
  have hkind : bits (encI 5 rd ra ((0 : BitVec 6) ++ (kind ++ n))) 6 2 = kind :=
    (bits_encI_within _ _ _ _ (by decide)).trans (extract_low (by decide) extract_high)
  have hn : bits (encI 5 rd ra ((0 : BitVec 6) ++ (kind ++ n))) 0 6 = n :=
    (bits_encI_within _ _ _ _ (by decide)).trans (extract_low (by decide) (extract_low (by decide) BitVec.extractLsb'_eq_self))
  simp only [decode, bits_encI_major, bits_encI_rd, bits_encI_ra, hkind, hn]
  rfl

theorem decode_encR_macc (r c : Nat) (ra rb : BitVec 6) (fn : BitVec 4) :
    decode r c (encR 9 0 ra rb ((0 : BitVec 4) ++ fn)) = some (.macc r c fn ra rb) := by
  have hzero : bits (encR 9 0 ra rb ((0 : BitVec 4) ++ fn)) 4 4 = 0 := (bits_encR_fn _ _ _ _ _ (by decide)).trans extract_high
  have hfn : bits (encR 9 0 ra rb ((0 : BitVec 4) ++ fn)) 0 4 = fn :=
    (bits_encR_fn _ _ _ _ _ (by decide)).trans (extract_low (by decide) BitVec.extractLsb'_eq_self)
  simp only [decode, bits_encR_major, bits_encR_ra, bits_encR_rb, hzero, hfn]
  rfl

/-- DESCEND 0 is EXIT's word; every other instruction is read back from its word. -/
theorem decode_encode {i : Instr} {w : BitVec 32} {r c : Nat} (hd : i ≠ .descend r c 0) (hs : i.site = some (r, c))
    (he : encode i = some w) : decode r c w = some i := by
  unfold encode at he
  split at he
  all_goals cases he
  all_goals cases hs
  case h_18 => exact decode_encI_shift ..
  case h_19 => exact decode_encI_shift ..
  case h_20 => exact decode_encI_shift ..
  case h_25 => exact decode_encR_macc ..
  case h_48 service =>
    have : service ≠ 0 := fun h => hd (by rw [h])
    simpa [decode] using this
  all_goals simp [decode, decodeInt, decodeSeg]

/-- What a core reads as an instruction has that core's site and a word of its own. -/
theorem site_of_decode {i : Instr} {w : BitVec 32} {r c : Nat} (h : decode r c w = some i) :
    i.site = some (r, c) ∧ (encode i).isSome = true ∧ i ≠ .descend r c 0 := by
  unfold decode decodeInt decodeShift decodeSeg at h
  simp only at h
  repeat' split at h
  all_goals cases h
  all_goals refine ⟨rfl, rfl, ?_⟩
  case h_26.isFalse.refl himm => simpa using himm
  all_goals simp

theorem ne_descend_of_wf {i : Instr} (h : i.wf = true) (r c : Nat) : i ≠ .descend r c 0 := by
  rintro rfl
  simp [Instr.wf, Instr.rangesOk] at h

end Sys2Proof.Lamad
end

open Sys2Proof Lamad

/-- Settles O58: every word is read back field by field, and what a core reads has a word. -/
theorem Sys2Proof.lamadDecodeEncode : Obligations.LamadDecodeEncode := by
  refine ⟨fun i w r c hwf hs he => decode_encode (ne_descend_of_wf hwf r c) hs he, fun r c w i h => ?_⟩
  obtain ⟨hs, he, hd⟩ := site_of_decode h
  obtain ⟨v, hv⟩ := Option.isSome_iff_exists.1 he
  exact ⟨hs, v, hv, decode_encode hd hs hv⟩

section
/-! ## Integer operations, immediates and products of a Lamad core (10:R229, R232, R233, Table 10.4) -/

namespace Sys2Proof.Machine

/-! ### Carry, borrow, comparisons and shift counts -/

theorem toNat_bit (c : Bool) : c.toNat = Claims.bit c := by cases c <;> rfl

theorem addCarry_eq (a b : W64) (c : Bool) :
    addCarry a b c = (a + b + BitVec.ofNat 64 (Claims.bit c), decide (2 ^ 64 ≤ a.toNat + b.toNat + Claims.bit c)) := by
  rw [addCarry, ← toNat_bit]
  congr 1
  apply BitVec.eq_of_toNat_eq
  simp [Nat.add_mod]

theorem subBorrow_eq (a b : W64) (c : Bool) :
    subBorrow a b c = (a - b - BitVec.ofNat 64 (Claims.bit c), decide (a.toNat < b.toNat + Claims.bit c)) := by
  rw [subBorrow, ← toNat_bit]

theorem addCarry_false (a b : W64) : addCarry a b false = (a + b, decide (2 ^ 64 ≤ a.toNat + b.toNat)) := by
  simp [addCarry_eq, Claims.bit]

theorem subBorrow_false (a b : W64) : subBorrow a b false = (a - b, decide (a.toNat < b.toNat)) := by
  simp [subBorrow_eq, Claims.bit]

/-- A shift counts by the low six bits of its register. -/
theorem toNat_mod_64 (b : W64) : b.toNat % 64 = (b.extractLsb' 0 6).toNat := by simp

theorem flagWord_decide (p : Prop) [Decidable p] : flagWord (decide p) = if p then 1 else 0 := by
  by_cases h : p <;> simp [flagWord, h]

/-! ### One register's result -/

section
variable {s : State} {r c : Nat} {i : Instr} {rd : BitVec 6} {v : W64}

theorem leaves_set (h : issues s.dev r c i) {g : Lam → W64}
    (hi : exec i s = .next ⟨s.pending, s.dev.issue r c i fun x => .ok (x.set rd (g x))⟩)
    (hv : g ((s.dev.codeFetch r c).lam r c).ready = v) : leaves i s (written s.dev r c rd v none) :=
  leaves_of hi (Dev.issue_set h (by rw [hv]))

theorem leaves_opC (h : issues s.dev r c i) {g : Lam → W64 × Bool} {cy : Bool}
    (hi : exec i s = .next ⟨s.pending, s.dev.issue r c i fun x => .ok (x.opC rd (g x))⟩)
    (hv : g ((s.dev.codeFetch r c).lam r c).ready = (v, cy)) : leaves i s (written s.dev r c rd v (some cy)) :=
  leaves_of hi (Dev.issue_written h (by rw [hv]; rfl))

end

/-! ### Halfwords -/

theorem halfword_eq (half : BitVec 2) (imm : BitVec 16) :
    halfword half imm = BitVec.ofNat 64 (imm.toNat * 2 ^ (16 * half.toNat)) := by
  apply BitVec.eq_of_toNat_eq
  simp [halfword, Nat.shiftLeft_eq]

/-- The bits of a halfword stand in its own place alone. -/
theorem getLsbD_halfword (half : BitVec 2) (imm : BitVec 16) {h n : Nat} (hh : h < 4) (hn : n < 16) :
    (halfword half imm).getLsbD (16 * h + n) = (decide (h = half.toNat) && imm.getLsbD n) := by
  have hlt : 16 * h + n < 64 := by omega
  rw [halfword, BitVec.getLsbD_shiftLeft, BitVec.getLsbD_setWidth]
  rcases Nat.lt_trichotomy h half.toNat with hlo | rfl | hhi
  · have : 16 * h + n < 16 * half.toNat := by omega
    simp [this, Nat.ne_of_lt hlo]
  · have : n < 64 := by omega
    simp [hlt, this]
  · have : 16 ≤ 16 * h + n - 16 * half.toNat := by omega
    simp [Nat.ne_of_gt hhi, BitVec.getLsbD_of_ge _ _ this]

/-- MOVK replaces one halfword. -/
theorem extract_movk (a : W64) (half : BitVec 2) (imm : BitVec 16) {h : Nat} (hh : h < 4) :
    ((a &&& ~~~halfword half 0xFFFF) ||| halfword half imm).extractLsb' (16 * h) 16 =
      if h = half.toNat then imm else a.extractLsb' (16 * h) 16 := by
  apply BitVec.eq_of_getLsbD_eq
  intro n hn
  have hlt : 16 * h + n < 64 := by omega
  have hones : (0xFFFF : BitVec 16).getLsbD n = true := (by decide : ∀ m < 16, (0xFFFF : BitVec 16).getLsbD m = true) n hn
  rw [BitVec.getLsbD_extractLsb', BitVec.getLsbD_or, BitVec.getLsbD_and, BitVec.getLsbD_not, getLsbD_halfword _ _ hh hn,
    getLsbD_halfword _ _ hh hn, hones]
  by_cases he : h = half.toNat <;> simp [he, hn, hlt]

end Sys2Proof.Machine

open Sys2Proof Machine Claims

/-- Each operation writes the value that it computes, and those that set C set it beside. -/
theorem Sys2Proof.Claims.integerResult : Claims.IntegerResult := by
  intro s r c f rd ra rb h k a b cin
  cases f
  case add => exact leaves_opC h rfl (addCarry_false a b)
  case addc => exact leaves_opC h rfl (addCarry_eq a b cin)
  case sub => exact leaves_opC h rfl (subBorrow_false a b)
  case subb => exact leaves_opC h rfl (subBorrow_eq a b cin)
  case and => exact leaves_set h rfl rfl
  case or => exact leaves_set h rfl rfl
  case xor => exact leaves_set h rfl rfl
  case shl => exact leaves_set h rfl (congrArg (a <<< ·) (toNat_mod_64 b))
  case shr => exact leaves_set h rfl (congrArg (a >>> ·) (toNat_mod_64 b))
  case sar => exact leaves_set h rfl (congrArg a.sshiftRight (toNat_mod_64 b))
  case cmpeq => exact leaves_set h rfl (flagWord_decide (a = b))
  case cmplt => exact leaves_set h rfl (flagWord_decide (a.toInt < b.toInt))
  case cmpltu => exact leaves_set h rfl (flagWord_decide (a.toNat < b.toNat))

/-- Signed immediates for ADDI, unsigned ones for the logic operations, the low six bits for shifts. -/
theorem Sys2Proof.Claims.immediateResult : Claims.ImmediateResult := by
  intro s r c rd k
  refine ⟨fun f ra imm h => ?_, fun half imm h => leaves_set h rfl (halfword_eq half imm), fun half imm h =>
    ⟨_, leaves_set h rfl rfl, fun n hn => extract_movk _ half imm hn⟩⟩
  have hcount : (imm.extractLsb' 0 6).toNat = imm.toNat % 64 := by simp
  have hzero : imm.setWidth 64 = BitVec.ofNat 64 imm.toNat := (BitVec.ofNat_toNat 64 imm).symm
  cases f
  case addi => exact leaves_set h rfl rfl
  case andi => exact leaves_set h rfl (congrArg (_ &&& ·) hzero)
  case ori => exact leaves_set h rfl (congrArg (_ ||| ·) hzero)
  case xori => exact leaves_set h rfl (congrArg (_ ^^^ ·) hzero)
  case shli => exact leaves_set h rfl (congrArg (_ <<< ·) hcount)
  case shri => exact leaves_set h rfl (congrArg (_ >>> ·) hcount)
  case sari => exact leaves_set h rfl (congrArg (BitVec.sshiftRight _) hcount)

/-- Settles O1: the operations of three registers, and those with an immediate. -/
theorem Sys2Proof.arithmeticResults : Obligations.ArithmeticResults := ⟨Claims.integerResult, Claims.immediateResult⟩
end

section
/-! ## Products, accumulators, branches and counters (10:R233, R237, R238, R254) -/

namespace Sys2Proof.Machine

/-! ### Products -/

theorem product_false (a b : W64) : product false a b = BitVec.ofNat 128 (a.toNat * b.toNat) := by
  apply BitVec.eq_of_toNat_eq
  simp [product]

theorem product_true (a b : W64) : product true a b = BitVec.ofInt 128 (a.toInt * b.toInt) := by
  simp [product, BitVec.signExtend, BitVec.ofInt_mul]

theorem product_high (p : BitVec 128) : p >>> 64 = BitVec.ofNat 128 (p.toNat / 2 ^ 64) := by
  apply BitVec.eq_of_toNat_eq
  have := p.isLt
  simp [Nat.shiftRight_eq_div_pow]
  omega

theorem product_low (p : BitVec 128) : (p.setWidth 64).setWidth 128 = BitVec.ofNat 128 (p.toNat % 2 ^ 64) := by
  apply BitVec.eq_of_toNat_eq
  simp

/-- The accumulator that ACCSH and ACCCLR name, by its index or by the number of either half (log 20). -/
theorem accIndex_eq {n : BitVec 6} {acc : Nat} (hacc : acc < 4)
    (h : n.toNat = acc ∨ n.toNat = 50 + 2 * acc ∨ n.toNat = 51 + 2 * acc) : accIndex n = acc := by
  unfold accIndex
  split <;> omega

section
variable {s : State} {r c : Nat} {i : Instr}

theorem leaves_mul (h : issues s.dev r c i) {signed' : Bool} {ra rb : BitVec 6}
    (hi : exec i s = .next ⟨s.pending, s.dev.issue r c i fun x => .ok (x.mul signed' ra rb)⟩) {p : BitVec 128}
    (hp : product signed' (((s.dev.codeFetch r c).lam r c).ready.r ra) (((s.dev.codeFetch r c).lam r c).ready.r rb) = p) :
    leaves i s (promised s.dev r c
      [⟨.ph, BitVec.ofNat 128 (p.toNat / 2 ^ 64), false, (found s.dev r c).cycle + 3⟩,
        ⟨.pl, BitVec.ofNat 128 (p.toNat % 2 ^ 64), false, (found s.dev r c).cycle + 3⟩]) := by
  refine leaves_of hi (Dev.issue_promised h ?_)
  rw [Lam.mul, hp, product_high, product_low]
  simp [Lam.after, Phys.halves, Lam.ready, found, Dev.lam_core]

theorem leaves_jumped (h : issues s.dev r c i) {g : Lam → W64} {pc : W64}
    (hi : exec i s = .next ⟨s.pending, s.dev.issue r c i fun x => .ok { x with npc := g x }⟩)
    (hpc : g ((s.dev.codeFetch r c).lam r c).ready = pc) : leaves i s (jumped s.dev r c pc) :=
  leaves_of hi (Dev.issue_jumped h (by rw [hpc]))

/-- A displacement counts instructions of four bytes. -/
theorem shl_signExtend {n : Nat} (disp : BitVec n) : (disp.signExtend 64) <<< 2 = BitVec.ofInt 64 (4 * disp.toInt) := by
  rw [BitVec.shiftLeft_eq_mul_twoPow, BitVec.ofInt_mul, mul_comm]
  rfl

theorem bne_eq_decide (a b : W64) : (a != b) = decide (a ≠ b) := decide_not.symm

theorem not_slt_eq (a b : W64) : (!a.slt b) = decide (b.toInt ≤ a.toInt) :=
  decide_not.symm.trans (decide_eq_decide.2 Int.not_lt)

theorem not_ult_eq (a b : W64) : (!a.ult b) = decide (b.toNat ≤ a.toNat) :=
  decide_not.symm.trans (decide_eq_decide.2 Nat.not_lt)

theorem leaves_branch (h : issues s.dev r c i) {g : Lam → Bool} {disp : BitVec 14} {p : Prop} [Decidable p]
    (hi : exec i s = .next ⟨s.pending, s.dev.issue r c i fun x => .ok (x.branch (g x) disp)⟩)
    (hp : g ((s.dev.codeFetch r c).lam r c).ready = decide p) : leaves i s (jumped s.dev r c
      (if p then (coreBank (found s.dev r c)).pc + BitVec.ofInt 64 (4 * disp.toInt)
        else (coreBank (found s.dev r c)).pc + 4)) := by
  refine leaves_of hi (Dev.issue_jumped h ?_)
  rw [Lam.branch, hp, shl_signExtend]
  by_cases h : p <;> simp [h] <;> rfl

end

end Sys2Proof.Machine

open Sys2Proof Machine Claims

/-- Settles O2: products and accumulations are promised, ACCSH and ACCCLR change their accumulator at once. -/
theorem Sys2Proof.productsLandLater : Obligations.ProductsLandLater := by
  intro s r c ra rb k a b u z pair
  refine ⟨fun h => leaves_mul h rfl (product_false a b), fun h => leaves_mul h rfl (product_true a b), fun fn h => ?macc,
    fun acc hacc n hn => ⟨fun h => ?accsh, fun h => ?accclr⟩⟩
  case macc =>
    have hp : product (fn.getLsbD 3) a b = if fn.getLsbD 3 then z else u := by
      cases fn.getLsbD 3
      · exact product_false a b
      · exact product_true a b
    have hacc : fn.toNat % 4 = (fn.extractLsb' 0 2).toNat := by simp
    have hneg : (if fn.getLsbD 2 = true then -(if fn.getLsbD 3 = true then z else u) else if fn.getLsbD 3 = true then z else u) =
        if fn.getLsbD 2 then -product (fn.getLsbD 3) a b else product (fn.getLsbD 3) a b := by rw [hp]
    refine leaves_of rfl (Dev.issue_promised h ?_)
    rw [← hacc, hneg]
    rfl
  case accsh =>
    refine leaves_of rfl (Dev.issue_bank h ?_)
    rw [Lam.accsh, accIndex_eq hacc hn]
    rfl
  case accclr =>
    refine leaves_of rfl (Dev.issue_bank h ?_)
    rw [Lam.accclr, accIndex_eq hacc hn]
    rfl

/-- NOP changes pc alone; a counter is that of the program, or free. -/
theorem Sys2Proof.Claims.nopAndCounters : Claims.NopAndCounters := by
  intro s r c rd k p
  refine ⟨fun h => leaves_jumped h rfl rfl, fun h => leaves_set h rfl ?_, fun h => leaves_set h rfl ?_⟩
  all_goals
    show BitVec.ofNat 64 (match p with | some q => _ | none => _) = _
    cases p <;> rfl

theorem Sys2Proof.Claims.branchTargets : Claims.BranchTargets := by
  intro s r c ra rb k a b pc
  refine ⟨fun disp => ⟨fun h => ?_, fun h => ?_, fun h => ?_, fun h => ?_, fun h => ?_, fun h => ?_⟩, fun disp h => ?_,
    fun h => leaves_jumped h rfl rfl⟩
  · exact leaves_branch h rfl rfl
  · exact leaves_branch h rfl (bne_eq_decide a b)
  · exact leaves_branch h rfl rfl
  · exact leaves_branch h rfl (not_slt_eq a b)
  · exact leaves_branch h rfl rfl
  · exact leaves_branch h rfl (not_ult_eq a b)
  · exact leaves_jumped h rfl (congrArg (pc + ·) (shl_signExtend disp))

/-- Settles O3: the counters, and where branches and jumps go. -/
theorem Sys2Proof.branchesAndCounters : Obligations.BranchesAndCounters := ⟨Claims.nopAndCounters, Claims.branchTargets⟩
end

section
/-! ## Segments: the element of an index, and the instructions on selectors (10:R235, R236) -/

namespace Sys2Proof.Machine

/-! ### Elements -/

theorem bitrev_lt (e i : Nat) : bitrev e i < 2 ^ e := by
  induction e generalizing i with
  | zero => exact Nat.one_pos
  | succ e ih =>
    have hrest := ih (i / 2)
    have hbit : i % 2 * 2 ^ e ≤ 1 * 2 ^ e := Nat.mul_le_mul_right _ (by omega)
    rw [bitrev, pow_succ]
    omega

/-- Bit `n` of a reversed number is the bit as far from the other end. -/
theorem testBit_bitrev {e i n : Nat} (h : n < e) : (bitrev e i).testBit n = i.testBit (e - 1 - n) := by
  induction e generalizing i n with
  | zero => omega
  | succ e ih =>
    rw [bitrev, mul_comm, Nat.testBit_two_pow_mul_add _ (bitrev_lt e _)]
    split
    · next hn => rw [ih hn, Nat.testBit_div_two, show e - 1 - n + 1 = e + 1 - 1 - n by omega]
    · obtain rfl : n = e := by omega
      simp

theorem Seg.element_linear {g : Seg} (h : g.mode = 0) (i : Nat) : g.element i = if i < g.limit then some i else none := by
  simp [Seg.element, h]

theorem Seg.element_modulo {g : Seg} (h : g.mode = 1) (i : Nat) :
    g.element i = if g.limit = 0 then none else some (i % g.limit) := by
  simp [Seg.element, h]

theorem Seg.element_bitrev {g : Seg} (h : g.mode = 2) (i : Nat) :
    g.element i = if i < g.limit then some (bitrev g.limit.log2 i) else none := by
  simp [Seg.element, h]

/-- An access that its check lets through, with write access where it is a store. -/
theorem Seg.addr_of_element {g : Seg} {i e : Nat} {store : Bool} (he : g.element i = some e)
    (hw : store = false ∨ g.write = true) : g.addr i store = .ok (g.base + e * 2 ^ g.esize.toNat) := by
  rw [Seg.addr, he]
  refine if_neg ?_
  rcases hw with h | h <;> simp [h]

theorem Seg.addr_of_none {g : Seg} {i : Nat} (he : g.element i = none) (store : Bool) : g.addr i store = .error 0x10 := by
  rw [Seg.addr, he]

/-- A store without write access has no address. -/
theorem Seg.addr_of_readonly {g : Seg} (hw : g.write = false) (i a : Nat) : g.addr i true ≠ .ok a := by
  rw [Seg.addr]
  cases g.element i <;> simp [hw]

/-- The two codes of a refused access. -/
theorem Seg.addr_error {g : Seg} {i e : Nat} {store : Bool} (h : g.addr i store = .error e) :
    e = 0x10 ∨ (e = 0x11 ∧ store = true ∧ g.write = false) := by
  rw [Seg.addr] at h
  cases he : g.element i with
  | none => simp_all
  | some j => cases store <;> cases hw : g.write <;> simp_all

/-! ### Traps -/

/-- The codes of a program that the segment fault status covers (10:Table 10.5). -/
theorem progVerdict_segment {code : Nat} (hlo : 5 ≤ code) (hhi : code < 0x20) (index : Nat) :
    progVerdict code index = ⟨0x0601, BitVec.ofNat 32 (code + index % 2 ^ 24 * 256), 0⟩ := by
  have h4 : code ≠ 4 := by omega
  have hlow : ¬code < 4 := by omega
  rw [progVerdict, if_neg h4, if_neg hlow, if_pos hhi, Nat.mod_eq_of_lt (by omega : code < 256)]
  rfl

theorem Dev.trapProgram_segment (d : Dev) (r c : Nat) {code : Nat} (hlo : 5 ≤ code) (hhi : code < 0x20) :
    d.trapProgram r c code = Claims.ended d r c 0x0601 code := by
  have hline : code ≠ belowLine := by unfold belowLine; omega
  simp only [Dev.trapProgram, if_neg hline, progVerdict_segment hlo hhi]
  rfl

section
variable {s : State} {r c : Nat} {i : Instr} {sem : Lam → Except Nat Lam} {post : Dev → Dev}

/-- An instruction that traps in the segment fault's range of codes. -/
theorem leaves_stops (h : issues s.dev r c i) (hi : exec i s = .next ⟨s.pending, s.dev.issue r c i sem post⟩) {code : Nat}
    (hs : sem ((s.dev.codeFetch r c).lam r c).ready = .error code) (hlo : 5 ≤ code) (hhi : code < 0x20) :
    leaves i s (Claims.stops s.dev r c 0x0601 code) := by
  refine leaves_of hi ((Dev.issue_trap h hs post).trans ?_)
  rw [Dev.trapProgram_segment _ _ _ hlo hhi]
  rfl

theorem leaves_bank (h : issues s.dev r c i) (hi : exec i s = .next ⟨s.pending, s.dev.issue r c i sem⟩)
    {f : Bank → Bank} {dst : List Phys} {npc : W64}
    (hs : sem ((s.dev.codeFetch r c).lam r c).ready =
      .ok { ((s.dev.codeFetch r c).lam r c).ready.modBank f with wrote := dst, npc := npc }) :
    leaves i s (retired s.dev r c (settle (found s.dev r c) f dst npc 1) 1) := leaves_of hi (Dev.issue_bank h hs)

end

/-! ### Selectors -/

theorem modeOk_iff (mode : BitVec 2) (n : Nat) :
    modeOk mode n = true ↔ (mode = 0 ∧ n ≤ 2 ^ 24) ∨ ((mode = 1 ∨ mode = 2) ∧ 2 ≤ n ∧ n ≤ 2 ^ 20 ∧ ∃ e, n = 2 ^ e) := by
  have hpow : n = 2 ^ n.log2 ↔ ∃ e, n = 2 ^ e := ⟨fun h => ⟨_, h⟩, by rintro ⟨e, rfl⟩; rw [Nat.log2_two_pow]⟩
  have hmode : mode = 0 ∨ mode = 1 ∨ mode = 2 ∨ mode = 3 := by revert mode; decide
  rcases hmode with rfl | rfl | rfl | rfl <;> simp [modeOk, ← hpow, and_assoc]

theorem Seg.derive_eq (g : Seg) (a n : Nat) (mode esize : BitVec 2) [Decidable (Claims.derives g a n mode esize)] :
    g.derive a n mode esize =
      if Claims.derives g a n mode esize then some ⟨g.base + a * 2 ^ g.esize.toNat, n, esize, g.write, mode⟩ else none := by
  have hiff : (g.mode = 0 ∧ a * g.size + n * 2 ^ esize.toNat ≤ g.limit * g.size ∧ modeOk mode n = true) ↔
      Claims.derives g a n mode esize := and_congr_right' (and_congr_right' (modeOk_iff mode n))
  unfold Seg.derive
  exact if_congr hiff rfl rfl

/-- SDERIVE writes its segment where its conditions hold, and traps where one fails (10:R236). -/
theorem Lam.sderive_eq (x : Lam) (dst src : BitVec 3) (ra rb : BitVec 6) (mode esize : BitVec 2)
    [Decidable (Claims.derives (x.sel src) (x.r ra).toNat (x.r rb).toNat mode esize)] :
    x.sderive dst src ra rb mode esize =
      if Claims.derives (x.sel src) (x.r ra).toNat (x.r rb).toNat mode esize then
        .ok (x.setSel dst ⟨(x.sel src).base + (x.r ra).toNat * 2 ^ (x.sel src).esize.toNat, (x.r rb).toNat, esize,
          (x.sel src).write, mode⟩)
      else .error 0x12 := by
  rw [Lam.sderive, Seg.derive_eq]
  split <;> simp_all

/-- The segment table that an instruction sees. -/
theorem Lam.ready_table (d : Dev) (r c : Nat) :
    ((d.codeFetch r c).lam r c).ready.table = (d.core r c).program.elim [] (·.table) := by
  show (((d.codeFetch r c).core r c).program.map (·.table)).getD [] = _
  rw [Dev.codeFetch_program]
  cases (d.core r c).program <;> rfl

end Sys2Proof.Machine

open Sys2Proof Machine Claims

theorem Sys2Proof.Claims.segmentElement : Claims.SegmentElement := by
  intro g i store size
  refine ⟨fun ⟨hs, hw⟩ a => hs ▸ Seg.addr_of_readonly hw i a, fun hw => ⟨fun hm hi => ?linear, fun hm hl => ?modulo,
    fun e hm hl hi => ?bitrev⟩, fun hm hi => ?beyond⟩
  case linear => exact Seg.addr_of_element ((Seg.element_linear hm i).trans (if_pos hi)) hw
  case modulo => exact Seg.addr_of_element ((Seg.element_modulo hm i).trans (if_neg (by omega))) hw
  case bitrev =>
    have he : g.element i = some (bitrev e i) := by
      rw [Seg.element_bitrev hm, if_pos hi, hl, Nat.log2_two_pow]
    exact ⟨_, Seg.addr_of_element he hw, hl ▸ bitrev_lt e i, fun n hn => testBit_bitrev hn⟩
  case beyond =>
    refine Seg.addr_of_none ?_ store
    rcases hm with hm | hm
    · exact (Seg.element_linear hm i).trans (if_neg (by omega))
    · exact (Seg.element_bitrev hm i).trans (if_neg (by omega))

theorem Sys2Proof.Claims.segmentInstructions : Claims.SegmentInstructions := by
  intro s r c dst src ra rb rd mode esize entry g a n table
  classical
  refine ⟨fun h => ?sload, fun h => ⟨fun hd => ?narrows, fun hd => ?refused⟩, fun h => leaves_set h rfl rfl⟩
  case sload =>
    refine leaves_bank h rfl ?_
    rw [Lam.sload, Lam.ready_table]
    rfl
  case narrows => exact leaves_bank h rfl ((Lam.sderive_eq ..).trans (if_pos hd))
  case refused => exact leaves_stops h rfl ((Lam.sderive_eq ..).trans (if_neg hd)) (by decide) (by decide)

/-- Settles O6: the elements of each mode, then the three instructions on selectors. -/
theorem Sys2Proof.segmentsAndSelectors : Obligations.SegmentsAndSelectors := ⟨Claims.segmentElement, Claims.segmentInstructions⟩
end

section
/-! ## Loads and stores (10:R232, R235, 11:R260, R262) -/

namespace Sys2Proof.Machine

/-! ### Bytes and elements -/

theorem leNat_lt (bs : List Byte) : leNat bs < 2 ^ (8 * bs.length) := by
  induction bs with
  | nil => exact Nat.one_pos
  | cons b bs ih =>
    have hb : b.toNat < 2 ^ 8 := b.isLt
    have : 2 ^ (8 * (b :: bs).length) = 2 ^ 8 * 2 ^ (8 * bs.length) := by rw [← pow_add, List.length_cons]; congr 1; omega
    rw [leNat, this]
    omega

theorem leNat_memBytes_lt (m : List Host.Cell) (a n : Nat) : leNat (memBytes m a n) < 2 ^ (8 * n) := by
  have := leNat_lt (memBytes m a n)
  rwa [show (memBytes m a n).length = n by simp [memBytes]] at this

/-- A byte of a value as it stands in memory. -/
theorem getD_leBytes_toNat {w : Nat} (v : BitVec w) {n i : Nat} (hi : i < n) :
    (leBytes n v.toNat).getD i 0 = v.extractLsb' (8 * i) 8 := by
  have h256 : 256 ^ i = 2 ^ (8 * i) := (pow_mul 2 8 i).symm
  apply BitVec.eq_of_toNat_eq
  simp [leBytes, hi, h256, Nat.shiftRight_eq_div_pow]

/-- Sign extension of an element of 1, 2, 4 or 8 bytes. -/
theorem signElem_eq {e v : Nat} (he : e < 4) (hv : v < 2 ^ (8 * 2 ^ e)) :
    signElem (2 ^ e) v = (BitVec.ofNat (8 * 2 ^ e) v).signExtend 64 := by
  have hle : 8 * 2 ^ e ≤ 64 := Nat.mul_le_mul_left 8 (Nat.pow_le_pow_right (by decide) (by omega : e ≤ 3))
  have hpow : 2 ^ (8 * 2 ^ e) ≤ 2 ^ 64 := Nat.pow_le_pow_right (by decide) hle
  have hof : (BitVec.ofNat (8 * 2 ^ e) v).toNat = v := by rw [BitVec.toNat_ofNat, Nat.mod_eq_of_lt hv]
  apply BitVec.eq_of_toNat_eq
  rw [BitVec.toNat_signExtend, BitVec.toNat_setWidth, BitVec.msb_eq_decide, hof, signElem]
  by_cases hlow : v < 2 ^ (8 * 2 ^ e - 1)
  · simp [hlow]
  · rw [if_neg hlow, if_pos (by simpa using hlow), BitVec.toNat_ofNat]
    omega

/-! ### The controller's check and the data cache -/

theorem Core.foldl_put_flush (l : List Pend) (k : Core) :
    (l.foldl (fun k e => k.modBank fun b => b.put e.value e.dst) k).flush = k.flush := by
  induction l generalizing k with
  | nil => rfl
  | cons e l ih =>
    rw [List.foldl_cons, ih]
    unfold Core.modBank
    split <;> rfl

@[simp] theorem Core.land_flush (k : Core) (p : Pend → Bool) : (k.land p).flush = k.flush := Core.foldl_put_flush _ _

theorem Dev.codeFetch_ridge (d : Dev) (r c : Nat) : ∃ ks, (d.codeFetch r c).ridge r = { d.ridge r with cores := ks } := by
  simp only [Dev.codeFetch, Dev.modCore, Dev.ridge, Dev.modRidge, List.getD, List.getElem?_modify]
  cases d.ridges[r]? with
  | none => exact ⟨_, rfl⟩
  | some x => exact ⟨_, rfl⟩

theorem Lam.ready_line (d : Dev) (r c : Nat) : ((d.codeFetch r c).lam r c).ready.line = (d.ridge r).lineByte := by
  obtain ⟨ks, h⟩ := d.codeFetch_ridge r c
  show ((d.codeFetch r c).ridge r).lineByte = _
  rw [h]
  rfl

theorem Lam.ready_sram (d : Dev) (r c : Nat) : ((d.codeFetch r c).lam r c).ready.sram = (d.ridge r).sram := d.codeFetch_sram r c

theorem found_deep (d : Dev) (r c : Nat) : (found d r c).deep = (d.core r c).deep :=
  (Core.landDue_deep _).trans (d.codeFetch_deep r c)

/-- An access that the controller lets through (11:R260). -/
theorem Lam.reach_ready {d : Dev} {r c a n : Nat} (h : Claims.sideOk d r c a n) :
    ((d.codeFetch r c).lam r c).ready.reach a n = .ok () := by
  obtain ⟨hside, hend⟩ := h
  have hdeep : ((d.codeFetch r c).lam r c).ready.core.deep = (d.core r c).deep := found_deep d r c
  rw [Lam.reach, Lam.ready_line, hdeep, if_neg, if_neg (by omega)]
  rcases hside with hd | hl
  · simp [hd]
  · simp [Nat.not_lt.2 hl]

/-- The ways that an instruction looks up are those of its core. -/
theorem Lam.ready_whole (d : Dev) (r c : Nat) : ((d.codeFetch r c).lam r c).ready.whole = (c == 0 || (found d r c).flush) := by
  show (c == 0 || ((d.codeFetch r c).core r c).flush) = _
  rw [found, Core.landDue, Core.land_flush]

theorem Lam.touch_eq {x : Lam} {c : Nat} (h : x.whole = (c == 0 || x.core.flush)) (store : Bool) (a : Nat) :
    x.touch store a = { x with core := touched c x.core store a } := by
  rw [Lam.touch, h]
  rfl

theorem Lam.touch_ready (d : Dev) (r c : Nat) (store : Bool) (a : Nat) :
    ((d.codeFetch r c).lam r c).ready.touch store a =
      { ((d.codeFetch r c).lam r c).ready with core := touched c (found d r c) store a } :=
  Lam.touch_eq (Lam.ready_whole d r c) store a

/-! ### Elements read and written -/

theorem Lam.loadElem_ok {x : Lam} {g : Seg} {i a : Nat} (ha : g.addr i false = .ok a) (hr : x.reach a g.size = .ok ()) :
    x.loadElem g i = .ok (leNat (memBytes x.sram a g.size)) := by
  rw [Lam.loadElem, ha]
  show (x.reach a g.size).bind _ = _
  rw [hr]
  rfl

theorem Lam.storeElem_ok {x : Lam} {g : Seg} {i a : Nat} (v : Nat) (ha : g.addr i true = .ok a) (hr : x.reach a g.size = .ok ()) :
    x.storeElem g i v = .ok { x.touch true a with sram := memPut x.sram a (leBytes g.size v) } := by
  rw [Lam.storeElem, ha]
  show (x.reach a g.size).bind _ = _
  rw [hr]
  rfl

/-- A load's register, where its number names one, waits for the next instruction. -/
theorem Lam.later_eq {x : Lam} (h : x.fresh = []) (n : BitVec 6) (v : W64) :
    x.later n v = { x with fresh := (x.bank.phys n).toList.map fun p => ⟨p, v.setWidth 128, true, 0⟩ } := by
  rw [Lam.later]
  cases x.bank.phys n with
  | none => simp only [Option.toList_none, List.map_nil, ← h]
  | some p => simp only [Option.toList_some, List.map_cons, List.map_nil]

theorem Lam.load_ok {x : Lam} {sg : Bool} {rd ra : BitVec 6} {sel : BitVec 3} {imm : BitVec 11} {a : Nat}
    (ha : (x.sel sel).addr (x.index ra imm) false = .ok a) (hr : x.reach a (x.sel sel).size = .ok ())
    (he : x.extra = 0) : x.load sg rd ra sel imm = .ok { (x.touch false a).later rd
        (if sg then signElem (x.sel sel).size (leNat (memBytes x.sram a (x.sel sel).size))
          else BitVec.ofNat 64 (leNat (memBytes x.sram a (x.sel sel).size))) with
      extra := Config.freeNat x.draws, draws := x.draws + 1 } := by
  have hlater : ∀ v, ((x.touch false a).later rd v).extra = x.extra ∧ ((x.touch false a).later rd v).draws = x.draws := by
    intro v
    unfold Lam.later
    split <;> exact ⟨rfl, rfl⟩
  rw [Lam.load, Lam.loadElem_ok ha hr, ha]
  show Except.ok _ = _
  rw [(hlater _).1, (hlater _).2, he, Nat.zero_add]

section
variable {s : State} {r c : Nat} {i : Instr} {sem : Lam → Except Nat Lam}

/-- An instruction that completes with what it makes of its core and of SRAM, and is no load. -/
theorem leaves_retiredWith (h : issues s.dev r c i) (hi : exec i s = .next ⟨s.pending, s.dev.issue r c i sem⟩) {k : Core}
    {m : List Host.Cell} {dst : List Phys} {npc : W64} {extra charge : Nat}
    (hs : sem ((s.dev.codeFetch r c).lam r c).ready = .ok { ((s.dev.codeFetch r c).lam r c).ready with
      core := k, sram := m, wrote := dst, npc := npc, extra := extra, charge := charge }) :
    leaves i s (retiredWith s.dev r c (settle k id dst npc (1 + extra)) charge m s.dev.draws) := by
  refine leaves_of hi ((Dev.issue_ok h hs id).trans ((Dev.putLam_takeDue _ _ _ _).trans ?_))
  rw [Lam.retire_core]
  simp [Lam.ready, Dev.lam]
  rfl

theorem leaves_load (h : issues s.dev r c i) {sg : Bool} {rd ra : BitVec 6} {sel : BitVec 3} {imm : BitVec 11}
    (hi : exec i s = .next ⟨s.pending, s.dev.issue r c i fun x => x.load sg rd ra sel imm⟩) {a : Nat} {v : W64}
    (ha : (Claims.segment s.dev r c sel).addr (Claims.accessIndex s.dev r c ra imm) false = .ok a)
    (hside : Claims.sideOk s.dev r c a (Claims.segment s.dev r c sel).size)
    (hv : (if sg then signElem (Claims.segment s.dev r c sel).size
        (leNat (memBytes (s.dev.ridge r).sram a (Claims.segment s.dev r c sel).size))
      else BitVec.ofNat 64 (leNat (memBytes (s.dev.ridge r).sram a (Claims.segment s.dev r c sel).size))) = v) :
    leaves i s (Claims.loaded s.dev r c rd v a) := by
  have hload := Lam.load_ok (x := ((s.dev.codeFetch r c).lam r c).ready) (sg := sg) (rd := rd) ha (Lam.reach_ready hside) rfl
  rw [Lam.ready_sram, Lam.touch_ready, Lam.later_eq rfl] at hload
  refine leaves_of hi ((Dev.issue_ok h hload id).trans ((Dev.putLam_takeDue _ _ _ _).trans ?_))
  subst hv
  have hdst : ∀ (l : List Phys) (w : BitVec 128), (l.map fun p => (⟨p, w, true, 0⟩ : Pend)).map (·.dst) = l := fun l w => by
    simp [Function.comp_def]
  rw [Lam.retire_core]
  simp only [hdst]
  rw [Claims.loaded, ← s.dev.codeFetch_sram r c]
  rfl

end

end Sys2Proof.Machine

open Sys2Proof Machine Claims

/-- Each load by the address that its segment gives. -/
theorem Sys2Proof.Claims.loadResult : Claims.LoadResult := by
  intro s r c rd ra sel imm a g n v ha hside
  have hv : v < 2 ^ (8 * n) := leNat_memBytes_lt _ _ _
  refine ⟨fun h => leaves_load h rfl ha hside rfl, fun h => leaves_load h rfl ha hside ?_⟩
  exact (if_pos rfl).trans (signElem_eq (e := g.esize.toNat) g.esize.isLt hv)

/-- A store's bytes, and every other byte of SRAM as it stood. -/
theorem Sys2Proof.Claims.storeResult : Claims.StoreResult := by
  intro s r c rs ra sel imm a k g n h hwf ha hside
  refine ⟨memPut (s.dev.ridge r).sram a (leBytes n (operand s.dev r c rs).toNat), ?_, fun i hi => ?_, fun x hx => ?_⟩
  · have hs := Lam.storeElem_ok (x := ((s.dev.codeFetch r c).lam r c).ready) (operand s.dev r c rs).toNat ha
      (Lam.reach_ready hside)
    rw [Lam.ready_sram, Lam.touch_ready] at hs
    exact (leaves_retiredWith (sem := fun x => x.store rs ra sel imm) h rfl hs :)
  · rw [memRead_memPut_inside hwf _ _ _ (by simpa using hi), getD_leBytes_toNat _ hi]
  · exact memRead_memPut_outside hwf _ _ _ (by simpa using hx)

/-- Settles O4: loads, and stores. -/
theorem Sys2Proof.loadsAndStores : Obligations.LoadsAndStores := ⟨Claims.loadResult, Claims.storeResult⟩
end

section
/-! ## Calls, returns, and the frames that they spill and fill (10:R230, R231, R234) -/

namespace Sys2Proof.Machine

/-! ### What landing writes leave of a core -/

/-- Landing writes keeps what every change of a bank and of the pending writes keeps. -/
theorem Core.land_view {α : Type} (g : Core → α) (hbank : ∀ k f, g (k.modBank f) = g k)
    (hpend : ∀ (k : Core) (l : List Pend), g { k with pend := l } = g k) (k : Core) (p : Pend → Bool) : g (k.land p) = g k := by
  have hfold : ∀ (l : List Pend) (k : Core), g (l.foldl (fun k e => k.modBank fun b => b.put e.value e.dst) k) = g k := by
    intro l
    induction l with
    | nil => intro k; rfl
    | cons e l ih => intro k; rw [List.foldl_cons, ih, hbank]
  rw [Core.land, hfold, hpend]

@[simp] theorem Core.modBank_spillBase (k : Core) (f : Bank → Bank) : (k.modBank f).spillBase = k.spillBase := by
  unfold Core.modBank; split <;> rfl

@[simp] theorem Core.modBank_spillLen (k : Core) (f : Bank → Bank) : (k.modBank f).spillLen = k.spillLen := by
  unfold Core.modBank; split <;> rfl

@[simp] theorem Core.land_spillBase (k : Core) (p : Pend → Bool) : (k.land p).spillBase = k.spillBase :=
  Core.land_view (·.spillBase) Core.modBank_spillBase (fun _ _ => rfl) k p

@[simp] theorem Core.land_spillLen (k : Core) (p : Pend → Bool) : (k.land p).spillLen = k.spillLen :=
  Core.land_view (·.spillLen) Core.modBank_spillLen (fun _ _ => rfl) k p

/-- Landing writes keeps what no write of a register changes in a bank. -/
theorem Core.coreBank_land_view {α : Type} (g : Bank → α) (hput : ∀ b v p, g (Bank.put b v p) = g b) (k : Core)
    (p : Pend → Bool) : g (coreBank (k.land p)) = g (coreBank k) := by
  have hfold : ∀ (l : List Pend) (k : Core),
      g (coreBank (l.foldl (fun k e => k.modBank fun b => b.put e.value e.dst) k)) = g (coreBank k) := by
    intro l
    induction l with
    | nil => intro k; rfl
    | cons e l ih => intro k; rw [List.foldl_cons, ih, coreBank_modBank, hput]
  rw [Core.land, hfold]
  rfl

/-- The window's fields and pc after writes have landed. -/
theorem coreBank_land (k : Core) (p : Pend → Bool) : (coreBank (k.land p)).cwp = (coreBank k).cwp ∧
    (coreBank (k.land p)).res = (coreBank k).res ∧ (coreBank (k.land p)).spilled = (coreBank k).spilled ∧
    (coreBank (k.land p)).pc = (coreBank k).pc :=
  ⟨Core.coreBank_land_view (·.cwp) (fun _ _ p => by cases p <;> rfl) k p,
    Core.coreBank_land_view (·.res) (fun _ _ p => by cases p <;> rfl) k p,
    Core.coreBank_land_view (·.spilled) (fun _ _ p => by cases p <;> rfl) k p,
    Core.coreBank_land_view (·.pc) (fun _ _ p => by cases p <;> rfl) k p⟩

/-! ### The visible window -/

/-- w0 to w31 lie in frames CWP and CWP + 1 (10:R230). -/
theorem Bank.read_window (b : Bank) (deep : Bool) {n : BitVec 6} (hlo : 16 ≤ n.toNat) (hhi : n.toNat ≤ 47) :
    b.read deep n = Claims.frameReg b (b.cwp.toNat + (n.toNat - 16) / 16) (n.toNat % 16) := by
  have hphys : b.phys n = some (.w (b.wIndex (n.toNat - 16))) := by
    unfold Bank.phys
    dsimp only
    rw [if_neg (by omega), if_neg (by omega), if_pos (by omega)]
  have hmod : (n.toNat - 16) % 16 = n.toNat % 16 := by omega
  rw [Bank.read, hphys]
  show b.w.getD _ 0 = _
  rw [Bank.wIndex, hmod, Claims.frameReg]

theorem Bank.read_w15 (b : Bank) (deep : Bool) : b.read deep 31 = Claims.frameReg b b.cwp.toNat 15 :=
  Bank.read_window b deep (by decide) (by decide)

/-! ### CALL and RET with a window that has room -/

/-- A call once the window has room for a frame: the return address in its register 15, the window moved up. -/
def Lam.pushFrame (x : Lam) (target : W64) : Lam :=
  { x.modBank (fun b => { b with
      w := b.w.set ((b.cwp.toNat + 1) % 8 * 16 + 15) (b.pc + 4), cwp := b.cwp + 1, res := b.res + 1 }) with
    npc := target, wrote := .w ((x.bank.cwp.toNat + 1) % 8 * 16 + 15) :: x.wrote }

theorem Lam.callTo_eq (x : Lam) (target : W64) :
    x.callTo target = (if x.bank.res = 8 then x.spill else .ok x).bind fun y => .ok (y.pushFrame target) := by
  have hpush : ∀ y : Lam, y.modBank (fun b => { b.put ((y.pc + 4).setWidth 128) (.w ((y.bank.cwp.toNat + 1) % 8 * 16 + 15)) with
        cwp := b.cwp + 1, res := b.res + 1 }) =
      y.modBank fun b => { b with
        w := b.w.set ((b.cwp.toNat + 1) % 8 * 16 + 15) (b.pc + 4), cwp := b.cwp + 1, res := b.res + 1 } :=
    fun y => Lam.modBank_congr _ _ _ (by simp [Bank.put, Lam.pc])
  simp only [Lam.pushFrame, ← hpush]
  by_cases h : x.bank.res = 8
  · rw [Lam.callTo, if_pos h, if_pos h]
    rfl
  · rw [Lam.callTo, if_neg h, if_neg h]
    rfl

theorem Lam.callTo_room {x : Lam} (h : x.bank.res ≠ 8) (target : W64) : x.callTo target = .ok (x.pushFrame target) := by
  rw [Lam.callTo_eq, if_neg h]
  rfl

theorem Lam.ret_room {x : Lam} (h : x.bank.res ≠ 2) : x.ret =
    .ok { x.modBank (fun b => { b with cwp := b.cwp - 1, res := b.res - 1 }) with npc := x.r 31 } := by
  rw [Lam.ret, if_neg h]

theorem Lam.ret_none {x : Lam} (h : x.bank.res = 2) (hs : x.bank.spilled = 0) : x.ret = .error 0x14 := by
  rw [Lam.ret, if_pos h, if_pos hs]

end Sys2Proof.Machine

open Sys2Proof Machine Claims

theorem Sys2Proof.Claims.callAndReturn : Claims.CallAndReturn := by
  intro s r c k b called
  have hcall : ∀ {i : Instr} {g : Lam → W64} {target : W64}, b.res ≠ 8 → issues s.dev r c i →
      exec i s = .next ⟨s.pending, s.dev.issue r c i fun x => x.callTo (g x)⟩ →
      g ((s.dev.codeFetch r c).lam r c).ready = target → leaves i s (called target) := fun hres h hi hg =>
    leaves_bank h hi
      ((Lam.callTo_room (x := ((s.dev.codeFetch r c).lam r c).ready) hres _).trans (by rw [hg]; rfl))
  refine ⟨fun n hlo hhi => Bank.read_window b k.deep hlo hhi,
    fun hres => ⟨fun disp h => ?call, fun ra h => hcall hres h rfl rfl⟩,
    fun h => ⟨fun hres => ?ret, fun hres hs => leaves_stops h rfl (Lam.ret_none hres hs) (by decide) (by decide)⟩⟩
  case call => exact hcall hres h rfl (congrArg (b.pc + ·) (shl_signExtend disp))
  case ret =>
    refine leaves_bank h rfl ((Lam.ret_room (x := ((s.dev.codeFetch r c).lam r c).ready) hres).trans ?_)
    have h15 : ((s.dev.codeFetch r c).lam r c).ready.r 31 = frameReg b b.cwp.toNat 15 := Bank.read_w15 b k.deep
    rw [h15]
    rfl

end

section
/-! ## Spilling and filling frames (10:R231, R234, R254; log 21) -/

namespace Sys2Proof.Machine

theorem Core.modBank_congr {k : Core} {f g : Bank → Bank} (h : f (coreBank k) = g (coreBank k)) : k.modBank f = k.modBank g := by
  unfold coreBank at h
  unfold Core.modBank
  split_ifs at * <;> simp_all

/-! ### The spill area as an instruction sees it -/

theorem found_program (d : Dev) (r c : Nat) : (found d r c).program = (d.core r c).program :=
  (Core.landDue_program _).trans (d.codeFetch_program r c)

theorem Lam.ready_spillBase (d : Dev) (r c : Nat) : ((d.codeFetch r c).lam r c).ready.spillBase =
    if (found d r c).deep then (found d r c).spillBase else (found d r c).program.elim 0 (·.spillBase) := by
  rw [found, Core.landDue_deep, Core.landDue_program, Core.landDue, Core.land_spillBase]
  show (if ((d.codeFetch r c).core r c).deep then _ else _) = _
  cases ((d.codeFetch r c).core r c).program <;> rfl

theorem Lam.ready_spillLen (d : Dev) (r c : Nat) : ((d.codeFetch r c).lam r c).ready.spillLen =
    if (found d r c).deep then (found d r c).spillLen else (found d r c).program.elim 0 (·.image.spill) := by
  rw [found, Core.landDue_deep, Core.landDue_program, Core.landDue, Core.land_spillLen]
  show (if ((d.codeFetch r c).core r c).deep then _ else _) = _
  cases ((d.codeFetch r c).core r c).program <;> rfl

/-! ### A frame as bytes -/

theorem length_frameBytes (vs : List W64) : (frameBytes vs).length = 8 * vs.length := by
  induction vs with
  | nil => rfl
  | cons v vs ih =>
    rw [frameBytes, List.flatMap_cons, List.length_append, length_leBytes, ← frameBytes, ih, List.length_cons]
    omega

/-- Byte `j` of register `i` of a frame. -/
theorem getD_frameBytes (vs : List W64) {i j : Nat} (hi : i < vs.length) (hj : j < 8) :
    (frameBytes vs).getD (8 * i + j) 0 = (vs.getD i 0).extractLsb' (8 * j) 8 := by
  induction vs generalizing i with
  | nil => simp at hi
  | cons v vs ih =>
    rw [frameBytes, List.flatMap_cons, ← frameBytes]
    cases i with
    | zero =>
      rw [List.getD_append _ _ _ _ (by simpa using hj)]
      simpa using getD_leBytes_toNat v hj
    | succ i =>
      rw [List.getD_append_right _ _ _ _ (by simp; omega), length_leBytes, show 8 * (i + 1) + j - 8 = 8 * i + j by omega,
        ih (by simpa using hi)]
      simp

theorem getD_frame (b : Bank) (f : Nat) {i : Nat} (hi : i < 16) : (b.frame f).getD i 0 = Claims.frameReg b f i := by
  simp [Bank.frame, Claims.frameReg, hi]

/-- A frame that has been put into memory. -/
theorem memRead_frame {m : List Host.Cell} (h : memWf m = true) (b : Bank) (f a : Nat) {i j : Nat} (hi : i < 16) (hj : j < 8) :
    memRead (memPut m a (frameBytes (b.frame f))) (a + 8 * i + j) = (Claims.frameReg b f i).extractLsb' (8 * j) 8 := by
  have hlen : (b.frame f).length = 16 := by simp [Bank.frame]
  rw [Nat.add_assoc, memRead_memPut_inside h _ _ _ (by rw [length_frameBytes, hlen]; omega),
    getD_frameBytes _ (by omega) hj, getD_frame b f hi]

/-! ### Spilling -/

/-- The core whose oldest frame can be spilled: what is pending on that frame has landed. -/
def Core.spillReady (k : Core) : Core := k.land (onFrame (coreBank k).oldest)

theorem coreBank_spillReady (k : Core) : (coreBank k.spillReady).cwp = (coreBank k).cwp ∧
    (coreBank k.spillReady).res = (coreBank k).res ∧ (coreBank k.spillReady).spilled = (coreBank k).spilled ∧
    (coreBank k.spillReady).pc = (coreBank k).pc := coreBank_land k _

/-- What an instruction has once a frame has moved: its core, SRAM, 20 cycles and 16 instructions more. -/
def Lam.moved (x : Lam) (k : Core) (m : List Host.Cell) : Lam :=
  { x with core := k, sram := m, extra := x.extra + 20, charge := x.charge + 16 }

section
variable {x : Lam}

theorem Lam.callTo_full_error (h : x.bank.res = 8)
    (hroom : x.spillLen < 128 * (x.bank.spilled.toNat + 1) ∨ 1023 ≤ x.bank.spilled.toNat) (target : W64) :
    x.callTo target = .error 0x13 := by
  have hspilled : (coreBank x.core.spillReady).spilled = x.bank.spilled := (coreBank_spillReady x.core).2.2.1
  have herr : x.spill = .error 0x13 := by
    refine if_pos ?_
    show x.spillLen < 128 * ((coreBank x.core.spillReady).spilled.toNat + 1) ∨ 1023 ≤ (coreBank x.core.spillReady).spilled.toNat
    rwa [hspilled]
  rw [Lam.callTo, if_pos h, herr]
  rfl

theorem Lam.spill_ok {c : Nat} (hw : x.whole = (c == 0 || x.core.flush)) (hroom : 128 * (x.bank.spilled.toNat + 1) ≤ x.spillLen)
    (hn : x.bank.spilled.toNat < 1023) (hr : x.reach (x.spillBase + 128 * x.bank.spilled.toNat) 128 = .ok ()) :
    x.spill = .ok (x.moved
      ((touched c x.core.spillReady true (x.spillBase + 128 * x.bank.spilled.toNat)).modBank fun b =>
        { b with res := b.res - 1, spilled := b.spilled + 1 })
      (memPut x.sram (x.spillBase + 128 * x.bank.spilled.toNat)
        (frameBytes ((coreBank x.core.spillReady).frame x.bank.oldest)))) := by
  obtain ⟨hcwp, hres, hspilled, -⟩ := coreBank_spillReady x.core
  have holdest : (coreBank x.core.spillReady).oldest = x.bank.oldest := by
    rw [Bank.oldest, hcwp, hres]
    rfl
  have hreach : ({ x with core := x.core.spillReady } : Lam).reach (x.spillBase + 128 * x.bank.spilled.toNat) 128 = .ok () := by
    rw [← hr, Lam.reach, Lam.reach, Core.spillReady, Core.land_deep]
  have htouch : ({ x with core := x.core.spillReady } : Lam).touch true (x.spillBase + 128 * x.bank.spilled.toNat) =
      { x with core := touched c x.core.spillReady true (x.spillBase + 128 * x.bank.spilled.toNat) } :=
    Lam.touch_eq (by rw [hw, Core.spillReady, Core.land_flush]) _ _
  unfold Lam.spill
  extract_lets y b n a z
  have hspill : b.spilled = x.bank.spilled := hspilled
  have ha : a = x.spillBase + 128 * x.bank.spilled.toNat := congrArg (x.spillBase + 128 * ·.toNat) hspill
  have hz : z = ({ x with core := touched c x.core.spillReady true (x.spillBase + 128 * x.bank.spilled.toNat) } : Lam).modBank
      fun b => { b with res := b.res - 1, spilled := b.spilled + 1 } := by
    rw [← htouch, ← ha]
    rfl
  have hfit : ¬(y.spillLen < 128 * (n + 1) ∨ 1023 ≤ n) := by
    have hn' : n = x.bank.spilled.toNat := congrArg BitVec.toNat hspill
    have hlen : y.spillLen = x.spillLen := rfl
    omega
  rw [if_neg hfit, ha, hz, show b.oldest = x.bank.oldest from holdest]
  show (y.reach _ 128).bind _ = _
  rw [show y.reach _ 128 = .ok () from hreach]
  rfl

theorem Lam.pushFrame_eq {k : Core} {n : BitVec 3}
    (hk : x.core.modBank (fun b => { b with
      w := b.w.set ((b.cwp.toNat + 1) % 8 * 16 + 15) (b.pc + 4), cwp := b.cwp + 1, res := b.res + 1 }) = k)
    (hn : (coreBank x.core).cwp = n) (target : W64) :
    x.pushFrame target = { x with core := k, npc := target, wrote := .w ((n.toNat + 1) % 8 * 16 + 15) :: x.wrote } := by
  subst hk hn
  rfl

/-- CALL with eight resident frames: the oldest goes to the spill area first. -/
theorem Lam.callTo_full {c : Nat} (hw : x.whole = (c == 0 || x.core.flush)) (h : x.bank.res = 8)
    (hroom : 128 * (x.bank.spilled.toNat + 1) ≤ x.spillLen) (hn : x.bank.spilled.toNat < 1023)
    (hr : x.reach (x.spillBase + 128 * x.bank.spilled.toNat) 128 = .ok ()) (target : W64) :
    x.callTo target = .ok { x.moved
      ((touched c x.core.spillReady true (x.spillBase + 128 * x.bank.spilled.toNat)).modBank fun b => { b with
        w := b.w.set ((b.cwp.toNat + 1) % 8 * 16 + 15) (b.pc + 4), cwp := b.cwp + 1, res := 8, spilled := b.spilled + 1 })
      (memPut x.sram (x.spillBase + 128 * x.bank.spilled.toNat)
        (frameBytes ((coreBank x.core.spillReady).frame x.bank.oldest))) with
      npc := target, wrote := .w ((x.bank.cwp.toNat + 1) % 8 * 16 + 15) :: x.wrote } := by
  obtain ⟨hcwp, hres, -, -⟩ := coreBank_spillReady x.core
  have hcore : ((touched c x.core.spillReady true (x.spillBase + 128 * x.bank.spilled.toNat)).modBank fun b =>
        { b with res := b.res - 1, spilled := b.spilled + 1 }).modBank (fun b => { b with
          w := b.w.set ((b.cwp.toNat + 1) % 8 * 16 + 15) (b.pc + 4), cwp := b.cwp + 1, res := b.res + 1 }) =
      (touched c x.core.spillReady true (x.spillBase + 128 * x.bank.spilled.toNat)).modBank fun b => { b with
        w := b.w.set ((b.cwp.toNat + 1) % 8 * 16 + 15) (b.pc + 4), cwp := b.cwp + 1, res := 8, spilled := b.spilled + 1 } := by
    rw [Core.modBank_modBank]
    refine Core.modBank_congr ?_
    have hres' : (coreBank (touched c x.core.spillReady true (x.spillBase + 128 * x.bank.spilled.toNat))).res = 8 := hres.trans h
    simp only [hres']
    rfl
  have hwrote : (coreBank ((touched c x.core.spillReady true (x.spillBase + 128 * x.bank.spilled.toNat)).modBank fun b =>
      { b with res := b.res - 1, spilled := b.spilled + 1 })).cwp = x.bank.cwp := by
    rw [coreBank_modBank]
    exact hcwp
  rw [Lam.callTo_eq, if_pos h, Lam.spill_ok hw hroom hn hr]
  exact congrArg Except.ok (Lam.pushFrame_eq (x := x.moved _ _) hcore hwrote target)

/-! ### Filling -/

/-- The registers of a window file in which one frame has been replaced. -/
theorem Bank.setFrame_w {b : Bank} (h : b.w.length = 128) (f : Nat) (vs : List W64) : (b.setFrame f vs).w =
    (List.range 128).map fun y => if y / 16 = f % 8 then vs.getD (y % 16) 0 else b.w.getD y 0 := by
  have hf : f % 8 < 8 := Nat.mod_lt _ (by decide)
  apply List.ext_getElem
  · simp [Bank.setFrame, h]
    omega
  intro y hy hy'
  have hlt : y < 128 := by simpa using hy'
  have hget : b.w.getD y 0 = b.w[y]'(h ▸ hlt) := List.getD_eq_getElem ..
  simp only [Bank.setFrame, List.getElem_append, List.getElem_map, List.getElem_range, List.length_append, List.length_take,
    List.length_map, List.length_range, List.getElem_take, List.getElem_drop, hget]
  rcases Nat.lt_or_ge y (f % 8 * 16) with hlo | hlo
  · rw [dif_pos (by omega), dif_pos (by omega), if_neg (by omega)]
  · rcases Nat.lt_or_ge y (f % 8 * 16 + 16) with hhi | hhi
    · rw [dif_pos (by omega), dif_neg (by omega), if_pos (by omega)]
      congr 1
      omega
    · rw [dif_neg (by omega), if_neg (by omega)]
      congr 1
      omega

/-- The frame below CWP with the registers that stand at an address. -/
def Bank.refilled (m : List Host.Cell) (a : Nat) (b : Bank) : Bank := { b with
  w := (List.range 128).map fun y =>
    if y / 16 = (b.cwp.toNat + 7) % 8 then BitVec.ofNat 64 (leNat (memBytes m (a + 8 * (y % 16)) 8)) else b.w.getD y 0
  spilled := b.spilled - 1 }

theorem Lam.fill_ok {c : Nat} (hw : x.whole = (c == 0 || x.core.flush))
    (hr : x.reach (x.spillBase + 128 * (x.bank.spilled.toNat - 1)) 128 = .ok ()) (hlen : x.bank.w.length = 128) :
    x.fill = .ok (x.moved ((touched c x.core false (x.spillBase + 128 * (x.bank.spilled.toNat - 1))).modBank
      (Bank.refilled x.sram (x.spillBase + 128 * (x.bank.spilled.toNat - 1)))) x.sram) := by
  unfold Lam.fill
  extract_lets b a vs y
  have hvs : ∀ i < 16, vs.getD i 0 = BitVec.ofNat 64 (leNat (memBytes x.sram (a + 8 * i) 8)) := fun i hi => by simp [vs, hi]
  have hbank : (fun b : Bank => { b.setFrame (b.cwp.toNat + 7) vs with spilled := b.spilled - 1 })
        (coreBank (touched c x.core false a)) = Bank.refilled x.sram a (coreBank (touched c x.core false a)) := by
    have hlen' : (coreBank (touched c x.core false a)).w.length = 128 := hlen
    have hw := Bank.setFrame_w hlen' ((coreBank (touched c x.core false a)).cwp.toNat + 7) vs
    simp only [hvs _ (Nat.mod_lt _ (by decide : 0 < 16))] at hw
    simp only [Bank.refilled, ← hw]
    rfl
  show (x.reach a 128).bind _ = _
  rw [show x.reach a 128 = .ok () from hr]
  have hy : y = { x with core := (touched c x.core false a).modBank (Bank.refilled x.sram a) } := by
    show (x.touch false a).modBank _ = _
    rw [Lam.touch_eq hw, Lam.modBank, Core.modBank_congr hbank]
  rw [hy]
  rfl

theorem Lam.ret_fill {c : Nat} (hw : x.whole = (c == 0 || x.core.flush)) (h : x.bank.res = 2) (hs : x.bank.spilled ≠ 0)
    (hr : x.reach (x.spillBase + 128 * (x.bank.spilled.toNat - 1)) 128 = .ok ()) (hlen : x.bank.w.length = 128) :
    x.ret = .ok { x.moved ((touched c x.core false (x.spillBase + 128 * (x.bank.spilled.toNat - 1))).modBank fun b =>
        { Bank.refilled x.sram (x.spillBase + 128 * (x.bank.spilled.toNat - 1)) b with cwp := b.cwp - 1 }) x.sram with
      npc := x.r 31 } := by
  have hback : (fun b : Bank => { b with cwp := b.cwp - 1, res := b.res - 0 }) = fun b => { b with cwp := b.cwp - 1 } := by
    simp
  have hcore : ∀ (k : Core) (m : List Host.Cell),
      (x.moved k m).modBank (fun b => { b with cwp := b.cwp - 1, res := b.res - 0 }) =
        x.moved (k.modBank fun b => { b with cwp := b.cwp - 1 }) m := fun k m => by rw [hback]; rfl
  rw [Lam.ret, if_pos h, if_neg hs, Lam.fill_ok hw hr hlen]
  show Except.ok { (x.moved _ _).modBank _ with npc := x.r 31 } = _
  rw [hcore, Core.modBank_modBank]
  rfl

/-- What has to have landed before the oldest of eight frames goes to memory. -/
theorem onFrame_oldest {b : Bank} (h : b.res = 8) : onFrame b.oldest = fun e => match e.dst with
    | .w i => i / 16 == (b.cwp.toNat + 2) % 8
    | _ => false := by
  have holdest : b.oldest % 8 = (b.cwp.toNat + 2) % 8 := by
    simp [Bank.oldest, h]
  funext e
  rw [onFrame]
  cases e.dst <;> simp [holdest]

end

/-- An instruction for which a frame has moved. -/
theorem leaves_moved {s : State} {r c : Nat} {i : Instr} {sem : Lam → Except Nat Lam} (h : issues s.dev r c i)
    (hi : exec i s = .next ⟨s.pending, s.dev.issue r c i sem⟩) {k : Core} {m : List Host.Cell} {f : Bank → Bank}
    {dst : List Phys} {npc : W64} (hs : sem ((s.dev.codeFetch r c).lam r c).ready =
      .ok { ((s.dev.codeFetch r c).lam r c).ready.moved (k.modBank f) m with wrote := dst, npc := npc }) :
    leaves i s (retiredWith s.dev r c (settle k f dst npc 21) 17 m s.dev.draws) := by
  rw [← settle_modBank]
  exact (leaves_retiredWith (k := k.modBank f) (extra := 20) (charge := 17) h hi (hs.trans rfl) :)

end Sys2Proof.Machine

open Sys2Proof Machine Claims

theorem Sys2Proof.Claims.spillAndFill : Claims.SpillAndFill := by
  intro s r c d k b m n base room full
  have hbase : ((d.codeFetch r c).lam r c).ready.spillBase = base := Lam.ready_spillBase d r c
  have hlen : ((d.codeFetch r c).lam r c).ready.spillLen = room := Lam.ready_spillLen d r c
  have hfull : ∀ {i : Instr} {g : Lam → W64} {target : W64},
      exec i s = .next ⟨s.pending, s.dev.issue r c i fun x => x.callTo (g x)⟩ →
      g ((d.codeFetch r c).lam r c).ready = target → full i target := by
    intro i g target hi hg h hres
    have hx : ((d.codeFetch r c).lam r c).ready.bank.res = 8 := hres
    refine ⟨fun hroom => ?beyond, fun hroom hn hside hwf => ?spills⟩
    case beyond => exact leaves_stops h hi (Lam.callTo_full_error hx (by rwa [hlen]) _) (by decide) (by decide)
    case spills =>
      intro oldest k'
      have holdest : ((d.codeFetch r c).lam r c).ready.bank.oldest = oldest := by rw [Bank.oldest, hx]; rfl
      have hk : touched c ((d.codeFetch r c).lam r c).ready.core.spillReady true (base + 128 * n) = k' := by
        rw [Core.spillReady]
        exact congrArg (touched c · true (base + 128 * n)) (congrArg (Core.land _) (onFrame_oldest hres))
      have hcall := Lam.callTo_full (c := c) (Lam.ready_whole d r c) hx (hlen ▸ hroom) hn
        ((congrArg (fun a => Lam.reach _ (a + 128 * n) 128) hbase).trans (Lam.reach_ready hside))
        (g ((d.codeFetch r c).lam r c).ready)
      rw [hbase, Lam.ready_sram, holdest] at hcall
      refine ⟨memPut m (base + 128 * n) (frameBytes ((coreBank k').frame oldest)), ?_,
        fun x y hx hy => memRead_frame hwf _ _ _ hx hy, fun x hx => memRead_memPut_outside hwf _ _ _ ?_⟩
      · rw [← hk, ← hg]
        exact (leaves_moved (sem := fun x => x.callTo (g x)) h hi (hcall.trans rfl) :)
      · rw [length_frameBytes]
        simpa [Bank.frame] using hx
  refine ⟨fun disp => hfull rfl (congrArg (b.pc + ·) (shl_signExtend disp)), fun ra => hfull rfl rfl,
    fun h hres hs hside hw => ?fills⟩
  case fills =>
    have hret := Lam.ret_fill (c := c) (Lam.ready_whole d r c) hres hs
      ((congrArg (fun a => Lam.reach _ (a + 128 * (n - 1)) 128) hbase).trans (Lam.reach_ready hside)) hw
    rw [hbase, Lam.ready_sram] at hret
    have h15 : ((d.codeFetch r c).lam r c).ready.r 31 = frameReg b b.cwp.toNat 15 := Bank.read_w15 b k.deep
    rw [h15] at hret
    exact (leaves_moved (sem := Lam.ret) h rfl (hret.trans rfl) :)

/-- Settles O7: the window moves by calls and returns, and the frames beyond it by spills and fills. -/
theorem Sys2Proof.callsAndFrames : Obligations.CallsAndFrames := ⟨Claims.callAndReturn, Claims.spillAndFill⟩

end

section
/-! ## The ends of a tenant program (10:R239 to R241, R244, R253, R254) -/

namespace Sys2Proof.Machine

theorem Dev.modCore_modCore (d : Dev) (r c : Nat) (f g : Core → Core) :
    (d.modCore r c f).modCore r c g = d.modCore r c fun k => g (f k) := by
  refine (Dev.modRidge_modRidge d r _ _).trans ?_
  simp only [List.modify_modify_eq]
  rfl

theorem Dev.core_modCore (d : Dev) {r c : Nat} (f : Core → Core) (hr : r < d.ridges.length)
    (hc : c < (d.ridge r).cores.length) : (d.modCore r c f).core r c = f (d.core r c) := by
  rw [Dev.core, Dev.modCore, Dev.ridge_modRidge_self d r _ hr]
  simp [Dev.core, List.getD, hc]

/-! ### A program at its next instruction -/

section
variable {d : Dev} {r c : Nat} {p : Program} {w : BitVec 32}

theorem issuing_of_atWord (h : Claims.atWord d r c p w) : (d.core r c).issuing = some p := by
  obtain ⟨-, hdeep, hp, hpaused, hending, -⟩ := h
  simp [Core.issuing, hp, hdeep, hpaused, hending]

/-- The step towards an instruction that the budget allows. -/
theorem Dev.surface_atWord (h : Claims.atWord d r c p w) {own : BitVec 32 → Bool} (ho : own w = true) {charge : Nat}
    (hb : charge ≤ p.budget) (f : Dev → Dev) : d.surface r c own charge f = f d := by
  obtain ⟨-, -, -, -, -, hw⟩ := id h
  simp [Dev.surface, issuing_of_atWord h, hw, ho, Nat.not_lt.2 hb]

end

/-! ### Verdicts -/

/-- DETAIL of a program's end: the code, and the index of its instruction above it (10:R240). -/
theorem progVerdict_eq {code : Nat} (h : code < 0x100) (index : Nat) : progVerdict code index =
    ⟨(progVerdict code 0).status, BitVec.ofNat 32 (code + index % 2 ^ 24 * 256), 0⟩ := by
  simp only [progVerdict, Nat.mod_eq_of_lt h]
  rfl

theorem Dev.trapProgram_ended (d : Dev) (r c : Nat) {code : Nat} (h : code < 0x100) :
    d.trapProgram r c code = Claims.ended d r c (progVerdict code 0).status code := by
  have hline : code ≠ belowLine := by unfold belowLine; omega
  simp only [Dev.trapProgram, if_neg hline]
  rw [progVerdict_eq h]
  rfl

/-- A program that stands at a word, of an instruction that only traps. -/
theorem Dev.surface_trap {d : Dev} {r c : Nat} {p : Program} {w : BitVec 32} (h : Claims.atWord d r c p w)
    {own : BitVec 32 → Bool} (ho : own w = true) (hb : 1 ≤ p.budget) {code : Nat} (hcode : code < 0x100) :
    (d.surface r c own 1 fun d => d.trapProgram r c code) = Claims.ended d r c (progVerdict code 0).status code :=
  (Dev.surface_atWord h ho hb _).trans (d.trapProgram_ended r c hcode)

/-! ### The boundary that EXIT waits for -/

theorem Core.boundary_pc {k : Core} (h : k.deep = false) : k.boundary.surface.pc = k.surface.pc := by
  have hpc := (coreBank_land k fun _ => true).2.2.2
  have hdeep : (k.land fun _ => true).deep = false := (Core.land_deep k _).trans h
  rw [coreBank, coreBank, hdeep, h] at hpc
  exact hpc

theorem Core.boundary_program {k : Core} (h : k.deep = false) :
    k.boundary.program = k.program.map fun p => { p with cycles := p.cycles + k.wait } := by
  simp [Core.boundary, h]

/-- A core that has waited for its boundary and then for one cycle more. -/
def Core.exited (k : Core) : Core := { k.boundary with
  cycle := k.boundary.cycle + 1, program := k.boundary.program.map fun p => { p with cycles := p.cycles + 1 } }

theorem Dev.boundary_stall (d : Dev) (r c : Nat) : (d.modCore r c Core.boundary).stall r c = d.modCore r c Core.exited :=
  Dev.modCore_modCore d r c _ _

end Sys2Proof.Machine

open Sys2Proof Machine Claims

theorem Sys2Proof.Claims.exitEndsProgram : Claims.ExitEndsProgram := by
  intro s r c p w h hb hdec hr hc d pc g2 g3
  obtain ⟨hserves, hdeep, hp, -, -, -⟩ := id h
  have hexit : s.dev.exitProgram r c (.exit r c) =
      if p.outLen < g2.toNat then d.trapProgram r c 0x17
      else (d.visitDeep r c (pc + 4) 0).endProgram r c ⟨0x0000, g3.extractLsb' 0 32, g2.setWidth 32⟩ := by
    have hcore : d.core r c = (s.dev.core r c).exited := Dev.core_modCore s.dev _ hr hc
    have hpc : (d.core r c).surface.pc = pc := (congrArg (·.surface.pc) hcore).trans (Core.boundary_pc hdeep)
    have hroom : ((d.core r c).program.map (·.outLen)).getD 0 = p.outLen := by
      simp [hcore, Core.exited, Core.boundary_program hdeep, hp]
    have h2 : (d.core r c).surface.read false 2 = g2 := by rw [hcore]; rfl
    have h3 : (d.core r c).surface.read false 3 = g3 := by rw [hcore]; rfl
    rw [Dev.exitProgram, if_neg (by simp [hserves]), Dev.surface_atWord h (by simp [hdec]) hb, Dev.boundary_stall]
    show (if ((d.core r c).program.map (·.outLen)).getD 0 < ((d.core r c).surface.read false 2).toNat then _ else _) = _
    rw [hroom, h2]
    split
    · rfl
    · show (d.visitDeep r c ((d.core r c).surface.pc + 4) 0).endProgram r c
        ⟨stDone, ((d.core r c).surface.read false 3).setWidth 32, ((d.core r c).surface.read false 2).setWidth 32⟩ = _
      rw [hpc, h2, h3, BitVec.setWidth_eq_extractLsb' (by decide : 32 ≤ 64)]
      rfl
  refine ⟨fun hfit => leaves_of rfl (hexit.trans (if_neg (Nat.not_lt.2 hfit))), fun hfit => leaves_of rfl ?_⟩
  exact (hexit.trans (if_pos hfit)).trans (Dev.trapProgram_ended d r c (by decide))

theorem Sys2Proof.Claims.programEnds : Claims.ProgramEnds := by
  intro s r c p w hc h d keade ends
  obtain ⟨hserves, hdeep, hp, -, -, hw⟩ := id h
  have hkeade : keade → d.keadeRuns r = true := fun ⟨hpower, hrun⟩ => by
    simp [Dev.keadeRuns, d, hserves, hpower, hrun]
  have trap : ∀ {own : BitVec 32 → Bool} {code : Nat}, own w = true → 1 ≤ p.budget → code < 0x100 →
      (d.surface r c own 1 fun d => d.trapProgram r c code) = ends (progVerdict code 0).status code :=
    fun ho hb hcode => Dev.surface_trap h ho hb hcode
  refine ⟨fun hb => ⟨fun k hk hdec => ?descend, fun hdec => ?ascend, fun op hmajor => ?privileged,
    fun slot rd ra rb k hdec => ?custom, fun hk hres => ?reserved⟩, fun hlow => ?budget⟩
  case descend =>
    refine leaves_of rfl (Eq.trans ?_ (trap (own := fun w => Lamad.decode r c w == some (.descend r c k)) (code := 0x23)
      (by simp [hdec]) hb (by decide)))
    simp [Dev.descend, hkeade hk, hc, hdeep, hp, d]
  case ascend =>
    refine leaves_of rfl (Eq.trans ?_ (trap (own := fun w => Lamad.decode r c w == some (.ascend r c)) (code := 0x21)
      (by simp [hdec]) hb (by decide)))
    simp [Dev.ascend, hserves, hc, hdeep, d]
  case privileged =>
    refine leaves_of rfl (Eq.trans ?_ (trap (own := Lamad.isPrivileged) (code := 0x21) (by simp [Lamad.isPrivileged, hmajor]) hb
      (by decide)))
    simp [Dev.privileged, hserves, hc, hdeep, d]
  case custom =>
    refine leaves_of rfl (Eq.trans ?_ (trap (own := fun w => Lamad.decode r c w == some (.customX r c slot rd ra rb k))
      (code := 0x22) (by simp [hdec]) hb (by decide)))
    simp [Dev.custom, hserves, hc, hdeep, d]
  case reserved =>
    refine leaves_of rfl (Eq.trans ?_ (trap (own := reservedWord r c) (code := 0x20) hres hb (by decide)))
    simp [Dev.reservedTrap, hkeade hk, hdeep, d]
  case budget =>
    refine leaves_of rfl ?_
    simp only [Dev.budgetEnd, issuing_of_atWord h, hw, Option.bind_some]
    rw [if_pos hlow]
    rfl

/-- Settles O9: EXIT, and each refusal that ends a program. -/
theorem Sys2Proof.programsEnd : Obligations.ProgramsEnd := ⟨Claims.exitEndsProgram, Claims.programEnds⟩

end

section
/-! ## The requests of a program (10:R249, R251, log 20) -/

namespace Sys2Proof.Machine

/-! ### Instructions that do something beside their core -/

section
variable {d : Dev} {r c : Nat} {i : Instr} {sem : Lam → Except Nat Lam}

/-- An instruction that completes, is no load, and after which `post` follows. -/
theorem Dev.issue_post (h : issues d r c i) {k : Core} {m : List Host.Cell} {dst : List Phys} {npc : W64} {extra charge : Nat}
    (hs : sem ((d.codeFetch r c).lam r c).ready = .ok { ((d.codeFetch r c).lam r c).ready with
      core := k, sram := m, wrote := dst, npc := npc, extra := extra, charge := charge }) (post : Dev → Dev) :
    d.issue r c i sem post =
      (post (placed d r c (settle k id dst npc (1 + extra)) charge m d.draws)).takeDue r c := by
  refine (Dev.issue_ok h hs post).trans (congrArg (fun x => (post x).takeDue r c) ?_)
  show placed d r c _ _ _ _ = _
  rw [Lam.retire_core]
  simp [Lam.ready, Dev.lam]
  rfl

/-- An instruction whose result is one register, and after which `post` follows. -/
theorem Dev.issue_set_post (h : issues d r c i) {rd : BitVec 6} {v : W64}
    (hs : sem ((d.codeFetch r c).lam r c).ready = .ok (((d.codeFetch r c).lam r c).ready.set rd v)) (post : Dev → Dev) :
    d.issue r c i sem post =
      (post (placed d r c (writtenCore (found d r c) rd v none) 1 (d.ridge r).sram d.draws)).takeDue r c := by
  rw [Lam.set_eq] at hs
  rw [Dev.issue_post (extra := 0) (charge := 1) h (hs.trans rfl) post]
  rw [← d.codeFetch_sram r c, writtenCore, ← settle_modBank (found d r c)]
  rfl

end

/-! ### JSUB's plan -/

/-- A failed step of a chain of steps is the first or the rest of it. -/
theorem bind_eq_error {ε α β : Type} {x : Except ε α} {f : α → Except ε β} {e : ε} (h : x.bind f = .error e) :
    x = .error e ∨ ∃ a, x = .ok a ∧ f a = .error e := by
  cases x with
  | error e' =>
    cases h
    exact .inl rfl
  | ok a => exact .inr ⟨a, rfl, h⟩

/-- A code with which JSUB's reading of its block and buffers traps, and not for the waterline. -/
def PlanCode (e : Nat) : Prop := (5 ≤ e ∧ e < 0x20) ∨ e = belowLine

theorem Lam.reach_error {x : Lam} {a n e : Nat} (h : x.reach a n = .error e) : PlanCode e := by
  rw [Lam.reach] at h
  split_ifs at h
  · exact .inr (Except.error.inj h).symm
  · exact .inl (Except.error.inj h ▸ by decide)

theorem Lam.loadElem_error {x : Lam} {g : Seg} {i e : Nat} (h : x.loadElem g i = .error e) : PlanCode e := by
  rcases bind_eq_error h with haddr | ⟨a, -, h⟩
  · rcases Seg.addr_error haddr with rfl | ⟨rfl, -⟩ <;> exact .inl (by decide)
  · rcases bind_eq_error h with hreach | ⟨_, -, h⟩
    · exact Lam.reach_error hreach
    · nomatch h

theorem Lam.block_error {x : Lam} {g : Seg} {i e : Nat} (h : x.block g i = .error e) : PlanCode e := by
  have hfold : ∀ (l : List Nat) (bs : List Byte), l.foldlM (m := Except Nat) (fun bs k => do
      let v ← x.loadElem g (i + k)
      return bs ++ leBytes 8 v) bs = .error e → PlanCode e := by
    intro l
    induction l with
    | nil =>
      intro bs h
      cases h
    | cons k l ih =>
      intro bs h
      rw [List.foldlM_cons] at h
      rcases bind_eq_error h with hk | ⟨bs', -, h⟩
      · rcases bind_eq_error hk with hload | ⟨_, -, hpure⟩
        · exact Lam.loadElem_error hload
        · cases hpure
      · exact ih bs' h
  rw [Lam.block] at h
  split at h
  · exact .inl (Except.error.inj h ▸ by decide)
  · exact hfold _ _ h

theorem Lam.buffer_error {x : Lam} {sel off len e : Nat} {store : Bool} (h : x.buffer sel off len store = .error e) :
    PlanCode e := by
  unfold Lam.buffer at h
  dsimp only at h
  split_ifs at h
  · exact .inl (Except.error.inj h ▸ by decide)
  · rcases bind_eq_error h with hreach | ⟨_, -, h⟩
    · exact Lam.reach_error hreach
    · nomatch h

theorem Dev.jsubPlan_error {d : Dev} {r c : Nat} {ra : BitVec 6} {sel : BitVec 3} {e : Nat}
    (h : d.jsubPlan r c ra sel = .error e) : PlanCode e := by
  unfold Dev.jsubPlan at h
  dsimp only at h
  split at h
  · nomatch h
  · rcases bind_eq_error h with hb | ⟨b, -, h⟩
    · exact Lam.block_error hb
    rcases bind_eq_error h with hb | ⟨inp, -, h⟩
    · exact Lam.buffer_error hb
    rcases bind_eq_error h with hb | ⟨out, -, h⟩
    · exact Lam.buffer_error hb
    rcases bind_eq_error h with hb | ⟨aux, -, h⟩
    · exact Lam.buffer_error hb
    · nomatch h

/-- A plan that submits has a free ticket, and its number is what rd takes. -/
theorem Dev.jsubPlan_ticket {d : Dev} {r c : Nat} {ra : BitVec 6} {sel : BitVec 3} {q : Submit}
    (h : d.jsubPlan r c ra sel = .ok q) {x : Desc} (hx : q.desc = some x) :
    (d.core r c).program.bind Program.freeTicket = some q.ticket ∧ q.value = BitVec.ofNat 64 q.ticket := by
  unfold Dev.jsubPlan at h
  dsimp only at h
  rw [Core.landDue_deep, Core.landDue_program] at h
  cases hdeep : (d.core r c).deep with
  | true =>
    rw [hdeep, if_pos rfl] at h
    cases h
    nomatch hx
  | false =>
    rw [hdeep, if_neg (by decide)] at h
    cases ht : (d.core r c).program.bind Program.freeTicket with
    | none =>
      rw [ht] at h
      cases h
      nomatch hx
    | some t =>
      rw [ht] at h
      obtain ⟨b, -, h⟩ := ok_of_bind h
      obtain ⟨inp, -, h⟩ := ok_of_bind h
      obtain ⟨out, -, h⟩ := ok_of_bind h
      obtain ⟨aux, -, h⟩ := ok_of_bind h
      cases h
      exact ⟨rfl, rfl⟩

/-- No plan submits without a program that holds a free ticket. -/
theorem Dev.jsubPlan_none {d : Dev} {r c : Nat} (ra : BitVec 6) (sel : BitVec 3)
    (h : (d.core r c).deep = true ∨ (d.core r c).program.bind Program.freeTicket = none) :
    d.jsubPlan r c ra sel = .ok ⟨BitVec.allOnes 64, none, 0, ⟨0, 0, 0, false, 0⟩, 0, [], []⟩ := by
  unfold Dev.jsubPlan
  dsimp only
  rw [Core.landDue_deep, Core.landDue_program]
  have hnone : (if (d.core r c).deep = true then none else (d.core r c).program.bind Program.freeTicket) = none := by
    rcases h with h | h <;> simp [h]
  rw [hnone]

theorem Dev.submit_none (d : Dev) (r c : Nat) {q : Submit} (h : q.desc = none) : d.submit r c q = d := by
  rw [Dev.submit, h]

/-- The ticket of a request that the dispatcher refuses with BAD_OPCODE. -/
def Submit.refused (q : Submit) (job : Nat) (x : Desc) : Ticket :=
  ⟨job, q.block, q.index, x.outAddr.toNat, some (0x0102, 4, 0, 0), true⟩

/-- A request of an opcode that a request may not use: its ticket holds the refusal at once. -/
theorem Dev.submit_refused {d : Dev} {r c : Nat} {q : Submit} {x : Desc} {p : Program} {pj : JobRec} (hx : q.desc = some x)
    (hp : (d.core r c).program = some p) (hj : d.job? p.job = some pj) (hop : requestOp x.op = false) :
    d.submit r c q = d.modProgram r c fun p => { p with
      tickets := p.tickets.set q.ticket (some (q.refused d.nextJob x)) } := by
  have hfault : ∀ (d : Dev) (s : Nat), d.requestFault s x = some ⟨0x0102, 4, 0⟩ := fun d s => by
    simp [Dev.requestFault, hop, stBadOpcode]
  rw [Dev.submit, hx, hp]
  dsimp only
  rw [hj]
  dsimp only
  rw [hfault]
  refine (Dev.modCore_modCore d r c _ _).trans ?_
  simp only [Option.map_map, Function.comp_def, List.set_set]
  rfl

/-! ### The core that an instruction has left -/

theorem Dev.length_codeFetch (d : Dev) (r c : Nat) : (d.codeFetch r c).ridges.length = d.ridges.length :=
  Dev.length_modRidge d r _

theorem Dev.length_cores_codeFetch (d : Dev) (r c : Nat) :
    ((d.codeFetch r c).ridge r).cores.length = (d.ridge r).cores.length := by
  rcases Nat.lt_or_ge r d.ridges.length with hr | hr
  · rw [Dev.codeFetch, Dev.modCore, Dev.ridge_modRidge_self d r _ hr, List.length_modify]
  · simp [Dev.codeFetch, Dev.modCore, Dev.ridge, Dev.modRidge, List.getD, hr]

section
variable {d : Dev} {r c : Nat} (k : Core) (charge : Nat) (m : List Host.Cell) (draws : Nat)

theorem length_placed : (placed d r c k charge m draws).ridges.length = d.ridges.length :=
  (Dev.length_modRidge (d.codeFetch r c) r _).trans (d.length_codeFetch r c)

theorem cores_placed (hr : r < d.ridges.length) : ((placed d r c k charge m draws).ridge r).cores =
    ((d.codeFetch r c).ridge r).cores.set c { k with program := ((d.codeFetch r c).core r c).charged charge k.cycle } := by
  rw [← Dev.length_codeFetch d r c] at hr
  exact congrArg (·.cores) (Dev.ridge_modRidge_self (d.codeFetch r c) r _ hr)

theorem core_placed (hr : r < d.ridges.length) (hc : c < (d.ridge r).cores.length) :
    (placed d r c k charge m draws).core r c =
      { k with program := ((d.codeFetch r c).core r c).charged charge k.cycle } := by
  rw [← Dev.length_cores_codeFetch d r c] at hc
  rw [Dev.core, cores_placed k charge m draws hr]
  simp [List.getD, hc]

end

/-! ### Tickets -/

theorem Core.land_icache (k : Core) (c : Cache) (p : Pend → Bool) :
    ({ k with icache := c } : Core).land p = { k.land p with icache := c } := by
  have hfold : ∀ (l : List Pend) (k : Core),
      l.foldl (fun k e => k.modBank fun b => b.put e.value e.dst) { k with icache := c } =
        { l.foldl (fun k e => k.modBank fun b => b.put e.value e.dst) k with icache := c } := by
    intro l
    induction l with
    | nil => intro k; rfl
    | cons e l ih =>
      intro k
      rw [List.foldl_cons, List.foldl_cons, ← ih]
      congr 1
      unfold Core.modBank
      split <;> rfl
  exact hfold (k.pend.filter p) { k with pend := k.pend.filter fun e => !p e }

/-- The fetch of an instruction changes no register. -/
theorem operand_eq (d : Dev) (r c : Nat) (n : BitVec 6) :
    Claims.operand d r c n = (coreBank (d.core r c).landDue).read (d.core r c).landDue.deep n := by
  obtain ⟨i, h⟩ := d.codeFetch_core r c
  rw [Claims.operand, found, h, Core.landDue, Core.land_icache]
  rfl

/-- What JWAIT and JPOLL of a program learn of the ticket that a register names. -/
def Dev.answer (d : Dev) (r c : Nat) (n : BitVec 6) : Answer := (d.core r c).landDue.answer (Claims.operand d r c n)

section
variable {d : Dev} {r c : Nat} {n : BitVec 6}

theorem Dev.ticket_eq (hdeep : (d.core r c).deep = false) :
    (if (d.core r c).landDue.deep then none
      else (d.core r c).landDue.program.bind fun p => (p.tickets[(Claims.operand d r c n).toNat]?).join) =
    Claims.ticketOf d r c n := by
  rw [Core.landDue_deep, Core.landDue_program, hdeep, if_neg (by decide), Claims.ticketOf.eq_def]
  cases (d.core r c).program <;> rfl

theorem Dev.answer_bad (hdeep : (d.core r c).deep = false) (ht : Claims.ticketOf d r c n = none) : d.answer r c n = .bad := by
  rw [Dev.answer, Core.answer, Dev.ticket_eq hdeep, ht]

theorem Dev.answer_running (hdeep : (d.core r c).deep = false) {t : Ticket} (ht : Claims.ticketOf d r c n = some t)
    (hrun : t.ended = none ∨ t.delivered = false) : d.answer r c n = .running := by
  rw [Dev.answer, Core.answer, Dev.ticket_eq hdeep, ht]
  cases he : t.ended with
  | none => simp [he]
  | some o => simp [he, hrun.resolve_left (by simp [he])]

theorem Dev.answer_ended (hdeep : (d.core r c).deep = false) {t : Ticket} (ht : Claims.ticketOf d r c n = some t)
    {st : BitVec 16} {de wr : BitVec 32} {h : W64} (he : t.ended = some (st, de, wr, h)) (hdel : t.delivered = true) :
    d.answer r c n = .ended t st de wr h := by
  rw [Dev.answer, Core.answer, Dev.ticket_eq hdeep, ht]
  simp [he, hdel]

theorem Dev.operand_lam : ({ d.lam r c with core := (d.core r c).landDue } : Lam).r n = Claims.operand d r c n :=
  (operand_eq d r c n).symm

theorem Dev.jwait_bad {i : Instr} {rd : BitVec 6} {poll : Bool} (h : d.answer r c n = .bad) : d.jwait r c i rd n poll =
    d.issue r c i fun x => .ok (x.set rd (BitVec.ofNat 64 (0x0301 * 2 ^ 32 + 1))) := by
  rw [Dev.answer] at h
  rw [Dev.jwait]
  dsimp only
  rw [Dev.operand_lam, h]

theorem Dev.jwait_running {i : Instr} {rd : BitVec 6} {poll : Bool} (h : d.answer r c n = .running) :
    d.jwait r c i rd n poll =
      if poll then d.issue r c i fun x => .ok (x.set rd (BitVec.allOnes 64))
      else if !d.serves r then d
      else d.surface r c (fun w => Lamad.decode r c w == some i && !(Lamad.namesReserved i)) 1 fun d =>
        (d.stall r c).takeDue r c := by
  rw [Dev.answer] at h
  rw [Dev.jwait]
  dsimp only
  rw [Dev.operand_lam, h]

theorem Dev.jwait_ended {i : Instr} {rd : BitVec 6} {poll : Bool} {t : Ticket} {st : BitVec 16} {de wr : BitVec 32} {hd : W64}
    (h : d.answer r c n = .ended t st de wr hd) : d.jwait r c i rd n poll =
    d.issue r c i (fun x => x.answer rd t st de wr hd) fun e => e.freeTicket r c (Claims.operand d r c n) := by
  rw [Dev.answer] at h
  rw [Dev.jwait]
  dsimp only
  rw [Dev.operand_lam, h]

end

/-- A store of eight bytes. -/
theorem Lam.storeElem_word {x : Lam} {c : Nat} (hw : x.whole = (c == 0 || x.core.flush)) {g : Seg} {i a : Nat} (v : Nat)
    (hsize : g.size = 8) (ha : g.addr i true = .ok a) (hr : x.reach a 8 = .ok ()) : x.storeElem g i v =
      .ok { x with core := touched c x.core true a, sram := memPut x.sram a (leBytes 8 v) } := by
  rw [Lam.storeElem_ok v ha (hsize.symm ▸ hr), Lam.touch_eq hw, hsize]

/-- The outcome of a request is stored in its block, and its status written to rd. -/
theorem Lam.answer_ok {x : Lam} {c : Nat} (hw : x.whole = (c == 0 || x.core.flush)) (hwrote : x.wrote = []) {t : Ticket}
    {a b : Nat} (hsize : t.block.size = 8) (ha : t.block.addr (t.index + 6) true = .ok a)
    (hb : t.block.addr (t.index + 7) true = .ok b) (hra : x.reach a 8 = .ok ()) (hrb : x.reach b 8 = .ok ()) (rd : BitVec 6)
    (st : BitVec 16) (de wr : BitVec 32) (h : W64) : x.answer rd t st de wr h = .ok { x with
      core := (touched c (touched c x.core true a) true b).modBank fun b =>
        writeReg b rd (BitVec.ofNat 64 (st.toNat * 2 ^ 32 + de.toNat))
      sram := memPut (memPut x.sram a (leBytes 8 (st.toNat + wr.toNat * 2 ^ 32))) b (leBytes 8 h.toNat)
      wrote := ((coreBank x.core).phys rd).toList } := by
  have h7 := Lam.storeElem_word (x := { x with
    core := touched c x.core true a, sram := memPut x.sram a (leBytes 8 (st.toNat + wr.toNat * 2 ^ 32)) }) hw h.toNat hsize hb
    hrb
  rw [Lam.answer, Lam.storeElem_word hw _ hsize ha hra]
  show (Lam.storeElem _ _ _ _).bind _ = _
  rw [h7]
  show Except.ok (Lam.set _ rd _) = _
  rw [Lam.set_eq, hwrote, List.append_nil]
  rfl

theorem Dev.issue_answer {d : Dev} {r c : Nat} {i : Instr} (h : issues d r c i) {t : Ticket} {a b : Nat}
    (hsize : t.block.size = 8) (ha : t.block.addr (t.index + 6) true = .ok a)
    (hb : t.block.addr (t.index + 7) true = .ok b) (hsa : Claims.sideOk d r c a 8) (hsb : Claims.sideOk d r c b 8)
    (rd : BitVec 6) (st : BitVec 16) (de wr : BitVec 32) (hd : W64) (post : Dev → Dev) :
    d.issue r c i (fun x => x.answer rd t st de wr hd) post = (post (placed d r c
      (settle (touched c (touched c (found d r c) true a) true b)
        (fun b => writeReg b rd (BitVec.ofNat 64 (st.toNat * 2 ^ 32 + de.toNat))) ((coreBank (found d r c)).phys rd).toList
        ((coreBank (found d r c)).pc + 4) 1) 1
      (memPut (memPut (d.ridge r).sram a (leBytes 8 (st.toNat + wr.toNat * 2 ^ 32))) b (leBytes 8 hd.toNat)) d.draws)).takeDue
        r c := by
  have hanswer := Lam.answer_ok (Lam.ready_whole d r c) rfl hsize ha hb (Lam.reach_ready hsa) (Lam.reach_ready hsb) rd st de wr hd
  rw [Lam.ready_sram] at hanswer
  rw [← settle_modBank]
  exact Dev.issue_post (sem := fun x => x.answer rd t st de wr hd) (extra := 0) (charge := 1) h (hanswer.trans rfl) post

/-- A program that can issue an instruction stands at its word. -/
theorem atWord_of_issues {d : Dev} {r c : Nat} {i : Instr} (h : issues d r c i) (hdeep : (d.core r c).deep = false) :
    ∃ p w, Claims.atWord d r c p w ∧ Lamad.decode r c w = some i ∧ (d.core r c).surface.chargeOf i ≤ p.budget := by
  obtain ⟨hs, -, -, ⟨hd, -⟩ | ⟨-, p, w, hp, hpaused, hending, hw, hdec, hb⟩⟩ := h
  · exact absurd (hd.symm.trans hdeep) (by decide)
  · exact ⟨p, w, ⟨hs, hdeep, hp, hpaused, hending, hw⟩, hdec, hb⟩

end Sys2Proof.Machine

open Sys2Proof Machine Claims

theorem Sys2Proof.Claims.jsubSubmits : Claims.JsubSubmits := by
  intro s r c rd ra sel h d ok
  have hexec : ∀ q, d.jsubPlan r c ra sel = .ok q →
      exec (.jsub r c rd ra sel) s = .next ⟨s.pending, ((ok q).takeDue r c)⟩ := by
    intro q hq
    have hrun : exec (.jsub r c rd ra sel) s = .next ⟨s.pending, d.issue r c (.jsub r c rd ra sel)
        (fun x => .ok (x.set rd q.value)) fun d => d.submit r c q⟩ := by
      show execJsub r c rd ra sel s = _
      simp only [execJsub, State.upd]
      rw [show s.dev.jsubPlan r c ra sel = .ok q from hq]
    rw [hrun, Dev.issue_set_post (sem := fun x => .ok (x.set rd q.value)) h rfl]
  refine ⟨fun hnone => ?none, fun q x hq hx => ⟨hexec q hq, ?submits⟩, fun code herr hdeep hcode => ?traps⟩
  case none =>
    have hplan : (d.core r c).deep = true ∨ (d.core r c).program.bind Program.freeTicket = none :=
      hnone.imp_right fun hfull => by
        obtain ⟨p, hp, hall⟩ := hfull
        rw [hp]
        exact List.findIdx?_eq_none_iff.2 fun t ht => by simp [hall t ht]
    exact leaves_of (hexec _ (Dev.jsubPlan_none ra sel hplan)) (congrArg (Dev.takeDue · r c) (Dev.submit_none _ r c rfl))
  case submits =>
    intro p pj hp hdeep hj hcores hr
    obtain ⟨ht, hv⟩ := Dev.jsubPlan_ticket hq hx
    rw [hp] at ht
    obtain ⟨hlt, hfree, -⟩ := List.findIdx?_eq_some_iff_getElem.1 ht
    refine ⟨hlt, ?_, hv, fun hop => ?_⟩
    · rw [List.getElem?_eq_getElem hlt]
      simpa using hfree
    · obtain ⟨-, hc, -⟩ := id h
      have hlen : c < (d.ridge r).cores.length := hcores ▸ hc
      have hprog := congrArg (·.program)
        (core_placed (writtenCore (found d r c) rd q.value none) 1 (d.ridge r).sram d.draws hr hlen)
      simp only [Core.charged, d.codeFetch_deep, d.codeFetch_program, hdeep, hp, Bool.false_eq_true, if_false,
        Option.map_some] at hprog
      rw [show ok q = _ from Dev.submit_refused hx hprog hj hop, Dev.modProgram, Dev.core_modCore _ _ (by rwa [length_placed])
        (by rwa [cores_placed _ _ _ _ hr, List.length_set, d.length_cores_codeFetch]), hprog]
      simp only [Option.map_some, Option.bind_some, List.getElem?_set_self hlt, Option.join_some]
      rfl
  case traps =>
    have hrun : exec (.jsub r c rd ra sel) s =
        .next ⟨s.pending, d.issue r c (.jsub r c rd ra sel) fun _ => .error code⟩ := by
      show execJsub r c rd ra sel s = _
      simp only [execJsub, State.upd]
      rw [show s.dev.jsubPlan r c ra sel = .error code from herr]
    obtain ⟨hlo, hhi⟩ := (Dev.jsubPlan_error herr).resolve_right hcode
    have hstops := leaves_stops h hrun rfl hlo hhi
    rwa [stops, if_neg (hdeep ▸ Bool.false_ne_true)] at hstops

theorem Sys2Proof.Claims.ticketsAnswer : Claims.TicketsAnswer := by
  intro s r c rd ra i poll hi h hdeep d k
  have hexec : exec i s = .next ⟨s.pending, d.jwait r c i rd ra poll⟩ := by
    subst hi
    cases poll <;> rfl
  refine ⟨fun hnone => ?bad, fun t ht hrun => ⟨fun hpoll => ?polls, fun hpoll => ?stalls⟩,
    fun t st de wr hd a b ht hend hdel hsize ha hb hsa hsb => ?ended⟩
  case bad => exact leaves_set h (hexec.trans (by rw [Dev.jwait_bad (Dev.answer_bad hdeep hnone)])) rfl
  case polls =>
    subst hpoll
    exact leaves_set h (hexec.trans (by rw [Dev.jwait_running (Dev.answer_running hdeep ht hrun), if_pos rfl])) rfl
  case stalls =>
    obtain ⟨p, w, hword, hdec, hb⟩ := atWord_of_issues h hdeep
    have hcharge : (s.dev.core r c).surface.chargeOf i = 1 := by
      rw [hi, hpoll]
      rfl
    obtain ⟨hserves, -, hnamed, -⟩ := h
    refine leaves_of hexec ?_
    rw [Dev.jwait_running (Dev.answer_running hdeep ht hrun), hpoll, if_neg (by decide), if_neg (by simp [hserves])]
    rw [Dev.surface_atWord hword (by simp [hdec, hnamed]) (hcharge ▸ hb)]
    rfl
  case ended =>
    intro m after
    refine leaves_of hexec ?_
    rw [Dev.jwait_ended (Dev.answer_ended hdeep ht hend hdel)]
    have hblock : t.block.size = 8 := by rw [Seg.size, hsize]; rfl
    exact Dev.issue_answer h hblock ha hb hsa hsb rd st de wr hd _

/-- Settles O8: JSUB, then JWAIT and JPOLL. -/
theorem Sys2Proof.programRequests : Obligations.ProgramRequests := ⟨Claims.jsubSubmits, Claims.ticketsAnswer⟩

end

section
/-! ## The start of a tenant program (10:R240, R246 to R248, R254, 11:R260) -/

namespace Sys2Proof.Machine

/-! ### The checks of an image -/

theorem Dev.imageFault_header {d : Dev} {m : Nat} {b : List Byte} (h : headerOk b = false) : d.imageFault m b = some 1 := by
  rw [Dev.imageFault, h]
  rfl

/-- The codes of the checks (10:Table 10.5). -/
theorem Dev.imageFault_code {d : Dev} {m : Nat} {b : List Byte} {code : Nat} (h : d.imageFault m b = some code) :
    code = 1 ∨ code = 2 ∨ code = 3 ∨ code = 5 := by
  unfold Dev.imageFault at h
  dsimp only at h
  split at h
  · exact .inl (Option.some.inj h).symm
  split at h
  · exact .inr (.inl (Option.some.inj h).symm)
  split_ifs at h
  · exact .inr (.inr (.inl (Option.some.inj h).symm))
  · exact .inr (.inr (.inr (Option.some.inj h).symm))

theorem progVerdict_fault {code : Nat} (h : code = 1 ∨ code = 2 ∨ code = 3 ∨ code = 5) :
    progVerdict code 0 = ⟨if code < 4 then 0x0604 else 0x0601, BitVec.ofNat 32 code, 0⟩ := by
  rcases h with rfl | rfl | rfl | rfl <;> rfl

/-! ### Staging, and the job area -/

/-- An image has a copy of its own in the job area where it has no place in the program cache. -/
theorem own_eq (place : Option Nat) (n : Nat) : (match place with
    | some _ => 0
    | none => n) = if place = none then n else 0 := by
  cases place <;> rfl

section
variable (d : Dev) (r c : Nat) (j : JobRec) (i : Image) (image inp : List Byte)

/-- Steps 4 to 6 of 10:R246: the staging window, then the job area. -/
def Dev.stageProgram (place : Option Nat) : Dev :=
  match d.stage r j.job.seam i.staging with
  | none => d.finish j.num (progVerdict 0x04 0) false
  | some (d, a) => d.startProgram r c j i image inp a place

/-- Steps 2 to 6 of 10:R246, by what the cache holds. -/
theorem Dev.loadProgram_hit {i : Image} {a : Nat}
    (h : (d.purgePrograms j.job.seam).hitImage r j.job.seam (Container.ofBytes image).image.digest = some (i, a)) :
    d.loadProgram r c j image inp =
      ((d.purgePrograms j.job.seam).touchImage r j.job.seam i.digest).stageProgram r c j i image inp (some a) := by
  rw [Dev.loadProgram]
  dsimp only
  rw [h]
  rfl

theorem Dev.loadProgram_miss
    (h : (d.purgePrograms j.job.seam).hitImage r j.job.seam (Container.ofBytes image).image.digest = none) :
    d.loadProgram r c j image inp =
      if ((d.purgePrograms j.job.seam).ridge r).world.restarting then
        (d.purgePrograms j.job.seam).finish j.num ⟨0x0706, 0, 0⟩ false
      else match (d.purgePrograms j.job.seam).imageFault j.job.seam image with
        | some code => (d.purgePrograms j.job.seam).finish j.num (progVerdict code 0) false
        | none =>
          ((d.purgePrograms j.job.seam).cacheImage r j.job.seam (Container.ofBytes image).image image).1.stageProgram r c j
            (Container.ofBytes image).image image inp
            ((d.purgePrograms j.job.seam).cacheImage r j.job.seam (Container.ofBytes image).image image).2 := by
  rw [Dev.loadProgram]
  dsimp only
  rw [h]
  rfl

end

end Sys2Proof.Machine

open Sys2Proof Machine Claims

/-- Settles O32, by what the cache holds, then step by step from the staging window on. -/
theorem Sys2Proof.programsStart : Obligations.ProgramsStart := by
  intro s r c j image inp hlo hhi hj d m x run ends own hit starts
  have hrun : exec (.runProgram r c) s = .next ⟨s.pending, s.dev.loadProgram r c j image inp⟩ := by
    show execRunProgram r c s = _
    simp only [execRunProgram, State.upd]
    rw [if_pos ⟨hlo, hhi⟩, hj]
  have hstart : ∀ e i place, s.dev.loadProgram r c j image inp = e.stageProgram r c j i image inp place → starts e i place := by
    intro e i place hload
    refine ⟨fun hnone => leaves_of hrun (hload.trans ?small), fun f base hstage => ?staged⟩
    case small => rw [Dev.stageProgram, hnone]; rfl
    case staged =>
      have hprog : s.dev.loadProgram r c j image inp = f.startProgram r c j i image inp base place :=
        hload.trans (by rw [Dev.stageProgram, hstage])
      intro out kept n
      refine ⟨fun halloc => leaves_of hrun (hprog.trans ?_), fun a halloc => ?_⟩
      · unfold Dev.startProgram
        extract_lets outLen own n'
        have hn : n' = n := congrArg (inp.length + out + i.spill + ·) (own_eq place image.length)
        rw [hn, halloc]
      · intro spill at' data segs
        refine ⟨fun hlow => leaves_of hrun (hprog.trans ?low), fun hline hsegs => leaves_of hrun (hprog.trans ?unfit),
          fun table hline hsegs => leaves_of hrun (hprog.trans ?starts)⟩
        all_goals
          unfold Dev.startProgram
          extract_lets outLen own n'
          have hn : n' = n := congrArg (inp.length + out + i.spill + ·) (own_eq place image.length)
          have hplace : (placeSegs i.segs fun e => e.place a inp.length (a + inp.length) outLen base
            (place.getD (a + inp.length + outLen + i.spill) + i.dataAt)) = segs := rfl
          rw [hn, halloc]
          dsimp only
        case low => exact if_pos hlow
        case unfit =>
          rw [if_neg (Nat.not_lt.2 hline), hplace, hsegs]
          rfl
        case starts =>
          rw [if_neg (Nat.not_lt.2 hline), hplace, hsegs]
          dsimp only
          rw [show own = kept from own_eq place image.length]
          rfl
  refine ⟨fun h => Dev.imageFault_header h, fun hmiss hrest => ?restarting, fun hmiss hrest code hfault => ?faulty,
    fun hmiss hrest hok => hstart _ _ _ ?loaded, fun i a hhit => hstart _ _ _ (Dev.loadProgram_hit _ _ _ _ _ _ hhit)⟩
  case restarting => exact leaves_of hrun ((Dev.loadProgram_miss _ _ _ _ _ _ hmiss).trans (if_pos hrest))
  case faulty =>
    refine leaves_of hrun ((Dev.loadProgram_miss _ _ _ _ _ _ hmiss).trans ?_)
    rw [if_neg (by rw [hrest]; decide), hfault]
    exact congrArg (d.finish j.num · false) (progVerdict_fault (Dev.imageFault_code hfault))
  case loaded =>
    refine (Dev.loadProgram_miss _ _ _ _ _ _ hmiss).trans ?_
    rw [if_neg (by rw [hrest]; decide), hok]
end

section
/-! ## The tamper response and the Surface banks (10:R235, R239, 11:R260, 13:R298, R304 to R306)

A failed access is reported with the pc of its program. The response to fault injection ends jobs, programs and commands and wipes
engines and stores, but writes no Surface register. -/

namespace Sys2Proof.Machine

/-- The Surface banks of every core of every ridge. -/
def surfaces (l : List Ridge) : List (List Bank) := l.map fun x => x.cores.map (·.surface)

theorem surfaces_modify {f : Ridge → Ridge} (h : ∀ x, (f x).cores.map (·.surface) = x.cores.map (·.surface)) (l : List Ridge)
    (r : Nat) : surfaces (l.modify r f) = surfaces l := map_modify_of_same h l r

theorem surface_of_surfaces {d e : Dev} (h : surfaces d.ridges = surfaces e.ridges) (r c : Nat) :
    (d.core r c).surface = (e.core r c).surface := by
  have hcore : ∀ d : Dev, (d.core r c).surface =
      ((surfaces d.ridges).getD r (Ridge.reset.cores.map (·.surface))).getD c Core.reset.surface := fun d => by
    rw [surfaces, List.getD_map, List.getD_map]
    rfl
  rw [hcore, hcore, h]

/-! ### Changes of a device -/

section
variable (d : Dev)

theorem modRidge_surfaces {f : Ridge → Ridge} (r : Nat)
    (h : ∀ x, (f x).cores.map (·.surface) = x.cores.map (·.surface) := by exact fun _ => rfl) :
    surfaces (d.modRidge r f).ridges = surfaces d.ridges := surfaces_modify h _ r

theorem modRidges_surfaces {f : Ridge → Ridge}
    (h : ∀ x, (f x).cores.map (·.surface) = x.cores.map (·.surface) := by exact fun _ => rfl) :
    surfaces (d.modRidges f).ridges = surfaces d.ridges := by
  refine List.ext_getElem (by simp [surfaces]) fun i hi hi' => ?_
  simp only [surfaces, Dev.modRidges_ridges, List.getElem_map, List.getElem_mapIdx]
  split
  · exact h _
  · rfl

theorem modCore_surfaces {f : Core → Core} (r c : Nat) (h : ∀ k, (f k).surface = k.surface := by exact fun _ => rfl) :
    surfaces (d.modCore r c f).ridges = surfaces d.ridges :=
  modRidge_surfaces d r fun x => map_modify_of_same h x.cores c

theorem modProgram_surfaces (r c : Nat) (f : Program → Program) :
    surfaces (d.modProgram r c f).ridges = surfaces d.ridges := modCore_surfaces d r c

theorem modEngine_surfaces (r b : Nat) (f : Engine → Engine) : surfaces (d.modEngine r b f).ridges = surfaces d.ridges :=
  modRidge_surfaces d r

theorem modWorld_surfaces (r : Nat) (f : World → World) : surfaces (d.modWorld r f).ridges = surfaces d.ridges :=
  modRidge_surfaces d r

theorem surfaces_of_still {d e : Dev} (h : d.still = e.still) : surfaces d.ridges = surfaces e.ridges := by
  have hstill : ∀ d : Dev, surfaces d.still.ridges = surfaces d.ridges := fun d => by
    simp [surfaces, Dev.still, Dev.quiet, Ridge.quiet]
  rw [← hstill d, ← hstill e, h]

theorem raise_surfaces (src : Option Nat) (id : Nat) (c : BitVec 2) (x : BitVec 32) (s : Option Nat) :
    surfaces (d.raise src id c x s).ridges = surfaces d.ridges :=
  surfaces_of_still (Dev.still_of_quiet (d.raise_quiet src id c x s))

theorem ridgeEvent_surfaces (r off x : Nat) (s : Option Nat) : surfaces (d.ridgeEvent r off x s).ridges = surfaces d.ridges :=
  surfaces_of_still (Dev.still_of_quiet (d.ridgeEvent_quiet r off x s))

theorem pkgEvent_surfaces (id x : Nat) (s : Option Nat) : surfaces (d.pkgEvent id x s).ridges = surfaces d.ridges :=
  surfaces_of_still (Dev.still_of_quiet (d.pkgEvent_quiet id x s))

theorem eraseEntries_surfaces (p : Entry → Bool) : surfaces (d.eraseEntries p).ridges = surfaces d.ridges :=
  modRidges_surfaces d

theorem spineSend_surfaces (src dst : Nat) : surfaces (d.spineSend src dst).ridges = surfaces d.ridges := by
  unfold Dev.spineSend
  split
  · rfl
  · exact modRidge_surfaces d src

theorem send_ridges (l : Lk) (w : HostWrite) : (d.send l w).ridges = d.ridges := d.modLink_ridges l _

/-! ### Engines, claims and the entries of a job -/

theorem modEng_cores (x : Ridge) (b : Nat) (f : Engine → Engine) : (x.modEng b f).cores = x.cores := rfl

theorem foldl_modEng_cores (l : List Nat) (f : Engine → Engine) (x : Ridge) :
    (l.foldl (fun x c => x.modEng c f) x).cores = x.cores := by
  induction l generalizing x with
  | nil => rfl
  | cons c l ih => exact ih _

theorem start_cores (x : Ridge) (b n : Nat) (m : OpRam) (buffer : List Byte) : (x.start b n m buffer).cores = x.cores :=
  foldl_modEng_cores _ _ _

theorem wipe_cores (x : Ridge) (b n : Nat) : (x.wipe b n).cores = x.cores := by
  unfold Ridge.wipe
  dsimp only
  split
  · exact foldl_modEng_cores _ _ _
  · rfl

theorem borrow_surfaces (x : Ridge) (b : Nat) (v : Bool) : (x.borrow b v).cores.map (·.surface) = x.cores.map (·.surface) := by
  unfold Ridge.borrow
  split
  · rfl
  · exact map_modify_of_same (by exact fun _ => rfl) _ _

theorem startJob_surfaces (r b n : Nat) (m : OpRam) : surfaces (d.startJob r b n m).ridges = surfaces d.ridges :=
  modRidge_surfaces d r fun x => congrArg _ (start_cores x b n m _)

theorem promote_surfaces (r b : Nat) : surfaces (d.promote r b).ridges = surfaces d.ridges := by
  unfold Dev.promote
  dsimp only
  split
  · rw [startJob_surfaces, modEngine_surfaces]
  · rfl

theorem release_surfaces (r b n : Nat) : surfaces (d.release r b n).ridges = surfaces d.ridges := by
  have hwipe := modRidge_surfaces d r fun x => congrArg _ (wipe_cores x b n)
  unfold Dev.release
  dsimp only
  split
  · exact hwipe
  · rw [promote_surfaces, hwipe]

theorem endClaim_surfaces (r b : Nat) : surfaces (d.endClaim r b).ridges = surfaces d.ridges := by
  have hend : ∀ f, surfaces ((d.modWorld r f).modRidge r fun x => x.borrow b false).ridges = surfaces d.ridges := fun f =>
    (modRidge_surfaces _ r fun x => borrow_surfaces x b false).trans (modWorld_surfaces d r f)
  unfold Dev.endClaim
  dsimp only
  split_ifs
  · exact (ridgeEvent_surfaces _ _ _ _ _).trans ((modRidge_surfaces _ r).trans (hend _))
  · exact (modRidge_surfaces _ r).trans (hend _)
  · exact hend _
  · rfl

theorem freeService_surfaces (r n : Nat) : surfaces (d.freeService r n).ridges = surfaces d.ridges := by
  have hends : ∀ m, surfaces (d.endClaims r m).ridges = surfaces d.ridges := fun m =>
    foldl_same (fun d : Dev => surfaces d.ridges) (fun d b => endClaim_surfaces d r b) _ d
  unfold Dev.freeService
  dsimp only
  split
  · refine (modWorld_surfaces _ r _).trans ?_
    split
    · exact hends _
    · rfl
  · split
    · exact hends _
    · rfl

theorem releaseAll_surfaces (j : JobRec) : surfaces (d.releaseAll j).ridges = surfaces d.ridges :=
  (foldl_same (fun d : Dev => surfaces d.ridges) (fun d b => release_surfaces d j.job.ridge b j.num) _ _).trans
    (freeService_surfaces d _ _)

theorem dropJob_surfaces (j : JobRec) : surfaces (d.dropJob j).ridges = surfaces d.ridges := by
  unfold Dev.dropJob
  dsimp only
  split <;> exact releaseAll_surfaces d j

theorem eraseConsumed_surfaces (j : JobRec) : surfaces (d.eraseConsumed j).ridges = surfaces d.ridges :=
  (modRidges_surfaces _).trans (eraseEntries_surfaces d _)

theorem destroyKey_surfaces (s i : Nat) : surfaces (d.destroyKey s i).ridges = surfaces d.ridges := by
  unfold Dev.destroyKey
  split
  · exact eraseEntries_surfaces d _
  · rfl

theorem destroyKeys_surfaces (s : Nat) (is : List Nat) : surfaces (d.destroyKeys s is).ridges = surfaces d.ridges :=
  foldl_same (fun d : Dev => surfaces d.ridges) (fun d i => destroyKey_surfaces d s i) is d

theorem countEntropy_surfaces (r : Nat) (status : BitVec 16) : surfaces (d.countEntropy r status).ridges = surfaces d.ridges := by
  unfold Dev.countEntropy
  split
  · exact modRidge_surfaces d r
  · rfl

/-! ### Completions -/

theorem irq_ridges (s : Nat) (l : Lk) : (d.irq s l).ridges = d.ridges := by
  unfold Dev.irq
  dsimp only
  split
  · rfl
  · exact send_ridges d l _

theorem seamFault_surfaces (s cause : Nat) : surfaces (d.seamFault s cause).ridges = surfaces d.ridges := by
  unfold Dev.seamFault
  split
  · rw [pkgEvent_surfaces]
    rfl
  · rfl

theorem putCompletion_surfaces (s : Nat) (c : Compl) (irq : Bool) (first : Option Lk) (hold : Bool) :
    surfaces (d.putCompletion s c irq first hold).1.ridges = surfaces d.ridges := by
  have hfails : ∀ f, surfaces (((d.modRun s f).seamFault s 1).discard s).ridges = surfaces d.ridges := fun f =>
    seamFault_surfaces (d.modRun s f) s 1
  unfold Dev.putCompletion
  dsimp only
  split
  · rfl
  split
  · split
    · split
      · rw [irq_ridges, send_ridges, spineSend_surfaces]
        rfl
      · rw [send_ridges, spineSend_surfaces]
        rfl
    · exact hfails _
  · split
    · rfl
    · exact hfails _

theorem sent_surfaces (p : Dev × Sent) (s : Nat) (is : List Nat) (opcode : BitVec 16) (arrival granted ns : Nat) :
    surfaces (if p.2 = .failed then p.1.destroyKeys s is else p.1.capture s opcode arrival granted ns).ridges =
      surfaces p.1.ridges := by
  split
  · exact destroyKeys_surfaces _ _ _
  · rfl

theorem finishDesc_surfaces (j : JobRec) (v : Verdict) (keep hold : Bool) :
    surfaces (d.finishDesc j v keep hold).ridges = surfaces d.ridges := by
  unfold Dev.finishDesc
  dsimp only
  split
  · rw [eraseConsumed_surfaces, dropJob_surfaces]
    exact (destroyKeys_surfaces _ _ _).trans (countEntropy_surfaces d _ _)
  split
  · rw [eraseConsumed_surfaces, dropJob_surfaces]
    exact (destroyKeys_surfaces _ _ _).trans (countEntropy_surfaces d _ _)
  · rw [eraseConsumed_surfaces, dropJob_surfaces, sent_surfaces, putCompletion_surfaces, destroyKeys_surfaces,
      countEntropy_surfaces]

/-! ### Jobs, requests and programs that end -/

theorem freeArea_surfaces (r : Nat) (p : Program) : surfaces (d.freeArea r p).ridges = surfaces d.ridges := modRidge_surfaces d r

theorem freeWindow_surfaces (r s : Nat) : surfaces (d.freeWindow r s).ridges = surfaces d.ridges := by
  unfold Dev.freeWindow
  split
  · rfl
  · exact modRidge_surfaces d r

theorem purgePrograms_surfaces (s : Nat) : surfaces (d.purgePrograms s).ridges = surfaces d.ridges := by
  refine foldl_same (fun d : Dev => surfaces d.ridges) (fun d r => ?_) _ _
  exact modRidge_surfaces d r

theorem programOut_surfaces (j : JobRec) (v : Verdict) (bytes : List Byte) :
    surfaces (d.programOut j v bytes).1.ridges = surfaces d.ridges := by
  unfold Dev.programOut
  dsimp only
  split
  · split
    · split
      · rw [send_ridges, spineSend_surfaces]
      · rfl
    · rfl
  · rfl

theorem closeProgram_surfaces (r c : Nat) (hold : Bool) : surfaces (d.closeProgram r c hold).ridges = surfaces d.ridges := by
  have hfreed : ∀ (d : Dev) (p : Program) s, surfaces ((((d.freeArea r p).modCore r c fun k =>
      { k with program := none, pend := [] }).purgePrograms s)).ridges = surfaces d.ridges := fun d p s =>
    (purgePrograms_surfaces _ s).trans ((modCore_surfaces _ r c).trans (freeArea_surfaces d r p))
  unfold Dev.closeProgram
  split
  · rfl
  split
  · split
    · rfl
    · dsimp only
      split
      · rw [freeWindow_surfaces, finishDesc_surfaces, hfreed, programOut_surfaces]
      · rw [finishDesc_surfaces, hfreed, programOut_surfaces]
  · rfl

theorem endRequest_surfaces (j : JobRec) (pj t : Nat) (v : Verdict) (hold : Bool) :
    surfaces (d.endRequest j pj t v hold).ridges = surfaces d.ridges := by
  have hdropped : surfaces (((d.countEntropy j.job.ridge v.status).dropJob j).eraseConsumed j).ridges = surfaces d.ridges := by
    rw [eraseConsumed_surfaces, dropJob_surfaces, countEntropy_surfaces]
  unfold Dev.endRequest
  dsimp only
  split
  · rw [destroyKeys_surfaces, hdropped]
  · rw [closeProgram_surfaces, modProgram_surfaces]
    exact hdropped

theorem finish_surfaces (n : Nat) (v : Verdict) (keep hold : Bool) :
    surfaces (d.finish n v keep hold).ridges = surfaces d.ridges := by
  unfold Dev.finish
  split
  · rfl
  split
  · exact endRequest_surfaces d _ _ _ _ _
  · exact finishDesc_surfaces d _ _ _ _

theorem rollback_surfaces (j : JobRec) : surfaces (d.rollback j).ridges = surfaces d.ridges := by
  unfold Dev.rollback
  dsimp only
  split
  · rfl
  · exact eraseEntries_surfaces d _

theorem abortJob_surfaces (n : Nat) (status : BitVec 16) (hold : Bool) :
    surfaces (d.abortJob n status hold).ridges = surfaces d.ridges := by
  unfold Dev.abortJob
  split
  · rfl
  split
  · split
    · rw [closeProgram_surfaces, modProgram_surfaces]
    · exact finish_surfaces d _ _ _ _
  · refine (finish_surfaces _ _ _ _ _).trans ?_
    exact rollback_surfaces d _

theorem abortJobs_surfaces (ns : List Nat) (status : BitVec 16) (hold : Bool) :
    surfaces (d.abortJobs ns status hold).ridges = surfaces d.ridges :=
  foldl_same (fun d : Dev => surfaces d.ridges) (fun d n => abortJob_surfaces d n status hold) _ d

/-! ### Management commands that end -/

theorem vector_ridges (l : Lk) (v : Nat) : (d.vector l v).ridges = d.ridges := by
  unfold Dev.vector
  split
  · unfold Dev.msix
    dsimp only
    split
    · exact d.modLink_ridges _ _
    · exact send_ridges d _ _
  · rfl

theorem outputs_ridges (p : Prop) [Decidable p] (l : Lk) (w w' : HostWrite) :
    (Dev.send (if p then d else d.send l w) l w').ridges = d.ridges := by
  rw [send_ridges]
  split
  · rfl
  · exact send_ridges d l w

theorem mqWrite_ridges (m : MqDone) : (d.mqWrite m).ridges = d.ridges := by
  unfold Dev.mqWrite
  dsimp only
  split
  · refine (vector_ridges _ _ _).trans ?_
    exact outputs_ridges d _ _ _ _
  · exact outputs_ridges d _ _ _ _

theorem mqFault_surfaces (cause : Nat) : surfaces (d.mqFault cause).ridges = surfaces d.ridges := by
  unfold Dev.mqFault
  split
  · exact (pkgEvent_surfaces _ _ _ _).trans rfl
  · rfl

theorem mqDrain_surfaces (n : Nat) : surfaces (d.mqDrain n).ridges = surfaces d.ridges := by
  induction n generalizing d with
  | zero => rfl
  | succ n ih =>
    unfold Dev.mqDrain
    split
    · rfl
    split
    · rw [ih, mqWrite_ridges]
    split
    · rfl
    · exact mqFault_surfaces d 1

theorem mqComplete_surfaces (cmd : Nat) (v : Verdict) (out : List Byte) :
    surfaces (d.mqComplete cmd v out).ridges = surfaces d.ridges := by
  unfold Dev.mqComplete
  split
  · rfl
  · exact mqDrain_surfaces _ _

theorem stopWaiting_surfaces : surfaces d.stopWaiting.ridges = surfaces d.ridges := modRidges_surfaces _

theorem abortCmds_surfaces (status : BitVec 16) (spared : List Nat) :
    surfaces (d.abortCmds status spared).ridges = surfaces d.ridges :=
  (foldl_same (fun d : Dev => surfaces d.ridges) (fun d c => mqComplete_surfaces d c _ _) _ _).trans (stopWaiting_surfaces d)

theorem refuseWaiting_surfaces (spared : List Nat) : surfaces (d.refuseWaiting spared).ridges = surfaces d.ridges :=
  foldl_same (fun d : Dev => surfaces d.ridges) (fun d _ => mqComplete_surfaces d _ _ _) _ d

/-! ### The response to a tamper event -/

theorem cut_surfaces (status : BitVec 16) (hold : Bool) (spared : List Nat) :
    surfaces (d.cut status hold spared).ridges = surfaces d.ridges := by
  unfold Dev.cut
  dsimp only
  rw [refuseWaiting_surfaces, abortCmds_surfaces, abortJobs_surfaces]
  rfl

theorem changeMode_surfaces (m : Mode) (prior : BitVec 3) (exported : Bool) :
    surfaces (d.changeMode m prior exported).ridges = surfaces d.ridges :=
  (surfaces_of_still (d.changeMode_still m prior exported)).trans rfl

theorem eraseVsalt_surfaces : surfaces d.eraseVsalt.ridges = surfaces d.ridges := modRidges_surfaces (d.modVigil _)

theorem discardCommission_surfaces : surfaces d.discardCommission.ridges = surfaces d.ridges :=
  (eraseEntries_surfaces _ _).trans (eraseVsalt_surfaces d)

theorem firedampWipe_surfaces : surfaces d.firedampWipe.ridges = surfaces d.ridges := modRidges_surfaces d

theorem wakeAll_surfaces : surfaces d.wakeAll.ridges = surfaces d.ridges := by
  refine modRidges_surfaces d fun x => ?_
  split <;> rfl

theorem respondL_surfaces (spared : List Nat) : surfaces (d.respondL spared).ridges = surfaces d.ridges := by
  have hout : ∀ p : Prop, ∀ _ : Decidable p, (if p then d.driveOut else d).ridges = d.ridges := fun p _ => by split <;> rfl
  unfold Dev.respondL
  dsimp only
  split
  · rfl
  · rfl
  · rfl
  · split
    · rw [cut_surfaces, changeMode_surfaces, hout]
    · rw [cut_surfaces, changeMode_surfaces, hout]
    · rw [cut_surfaces, changeMode_surfaces, discardCommission_surfaces, hout]
    · rw [cut_surfaces, hout]

theorem respondZ_surfaces (spared : List Nat) : surfaces (d.respondZ spared).ridges = surfaces d.ridges := by
  have hwoken : surfaces d.driveOut.wakeAll.ridges = surfaces d.ridges := wakeAll_surfaces d.driveOut
  unfold Dev.respondZ
  dsimp only
  split
  · rw [firedampWipe_surfaces, cut_surfaces, hwoken]
  · rw [firedampWipe_surfaces, cut_surfaces, hwoken]
  · exact (firedampWipe_surfaces _).trans hwoken
  · exact hwoken
  · rw [firedampWipe_surfaces, cut_surfaces, Dev.modPins_ridges, changeMode_surfaces, eraseVsalt_surfaces, hwoken]

theorem respond_surfaces (cls : BitVec 2) (spared : List Nat) : surfaces (d.respond cls spared).ridges = surfaces d.ridges := by
  unfold Dev.respond
  split
  · exact respondL_surfaces d spared
  split
  · exact respondZ_surfaces d spared
  · rfl

theorem recordSource_surfaces (h : TamperHit) (cls : BitVec 2) :
    surfaces (d.recordSource h cls).ridges = surfaces d.ridges := by
  have hmark : surfaces (d.markSource h.id).ridges = surfaces d.ridges := by
    unfold Dev.markSource
    split
    · rfl
    · exact modRidge_surfaces d _
  unfold Dev.recordSource
  dsimp only
  rw [Dev.modTamp_ridges, raise_surfaces]
  exact hmark

theorem stampTamper_ridges : d.stampTamper.ridges = d.ridges := by
  have hown : ∀ (d : Dev) last, (d.ownCycle last).ridges = d.ridges := fun d last => by
    unfold Dev.ownCycle
    split <;> rfl
  exact (hown _ _).trans ((hown _ _).trans (hown _ _))

theorem tamper_surfaces (hs : List TamperHit) (orders : List Nat) : surfaces (d.tamper hs orders).ridges = surfaces d.ridges := by
  have hstamp : ∀ p : Prop, ∀ _ : Decidable p, surfaces (if p then d else d.stampTamper).ridges = surfaces d.ridges := by
    intro p _
    split
    · rfl
    · rw [stampTamper_ridges]
  unfold Dev.tamper
  split
  · rfl
  · extract_lets hits start classes e
    have he : surfaces e.ridges = surfaces d.ridges :=
      (foldl_same (fun d : Dev => surfaces d.ridges) (fun d h => recordSource_surfaces d h _) hits start).trans (hstamp _ _)
    clear_value e
    split
    · exact he
    · exact (respond_surfaces e _ _).trans he

/-- Fault injection writes no Surface register. -/
theorem injection_surface (r : Nat) (blk : BitVec 16) (k c : Nat) :
    ((d.injection r blk).core k c).surface = (d.core k c).surface := by
  rw [Dev.injection]
  exact surface_of_surfaces (tamper_surfaces d _ _) k c

end

end Sys2Proof.Machine
end

section
/-! ## Failed accesses (10:R235, R239, 11:R260) -/

namespace Sys2Proof.Machine

/-- What an access fails with: its segment's check, or the controller's. -/
def Lam.fails (x : Lam) (g : Seg) (i : Nat) (store : Bool) (e : Nat) : Prop :=
  g.addr i store = .error e ∨ ∃ a, g.addr i store = .ok a ∧ x.reach a g.size = .error e

section
variable {x : Lam} {e : Nat}

theorem Lam.loadElem_fails {g : Seg} {i : Nat} (h : x.fails g i false e) : x.loadElem g i = .error e := by
  rw [Lam.loadElem]
  rcases h with h | ⟨a, ha, h⟩
  · rw [h]
    rfl
  · rw [ha]
    show (x.reach a g.size).bind _ = _
    rw [h]
    rfl

theorem Lam.storeElem_fails {g : Seg} {i : Nat} (h : x.fails g i true e) (v : Nat) : x.storeElem g i v = .error e := by
  rw [Lam.storeElem]
  rcases h with h | ⟨a, ha, h⟩
  · rw [h]
    rfl
  · rw [ha]
    show (x.reach a g.size).bind _ = _
    rw [h]
    rfl

theorem Lam.load_fails {sg : Bool} {rd ra : BitVec 6} {sel : BitVec 3} {imm : BitVec 11}
    (h : x.fails (x.sel sel) (x.index ra imm) false e) : x.load sg rd ra sel imm = .error e := by
  rw [Lam.load, Lam.loadElem_fails h]
  rfl

theorem Lam.store_fails {rs ra : BitVec 6} {sel : BitVec 3} {imm : BitVec 11}
    (h : x.fails (x.sel sel) (x.index ra imm) true e) : x.store rs ra sel imm = .error e := Lam.storeElem_fails h _

end

/-! ### The controller's check -/

section
variable {d : Dev} {r c a n : Nat}

theorem Lam.reach_below (hlow : a < (d.ridge r).lineByte) (hdeep : (d.core r c).deep = false) :
    ((d.codeFetch r c).lam r c).ready.reach a n = .error belowLine := by
  have hd : ((d.codeFetch r c).lam r c).ready.core.deep = false := (found_deep d r c).trans hdeep
  rw [Lam.reach, Lam.ready_line, hd, if_pos (by simp [hlow])]

theorem Lam.reach_beyond (hside : (d.ridge r).lineByte ≤ a ∨ (d.core r c).deep = true) (hend : sramSize < a + n) :
    ((d.codeFetch r c).lam r c).ready.reach a n = .error 0x10 := by
  have hd : ((d.codeFetch r c).lam r c).ready.core.deep = (d.core r c).deep := found_deep d r c
  rw [Lam.reach, Lam.ready_line, hd, if_neg, if_pos hend]
  rcases hside with h | h
  · simp [Nat.not_lt.2 h]
  · simp [h]

/-- A trap for an access below the waterline is fault injection, and then a segment fault. -/
theorem Dev.trapProgram_below (d : Dev) (r c : Nat) :
    d.trapProgram r c belowLine = Claims.ended (d.injection r 0xFFFF) r c 0x0601 0x10 := by
  rw [Claims.ended, Claims.pcIndex, injection_surface]
  simp only [Dev.trapProgram, if_true]
  rw [progVerdict_segment (by decide) (by decide)]

end

end Sys2Proof.Machine

open Sys2Proof Machine Claims

/-- Settles O5: each instruction fails with what its access fails with; below the waterline by the banks that the tamper response
leaves. -/
theorem Sys2Proof.accessTraps : Obligations.AccessTraps := by
  intro s r c rd ra sel imm d g i n fails low below traps
  have htraps : ∀ (x : Instr) (store : Bool) (sem : Lam → Except Nat Lam), issues d r c x →
      exec x s = .next ⟨s.pending, d.issue r c x sem⟩ →
      (∀ e, ((d.codeFetch r c).lam r c).ready.fails g i store e → sem ((d.codeFetch r c).lam r c).ready = .error e) →
      traps x store := by
    intro x store sem h hx hsem
    refine ⟨fun e he => ?segment, fun a ha hlow hdeep => ?below, fun a ha hside hend => ?beyond⟩
    case segment =>
      have hcode : 5 ≤ e ∧ e < 0x20 := by
        rcases Seg.addr_error he with rfl | ⟨rfl, -⟩ <;> decide
      exact leaves_stops h hx (hsem e (.inl he)) hcode.1 hcode.2
    case below =>
      refine leaves_of hx ((Dev.issue_trap h (hsem _ (.inr ⟨a, ha, Lam.reach_below hlow hdeep⟩)) id).trans ?_)
      rw [hdeep, if_neg (by decide), Dev.trapProgram_below]
    case beyond =>
      exact leaves_stops h hx (hsem _ (.inr ⟨a, ha, Lam.reach_beyond hside hend⟩)) (by decide) (by decide)
  exact ⟨fun h => htraps _ _ _ h rfl fun e => Lam.load_fails, fun h => htraps _ _ _ h rfl fun e => Lam.load_fails,
    fun h => htraps _ _ _ h rfl fun e => Lam.store_fails, fun e store he => Seg.addr_error he⟩
end

section
/-! ## Crossings of the worlds (10:R234, 11:R262 to R270) -/

namespace Sys2Proof.Machine

/-! ### Cores and what waits on them -/

/-- Where there is no core, a core reads as at reset, in Deep: one in the Surface world stands in the list of its ridge. -/
theorem Dev.core_exists_of_surface {d : Dev} {r c : Nat} (h : (d.core r c).deep = false) :
    r < d.ridges.length ∧ c < (d.ridge r).cores.length := by
  have hreset : d.core r c ≠ Core.reset := fun hcore => by simp [hcore, Core.reset] at h
  refine ⟨?_, ?_⟩ <;> by_contra hout
  · have hridge : d.ridge r = Ridge.reset := List.getD_eq_default _ _ (Nat.le_of_not_lt hout)
    exact hreset ((congrArg (fun x : Ridge => x.cores.getD c Core.reset) hridge).trans
      (List.getElem?_getD_replicate_default_eq _ _ _))
  · exact hreset (List.getD_eq_default _ _ (Nat.le_of_not_lt hout))

theorem Dev.modCore_congr (d : Dev) (r c : Nat) {f g : Core → Core} (h : f (d.core r c) = g (d.core r c)) :
    d.modCore r c f = d.modCore r c g := by
  refine Dev.modRidge_congr d r ?_
  have hcores : (d.ridge r).cores.modify c f = (d.ridge r).cores.modify c g := by
    refine List.ext_getElem? fun i => ?_
    rw [List.getElem?_modify, List.getElem?_modify]
    by_cases hi : c = i
    · subst hi
      cases hk : (d.ridge r).cores[c]? with
      | none => rfl
      | some k =>
        have hcore : d.core r c = k := by simp [Dev.core, List.getD, hk]
        simpa [hcore] using h
    · simp [hi]
  simp only [hcores]

theorem Dev.modCore_id (d : Dev) (r c : Nat) : d.modCore r c id = d := by
  have hid : ∀ x : Ridge, ({ x with cores := x.cores.modify c id } : Ridge) = x := fun x => by rw [List.modify_id]
  rw [Dev.modCore, funext hid]
  exact congrArg (fun l => { d with ridges := l }) (List.modify_id r d.ridges)

theorem Dev.modCore_of_same {d : Dev} {r c : Nat} {f : Core → Core} (h : f (d.core r c) = d.core r c) :
    d.modCore r c f = d := (Dev.modCore_congr d r c (g := id) h).trans (d.modCore_id r c)

theorem Core.landDue_pend (k : Core) : k.landDue.pend = k.pend.filter fun e => !(!e.load && decide (e.due ≤ k.cycle)) := by
  have hfold : ∀ (l : List Pend) (k : Core), (l.foldl (fun k e => k.modBank fun b => b.put e.value e.dst) k).pend = k.pend := by
    intro l
    induction l with
    | nil => exact fun _ => rfl
    | cons e l ih => intro k; rw [List.foldl_cons, ih, Core.modBank_pend]
  exact hfold _ _

theorem Core.landDue_due (k : Core) : k.landDue.due = k.due :=
  Core.land_view (·.due) (fun k f => by unfold Core.modBank; split <;> rfl) (fun _ _ => rfl) k _

theorem Core.landDue_pc {k : Core} (h : k.deep = false) : k.landDue.surface.pc = k.surface.pc := by
  have hpc := (coreBank_land k fun e => !e.load && decide (e.due ≤ k.cycle)).2.2.2
  rwa [coreBank, coreBank, Core.land_deep, h] at hpc

theorem Dev.keadeRuns_iff (d : Dev) (r : Nat) : d.keadeRuns r = true ↔
    d.serves r = true ∧ (d.ridge r).power = 2 ∧ (d.ridge r).world.restarting = false := by
  simp [Dev.keadeRuns, and_assoc]

theorem nextInterrupt_singleton (cause : Nat) : nextInterrupt [cause] = some cause := by
  unfold nextInterrupt
  by_cases h : cause = 0x200 + Config.tamperSource <;> simp [h]

/-! ### A Deep interrupt -/

/-- A core once a Deep interrupt of a cause has come to it (11:R266). -/
def Core.interrupted (k : Core) (cause : Nat) : Core := { k with due := k.due ++ [cause] }

theorem Core.landDue_interrupted_pend (k : Core) (cause : Nat) : (k.interrupted cause).landDue.pend = k.landDue.pend := by
  rw [Core.landDue_pend, Core.landDue_pend]
  rfl

section
variable {d : Dev} {r c : Nat} (hdeep : (d.core r c).deep = false)
include hdeep

theorem Dev.core_interrupted (cause : Nat) :
    (d.modCore r c (·.interrupted cause)).core r c = (d.core r c).interrupted cause :=
  Dev.core_modCore d _ (Dev.core_exists_of_surface hdeep).1 (Dev.core_exists_of_surface hdeep).2

/-- A core with a write pending takes no interrupt (10:R234). -/
theorem Dev.takeDue_interrupted_of_pending (h : (d.core r c).landDue.pend ≠ []) (cause : Nat) :
    (d.modCore r c (·.interrupted cause)).takeDue r c = d.modCore r c (·.interrupted cause) := by
  unfold Dev.takeDue
  extract_lets k
  have hk : k.pend ≠ [] := by
    show ((d.modCore r c (·.interrupted cause)).core r c).landDue.pend ≠ []
    rwa [Dev.core_interrupted hdeep, Core.landDue_interrupted_pend]
  split
  · rfl
  · exact if_pos (by simp [hk])

/-- A core with no write pending and no interrupt before it takes one at once. -/
theorem Dev.takeDue_interrupted (hk : d.keadeRuns r = true) (hdue : (d.core r c).due = [])
    (hpend : (d.core r c).landDue.pend = []) (cause : Nat) :
    (d.modCore r c (·.interrupted cause)).takeDue r c = d.enterDeep r c (d.core r c).surface.pc cause := by
  have hcore := Dev.core_interrupted hdeep cause
  have hnext : nextInterrupt ((d.core r c).interrupted cause).landDue.due = some cause := by
    rw [Core.landDue_due, Core.interrupted, hdue]
    exact nextInterrupt_singleton cause
  have hpc : ((d.core r c).interrupted cause).landDue.surface.pc = (d.core r c).surface.pc := Core.landDue_pc hdeep
  have hruns : (d.modCore r c (·.interrupted cause)).keadeRuns r = d.keadeRuns r := by
    have hr := (Dev.core_exists_of_surface hdeep).1
    simp only [Dev.keadeRuns, Dev.serves, Dev.modCore, Dev.ridge_modRidge_self d r _ hr]
    rfl
  have herase : ((d.modCore r c (·.interrupted cause)).modCore r c fun k => { k with due := k.due.erase cause }) = d := by
    rw [Dev.modCore_modCore]
    refine Dev.modCore_of_same ?_
    simp only [Core.interrupted, hdue, List.nil_append, List.erase_cons_head]
    rw [← hdue]
  unfold Dev.takeDue
  extract_lets k
  rw [show k = ((d.core r c).interrupted cause).landDue from congrArg Core.landDue hcore, hnext]
  dsimp only
  rw [if_neg, herase, hpc]
  have hsurface : ((d.core r c).interrupted cause).deep = false := hdeep
  simp [Core.landDue_interrupted_pend, hpend, hruns, hk, hsurface]

end

/-! ### The commands -/

section
variable {s : State} {r c : Nat}

theorem leaves_descend (hk : s.dev.keadeRuns r = true) (hc : c < 4) (hdeep : (s.dev.core r c).deep = false)
    (hp : (s.dev.core r c).program = none) (service : BitVec 14) :
    leaves (.descend r c service) s (s.dev.enterDeep r c ((s.dev.core r c).surface.pc + 4) service.toNat) := by
  refine leaves_of rfl ((if_neg ?_).trans (if_neg ?_))
  · simp [hk, hc, hdeep]
  · simp [hp]

theorem leaves_deepInterrupt (hk : s.dev.keadeRuns r = true) (hc : c < 4) (hdeep : (s.dev.core r c).deep = false) {source : W64}
    {e : Dev} (he : (s.dev.modCore r c (·.interrupted (0x200 + source.toNat))).takeDue r c = e) :
    leaves (.deepInterrupt r c source) s e :=
  leaves_of rfl ((if_pos (by simp [hk, hc, hdeep])).trans he)

theorem Dev.ascend_of_deep {d : Dev} (hs : d.serves r = true) (hk : d.keadeRuns r = true) (hc : c < 4)
    (hdeep : (d.core r c).deep = true) (i : Instr) : d.ascend r c i =
      match (d.core r c).resume with
      | some a => if c = 0 then d.deepFault r 3 else (d.leaveDeep r c a).takeDue r c
      | none => d.deepFault r 3 := by
  refine (if_neg (by simp [hs, hc])).trans ((if_pos hdeep).trans ((if_neg (by simp [hk])).trans ?_))
  rfl

end

end Sys2Proof.Machine

open Sys2Proof Machine Claims

theorem Sys2Proof.Claims.entryIntoDeep : Claims.EntryIntoDeep := by
  intro s r c hs hp hr hc hdeep d enters
  have hk := (s.dev.keadeRuns_iff r).2 ⟨hs, hp, hr⟩
  refine ⟨fun service hprog => leaves_descend hk hc hdeep hprog service, fun source hdue hpend => ?taken,
    fun source hpend _ _ => leaves_deepInterrupt hk hc hdeep (Dev.takeDue_interrupted_of_pending hdeep hpend _)⟩
  case taken => exact leaves_deepInterrupt hk hc hdeep (Dev.takeDue_interrupted hdeep hk hdue hpend _)

theorem Sys2Proof.Claims.ascendReturns : Claims.AscendReturns := by
  intro s r c ⟨hs, hp, hr, hc, hdeep⟩ d
  have hascend := Dev.ascend_of_deep hs ((s.dev.keadeRuns_iff r).2 ⟨hs, hp, hr⟩) hc hdeep (.ascend r c)
  refine ⟨fun a ha hcore => leaves_of rfl (hascend.trans ?returns), fun h => leaves_of rfl (hascend.trans ?refused)⟩
  case returns =>
    rw [ha]
    exact if_neg hcore
  case refused =>
    cases ha : (d.core r c).resume with
    | none => rfl
    | some a => exact if_pos (h.resolve_right fun hnone => by simp [ha] at hnone)

/-- Settles O10: a crossing into Deep by what brings it about, and the way back by whether the core may take it. -/
theorem Sys2Proof.crossingsOfWorlds : Obligations.CrossingsOfWorlds := ⟨Claims.entryIntoDeep, Claims.ascendReturns⟩
end

section
/-! ## Writes of registers that configure the device (11:R263, 12:R290, 13:R317, 16:R366, 17:R375, R378, R380) -/

namespace Sys2Proof.Machine

/-! ### Writes through a link, and those of commands that name none -/

theorem Dev.ignoredWrite_eq (d : Dev) (l : Lk) {off : Nat} (h : off < 2 ^ 20) : d.ignoredWrite l off = Claims.ignored d l off := by
  rw [Dev.ignoredWrite, Nat.mod_eq_of_lt h]
  rfl

section
variable {d : Dev} {l : Lk} {off : Nat} {v : W64}

/-- Before power-up step 10 a write takes no effect, but for the registers of 17:R375. -/
theorem Dev.writeBar0_of_early (h : d.boot.step ≠ 10) (he : earlyOffset off = false) (hoff : off < 2 ^ 20) :
    d.writeBar0 l off v = Claims.ignored d l off :=
  (if_pos ⟨h, by simp [he]⟩).trans (d.ignoredWrite_eq l hoff)

/-- What a write that may take effect comes to is given by its block (17:Table 17.1). -/
theorem Dev.writeBar0_tampCtrl (h : d.boot.step = 10) : d.writeBar0 l 0x80018 v = d.tampCtrl l v :=
  if_neg fun hearly => hearly.1 h

theorem Dev.writeBar0_neighbour (h : d.boot.step = 10) : d.writeBar0 l 0x70000 v = d.setNeighbour l v :=
  if_neg fun hearly => hearly.1 h

theorem Dev.writeBar0_cacheMode (h : d.boot.step = 10) (hr : 0 < d.fuses.ridges) :
    d.writeBar0 l 0xD0008 v = d.setCacheMode l 0xD0008 v := by
  have hridge : ¬(!d.populated 0) = true := by simp [Dev.populated, hr]
  exact (if_neg fun hearly => hearly.1 h).trans (if_neg hridge)

theorem Dev.writeBar0_cplTimeout : d.writeBar0 l 0x10000 v = d.setTimeout l v :=
  if_neg fun hearly => by simp [earlyOffset] at hearly

theorem Dev.writeBar0_envelope : d.writeBar0 l 0x60000 v = d.setEnvelope l v :=
  if_neg fun hearly => by simp [earlyOffset] at hearly

variable {f : Dev → Dev}

theorem Dev.hostWrite_of_ready (h : d.boot.step = 10) : d.hostWrite l off f = f (Claims.stamped d) :=
  (if_pos h).trans (congrArg f d.stamped_eq.symm)

theorem Dev.hostWrite_of_unreleased (h : d.boot.step < 4) : d.hostWrite l off f = d :=
  (if_neg (by omega)).trans (if_pos h)

theorem Dev.hostWrite_of_early (h4 : 4 ≤ d.boot.step) (h10 : d.boot.step ≠ 10) (hoff : off < 2 ^ 20) :
    d.hostWrite l off f = Claims.ignored (Claims.stamped d) l off := by
  refine (if_neg h10).trans ((if_neg (Nat.not_lt.2 h4)).trans ?_)
  rw [d.stamped_eq, Dev.ignoredWrite_eq _ _ hoff]

end

section
variable {s : State} {i : Instr} {l : Lk} {off : Nat} {v : W64} (hi : exec i s = s.hostWord l off v)
include hi

theorem leaves_hostWord (hup : (s.dev.link l).up = true) {e : Dev} (he : (Claims.stamped s.dev).writeBar0 l off v = e) :
    leaves i s e := leaves_stamped (f := fun d => d.writeBar0 l off v) hi hup he

theorem leaves_hostWord_of_down (hup : ¬(s.dev.link l).up = true) : leaves i s s.dev := leaves_of hi (if_neg hup)

theorem leaves_hostWord_of_early (hup : (s.dev.link l).up = true) (h : s.dev.boot.step ≠ 10) (he : earlyOffset off = false)
    (hoff : off < 2 ^ 20) : leaves i s (Claims.ignored (Claims.stamped s.dev) l off) :=
  leaves_hostWord hi hup (Dev.writeBar0_of_early (d := Claims.stamped s.dev) h he hoff)

end

/-! ### TAMP.CTRL (13:R317) -/

/-- The fields of TAMP.CTRL, each at its place. -/
def Tamp.packed (t : Tamp) : Nat :=
  t.vigilMode.val.toNat + t.outOnL.val.toNat * 2 + t.outMs.val.toNat * 256 + t.tinPol.val.toNat * 65536

theorem Tamp.packed_lt (t : Tamp) : t.packed < 2 ^ 64 := by
  have := t.vigilMode.val.isLt
  have := t.outOnL.val.isLt
  have := t.outMs.val.isLt
  have := t.tinPol.val.isLt
  unfold Tamp.packed
  omega

theorem Tamp.ctrl_eq (t : Tamp) : t.ctrl = BitVec.ofNat 64 t.packed := by
  have h0 := Nat.mod_eq_of_lt t.vigilMode.val.isLt
  have h1 := Nat.mod_eq_of_lt t.outOnL.val.isLt
  have h8 := Nat.mod_eq_of_lt t.outMs.val.isLt
  have h16 := Nat.mod_eq_of_lt t.tinPol.val.isLt
  simp only [Tamp.ctrl, word, List.map_cons, List.map_nil, List.sum_cons, List.sum_nil, h0, h1, h8, h16, Tamp.packed]
  congr 1
  omega

theorem Tamp.ctrl_ne_iff (t : Tamp) (v : W64) : t.ctrl ≠ v ↔ t.packed ≠ v.toNat := by
  rw [t.ctrl_eq, Ne, BitVec.toNat_eq, BitVec.toNat_ofNat, Nat.mod_eq_of_lt t.packed_lt]

/-- What a write of TAMP.CTRL comes to, by the fields that the mode lets change. -/
def Dev.judgedCtrl (d : Dev) (l : Lk) (v : W64) (t : Tamp) : Dev :=
  let e := if t = d.tamp then d else Claims.persisted (d.modTamp fun _ => t) 1026 (BitVec.ofNat 64 t.packed)
  if t = d.tamp ∨ t.packed ≠ (v &&& 0xFFFF03).toNat then Claims.ignored e l 0x80018 else e

theorem Dev.tampCtrl_eq {d : Dev} {v : W64} {t : Tamp} (ht : d.ctrlAfter v = t) (l : Lk) : d.tampCtrl l v = d.judgedCtrl l v t := by
  subst ht
  have hkept : (d.modTamp fun _ => d.ctrlAfter v).persWrite .tampCtrl (d.ctrlAfter v).ctrl =
      Claims.persisted (d.modTamp fun _ => d.ctrlAfter v) 1026 (BitVec.ofNat 64 (d.ctrlAfter v).packed) := by
    rw [Dev.persWrite_eq, Tamp.ctrl_eq]
    rfl
  unfold Dev.tampCtrl Dev.judgedCtrl
  dsimp only
  rw [hkept]
  exact if_congr (or_congr_right (Tamp.ctrl_ne_iff _ _)) (Dev.ignoredWrite_eq _ l (by decide)) rfl

theorem Dev.ctrlAfter_commission {d : Dev} (h : d.live = .commission) (v : W64) : d.ctrlAfter v =
    { d.tamp with
      vigilMode := .of (v.extractLsb' 0 1), outOnL := .of (v.extractLsb' 1 1), tinPol := .of (v.extractLsb' 16 8)
      outMs := if v.extractLsb' 8 8 = 0 then d.tamp.outMs else .of (v.extractLsb' 8 8) } := if_pos h

theorem Dev.ctrlAfter_service {d : Dev} (h : d.live = .service) (v : W64) : d.ctrlAfter v =
    { d.tamp with
      vigilMode := if v.getLsbD 0 then d.tamp.vigilMode else .of 0
      outOnL := if v.getLsbD 1 then .of 1 else d.tamp.outOnL } := by
  refine (if_neg ?_).trans (if_pos h)
  rw [h]
  decide

theorem Dev.ctrlAfter_other {d : Dev} (hc : d.live ≠ .commission) (hs : d.live ≠ .service) (v : W64) :
    d.ctrlAfter v = d.tamp := (if_neg hc).trans (if_neg hs)

theorem Dev.judgedCtrl_same (d : Dev) (l : Lk) (v : W64) : d.judgedCtrl l v d.tamp = Claims.ignored d l 0x80018 := by
  simp [Dev.judgedCtrl]

/-! ### Registers that only COMMISSION changes -/

section
variable {d : Dev}

theorem Dev.setCacheMode_of_commission (h : d.live = .commission) (l : Lk) (off : Nat) (v : W64) :
    d.setCacheMode l off v = Claims.persisted { d with cacheMode := v.getLsbD 0 } 1027 (v &&& 1) :=
  (if_pos h).trans (Dev.persWrite_eq _ .cacheMode _)

theorem Dev.setNeighbour_of_commission (h : d.live = .commission) (l : Lk) (v : W64) :
    d.setNeighbour l v = Claims.persisted { d with neighbour := v.getLsbD 0 } 1028 (v &&& 1) :=
  (if_pos h).trans (Dev.persWrite_eq _ .neighbour _)

theorem Dev.setCacheMode_of_other (h : d.live ≠ .commission) (l : Lk) {off : Nat} (hoff : off < 2 ^ 20) (v : W64) :
    d.setCacheMode l off v = Claims.ignored d l off :=
  (if_neg h).trans (d.ignoredWrite_eq l hoff)

theorem Dev.setNeighbour_of_other (h : d.live ≠ .commission) (l : Lk) (v : W64) :
    d.setNeighbour l v = Claims.ignored d l 0x70000 :=
  (if_neg h).trans (d.ignoredWrite_eq l (by decide))

/-! ### The completion timeout -/

theorem Dev.setTimeout_of_fits {v : W64} (h : 1 ≤ (v.extractLsb' 0 10).toNat ∧ (v.extractLsb' 0 10).toNat ≤ 1000) (l : Lk) :
    d.setTimeout l v = { d with cplTimeout := v.extractLsb' 0 10 } := if_pos h

theorem Dev.setTimeout_of_unfit {v : W64} (h : (v.extractLsb' 0 10).toNat = 0 ∨ 1000 < (v.extractLsb' 0 10).toNat) (l : Lk) :
    d.setTimeout l v = Claims.ignored d l 0x10000 :=
  (if_neg (by omega)).trans (d.ignoredWrite_eq l (by decide))

/-! ### A pending value that commits (16:R366) -/

theorem Dev.persCommit_of_idle {slot : PersSlot} (h : (d.pers (persCode slot)).waits = false) : d.persCommit slot = d :=
  if_neg (ne_true_of_eq_false h)

/-- The pending value goes to the mirrors that can be reached, 1 ms after the last commit. -/
theorem Dev.persCommit_of_waiting {slot : PersSlot} (h : (d.pers (persCode slot)).waits = true) : d.persCommit slot =
    (let p := d.pers (persCode slot)
     let t := d.reach (p.last.getD 0 + 1000000)
     let c : PersCopy := ⟨p.value, p.best.seq + 1⟩
     t.modPower fun x => { x with
        pers := assocSet x.pers (persCode slot)
          ⟨p.value, if d.reaches 0 = true then c else p.copy0, if d.reaches 1 = true then c else p.copy1, false, some t.clock⟩ }) :=
  if_pos h

end

/-! ### Commands that name no link -/

section
variable {s : State}

theorem leaves_spineClrLat {r : Nat} (hp : s.dev.populated r = true) {e : Dev}
    (he : s.dev.hostWrite .a (0xE1018 + 0x1000 * r) (fun d => d.clearLat r) = e) : leaves (.spineClrLat r) s e :=
  leaves_of rfl ((if_pos hp).trans he)

theorem leaves_persWordWrite {word : Nat} (hw : word < 1024) {v : W64} {e : Dev}
    (he : s.dev.hostWrite .a (0xC0000 + 8 * word) (fun d => d.persWrite (.word word) v) = e) : leaves (.persWordWrite word v) s e :=
  leaves_of rfl ((if_pos hw).trans he)

end

end Sys2Proof.Machine

open Sys2Proof Machine Claims

/-- Settles O47: each register's write by its link, the power-up step, the mode and the value. -/
theorem Sys2Proof.configurationWrites : Obligations.ConfigurationWrites := by
  intro s l v d c x up ctrl packed judged commission service
  have hctrl : up → d.boot.step = 10 → ∀ {t}, c.ctrlAfter v = t → ctrl (c.judgedCtrl l v t) := fun hup hstep _ ht =>
    leaves_hostWord rfl hup ((Dev.writeBar0_tampCtrl (d := c) hstep).trans (Dev.tampCtrl_eq ht l))
  have hcache : up → d.boot.step = 10 → 0 < d.fuses.ridges → ∀ {e}, c.setCacheMode l 0xD0008 v = e →
      leaves (.cacheModeWrite l v) s e := fun hup hstep hr _ he =>
    leaves_hostWord rfl hup ((Dev.writeBar0_cacheMode (d := c) hstep hr).trans he)
  have hneighbour : up → d.boot.step = 10 → ∀ {e}, c.setNeighbour l v = e → leaves (.neighbourWrite l v) s e :=
    fun hup hstep _ he => leaves_hostWord rfl hup ((Dev.writeBar0_neighbour (d := c) hstep).trans he)
  refine ⟨fun hdown => ?down, fun hup hstep => ?early, fun hup hstep => ⟨fun hc => ?commission, fun hs => ?service,
    fun hc hs => ?other, fun hc hr => ?cacheMode, fun hc => ?neighbour,
    fun hc => ⟨fun hr => ?cacheRefused, ?neighbourRefused⟩⟩,
    fun hup => ?timeout, fun r hr hp => ?latency, fun word hw => ?word, fun slot => ?pending⟩
  case down =>
    exact ⟨leaves_hostWord_of_down rfl hdown, leaves_hostWord_of_down rfl hdown, leaves_hostWord_of_down rfl hdown,
      leaves_hostWord_of_down rfl hdown⟩
  case early =>
    exact ⟨leaves_hostWord_of_early rfl hup hstep rfl (by decide), leaves_hostWord_of_early rfl hup hstep rfl (by decide),
      leaves_hostWord_of_early rfl hup hstep rfl (by decide)⟩
  case commission => exact hctrl hup hstep (Dev.ctrlAfter_commission (d := c) hc v)
  case service => exact hctrl hup hstep (Dev.ctrlAfter_service (d := c) hs v)
  case other => exact c.judgedCtrl_same l v ▸ hctrl hup hstep (Dev.ctrlAfter_other (d := c) hc hs v)
  case cacheMode => exact hcache hup hstep hr (Dev.setCacheMode_of_commission (d := c) hc l _ v)
  case neighbour => exact hneighbour hup hstep (Dev.setNeighbour_of_commission (d := c) hc l v)
  case cacheRefused => exact hcache hup hstep hr (Dev.setCacheMode_of_other (d := c) hc l (by decide) v)
  case neighbourRefused => exact hneighbour hup hstep (Dev.setNeighbour_of_other (d := c) hc l v)
  case timeout =>
    intro u
    exact ⟨fun hu => leaves_hostWord rfl hup (Dev.writeBar0_cplTimeout.trans (Dev.setTimeout_of_fits hu l)),
      fun hu => leaves_hostWord rfl hup (Dev.writeBar0_cplTimeout.trans (Dev.setTimeout_of_unfit hu l))⟩
  case latency =>
    exact ⟨fun h => leaves_spineClrLat hp (Dev.hostWrite_of_ready h),
      fun h => leaves_spineClrLat hp (Dev.hostWrite_of_unreleased h),
      fun h4 h10 => leaves_spineClrLat hp (Dev.hostWrite_of_early h4 h10 (by omega))⟩
  case word =>
    exact ⟨fun h => leaves_persWordWrite hw ((Dev.hostWrite_of_ready h).trans (Dev.persWrite_eq _ (.word word) v)),
      fun h => leaves_persWordWrite hw (Dev.hostWrite_of_unreleased h),
      fun h4 h10 => leaves_persWordWrite hw (Dev.hostWrite_of_early h4 h10 (by omega))⟩
  case pending =>
    intro p t
    exact ⟨fun h => leaves_of rfl (Dev.persCommit_of_idle h), fun h => leaves_of rfl (Dev.persCommit_of_waiting h)⟩
end

section
/-! ## Power ceilings, the governor, and the host's gating requests (11:R276, 16:R358, R361) -/

namespace Sys2Proof.Machine

/-! ### A ceiling (16:R358) -/

section
variable {d : Dev} {v : W64}

theorem Dev.watts_of_fits (h : 6 ≤ v.toNat % 128 ∧ v.toNat % 128 ≤ d.maxWatts) : d.watts v = some (v.toNat % 128) := if_pos h

theorem Dev.watts_of_unfit (h : ¬(6 ≤ v.toNat % 128 ∧ v.toNat % 128 ≤ d.maxWatts)) : d.watts v = none := if_neg h

theorem Dev.setEnvelope_of_unfit (h : d.watts v = none) (l : Lk) : d.setEnvelope l v = Claims.ignored d l 0x60000 := by
  simp only [Dev.setEnvelope, h]
  exact d.ignoredWrite_eq l (by decide)

theorem Dev.setEnvelope_of_fits {w : Nat} (h : d.watts v = some w) (l : Lk) : d.setEnvelope l v =
    (let e := Claims.persisted (d.modPower fun p => { p with envelope := w }) 1029 (BitVec.ofNat 64 w)
     if w = d.power.envelope then e else e.newCeiling d.ceiling) := by
  simp only [Dev.setEnvelope, h, Dev.persWrite_eq]
  rfl

theorem Dev.setCap_of_unfit (h : d.watts v = none) : d.setCap v = d.pkgEvent 41 0x60008 := by
  simp only [Dev.setCap, h]

theorem Dev.setCap_of_fits {w : Nat} (h : d.watts v = some w) : d.setCap v =
    if w = d.power.bmcCap then d else (d.modPower fun p => { p with bmcCap := w }).newCeiling d.ceiling := by
  simp only [Dev.setCap, h]

end

/-! ### PWR.STATUS (16:Table 16.5) -/

theorem sum_map_five {α : Type} (g : α → Nat) (a b c d e : α) :
    ([a, b, c, d, e].map g).sum = g a + (g b + (g c + (g d + g e))) := by simp

/-- Bit 24 of PWR.STATUS stands above two fields and below two. -/
theorem testBit_status (ceiling charge pfw drills : Nat) (o : Bool) :
    (ceiling % 2 ^ 7 * 2 ^ 0 + (charge % 2 ^ 13 * 2 ^ 8 + (o.toNat % 2 ^ 1 * 2 ^ 24 + (pfw % 2 ^ 1 * 2 ^ 25 +
      drills % 2 ^ 8 * 2 ^ 32)))).testBit 24 = o := by
  have hlow : ceiling % 128 + charge % 8192 * 256 < 2 ^ 24 := by omega
  have hsum : ceiling % 2 ^ 7 * 2 ^ 0 + (charge % 2 ^ 13 * 2 ^ 8 + (o.toNat % 2 ^ 1 * 2 ^ 24 + (pfw % 2 ^ 1 * 2 ^ 25 +
      drills % 2 ^ 8 * 2 ^ 32))) =
      2 ^ 24 * (o.toNat + 2 * (pfw % 2 + 128 * (drills % 256))) + (ceiling % 128 + charge % 8192 * 256) := by
    have := o.toNat_lt
    omega
  rw [hsum, Nat.testBit_two_pow_mul_add _ hlow]
  cases o <;> simp

theorem getLsbD_word_status (ceiling charge pfw drills : Nat) (o : Bool) :
    (word [(0, 7, ceiling), (8, 13, charge), (24, 1, o.toNat), (25, 1, pfw), (32, 8, drills)]).getLsbD 24 = o := by
  rw [word, BitVec.getLsbD_ofNat, sum_map_five]
  exact (Bool.true_and _).trans (testBit_status ..)

theorem Dev.readBar0_over {d : Dev} (h : 5 ≤ d.boot.step) (l : Lk) : (d.readBar0 l 0x60010).getLsbD 24 = d.isOver := by
  have hstep : ¬d.boot.step < 5 := Nat.not_lt.2 h
  show d.regPower.getLsbD 24 = _
  rw [Dev.regPower, if_neg hstep, if_neg hstep]
  exact getLsbD_word_status ..

/-! ### The charge without throttled blocks -/

theorem ite_le_ite_of_imp {p q : Bool} (h : p = true → q = true) (n : Nat) :
    (if p = true then n else 0) ≤ if q = true then n else 0 := by
  cases p with
  | false => exact Nat.zero_le _
  | true => rw [h rfl]

/-- Blocks that are left out of a ridge's charge do not add to it. -/
theorem Ridge.charge_le (x : Ridge) (out : BitVec 33) : x.charge out ≤ x.charge 0 := by
  have hout : ∀ b p, (p && !out.getLsbD b) = true → (p && !(0 : BitVec 33).getLsbD b) = true := by simp +contextual
  unfold Ridge.charge
  split
  · exact Nat.le_refl _
  split
  · exact Nat.le_refl _
  refine Nat.add_le_add (Nat.add_le_add (Nat.add_le_add_left (List.sum_le_sum fun b _ => ?engine) _) ?bulk)
    (List.sum_le_sum fun c _ => ?core)
  case engine => exact ite_le_ite_of_imp (hout b _) _
  case bulk =>
    refine ite_le_ite_of_imp (fun h => ?_) _
    obtain ⟨i, hi, hone⟩ := List.any_eq_true.1 h
    exact List.any_eq_true.2 ⟨i, hi, hout _ _ hone⟩
  case core => exact ite_le_ite_of_imp (by simp +contextual) _

theorem Dev.chargeBut_le (d : Dev) (out : Nat → BitVec 33) : d.chargeBut out ≤ d.charge := by
  unfold Dev.charge Dev.chargeBut
  split
  · exact Nat.le_refl _
  · exact Nat.add_le_add_right (Nat.add_le_add_right (Nat.add_le_add_left
      (List.sum_le_sum fun r _ => (d.ridge r).charge_le (out r)) _) _) _

theorem Dev.throttle_of_fits {d : Dev} {thr : Nat → BitVec 33} (h : d.chargeBut thr ≤ d.ceiling * 1000) (n : Nat) :
    d.throttle n thr = thr := by
  cases n with
  | zero => rfl
  | succ n => exact if_pos h

/-! ### What the governor sets on a ridge (16:R361) -/

/-- The governor's turn on one ridge, once it knows what is to be throttled. -/
def Dev.governRidge (d : Dev) (risen : Bool) (thr : Nat → BitVec 33) (r : Nat) : Dev :=
  let x := d.ridge r
  let claimed := thr r &&& x.world.claim &&& ~~~x.throttled
  let now := thr r &&& ~~~claimed
  let gone := if risen then x.world.deferValue &&& ~~~claimed else 0
  let d := d.modRidge r fun y => { y with
    throttled := now
    world := { y.world with
      deferPending := (y.world.deferPending &&& ~~~gone) ||| claimed
      deferValue := (y.world.deferValue &&& ~~~gone) ||| claimed
      deferTotal := satInc y.world.deferTotal ((List.range 33).countP fun b => claimed.getLsbD b) } }
  let d := (List.range 33).foldl (init := d) fun d b =>
    if claimed.getLsbD b then
      d.ridgeEvent r 51 (b + if x.world.deferPending.getLsbD b then 64 else 0) else d
  if now != x.throttled then d.ridgeEvent r 66 (now.toNat % 2 ^ 32) else d

/-- The blocks throttled on each ridge. -/
def Dev.throttles (d : Dev) : List (BitVec 33) := d.ridges.map (·.throttled)

theorem Dev.throttles_of_quiet {d e : Dev} (h : d.quiet = e.quiet) : d.throttles = e.throttles := by
  have hq : ∀ d : Dev, d.quiet.throttles = d.throttles := fun d => by simp [Dev.throttles, Dev.quiet, Ridge.quiet]
  rw [← hq d, ← hq e, h]

theorem Dev.throttled_eq (d : Dev) (k : Nat) : (d.ridge k).throttled = d.throttles.getD k 0 :=
  (List.getD_map (f := Ridge.throttled) (d := Ridge.reset) ..).symm

section
variable {d : Dev} {thr : Nat → BitVec 33} {r : Nat}

/-- Where it need not defer to a claim, the governor throttles what is to be throttled, on this ridge alone. -/
theorem Dev.throttles_governRidge (h : thr r &&& ~~~(d.ridge r).throttled = 0) (risen : Bool) :
    (d.governRidge risen thr r).throttles = d.throttles.set r (thr r) := by
  unfold Dev.governRidge
  extract_lets x claimed now gone e f
  have hclaimed : claimed = 0 := by
    show thr r &&& (d.ridge r).world.claim &&& ~~~(d.ridge r).throttled = 0
    rw [BitVec.and_assoc, BitVec.and_comm (d.ridge r).world.claim, ← BitVec.and_assoc, h]
    exact BitVec.zero_and
  have hnow : now = thr r := by
    show thr r &&& ~~~claimed = thr r
    rw [hclaimed]
    exact BitVec.and_allOnes
  have he : e.throttles = d.throttles.set r (thr r) := by
    simp only [e, Dev.throttles, Dev.modRidge_ridges, hnow]
    refine List.ext_getElem? fun i => ?_
    by_cases hi : r = i
    · subst hi
      by_cases hr : r < d.ridges.length <;> simp [hr]
    · simp [hi]
  have hf : f.throttles = e.throttles := by
    refine foldl_same Dev.throttles (fun d b => ?_) _ _
    split
    · exact Dev.throttles_of_quiet (d.ridgeEvent_quiet _ _ _ _)
    · rfl
  refine Eq.trans ?_ (hf.trans he)
  split
  · exact Dev.throttles_of_quiet (f.ridgeEvent_quiet _ _ _ _)
  · rfl

theorem Dev.throttled_governRidge (h : thr r &&& ~~~(d.ridge r).throttled = 0) (risen : Bool) (k : Nat) :
    ((d.governRidge risen thr r).ridge k).throttled =
      if r = k ∧ r < d.ridges.length then thr r else (d.ridge k).throttled := by
  have hlen : d.throttles.length = d.ridges.length := List.length_map _
  rw [Dev.throttled_eq, Dev.throttled_eq, Dev.throttles_governRidge h, List.getD, List.getElem?_set, hlen]
  by_cases hk : r = k
  · subst hk
    by_cases hr : r < d.ridges.length <;> simp [hr, hlen]
  · simp [hk, List.getD]

theorem Dev.length_governRidge (h : thr r &&& ~~~(d.ridge r).throttled = 0) (risen : Bool) :
    (d.governRidge risen thr r).ridges.length = d.ridges.length := by
  simpa [Dev.throttles] using congrArg List.length (Dev.throttles_governRidge h risen)

end

/-- The governor's turns on ridges, none of which it must leave to a claim. -/
theorem Dev.throttled_governRidges {thr : Nat → BitVec 33} (risen : Bool) (l : List Nat) {d : Dev}
    (h : ∀ k, thr k &&& ~~~(d.ridge k).throttled = 0) {r : Nat} (hr : r < d.ridges.length) :
    ((l.foldl (Dev.governRidge · risen thr ·) d).ridge r).throttled = if r ∈ l then thr r else (d.ridge r).throttled := by
  induction l generalizing d with
  | nil => rfl
  | cons n l ih =>
    have hstill : ∀ k, thr k &&& ~~~((d.governRidge risen thr n).ridge k).throttled = 0 := fun k => by
      rw [Dev.throttled_governRidge (h n)]
      split
      · next hk => rw [hk.1, BitVec.and_not_self]
      · exact h k
    rw [List.foldl_cons, ih hstill (by rwa [Dev.length_governRidge (h n)]), Dev.throttled_governRidge (h n)]
    by_cases hn : n = r
    · subst hn
      simp [hr]
    · simp [hn, Ne.symm hn]

theorem Dev.govern_eq (d : Dev) (risen : Bool) : ∃ e, (d.govern risen).quiet = e.quiet ∧
    e = d.ridgeNums.foldl (Dev.governRidge · risen (d.throttle 264 fun r => if risen then 0 else (d.ridge r).throttled) ·) d := by
  refine ⟨_, ?_, rfl⟩
  unfold Dev.govern
  extract_lets old thr e still
  split
  · exact e.ridgeEvent_quiet _ _ _ _
  · rfl

/-- Where the charge is within the ceiling, the governor throttles nothing more, and lets everything go where the ceiling has
risen. -/
theorem Dev.throttled_govern {d : Dev} (h : d.charge ≤ 1000 * d.ceiling) {r : Nat} (hp : r < d.fuses.ridges)
    (hr : r < d.ridges.length) (risen : Bool) :
    ((d.govern risen).ridge r).throttled = if risen then 0 else (d.ridge r).throttled := by
  obtain ⟨e, hquiet, he⟩ := d.govern_eq risen
  have hfits : ∀ thr, d.throttle 264 thr = thr := fun thr =>
    Dev.throttle_of_fits ((d.chargeBut_le thr).trans (h.trans_eq (Nat.mul_comm _ _))) 264
  have hthr : ∀ k, (if risen then 0 else (d.ridge k).throttled) &&& ~~~(d.ridge k).throttled = 0 := fun k => by
    cases risen with
    | false => exact BitVec.and_not_self _
    | true => exact BitVec.zero_and
  rw [hfits] at he
  have hmem : r ∈ d.ridgeNums := List.mem_range.2 hp
  exact (congrArg Ridge.throttled (Dev.ridge_of_quiet hquiet r)).trans
    (he ▸ (Dev.throttled_governRidges risen _ hthr hr).trans (if_pos hmem))

/-! ### Gating requests (11:R276) -/

/-- The blocks whose request a write of PWR.GATE changes, when it changes that of one block. -/
theorem filter_toggled (old : BitVec 33) {b : Nat} (hb : b < 33) :
    ((List.range 33).filter fun i => old.getLsbD i != (old ^^^ 1#33 <<< b).getLsbD i) = [b] := by
  have hone : ∀ b < 33, (List.range 33).filter (· == b) = [b] := by decide
  rw [← hone b hb]
  refine List.filter_congr fun i hi => ?_
  have hi : i < 33 := List.mem_range.1 hi
  by_cases heq : i = b
  · subst heq
    simp [hi]
  · by_cases hlt : i < b
    · simp [heq, hlt]
    · simp [heq, hlt, hi, show ¬i - b = 0 by omega]

section
variable {d : Dev} {r : Nat}

/-- The host's request on the blocks of a ridge stands in the register, whatever comes of it. -/
def Dev.asked (d : Dev) (r : Nat) (new : BitVec 33) : Dev := d.modRidge r fun x => { x with gateReq := new }

theorem Dev.asked_world (d : Dev) (r : Nat) (new : BitVec 33) : ((d.asked r new).ridge r).world = (d.ridge r).world :=
  Dev.ridge_modRidge_same (g := Ridge.world) (by exact fun _ => rfl) d r r

variable (hp : d.populated r = true) {v : W64}
include hp

theorem Dev.gateWrite_same (h : v.extractLsb' 0 33 = (d.ridge r).gateReq) : d.gateWrite r v = d.asked r (v.extractLsb' 0 33) := by
  have hnone : ((List.range 33).filter fun b => (d.ridge r).gateReq.getLsbD b != (v.extractLsb' 0 33).getLsbD b) = [] := by
    simp [h]
  refine (if_pos hp).trans ?_
  dsimp only
  rw [hnone]
  rfl

theorem Dev.gateWrite_one {b : Nat} (hb : b < 33) (h : v.extractLsb' 0 33 = (d.ridge r).gateReq ^^^ 1#33 <<< b) :
    d.gateWrite r v = (d.asked r (v.extractLsb' 0 33)).gateBlock r b ((v.extractLsb' 0 33).getLsbD b) := by
  have hone : ((List.range 33).filter fun i => (d.ridge r).gateReq.getLsbD i != (v.extractLsb' 0 33).getLsbD i) = [b] := by
    rw [h]
    exact filter_toggled _ hb
  refine (if_pos hp).trans ?_
  dsimp only
  rw [hone]
  rfl

end

section
variable {d : Dev} {r b : Nat}

theorem Dev.gateBlock_off : d.gateBlock r b false = d.modRidge r fun x => { x with
    gateOn := x.gateOn &&& ~~~(1#33 <<< b)
    world := { x.world with
      deferPending := x.world.deferPending &&& ~~~(1#33 <<< b), deferValue := x.world.deferValue &&& ~~~(1#33 <<< b) } } :=
  Dev.modRidge_modRidge d r _ _

theorem Dev.gateBlock_on (h : (d.ridge r).world.claim.getLsbD b = false) :
    d.gateBlock r b true = d.modRidge r fun x => { x with gateOn := x.gateOn ||| 1#33 <<< b } := by
  unfold Dev.gateBlock
  exact (if_pos rfl).trans (if_neg (ne_true_of_eq_false h))

theorem Dev.gateBlock_deferred (h : (d.ridge r).world.claim.getLsbD b = true) :
    d.gateBlock r b true = (d.modRidge r fun x => { x with world := { x.world with
      deferPending := x.world.deferPending ||| 1#33 <<< b, deferValue := x.world.deferValue &&& ~~~(1#33 <<< b)
      deferTotal := satInc x.world.deferTotal } }).ridgeEvent r 51
        (b + if (d.ridge r).world.deferPending.getLsbD b then 64 else 0) := by
  unfold Dev.gateBlock
  exact (if_pos rfl).trans (if_pos h)

end

theorem leaves_pwrGateWrite {s : State} {r : Nat} (hp : s.dev.populated r = true) {v : W64} {e : Dev}
    (he : s.dev.hostWrite .a (0x60100 + 8 * r) (fun d => d.gateWrite r v) = e) : leaves (.pwrGateWrite r v) s e :=
  leaves_of rfl ((if_pos hp).trans he)

end Sys2Proof.Machine

open Sys2Proof Machine Claims

/-- Settles O49: the ceilings by whether the value fits, the governor by what it sets ridge by ridge, a request by its block. -/
theorem Sys2Proof.ceilingsAndGates : Obligations.CeilingsAndGates := by
  intro s v d c w top fits ceiling logged
  refine ⟨fun l => ⟨fun hdown => ?down, fun hup hunfit => ?unfit, fun hup hfits => ?envelope⟩, ?cap,
    fun l hstep => ?status, fun hcharge r hp hr => ?governor, fun r hr hp => ?gates⟩
  case down => exact leaves_hostWord_of_down rfl (ne_true_of_eq_false hdown)
  case unfit =>
    exact leaves_hostWord rfl hup (Dev.writeBar0_envelope.trans (Dev.setEnvelope_of_unfit (Dev.watts_of_unfit (d := c) hunfit) l))
  case envelope =>
    exact leaves_hostWord rfl hup (Dev.writeBar0_envelope.trans (Dev.setEnvelope_of_fits (Dev.watts_of_fits (d := c) hfits) l))
  case cap =>
    refine ⟨(leaves_i3cUp rfl).2, fun ha hunfit => ?_, fun ha hfits => ?_⟩
    · exact Dev.setCap_of_unfit (Dev.watts_of_unfit (d := d) hunfit) ▸ (leaves_i3cUp rfl).1 ha
    · exact Dev.setCap_of_fits (Dev.watts_of_fits (d := d) hfits) ▸ (leaves_i3cUp rfl).1 ha
  case status =>
    rw [Dev.readBar0_over hstep, Dev.isOver, Nat.mul_comm]
    rfl
  case governor => exact ⟨Dev.throttled_govern hcharge hp hr false, Dev.throttled_govern hcharge hp hr true⟩
  case gates =>
    intro x new asked bit
    have hready : d.boot.step = 10 → ∀ {e}, c.gateWrite r v = e → leaves (.pwrGateWrite r v) s e := fun hstep _ he =>
      leaves_pwrGateWrite hp ((Dev.hostWrite_of_ready hstep).trans he)
    refine ⟨fun h => leaves_pwrGateWrite hp (Dev.hostWrite_of_unreleased h),
      fun h4 h10 => leaves_pwrGateWrite hp (Dev.hostWrite_of_early h4 h10 (by omega)),
      fun hstep hsame => hready hstep (Dev.gateWrite_same (d := c) hp hsame), fun b hb hstep hnew => ?block⟩
    have hone : ∀ {on e}, new.getLsbD b = on → (c.asked r new).gateBlock r b on = e → leaves (.pwrGateWrite r v) s e :=
      fun hon he => hready hstep ((Dev.gateWrite_one (d := c) hp hb hnew).trans (hon ▸ he))
    have hworld : ((c.asked r new).ridge r).world = x.world := c.asked_world r new
    refine ⟨fun hoff => hone hoff Dev.gateBlock_off, fun hon hfree => hone hon (Dev.gateBlock_on (hworld ▸ hfree)),
      fun hon hheld => hone hon ((Dev.gateBlock_deferred (hworld ▸ hheld)).trans ?_)⟩
    rw [hworld]
    rfl
end

section
/-! ## Deep faults and Deep restarts (11:R270 to R274, R279) -/

namespace Sys2Proof.Machine

/-! ### A Deep fault (11:R270, R272) -/

/-- The times of a ridge's Deep faults of the last 10 s, once one more has come. -/
def Dev.recentFaults (d : Dev) (r : Nat) : List Nat :=
  d.clock :: (d.ridge r).world.faults.filter fun t => decide (d.clock < t + 10000000000)

/-- A ridge whose Deep side has stopped for a fault of a cause. -/
def Dev.faulted (d : Dev) (r cause : Nat) : Dev :=
  ((d.modRidge r fun y => { y with world := { y.world with
    restarts := satInc y.world.restarts, lastCause := BitVec.ofNat 3 cause, faults := d.recentFaults r } }).ridgeEvent
      r 48 cause).stopDeep r none

section
variable {d : Dev} {r : Nat}

theorem Dev.deepFault_of_stopped (h : ¬d.keadeRuns r = true) (cause : Nat) : d.deepFault r cause = d := if_neg h

theorem Dev.deepFault_of_few (h : d.keadeRuns r = true) (hfew : (d.recentFaults r).length < 3) (cause : Nat) :
    d.deepFault r cause = d.faulted r cause :=
  (if_pos h).trans (if_neg (Nat.not_le.2 hfew))

theorem Dev.deepFault_of_third (h : d.keadeRuns r = true) (hthird : 3 ≤ (d.recentFaults r).length) (cause : Nat) :
    d.deepFault r cause = (d.faulted r cause).loseRidge r 5 :=
  (if_pos h).trans (if_pos hthird)

end

section
variable {s : State} {r : Nat} {f : Nat → Dev}

/-- What the watchdog and the other causes of a Deep fault leave, where the fault leaves the same for all. -/
theorem leaves_deepFault (h : ∀ cause, s.dev.deepFault r cause = f cause) : leaves (.deepWatchdogExpiry r) s (f 1) ∧
    ∀ cause, 1 ≤ cause → cause ≤ 5 → leaves (.deepRestart r cause) s (f cause) :=
  ⟨leaves_of rfl (h 1), fun cause hlow hhigh => leaves_of rfl ((if_pos ⟨hlow, hhigh⟩).trans (h cause))⟩

theorem leaves_deepRestart_of_no_cause {cause : Nat} (h : cause = 0 ∨ 5 < cause) : leaves (.deepRestart r cause) s s.dev :=
  leaves_of rfl (if_neg (by omega))

end

/-! ### What a restart makes of a ridge (11:R271, Tables 11.2, 11.3) -/

/-- What of a ridge a Deep restart concerns. -/
def Ridge.deepSide (x : Ridge) : World × List Host.Cell × List Core := (x.world, x.sram, x.cores)

/-- A ridge whose Deep side no longer runs: its cores restart, its entry points are forgotten. -/
def Ridge.halted (x : Ridge) : Ridge :=
  { x with cores := x.cores.mapIdx Core.restart, world := { x.world with deepUp := false, restarting := true, entries := [] } }

section
variable (d : Dev) (r : Nat)

theorem Dev.modRidge_program {f : Ridge → Ridge} (h : ∀ x c, ((f x).cores.getD c Core.reset).program.map (·.job) =
    (x.cores.getD c Core.reset).program.map (·.job)) (k c : Nat) :
    (((d.modRidge r f).ridge k).cores.getD c Core.reset).program.map (·.job) =
      ((d.ridge k).cores.getD c Core.reset).program.map (·.job) :=
  Dev.ridge_modRidge_same (g := fun x => (x.cores.getD c Core.reset).program.map (·.job)) (fun x => h x c) d r k

theorem Ridge.halted_program (x : Ridge) (c : Nat) : (x.halted.cores.getD c Core.reset).program.map (·.job) =
    (x.cores.getD c Core.reset).program.map (·.job) := by
  simp only [Ridge.halted, List.getD, List.getElem?_mapIdx]
  cases x.cores[c]? with
  | none => rfl
  | some k => cases hk : k.program <;> simp [Core.restart, hk]

theorem Dev.progCore_eq (n : Nat) : d.progCore n = d.ridgeNums.findSome? fun r => ((List.range 4).find? fun c =>
    ((d.ridge r).cores.getD c Core.reset).program.map (·.job) == some n).map fun c => (r, c) := by
  unfold Dev.progCore
  congr 1
  funext k
  congr 2
  funext c
  cases ((d.ridge k).cores.getD c Core.reset).program <;> rfl

theorem Dev.deepJobs_halted : (d.modRidge r Ridge.halted).deepJobs r = d.deepJobs r := by
  have hcore : ∀ n, (d.modRidge r Ridge.halted).progCore n = d.progCore n := fun n => by
    simp only [Dev.progCore_eq, d.modRidge_program r Ridge.halted_program]
    rfl
  simp only [Dev.deepJobs, hcore]
  rfl

theorem Dev.boss_modRidge {f : Ridge → Ridge} (h : ∀ x, ((f x).lost, (f x).inService) = (x.lost, x.inService)) :
    (d.modRidge r f).boss = d.boss := by
  have hzero := Dev.ridge_modRidge_same (g := fun x => (x.lost, x.inService)) h d r 0
  simp only [Prod.mk.injEq] at hzero
  simp only [Dev.boss, Dev.reaches, hzero.1, hzero.2]
  rfl

end

theorem Dev.deepSide_stopWaiting (d : Dev) {r : Nat} (hr : r < d.ridges.length) :
    (d.stopWaiting.ridge r).deepSide = (d.ridge r).deepSide := by
  refine (congrArg Ridge.deepSide (Dev.ridge_modRidges _ _ hr)).trans ?_
  split <;> rfl

theorem Dev.length_stopWaiting (d : Dev) : d.stopWaiting.ridges.length = d.ridges.length := Dev.length_modRidges _ _

theorem Dev.endClaims_of_none {d : Dev} {r : Nat} : d.endClaims r 0 = d := by
  have hnone : ((List.range 33).filter fun b => (0 : BitVec 33).getLsbD b) = [] := by decide
  rw [Dev.endClaims, hnone]
  rfl

/-- The device once Keade's jobs and commands on a ridge have ended, where it had none. -/
def Dev.keadeEnded (d : Dev) (r : Nat) : Dev :=
  let e := d.modRidge r Ridge.halted
  if r = d.boss then e.stopWaiting.modMq fun q => { q with activate := none } else e

/-- What a restart that ends no job and no command comes to. -/
theorem Dev.stopDeep_of_idle {d : Dev} {r : Nat} (hj : d.deepJobs r = []) (hq : r = d.boss → d.mq.cmds = []) :
    d.stopDeep r none = (((d.keadeEnded r).endClaims r ((d.keadeEnded r).ridge r).world.claim).modWorld r
      fun w => { w with waiting := [], running := [] }).modRidge r Ridge.wipeDeep := by
  have hhalted : (d.modRidge r fun x => { x with cores := x.cores.mapIdx Core.restart }).modWorld r
      (fun w => { w with deepUp := false, restarting := true, entries := [] }) = d.modRidge r Ridge.halted :=
    Dev.modRidge_modRidge d r _ _
  have hended : (if r = (d.modRidge r Ridge.halted).boss then ((d.modRidge r Ridge.halted).abortCmds stAbortDeep []).modMq
      (fun q => { q with activate := none }) else d.modRidge r Ridge.halted) = d.keadeEnded r := by
    refine if_ctx_congr (by rw [d.boss_modRidge r (f := Ridge.halted) fun _ => rfl]) (fun h => ?_) fun _ => rfl
    have hcmds : ∀ c ∈ (d.modRidge r Ridge.halted).mq.cmds, c.started = true → c.index.toNat ∈ ([] : List Nat) :=
      fun c hmem => absurd (hq h ▸ hmem) List.not_mem_nil
    rw [Dev.abortCmds_of_spared hcmds]
  rw [← hended]
  unfold Dev.stopDeep
  dsimp only
  rw [hhalted, Dev.deepJobs_halted, hj]
  rfl

theorem Dev.keadeEnded_deepSide {d : Dev} {r : Nat} (hr : r < d.ridges.length) :
    ((d.keadeEnded r).ridge r).deepSide = (d.ridge r).halted.deepSide := by
  have hridge := congrArg Ridge.deepSide (Dev.ridge_modRidge_self d r Ridge.halted hr)
  unfold Dev.keadeEnded
  split
  · exact (Dev.deepSide_stopWaiting _ (by simpa using hr)).trans hridge
  · exact hridge

theorem Dev.keadeEnded_length (d : Dev) (r : Nat) : (d.keadeEnded r).ridges.length = d.ridges.length := by
  unfold Dev.keadeEnded
  split
  · exact (Dev.length_stopWaiting _).trans (d.length_modRidge r _)
  · exact d.length_modRidge r _

/-- A restart that finds no job of the Deep side, no claim, and no command of Keade's. -/
theorem Dev.stopDeep_deepSide {d : Dev} {r : Nat} (hj : d.deepJobs r = []) (hc : (d.ridge r).world.claim = 0)
    (hq : r = d.boss → d.mq.cmds = []) (hr : r < d.ridges.length) : ((d.stopDeep r none).ridge r).deepSide =
      ({ (d.ridge r).world with deepUp := false, restarting := true, entries := [], waiting := [], running := [] },
        memZero (d.ridge r).sram 0 (d.ridge r).lineByte, (d.ridge r).cores.mapIdx Core.restart) := by
  have hside := Dev.keadeEnded_deepSide hr
  have hlen : r < (d.keadeEnded r).ridges.length := by rwa [Dev.keadeEnded_length]
  simp only [Ridge.deepSide, Prod.mk.injEq] at hside
  obtain ⟨hworld, hsram, hcores⟩ := hside
  have hclaim : (d.ridge r).halted.world.claim = 0 := hc
  rw [Dev.stopDeep_of_idle hj hq, hworld, hclaim, Dev.endClaims_of_none, Dev.modWorld, Dev.modRidge_modRidge,
    Dev.ridge_modRidge_self _ _ _ hlen]
  simp only [Ridge.deepSide, Ridge.wipeDeep, Ridge.lineByte, hworld, hsram, hcores]
  rfl

/-- What a filter of the addresses leaves to be read. -/
theorem memRead_filter (p : Nat → Bool) (m : List Host.Cell) (a : Nat) :
    memRead (m.filter fun c => p c.1) a = if p a then memRead m a else 0 := by
  induction m with
  | nil => simp [memRead]
  | cons c m ih =>
    by_cases hp : p c.1 = true <;> by_cases hc : c.1 = a
    · subst hc
      simp [memRead, hp]
    · simp [memRead, hp, hc, ih]
    · subst hc
      simp [hp, ih]
    · simp [memRead, hp, hc, ih]

theorem memRead_memZero_low (m : List Host.Cell) (n a : Nat) : memRead (memZero m 0 n) a = if a < n then 0 else memRead m a := by
  refine (memRead_filter (fun k => !(decide (0 ≤ k) && decide (k < 0 + n))) m a).trans ?_
  by_cases h : a < n <;> simp [h]

theorem Core.restart_eq (c : Nat) (k : Core) :
    let wiped := fun (m : Cache) => if c = 0 ∨ k.flush = true then m.flushed else m.clearDeep
    k.restart c = { k with
      deepBank := Bank.reset, spillBase := 0, spillLen := 0, borrowed := false, due := []
      pend := if k.deep then [] else k.pend, icache := wiped k.icache, dcache := wiped k.dcache
      program := k.program.map fun p => { p with paused := true } } := by
  simp [Core.restart]

end Sys2Proof.Machine
end

section
/-! ## The end of a Deep restart (11:R265, R271 to R274, R279) -/

namespace Sys2Proof.Machine

/-! ### The measurement -/

/-- A ridge once its Deep side has been measured: the measurement stands in its log. -/
def Ridge.measured (x : Ridge) (now : Nat) (meas : BitVec 384) : Ridge := { x with world := { x.world with
  meas := meas
  mlog := (⟨x.world.mlogNext, x.world.lastCause.setWidth 8, if meas = x.world.expected then 0 else 1, now, meas⟩ ::
    x.world.mlog).take 64
  mlogNext := x.world.mlogNext + 1 } }

/-- The device once a ridge's Deep side has been measured. -/
def Dev.logged (d : Dev) (r : Nat) (meas : BitVec 384) : Dev := d.modRidge r fun x => x.measured d.clock meas

section
variable {d : Dev} {r : Nat} {meas : BitVec 384} {signed : Bool}

theorem Dev.logged_eq (d : Dev) (r : Nat) (meas : BitVec 384) :
    (d.modWorld r fun w => { w with meas := meas }).addMLog r (d.ridge r).world.lastCause.toNat
      (if meas == (d.ridge r).world.expected then 0 else 1) meas = d.logged r meas := by
  refine (Dev.modRidge_modRidge d r _ _).trans (Dev.modRidge_congr d r ?_)
  have hcause : BitVec.ofNat 8 (d.ridge r).world.lastCause.toNat = (d.ridge r).world.lastCause.setWidth 8 := BitVec.ofNat_toNat ..
  have hresult : BitVec.ofNat 8 (if meas == (d.ridge r).world.expected then 0 else 1) =
      if meas = (d.ridge r).world.expected then 0 else 1 := by
    by_cases h : meas = (d.ridge r).world.expected <;> simp [h]
  simp only [Ridge.measured, hcause, hresult]
  rfl

theorem Dev.restartDone_of_idle (h : d.serves r = false ∨ (d.ridge r).world.restarting = false) :
    d.restartDone r meas signed = d :=
  if_neg (by rcases h with h | h <;> simp [h])

variable (hs : d.serves r = true) (hr : (d.ridge r).world.restarting = true)
include hs hr

theorem Dev.restartDone_eq : d.restartDone r meas signed =
    if meas = (d.ridge r).world.expected then if signed then (d.logged r meas).resumeDeep r else (d.logged r meas).loseRidge r 5
    else ((d.logged r meas).ridgeEvent r 49 0).loseRidge r 5 := by
  refine (if_pos (by simp [hs, hr])).trans ?_
  simp only [Dev.remeasure, d.logged_eq]
  by_cases h : meas = (d.ridge r).world.expected <;> cases signed <;> simp [h]

end

/-! ### A core that comes back from Deep (11:R265, R273) -/

/-- A core whose Deep bank holds g1 and g2 of its Surface bank, so that ascending leaves those as they stand. -/
def Core.restored (k : Core) : Core :=
  { k with deepBank := { k.deepBank with g := k.deepBank.g.take 1 ++ (k.surface.g.drop 1).take 2 ++ k.deepBank.g.drop 3 } }

/-- g1 and g2 that went into a bank come out of it as they went in. -/
theorem restored_globals {α : Type} : ∀ {S D : List α}, 3 ≤ S.length → 1 ≤ D.length →
    S.take 1 ++ ((D.take 1 ++ (S.drop 1).take 2 ++ D.drop 3).drop 1).take 2 ++ S.drop 3 = S
  | a :: b :: c :: S, x :: D, _, _ => by simp
  | [], _, h, _ | [_], _, h, _ | [_, _], _, h, _ => by simp at h
  | _ :: _ :: _ :: _, [], _, h => by simp at h

theorem Core.boundary_of_no_pend {k : Core} (h : k.pend = []) :
    k.boundary.surface = k.surface ∧ k.boundary.deepBank = k.deepBank := by
  simp [Core.boundary, Core.land, h]

/-- A core that comes back finds the registers that it left, at the address that it saved. -/
theorem Core.ascend_restored {k : Core} (hp : k.pend = []) (hs : 3 ≤ k.surface.g.length) (hd : 1 ≤ k.deepBank.g.length)
    (a : W64) (flush : Bool) (draw : Nat) : (k.restored.ascend a flush draw).surface = { k.surface with pc := a } := by
  obtain ⟨hsurface, hbank⟩ := Core.boundary_of_no_pend (k := k.restored) hp
  simp only [Core.ascend, Core.switch, hsurface, hbank]
  simp only [Core.restored, restored_globals hs hd]

section
variable {d : Dev} {r c : Nat}

theorem Dev.returnCore_of_none (h : (d.core r c).deep = false ∨ (d.core r c).resume = none) : d.returnCore r c = d := by
  unfold Dev.returnCore
  split
  · next a ha => exact if_neg (by simpa using h.resolve_right (by simp [ha]))
  · rfl

theorem Dev.returnCore_of_some {a : W64} (hdeep : (d.core r c).deep = true) (ha : (d.core r c).resume = some a) :
    d.returnCore r c = (d.modCore r c Core.restored).leaveDeep r c a := by
  unfold Dev.returnCore
  rw [ha]
  exact if_pos hdeep

/-- Of all ridges, a return changes at most the core that comes back. -/
theorem Dev.returnCore_ridges (d : Dev) (r c : Nat) : ∃ f : Core → Core,
    (d.returnCore r c).ridges = d.ridges.modify r fun x => { x with cores := x.cores.modify c f } := by
  by_cases h : (d.core r c).deep = false ∨ (d.core r c).resume = none
  · exact ⟨id, congrArg Dev.ridges ((Dev.returnCore_of_none h).trans (d.modCore_id r c).symm)⟩
  · obtain ⟨hdeep, hres⟩ := not_or.1 h
    obtain ⟨a, ha⟩ := Option.ne_none_iff_exists'.1 hres
    rw [Dev.returnCore_of_some (Bool.eq_true_of_not_eq_false hdeep) ha]
    exact ⟨_, congrArg Dev.ridges (Dev.modCore_modCore d r c _ _)⟩

theorem Dev.returnCore_world (d : Dev) (r c k : Nat) : ((d.returnCore r c).ridge k).world = (d.ridge k).world := by
  obtain ⟨f, hf⟩ := d.returnCore_ridges r c
  exact (congrArg (fun l : List Ridge => (l.getD k Ridge.reset).world) hf).trans
    (Dev.ridge_modRidge_same (g := Ridge.world) (by exact fun _ => rfl) d r k)

theorem Dev.returnCore_length (d : Dev) (r c : Nat) : (d.returnCore r c).ridges.length = d.ridges.length := by
  obtain ⟨f, hf⟩ := d.returnCore_ridges r c
  rw [hf, List.length_modify]

theorem Dev.returnCore_cores (d : Dev) (r c : Nat) : ((d.returnCore r c).ridge r).cores.length = (d.ridge r).cores.length := by
  obtain ⟨f, hf⟩ := d.returnCore_ridges r c
  exact (congrArg (fun l : List Ridge => (l.getD r Ridge.reset).cores.length) hf).trans
    (Dev.ridge_modRidge_same (g := fun x => x.cores.length) (by simp) d r r)

theorem Dev.returnCore_other (d : Dev) (r : Nat) {c k : Nat} (h : c ≠ k) : (d.returnCore r c).core r k = d.core r k := by
  obtain ⟨f, hf⟩ := d.returnCore_ridges r c
  exact (congrArg (fun l : List Ridge => (l.getD r Ridge.reset).cores.getD k Core.reset) hf).trans
    (Dev.ridge_modRidge_same (g := fun x => x.cores.getD k Core.reset) (by simp [List.getD, h]) d r r)

theorem Dev.returnCore_self {a : W64} (hr : r < d.ridges.length) (hc : c < (d.ridge r).cores.length)
    (hdeep : (d.core r c).deep = true) (ha : (d.core r c).resume = some a) :
    (d.returnCore r c).core r c = (d.core r c).restored.ascend a d.cacheMode d.draws := by
  have hcores : c < ((d.modCore r c Core.restored).ridge r).cores.length := by
    rw [Dev.modCore, Dev.ridge_modRidge_self _ _ _ hr]
    simpa using hc
  rw [Dev.returnCore_of_some hdeep ha]
  refine (Dev.core_modCore { d.modCore r c Core.restored with draws := d.draws + 1 } _ ?_ hcores).trans ?_
  · simpa [Dev.modCore] using hr
  exact congrArg (Core.ascend · a d.cacheMode d.draws) (Dev.core_modCore d _ hr hc)

end

/-! ### Steps 5 and 6 -/

/-- Keade runs again on a ridge. -/
def Ridge.accepting (x : Ridge) : Ridge := { x with world := { x.world with deepUp := true, restarting := false } }

/-- A core whose program goes on, its pending signals delivered. -/
def Core.resumed (k : Core) : Core := { k with program := k.program.map fun p => { p.deliver with paused := false } }

section
variable {d : Dev} {r : Nat}

/-- The cores that ascend at step 6. -/
def Dev.returned (d : Dev) (r : Nat) : Dev :=
  (((d.modRidge r Ridge.accepting).returnCore r 1).returnCore r 2).returnCore r 3

theorem Dev.resumeDeep_eq (d : Dev) (r : Nat) :
    d.resumeDeep r = (d.returned r).modRidge r fun x => { x with cores := x.cores.map Core.resumed } := rfl

theorem Dev.accepting_core (d : Dev) (r c : Nat) : (d.modRidge r Ridge.accepting).core r c = d.core r c :=
  congrArg (·.getD c Core.reset) (Dev.ridge_modRidge_same (g := Ridge.cores) (f := Ridge.accepting) (fun _ => rfl) d r r)

theorem Dev.resumeDeep_of_none (h : ∀ c ∈ [1, 2, 3], (d.core r c).deep = false ∨ (d.core r c).resume = none) :
    d.resumeDeep r = d.modRidge r fun x => { x.accepting with cores := x.cores.map Core.resumed } := by
  have hnone : ∀ c ∈ [1, 2, 3], (d.modRidge r Ridge.accepting).returnCore r c = d.modRidge r Ridge.accepting := fun c hc =>
    Dev.returnCore_of_none (by simpa only [Dev.accepting_core] using h c hc)
  have hreturned : d.returned r = d.modRidge r Ridge.accepting := by
    rw [Dev.returned, hnone 1 (by simp), hnone 2 (by simp), hnone 3 (by simp)]
  rw [Dev.resumeDeep_eq, hreturned]
  exact Dev.modRidge_modRidge d r _ _

variable (hr : r < d.ridges.length)
include hr

theorem Dev.returned_length : r < (d.returned r).ridges.length := by
  simpa [Dev.returned, Dev.returnCore_length] using hr

theorem Dev.resumeDeep_world : ((d.resumeDeep r).ridge r).world.deepUp = true ∧
    ((d.resumeDeep r).ridge r).world.restarting = false := by
  have hworld : ((d.resumeDeep r).ridge r).world = (d.ridge r).accepting.world := by
    rw [Dev.resumeDeep_eq, Dev.ridge_modRidge_self _ _ _ (Dev.returned_length hr)]
    simp only [Dev.returned, Dev.returnCore_world, Dev.ridge_modRidge_self d r _ hr]
  rw [hworld]
  exact ⟨rfl, rfl⟩

theorem Dev.resumeDeep_core {c : Nat} (hc : c < (d.ridge r).cores.length) :
    (d.resumeDeep r).core r c = ((d.returned r).core r c).resumed := by
  have hcores : c < ((d.returned r).ridge r).cores.length := by
    simp only [Dev.returned, Dev.returnCore_cores, Dev.ridge_modRidge_self d r _ hr]
    exact hc
  rw [Dev.resumeDeep_eq, Dev.core, Dev.ridge_modRidge_self _ _ _ (Dev.returned_length hr)]
  simp [Dev.core, List.getD, hcores]

/-- Each core of 1 to 3 comes back by itself. -/
theorem Dev.returned_core {c : Nat} {a : W64} (hc : c ∈ [1, 2, 3]) (hcores : (d.ridge r).cores.length = 4)
    (hdeep : (d.core r c).deep = true) (ha : (d.core r c).resume = some a) :
    ∃ flush draw, (d.returned r).core r c = (d.core r c).restored.ascend a flush draw := by
  have hself : ∀ e : Dev, e.core r c = d.core r c → r < e.ridges.length → (e.ridge r).cores.length = 4 →
      ∃ flush draw, (e.returnCore r c).core r c = (d.core r c).restored.ascend a flush draw := fun e he hlen h4 => by
    have hlt : c < 4 := by fin_cases hc <;> decide
    exact ⟨_, _, he ▸ Dev.returnCore_self hlen (h4 ▸ hlt) (he ▸ hdeep) (he ▸ ha)⟩
  have h4 : ((d.modRidge r Ridge.accepting).ridge r).cores.length = 4 := by rwa [Dev.ridge_modRidge_self d r _ hr]
  obtain rfl | rfl | rfl : c = 1 ∨ c = 2 ∨ c = 3 := by simpa using hc
  all_goals
    simp (disch := decide) only [Dev.returned, Dev.returnCore_other]
    refine hself _ ?_ ?_ ?_
    · simp (disch := decide) only [Dev.returnCore_other, Dev.accepting_core]
    · simpa only [Dev.returnCore_length, Dev.length_modRidge] using hr
    · simpa only [Dev.returnCore_cores] using h4

end

theorem Dev.logged_cores (d : Dev) (r : Nat) (meas : BitVec 384) : ((d.logged r meas).ridge r).cores = (d.ridge r).cores :=
  Dev.ridge_modRidge_same (g := Ridge.cores) (f := (Ridge.measured · d.clock meas)) (fun _ => rfl) d r r

theorem Dev.logged_core (d : Dev) (r : Nat) (meas : BitVec 384) (c : Nat) : (d.logged r meas).core r c = d.core r c :=
  congrArg (·.getD c Core.reset) (d.logged_cores r meas)

end Sys2Proof.Machine

open Sys2Proof Machine Claims

/-- A fault by whether Keade runs and how many came before, a restart by what it stops, its end by what is measured. -/
theorem Sys2Proof.Claims.deepFaults : Claims.DeepFaults := by
  intro s r d x runs faulted recent
  have hruns : d.keadeRuns r = true ↔ runs := d.keadeRuns_iff r
  refine ⟨fun h hfew => leaves_deepFault (Dev.deepFault_of_few (hruns.2 h) hfew),
    fun h hthird => leaves_deepFault (Dev.deepFault_of_third (hruns.2 h) hthird), fun h => ?stopped,
    fun cause hcause => leaves_deepRestart_of_no_cause hcause, fun hj hc hq hr => ?stops, fun meas signed => ?ends⟩
  case stopped =>
    obtain ⟨hdog, hrest⟩ := leaves_deepFault (Dev.deepFault_of_stopped (mt hruns.1 h))
    refine ⟨hdog, fun cause => ?_⟩
    by_cases hcause : cause = 0 ∨ 5 < cause
    · exact leaves_deepRestart_of_no_cause hcause
    · exact hrest cause (by omega) (by omega)
  case stops =>
    intro y
    have hside : y.deepSide = _ := Dev.stopDeep_deepSide hj hc hq hr
    simp only [Ridge.deepSide, Prod.mk.injEq] at hside
    obtain ⟨hworld, hsram, hcores⟩ := hside
    rw [hworld, hsram, hcores]
    refine ⟨rfl, rfl, rfl, rfl, rfl, memRead_memZero_low _ _, fun c k hk => ?_⟩
    rw [List.getElem?_mapIdx, hk]
    exact congrArg some (Core.restart_eq c k)
  case ends =>
    intro logged
    refine ⟨fun h => leaves_of rfl (Dev.restartDone_of_idle h), fun hs hrest hr => ?_⟩
    have hdone : ∀ {e}, (if meas = x.world.expected then if signed then logged.resumeDeep r else logged.loseRidge r 5
        else (logged.ridgeEvent r 49 0).loseRidge r 5) = e → leaves (.deepRestartComplete r meas signed) s e := fun he =>
      leaves_of rfl ((Dev.restartDone_eq hs hrest).trans he)
    have hcore : ∀ c, logged.core r c = d.core r c := d.logged_core r meas
    have hlen : r < logged.ridges.length := by simpa [logged] using hr
    refine ⟨fun hsame hsigned hnone => hdone ?resumes, fun hsame hsigned h4 => ?returns, fun hsame hsigned => hdone ?unsigned,
      fun hother => hdone (if_neg hother)⟩
    case resumes =>
      rw [if_pos hsame, if_pos hsigned]
      exact Dev.resumeDeep_of_none fun c hc => by simpa only [hcore] using hnone c hc
    case returns =>
      obtain ⟨hup, hrestarting⟩ := Dev.resumeDeep_world hlen
      refine ⟨_, hdone ((if_pos hsame).trans (if_pos hsigned)), hup, hrestarting, fun c hc a => ?_⟩
      intro k hdeep ha hp hs hd
      have hcores : (logged.ridge r).cores.length = 4 := (congrArg List.length (d.logged_cores r meas)).trans h4
      have hlt : c < (logged.ridge r).cores.length := by
        rw [hcores]
        fin_cases hc <;> decide
      obtain ⟨flush, draw, hback⟩ := Dev.returned_core hlen hc hcores
        ((congrArg Core.deep (hcore c)).trans hdeep) ((congrArg Core.resume (hcore c)).trans ha)
      rw [Dev.resumeDeep_core hlen hlt, hback, hcore]
      exact ⟨rfl, rfl, Core.ascend_restored hp (hs ▸ by decide) (hd ▸ by decide) a flush draw⟩
    case unsigned => rw [if_pos hsame, if_neg (by simp [hsigned])]
end

section
/-! ## Claims that end, and the waterline (11:R258, R259, R261, R275, R276) -/

namespace Sys2Proof.Machine

/-! ### A claim that ends (11:R275, R276) -/

/-- A ridge whose block is claimed no more: a core is given back, and nothing is deferred on the block. -/
def Ridge.unclaimed (x : Ridge) (b : Nat) : Ridge := { x with
  world := { x.world with
    claim := x.world.claim &&& ~~~(1#33 <<< b), claimed := assocDel x.world.claimed b
    deferPending := x.world.deferPending &&& ~~~(1#33 <<< b), deferValue := x.world.deferValue &&& ~~~(1#33 <<< b) }
  cores := if b < 30 then x.cores else x.cores.modify (b - 29) fun k => { k with borrowed := false } }

section
variable {d : Dev} {r b : Nat}

theorem Dev.endClaim_of_free (h : ¬(d.ridge r).world.claim.getLsbD b = true) : d.endClaim r b = d := if_neg h

theorem Ridge.borrow_cores (x : Ridge) (b : Nat) (v : Bool) : x.borrow b v =
    { x with cores := if b < 30 then x.cores else x.cores.modify (b - 29) fun k => { k with borrowed := v } } := by
  unfold Ridge.borrow
  split <;> rfl

theorem Dev.unclaimed_eq (d : Dev) (r b : Nat) : ((d.modWorld r fun w => { w with
      claim := setBit33 w.claim b false, claimed := assocDel w.claimed b
      deferPending := setBit33 w.deferPending b false, deferValue := setBit33 w.deferValue b false }).modRidge r
        fun x => x.borrow b false) = d.modRidge r (·.unclaimed b) := by
  simp only [Ridge.borrow_cores]
  exact Dev.modRidge_modRidge d r _ _

variable (h : (d.ridge r).world.claim.getLsbD b = true)
include h

/-- What becomes of the request that a claim has deferred. -/
theorem Dev.endClaim_of_held : d.endClaim r b =
    (let free := d.modRidge r (·.unclaimed b)
     if (d.ridge r).world.deferPending.getLsbD b then
       if (d.ridge r).world.deferValue.getLsbD b then
         let e := free.modRidge r fun x => { x with throttled := x.throttled ||| 1#33 <<< b }
         e.ridgeEvent r 66 ((e.ridge r).throttled.toNat % 2 ^ 32)
       else free.modRidge r fun x => { x with gateOn := setBit33 x.gateOn b (x.gateReq.getLsbD b) }
     else free) := by
  refine (if_pos h).trans ?_
  rw [Dev.unclaimed_eq]
  rfl

theorem Dev.endClaim_of_no_request (hp : ¬(d.ridge r).world.deferPending.getLsbD b = true) :
    d.endClaim r b = d.modRidge r (·.unclaimed b) := (Dev.endClaim_of_held h).trans (if_neg hp)

variable (hp : (d.ridge r).world.deferPending.getLsbD b = true)
include hp

/-- The host's gating, as PWR.GATE now asks for it. -/
theorem Dev.endClaim_of_gating (hv : (d.ridge r).world.deferValue.getLsbD b = false) : d.endClaim r b =
    (d.modRidge r (·.unclaimed b)).modRidge r fun x => { x with
      gateOn := if x.gateReq.getLsbD b then x.gateOn ||| 1#33 <<< b else x.gateOn &&& ~~~(1#33 <<< b) } :=
  (Dev.endClaim_of_held h).trans ((if_pos hp).trans (if_neg (ne_true_of_eq_false hv)))

/-- The governor's throttling. -/
theorem Dev.endClaim_of_throttling (hv : (d.ridge r).world.deferValue.getLsbD b = true) (hr : r < d.ridges.length) :
    d.endClaim r b = ((d.modRidge r (·.unclaimed b)).modRidge r fun x => { x with throttled := x.throttled ||| 1#33 <<< b }).ridgeEvent
      r 66 (((d.ridge r).throttled ||| 1#33 <<< b).toNat % 2 ^ 32) := by
  refine (Dev.endClaim_of_held h).trans ((if_pos hp).trans ((if_pos hv).trans ?_))
  have hridge := Dev.ridge_modRidge_self (d.modRidge r (·.unclaimed b)) r
    (fun x => { x with throttled := x.throttled ||| 1#33 <<< b }) (by simpa using hr)
  rw [Dev.ridge_modRidge_self d r _ hr] at hridge
  dsimp only
  rw [hridge]
  rfl

end

section
variable {s : State} {r b : Nat}

theorem leaves_deepClaimOvertime {t : Nat} (h : assocGet (s.dev.ridge r).world.claimed b = some t) :
    leaves (.deepClaimOvertime r b) s ((s.dev.reach (t + 100000000)).ridgeEvent r 53 b) :=
  leaves_of rfl (by simp only [h])

theorem leaves_deepClaimOvertime_of_free (h : assocGet (s.dev.ridge r).world.claimed b = none) :
    leaves (.deepClaimOvertime r b) s s.dev :=
  leaves_of rfl (by simp only [h])

end

/-! ### The waterline (11:R259, R261) -/

/-- A stretch of SRAM that reaches into a granule. -/
def ReachesInto (a : Nat × Nat) (g : Nat) : Prop := 0 < a.2 ∧ a.1 < (g + 1) * 65536 ∧ g * 65536 < a.1 + a.2

theorem overlap_granule_iff (a : Nat × Nat) (g : Nat) : overlap a (g * granule, granule) = true ↔ ReachesInto a g := by
  unfold overlap ReachesInto granule
  rw [decide_eq_true_iff]
  dsimp only
  omega

theorem all_clear_iff (l : List (Nat × Nat)) (g : Nat) :
    (l.all fun a => !(overlap a (g * granule, granule))) = true ↔ ¬∃ a ∈ l, ReachesInto a g := by
  simp only [List.all_eq_true, Bool.not_eq_true', ← Bool.not_eq_true, overlap_granule_iff, not_exists, not_and]

/-- A granule zeroed, and the waterline at another place. -/
def Dev.lineMoved (d : Dev) (r g next : Nat) : Dev := (d.modRidge r fun y => { y with
  sram := y.sram.filter fun c => !(decide (g * 65536 ≤ c.1) && decide (c.1 < (g + 1) * 65536))
  world := { y.world with line := .of (BitVec.ofNat 9 next) } }).ridgeEvent r 50 next

theorem memZero_granule (m : List Host.Cell) (g : Nat) : memZero m (g * granule) granule =
    m.filter fun c => !(decide (g * 65536 ≤ c.1) && decide (c.1 < (g + 1) * 65536)) := by
  rw [Nat.add_one_mul]
  rfl

/-- Keade may move the waterline of a ridge. -/
def Dev.MayMove (d : Dev) (r : Nat) : Prop :=
  d.serves r = true ∧ (d.ridge r).power = 2 ∧ (d.ridge r).world.restarting = false ∧ (d.ridge r).world.deepUp = true

/-- What stands where a granule would change side: Surface areas above the line, Deep spill areas below it. -/
def Dev.across (d : Dev) (r : Nat) (up : Bool) : List (Nat × Nat) := if up then (d.ridge r).areas else (d.ridge r).deepAreas

section
variable {d : Dev} {r g next : Nat} {up : Bool}

theorem Dev.mayMove_iff (l : List (Nat × Nat)) : (d.keadeRuns r && (d.ridge r).world.deepUp &&
    (l.all fun a => !(overlap a (g * granule, granule))) && decide (96 ≤ next ∧ next ≤ 192)) = true ↔
      d.MayMove r ∧ (¬∃ a ∈ l, ReachesInto a g) ∧ 96 ≤ next ∧ next ≤ 192 := by
  rw [Bool.and_eq_true, Bool.and_eq_true, Bool.and_eq_true, all_clear_iff, Dev.keadeRuns_iff, decide_eq_true_iff]
  simp only [Dev.MayMove, and_assoc]

variable (hg : (if up then (d.ridge r).world.line.val.toNat else (d.ridge r).world.line.val.toNat - 1) = g)
  (hnext : (if up then (d.ridge r).world.line.val.toNat + 1 else (d.ridge r).world.line.val.toNat - 1) = next)
include hg hnext

theorem Dev.moveLine_of_clear (h : d.MayMove r) (hclear : ¬∃ a ∈ d.across r up, ReachesInto a g) (hlow : 96 ≤ next)
    (hhigh : next ≤ 192) : d.moveLine r up = d.lineMoved r g next := by
  subst hg hnext
  refine (if_pos ((Dev.mayMove_iff _).2 ⟨h, hclear, hlow, hhigh⟩)).trans ?_
  simp only [memZero_granule]
  rfl

theorem Dev.moveLine_of_blocked (h : ¬d.MayMove r ∨ (∃ a ∈ d.across r up, ReachesInto a g) ∨ next < 96 ∨ 192 < next) :
    d.moveLine r up = d := by
  subst hg hnext
  refine if_neg fun hcond => ?_
  obtain ⟨hmay, hclear, hlow, hhigh⟩ := (Dev.mayMove_iff _).1 hcond
  rcases h with h | h | h | h
  · exact h hmay
  · exact hclear h
  · exact Nat.not_lt.2 hlow h
  · exact Nat.not_lt.2 hhigh h

end

theorem Ridge.deepAreas_reachesInto (x : Ridge) (g : Nat) :
    (∃ a ∈ x.deepAreas, ReachesInto a g) ↔ ∃ k ∈ x.cores, ReachesInto (k.spillBase, k.spillLen) g := by
  simp [Ridge.deepAreas]

end Sys2Proof.Machine

open Sys2Proof Machine Claims

/-- A claim's end by what it deferred, and a move of the waterline by what stands in the granule. -/
theorem Sys2Proof.Claims.claimsAndLine : Claims.ClaimsAndLine := by
  intro s r d x
  refine ⟨fun b hb => ?claims, ?line⟩
  case claims =>
    intro bit free held defers
    exact ⟨fun h => leaves_of rfl (Dev.endClaim_of_free h), fun h hp => leaves_of rfl (Dev.endClaim_of_no_request h hp),
      fun h hp hv => leaves_of rfl (Dev.endClaim_of_gating h hp hv),
      fun h hp hv hr => leaves_of rfl (Dev.endClaim_of_throttling h hp hv hr), leaves_deepClaimOvertime_of_free,
      fun t => leaves_deepClaimOvertime⟩
  case line =>
    intro line moves ok within holds spills
    have hspills : (∃ a ∈ d.across r false, ReachesInto a (line - 1)) ↔ spills := x.deepAreas_reachesInto (line - 1)
    refine ⟨fun hok hclear hlow hhigh => leaves_of rfl ?raised, fun hok hclear hlow hhigh => leaves_of rfl ?lowered,
      fun h => leaves_of rfl ?unraised, fun h => leaves_of rfl ?unlowered⟩
    case raised => exact Dev.moveLine_of_clear (up := true) rfl rfl hok hclear (by omega) (by omega)
    case lowered => exact Dev.moveLine_of_clear (up := false) rfl rfl hok (mt hspills.1 hclear) (by omega) (by omega)
    case unraised =>
      refine Dev.moveLine_of_blocked (up := true) rfl rfl (h.imp_right (Or.imp_right fun hout => ?_))
      show line + 1 < 96 ∨ 192 < line + 1
      omega
    case unlowered =>
      refine Dev.moveLine_of_blocked (up := false) rfl rfl (h.imp_right (Or.imp hspills.2 fun hout => ?_))
      show line - 1 < 96 ∨ 192 < line - 1
      omega

/-- Settles O55: what becomes of the Deep side, and what of its claims and of its share of SRAM. -/
theorem Sys2Proof.deepRestarts : Obligations.DeepRestarts := ⟨Claims.deepFaults, Claims.claimsAndLine⟩
end
